-- ==== Sys2Proof/Word.lean ====
section
/-! DEFINITION. Words, bytes and their plainest arithmetic: bit fields, little-endian
assembly, saturation. Rule R11: bit 0 is the least significant, a field is written [high:low],
every multi-byte value is little-endian. -/

namespace Sys2Proof

abbrev Byte := BitVec 8
abbrev W32 := BitVec 32
abbrev W64 := BitVec 64

/-- Field [hi:lo] of a number read as bits (R11). -/
def fld (w hi lo : Nat) : Nat := w / 2 ^ lo % 2 ^ (hi + 1 - lo)

/-- Bit `i` of a number read as bits. -/
def bitAt (w i : Nat) : Bool := w.testBit i

/-- Field [hi:lo] of a register. -/
def rfld (w : W32) (hi lo : Nat) : Nat := fld w.toNat hi lo

/-- Bit `i` of a register. -/
def rbit (w : W32) (i : Nat) : Bool := w.getLsbD i

/-- `new` where `mask` is 1, `old` elsewhere. -/
def mergeBits (mask old new : W32) : W32 := (old &&& ~~~mask) ||| (new &&& mask)

/-- A mask of ones over [hi:lo]. -/
def maskOf (hi lo : Nat) : W32 := BitVec.ofNat 32 ((2 ^ (hi + 1 - lo) - 1) * 2 ^ lo)

/-- `w` with field [hi:lo] replaced by `v`. -/
def setFld (w : W32) (hi lo v : Nat) : W32 :=
  mergeBits (maskOf hi lo) w (BitVec.ofNat 32 (v * 2 ^ lo))

/-- A little-endian list of bytes as a number (R11). -/
def leNat : List Byte → Nat
  | [] => 0
  | b :: bs => b.toNat + 256 * leNat bs

/-- The `n` little-endian bytes of a number (R11). -/
def leBytes : Nat → Nat → List Byte
  | 0, _ => []
  | n + 1, v => BitVec.ofNat 8 v :: leBytes n (v / 256)

/-- The two's-complement reading of the low `bits` bits. -/
def toSigned (bits v : Nat) : Int :=
  if v % 2 ^ bits < 2 ^ (bits - 1) then (v % 2 ^ bits : Nat) else (v % 2 ^ bits : Nat) - (2 ^ bits : Nat)

/-- The `bits`-wide two's-complement code of an integer. -/
def ofSigned (bits : Nat) (i : Int) : Nat := (i % (2 ^ bits : Nat)).toNat

/-- Ceiling division. -/
def cdiv (a b : Nat) : Nat := (a + b - 1) / b

/-- Increment that saturates at `lim`. -/
def satInc (lim n : Nat) : Nat := if n < lim then n + 1 else n

/-- Addition that saturates at `lim`. -/
def satAdd (lim n k : Nat) : Nat := min lim (n + k)

/-- `i` limited to the range `lo` to `hi`; `hi` wins when the range is empty (R224). -/
def limit (lo hi i : Int) : Int := min (max i lo) hi

/-- Replace entry `i` of a table through `f`; a number outside the table changes nothing. -/
def updAt {α : Type} (l : List α) (i : Nat) (f : α → α) : List α := l.modify i f

/-- Insert a number into a strictly rising list. -/
def insNat (n : Nat) : List Nat → List Nat
  | [] => [n]
  | m :: ms => if n < m then n :: m :: ms else if n = m then m :: ms else m :: insNat n ms

/-- Indices of the set bits of `w` below `n`, rising. -/
def setBits (n w : Nat) : List Nat := (List.range n).filter fun i => w.testBit i

end Sys2Proof
end

