-- ==== Sys2Proof/Syntax.lean ====
section
/-! DEFINITION. The commands of the block: one constructor of `Instr` per row of the table of
operations. Each operand is what the step's rule leaves to the world around the device: a written
value, an address, a measurement, what a bitstream or a packet holds. Nothing the state already
determines is an operand. -/

namespace Sys2Proof

/-- Register pages (R603). -/
inductive Page where
  | mgt | sec | ktl | hif | mesh | hbm
  | core (n : Fin 24) | clu (m : Fin 7)
  | dec | enc | str | scl (s : Fin 4) | csi (p : Fin 8) | cdy | spt | bist | fuse
deriving DecidableEq, Repr

/-- The port a management command or register access came through (R596, R652). -/
inductive Port where
  | bar0 | smbus
deriving DecidableEq, Repr

/-- What a SECDED check found in a word that is read (R469, R470). -/
inductive Ecc where
  | clean | corrected | uncorrectable
deriving DecidableEq, Repr

/-- Response codes of R496. -/
inductive Resp where
  | ok | addrUnmapped | targetFenced | targetInReset | hbmBusy | hbmSelfRefresh | poison
deriving DecidableEq, Repr

/-- Requesting agents (R463). -/
inductive Src where
  | core (n : Fin 24) | decoder (n : Fin 8) | encoder (n : Fin 4) | strainer | scaler (s : Fin 4)
  | saucer (m : Fin 7) | caddy | spout | hdma (ch : Fin 8) | bar2 | mgmt | sched | csi
deriving DecidableEq, Repr

/-- What register access a host makes: a write of a page of BAR0, of the MSI-X table of BAR4 (R521), of
one of the configuration registers whose fields the rules use (R504, R516, R517, R521), or a read of
BAR0, of BAR4 or of configuration space, which writes nothing (R12, R14, R499). -/
inductive RegSpace where
  | bar0 | bar4 | pciCommand | msixControl | deviceControl | deviceControl2
  | bar0Read | bar4Read | configRead
deriving DecidableEq, Repr

/-- Access units of a bitstream that a decoder may start at (R310). A recovery point names the picture it
reaches by its distance: recovery_frame_cnt or recovery_poc_cnt (R312). -/
inductive Rap where
  | none | idr | irap | keyFrame | recovery (count : Int)
deriving DecidableEq, Repr, Inhabited

/-- Profiles that a stream may signal (R276, R277, R279). -/
inductive Profile where
  | avcConstrainedBaseline | avcBaseline | avcMain | avcHigh | hevcMain | hevcMain10
  | av1Main | av1High | av1Professional | other
deriving DecidableEq, Repr

/-- Chroma formats: 4:0:0, 4:2:0, and the rest. -/
inductive Chroma where
  | mono | c420 | other
deriving DecidableEq, Repr

/-- Tools and extensions that the decoders do not support (R279). -/
inductive Tool where
  | interlaced | beyondConstrainedBaseline | rangeExt | screenContent | multilayer | threeD | largeScaleTile
deriving DecidableEq, Repr

/-- What a sequence header declares (R303). -/
structure SeqInfo where
  profile     : Profile
  chroma      : Chroma
  bitDepth    : Nat
  tools       : List Tool
  level       : Nat           -- signalled level in tenths, 51 for level 5.1
  width       : Nat
  height      : Nat
  tileRows    : Nat
  tileCols    : Nat
  buffering   : Option Nat    -- max_dec_frame_buffering, or sps_max_dec_pic_buffering_minus1
  maxDpbMbs   : Nat           -- MaxDpbMbs of the level, for AVC
  maxFrameNum : Nat           -- modulus of frame_num, for AVC
  block       : Nat           -- side of a macroblock, coding tree block or superblock
deriving DecidableEq, Repr

/-- Kinds of parameter set: video, sequence and picture parameter sets, AV1 sequence headers. -/
inductive SetKind where
  | vps | sps | pps | seqHdr
deriving DecidableEq, Repr

/-- A parameter set as received (R284, R305). -/
structure ParamSet where
  kind : SetKind
  id   : Nat
  ok   : Bool                    -- it passes its own syntax checks
  uses : List (SetKind × Nat)    -- the sets that it refers to
  seq  : Option SeqInfo          -- of an SPS or an AV1 sequence header
deriving DecidableEq, Repr

/-- A coding block of the data: its top-left luma sample, the byte of the access unit at which its data
begin, and its bins (R306, R308, R316). -/
structure Block where
  x    : Nat
  y    : Nat
  off  : Nat
  bins : Nat
deriving DecidableEq, Repr

/-- A region of a reference picture that a block reads: luma samples, and bytes of its motion store. -/
structure RefRead where
  block : Nat × Nat
  name  : Nat
  x     : Nat
  y     : Nat
  w     : Nat
  h     : Nat
  mv    : Nat × Nat
deriving DecidableEq, Repr

/-- Decode codes that parsing finds, with the block they name (R316). -/
structure DecErr where
  code : Nat
  addr : Nat
deriving DecidableEq, Repr

/-- An access unit as the standard reads it (R303 to R316, R330). Pictures are named by the place of their
entry among those since the restart. -/
structure AuInfo where
  sets      : List ParamSet           -- received in it, in order
  uses      : List (SetKind × Nat)    -- sets that its slices or frame header refer to
  rap       : Rap
  rasl      : Bool                    -- RASL picture of the IRAP picture before it (R310)
  order     : Int                     -- frame_num of AVC, picture order count of HEVC (R312)
  isRef     : Bool                    -- a reference picture
  crop      : Nat × Nat × Nat × Nat
  parts     : List (List Block)       -- partitions in bitstream order (R306)
  wavefront : Bool                    -- partitions are wavefront rows
  errs      : List DecErr             -- DEC_SYNTAX and DEC_TRUNCATED
  lists     : List Nat                -- pictures that its reference lists or slots name (R314)
  reads     : List RefRead            -- inter prediction of its blocks, in decode order
  keeps     : List Nat                -- pictures kept as references afterwards
  outs      : List Nat                -- pictures output now, in the standard's output order
  waits     : List Nat                -- pictures that go on awaiting output
deriving DecidableEq, Repr, Inhabited

/-- What a picture of an encoder depends on (R323, R330, R331): the descriptor, the pictures before it by
size and QP (none for a skipped one), the source frame and the reconstruction before it. -/
structure EncView where
  codec    : Nat
  rc       : Nat
  refresh  : Nat
  qp       : Nat
  width    : Nat
  height   : Nat
  bitrate  : Nat
  fpsNum   : Nat
  fpsDen   : Nat
  maxPic   : Nat
  slices   : Nat
  qpMin    : Nat
  qpMax    : Nat
  idr      : Bool
  bad      : Bool
  pos      : Nat
  past     : List (Option (Nat × Nat))
  source   : List Nat
  previous : List Nat
deriving DecidableEq, Repr

/-- How an encoder codes a block: intra, from a region of the reconstruction before (x, y, width, height in
luma samples), or as skip (R320, R321, R324, R326). -/
inductive EncMode where
  | intra | inter (x y w h : Nat) | skip
deriving DecidableEq, Repr, Inhabited

structure BlockCode where
  mode : EncMode
  qp   : Nat
deriving DecidableEq, Repr

/-- Units at the head of an encoded picture: parameter sets, the recovery point message with its count
(R277, R322). -/
inductive HeadUnit where
  | vps (profile : Profile) (level : Nat)
  | sps (profile : Profile) (chroma : Chroma) (level : Nat)
  | pps
  | recoveryPoint (count : Nat)
deriving DecidableEq, Repr

/-- State of a received CSI-2 packet header (R336, R342). -/
inductive PktHdr where
  | good | corrected | bad
deriving DecidableEq, Repr

/-- One firmware slot of the flash (R591, R592): its header fields, key, signature and contents. -/
structure FwImage where
  magic      : Nat
  version    : Nat
  bodyBytes  : Nat
  svn        : Nat
  resvZero   : Bool
  pubKey     : List Byte
  sig        : List Byte
  head       : List Byte        -- bytes 0x0000 to 0x00FF
  body       : List Byte
  release    : W32              -- MGT_FW_VERSION of the body (R663)
deriving DecidableEq, Repr

/-- Quantities of the boot window check (R538): eight rows of the table, in mV, kHz or degrees,
and the monitor deviation. -/
structure WindowMeas where
  vddCore : Int
  vddSram : Int
  vddPhy  : Int
  vddio   : Int
  hbm18   : Int
  hbm11   : Int
  hbm04   : Int
  sysclk  : Int
  tempMin : Int
  tempMax : Int
  bandgap : Int
deriving DecidableEq, Repr

/-- A boot test that a unit failed: step of R535, unit kind and number of R550. -/
structure BootFail where
  step : Nat
  kind : Nat
  num  : Nat
deriving DecidableEq, Repr

/-- What bring-up meets when PERST_N is released (R535 to R549). -/
structure BootInfo where
  bootSel  : BitVec 2
  slotA    : Option FwImage
  slotB    : Option FwImage
  pllLock  : Bool
  window   : WindowMeas
  fails    : List BootFail
  fuseOk   : Bool               -- every fuse field has a valid copy (R541)
  ucodeOk  : Bool               -- microcode broadcast and patch fetch (R544)
deriving DecidableEq, Repr

/-- Completion status of a read that the device issued (R517). -/
inductive CplStatus where
  | sc | ur | ca | poisoned
deriving DecidableEq, Repr

/-- Received link errors of R530. -/
inductive TlpErr where
  | receiver | badTlp | badDllp | replay                              -- correctable
  | malformed | flowControl | dataLink | overflow | ecrc              -- per AER severity
  | buffer                                                            -- host-interface buffer
deriving DecidableEq, Repr

/-- Test-port unlock and life-cycle states (R599). -/
inductive Life where
  | test | field | return_ | scrap
deriving DecidableEq, Repr

/-- Fuse fields that FUSE_WRITE burns (R598). -/
inductive FuseWrite where
  | seed (v : List Byte) | subsys (v : W32) | serial (v : W64)
deriving DecidableEq, Repr

/-- Logical units with spares (R559, R564). -/
inductive Unit' where
  | core (n : Fin 24) | dec (n : Fin 8) | enc (n : Fin 4)
deriving DecidableEq, Repr

/-- What a flit carries (R480). -/
inductive FlitKind where
  | read | write | response
deriving DecidableEq, Repr

/-- The flit that a router forwards: one that enters the mesh at its source's stop, between a
requester and the owner of a device address, in the open class or not (R484, R486), or the i-th of
those in the mesh. -/
inductive FlitRef where
  | inject (src : Src) (kind : FlitKind) (addr : BitVec 48) (opened : Bool)
  | transit (i : Nat)
deriving DecidableEq, Repr

/-- One constructor per row of the table of operations, in the table's order. -/
inductive Instr where
  -- Kettle (chapter 02)
  | ktlCountRead (hi : Bool)
  | launchIssue
  | planCycleEnd
  | start (v : W32)
  | stop (v : W32)
  | planStartBeat
  | load (v : W32)
  | countLoaded
  | commit (v : W32)
  | invalidate (v : W32)
  | ktlLtDataAccess (w : Option W32)
  | refreshWindow
  | hbmTempReading (temp : BitVec 8)
  | arm (v : W32)
  | disarm (v : W32)
  | modeSwitch
  | epochSample
  | epochDone
  | fsyncPulse (line : Fin 16)
  | fsyncPulseEnd (line : Fin 16)
  | fsyncCfgWrite (line : Fin 16) (v : W32)
  | narrow (inp : Fin 5)
  | inputQualify (inp : Fin 5)
  | stuck (inp : Fin 5)
  | inputRelease (inp : Fin 5)
  | ppsLost
  | ktlFsinTsRead (n : Fin 4) (hi : Bool)
  | ppsOutPulse
  | ppsOutPulseEnd
  -- jobs and cores (chapters 03 to 07, 11)
  | jobStart (ctx : Fin 256) (slot : Fin 64)
  | verifyDone (core : Fin 24)
  | planeLoad (core : Fin 24)
  | rowEntry (core : Fin 24) (parity : Option (Fin 32))
  | drain (core : Fin 24)
  | coreMemUncorr (core : Fin 24) (addr : BitVec 48)
  | matmul (core : Fin 24)
  | conv2d (core : Fin 24)
  | dwconv (core : Fin 24)
  | dist (core : Fin 24)
  | eltwise (core : Fin 24)
  | pool (core : Fin 24)
  | requant (core : Fin 24)
  | nms (core : Fin 24)
  | gather (core : Fin 24)
  | scatter (core : Fin 24)
  | copy (core : Fin 24)
  | waitBeat (core : Fin 24)
  | waitBeatResume (core : Fin 24)
  | signal (core : Fin 24)
  | fence (core : Fin 24)
  | jobEnd (core : Fin 24)
  | coreMseSumLoRead (core : Fin 24) (ch : Fin 4)
  | restart (core : Fin 24) (ch : Fin 4) (v : W32)
  | fallbackStart (core : Fin 24)
  -- Saucer (chapter 07)
  | sauDoorbell (m : Fin 7)
  | sauRingCfgWrite (m : Fin 7) (v : W32)
  | saucerCmdStart (m : Fin 7)
  | saucerDone (m : Fin 7)
  | saucerMemError (m : Fin 7) (row : Nat)
  -- decoders (chapter 08)
  | decEnable (ctx : Fin 128)
  | decDisable (ctx : Fin 128)
  | discontinuity (ctx : Fin 128)
  | decFrameBoundaryApply (ctx : Fin 128)
  | release (ctx : Fin 128) (slot : Fin 32)
  | decDoorbell (ctx : Fin 128)
  | decodeStart (ctx : Fin 128)
  | decAutoStart (ctx : Fin 128)
  | decPictureStart (ctx : Fin 128)
  | decEntryConsumed (ctx : Fin 128)
  | decBudget (ctx : Fin 128) (core : Fin 8)
  | decWatchdog (ctx : Fin 128) (core : Fin 8) (blocks last : Nat)
  | decPictureDone (ctx : Fin 128)
  -- encoders (chapter 08)
  | encEnable (ctx : Fin 16)
  | encDisable (ctx : Fin 16)
  | refreshNow (ctx : Fin 16)
  | encodeStart (ctx : Fin 16)
  | encPictureDone (ctx : Fin 16)
  | encCoreFault (core : Fin 4)
  -- CSI-2 (chapter 09)
  | csiEnable (ch : Fin 16)
  | csiDisable (ch : Fin 16)
  | csiFrameStart (ch : Fin 16) (vc : Fin 16) (hdr : PktHdr)
  | csiLine (ch : Fin 16) (vc : Fin 16) (dt : Fin 64) (hdr : PktHdr) (crcOk overflow : Bool)
      (payload : List Byte)
  | csiFrameEnd (ch : Fin 16) (vc : Fin 16) (hdr : PktHdr)
  | csiFrameTimeout (ch : Fin 16)
  -- scalers (chapter 09)
  | scaleStart (s : Fin 4)
  | scalerEntryDone (s : Fin 4)
  | scalerCmdDone (s : Fin 4)
  | scalerMemError (s : Fin 4)
  -- Caddy (chapter 10)
  | cdyPartEnable (p : Fin 256)
  | cdyPartDisable (p : Fin 256)
  | clear (p : Fin 256)
  | cdyDoorbell (n : Fin 8)
  | cdyCringCfgWrite (n : Fin 8) (v : W32)
  | update
  | emit
  | caddyDone
  | caddyMemError (addr : BitVec 48)
  -- Spout (chapter 10)
  | spoutHandoff
  | spoutLineIssue
  | spoutWriteback (ring : Fin 64)
  | spoutIntBeatsExpiry (ring : Fin 64)
  | spoutFlush (target : Fin 256)
  | sptRingConsWrite (ring : Fin 64) (v : W32)
  | sptRingCfgWrite (ring : Fin 64) (v : W32)
  -- scheduler (chapter 11)
  | ctxEnable (ctx : Fin 256)
  | ctxDisable (ctx : Fin 256)
  | hold (ctx : Fin 256)
  | unhold (ctx : Fin 256)
  | ctxDoorbell (ctx : Fin 256)
  | coreFreeSelect (core : Fin 24)
  | shareArbitrate (part : Fin 8)
  | preemptRequest (core : Fin 24)
  | saveComplete (core : Fin 24)
  | restoreComplete (core : Fin 24)
  -- memory and mesh (chapter 12)
  | hbmCfgWrite (v : W32)
  | memRead (src : Src) (addr : BitVec 48) (lines : Fin 65) (ecc : Ecc)
  | memWrite (src : Src) (addr : BitVec 48) (mask : W64) (data : List Byte) (ecc : Ecc)
  | memAdd (src : Src) (addr : BitVec 48) (v : W64) (ecc : Ecc)
  | memBitSet (src : Src) (addr : BitVec 48) (v : W64) (ecc : Ecc)
  | memBitClear (src : Src) (addr : BitVec 48) (v : W64) (ecc : Ecc)
  | negResponse (src : Src) (resp : Resp) (addr : BitVec 48)
  | meshFlitHop (flit : FlitRef) (ecc : Ecc)
  | hbmRetrainWindow
  | enter (v : W32)
  | srEntry
  | exit (v : W32)
  | srDone
  | meshStDataAccess (w : Option W32)
  | meshStCtrlWrite (v : W32)
  | commitDone
  | meshPartResetGo (v : W32)
  | partResetDone
  -- host interface (chapter 13)
  | bar0AccessInvalid (write : Bool) (off size : Nat)
  | bar0Timeout (off : Nat)
  | bar2Read (off : BitVec 36) (len : Fin 4097)
  | bar2Write (off : BitVec 36) (data : List Byte)
  | hifWinCfgWrite (w : Fin 64) (v : W32)
  | doorbellWrite (off : BitVec 26) (size8 : Bool) (v : W64)
  | doorbellDelivery (db : Fin 392)
  | hdmaDoorbell (ch : Fin 8)
  | hdmaIn (ch : Fin 8)
  | hdmaOut (ch : Fin 8)
  | hdmaWrite (ch : Fin 8)
  | hdmaNop (ch : Fin 8)
  | hdmaDescComplete (ch : Fin 8)
  | hdmaCompletion (ch : Fin 8) (st : CplStatus) (data : List Byte)
  | cplTimeout (ch : Fin 8)
  | resume (ch : Fin 8) (v : W32)
  | hdmaCfgWrite (ch : Fin 8) (v : W32)
  | msixSend
  | msixUnmask (vec : Fin 256)
  -- resets and link (chapters 13, 14)
  | perstNAssert
  | perstNRelease (b : BootInfo)
  | windowRetry (m : WindowMeas)
  | functionLevelReset
  | hotReset
  | resetDone
  | busMasterClear
  | busMasterSet
  | linkLoss
  -- self-test and spares (chapter 14)
  | go (v : W32)
  | sliceStart
  | sliceDone (pass : Bool)
  | sparePowerGood (u : Unit')
  | spareKatDone (u : Unit') (pass : Bool)
  | spareEngaged (u : Unit')
  | codecKatDone (core : Fin 8) (pass : Bool)
  | defectRecordWrite
  | flashTimeout
  -- faults and power (chapters 15, 17)
  | errFirstClear (p : Page)
  | pop
  | safeStateEntry (cond : Option (Page × Fin 32))
  | thermalTrip (sensor : Fin 32) (temp : BitVec 8)
  | quiesce
  | quiesceDone
  | capStep (sensor : Fin 32) (temp : BitVec 8) (power : BitVec 16)
  | capRetry
  | pmbusPoll (answer : Option (Nat × Nat))
  | vddSetPointStep (mv : Nat)
  -- security (chapter 15)
  | getIdentity (port : Port)
  | attest (port : Port)
  | openSession (port : Port)
  | closeSession (port : Port)
  | provisionOwner (port : Port)
  | advanceSvn (port : Port)
  | fuseWrite (port : Port) (w : FuseWrite)
  | setLifeCycle (port : Port) (l : Life)
  | debugUnlock (port : Port)
  | clearDefectRecord (port : Port)
  | secMboxDataAccess (w : Option W32)
  -- common header and registers (chapter 16)
  | halt (p : Page) (on : Bool)
  | enable (p : Page) (on : Bool)
  | fenceDriver (core : Fin 24) (on : Bool)
  | softInit (p : Page)
  | markComplete (p : Page)
  | discard (p : Page)
  | intForce (p : Page) (v : W32)
  | registerWrite (space : RegSpace) (off : Nat) (v : W32)
  | smbRegisterWrite (off : BitVec 24) (v : W32)
  | smbSetReadAddress (off : BitVec 24)
  | smbRegisterRead
  | idcode
  | linkTrained
  | bar2Reissue
  | hbmRetrainDone (pass : Bool) (latency : Nat)
  | inputEdge (inp : Fin 5) (level : Bool)
  | badTlp (e : TlpErr) (hdr : List W32)
  | inputPowerLoss (vddioLost : Bool)
deriving DecidableEq, Repr

end Sys2Proof
end

