-- ==== Sys2Proof/Decode.lean ====
section
/-! DEFINITION. The decoder of the table's words. The table of operations gives none of its rows any
bits, so no word spells a command and the decoder rejects every word by answering none. -/

namespace Sys2Proof

/-- The command that a word of the table spells: no row has bits, so none. -/
def decodeTableWord (_nbits _w : Nat) : Option Instr := none

end Sys2Proof
end

