-- ==== Sys2Proof/Config.lean ====
section
/-! DEFINITION. What no rule of the manual fixes: free values, the cryptographic functions that the
manual names and outside standards define, and the maker's codes. Nothing here has a body, so no
proof can see a value (log entries 4 and 9). -/

namespace Sys2Proof

/-- The n-th free value that a step takes: a value that the manual leaves open. -/
opaque Config.freeValue : Nat → W64

/-- SHA3-512 (FIPS 202), byte `i` of the digest of a message (R592 to R596). -/
opaque Config.sha3 : List Byte → Nat → Byte

/-- ML-DSA-87 public key of a seed (FIPS 204; R594), byte by byte. -/
opaque Config.mldsaPublic : List Byte → Nat → Byte

/-- ML-DSA-87 signature by the key of a seed over a message (R595), byte by byte. -/
opaque Config.mldsaSign : List Byte → List Byte → Nat → Byte

/-- ML-DSA-87 verification of a signature over a message for a public key (R592). -/
opaque Config.mldsaVerify : List Byte → List Byte → List Byte → Bool

/-- Argument of FUSE_WRITE in the bytes of the mailbox, whose layout no rule gives (R598). -/
opaque Config.fuseArg : List Byte → Option FuseWrite

/-- Argument of SET_LIFE_CYCLE in the bytes of the mailbox, whose layout no rule gives (R598). -/
opaque Config.lifeArg : List Byte → Option Life

/-- Raw LIFE_CYCLE fuse field of a state, whose code no rule gives (R541, R621). -/
opaque Config.lifeRaw : Life → BitVec 16

/-- Pad bit of a B1 row that GATHER fills, by PAD_VALUE, where no rule gives it (R156, R190). -/
opaque Config.b1Pad : Nat → Bool

/-- Code that a macro-instruction takes for a position outside a tensor, by descriptor and position, where its
operands' shapes lead there and no rule says what it takes. -/
opaque Config.noElement : Nat → Nat → Nat

/-- What the video standard of a codec number reads in the last of a list of access units that follow one
another since a restart; with each go the blocks that were not decoded from its data (R280, R284,
R330). -/
opaque Config.readUnit : Nat → List (List Byte × List (Nat × Nat)) → AuInfo

/-- Sample that the standard's decoding process gives, AV1 film grain not applied (R279, R330): codec, access
units since the restart, the samples of the pictures that the reference lists name, the blocks that
are not decoded, the plane (0 luma, 1 Cb, 2 Cr) and the position. -/
opaque Config.decSample :
  Nat → List (List Byte × List (Nat × Nat)) → List (Nat × List Nat) → List (Nat × Nat) → Nat → Nat → Nat → Nat

/-- Byte of the motion store that decoding the last of a list of access units leaves (R296). -/
opaque Config.decMotion : Nat → List (List Byte × List (Nat × Nat)) → Nat → Byte

/-- Sample that concealment copies from a device address whose word cannot be read (R313, R470). -/
opaque Config.lostSample : Nat → Nat

/-- Block rows of band `i` of a picture with so many block rows and SLICES bands, where no rule gives the
bands' heights (R329). -/
opaque Config.bandRows : Nat → Nat → Nat → Nat

/-- Level that an encoder signals, in tenths, where R277 gives the bound alone. -/
opaque Config.encLevel : EncView → Nat

/-- Bytes that an encoder reserves for the refresh column (R324). -/
opaque Config.encReserve : EncView → Nat

/-- QP that rate control gives a block (R323). -/
opaque Config.encQp : EncView → Nat → Nat

/-- Coding that an encoder chooses for a block that no rule forces (R320). -/
opaque Config.encMode : EncView → Nat → EncMode

/-- Bytes of a unit at the head of an encoded picture (R322). -/
opaque Config.encHead : EncView → HeadUnit → List Byte

/-- Slice data of the blocks coded so far (R324, R331). -/
opaque Config.encData : EncView → List BlockCode → List Byte

/-- Reconstructed sample of a coded picture by plane and position (R320). -/
opaque Config.encRecon : EncView → List BlockCode → Nat → Nat → Nat → Nat

/-- Merpaner's JEDEC manufacturer code (R653). -/
opaque Config.jedecCode : BitVec 11

/-- Merpaner's PCI vendor ID (R499). -/
opaque Config.vendorId : BitVec 16

/-- Offset of the Device Serial Number capability, which no rule gives (R498). -/
opaque Config.serialOffset : Nat

/-- What configuration space reads, at a number of ticks since reset, where the PCI Express
specification alone says what it holds (R498). -/
opaque Config.configWord : Nat → Nat → W32

/-- The 64 bytes of a SHA3-512 digest. -/
def digest (m : List Byte) : List Byte := (List.range 64).map (Config.sha3 m)

end Sys2Proof
end

