-- ==== Sys2Proof/Machine/State.lean ====
section
/-! DEFINITION. The state of the BLM7264 as plain data: every register, memory, queue, counter, mode
and pin latch that the specification gives the part, the queue of waiting commands, and the state
after fundamental reset. Field comments name the rule. Registers the manual numbers as words stay
words; fields the part keeps for itself are typed. -/

namespace Sys2Proof.Machine

/-- Reasons a step stops with a fault: none. Every condition that the manual describes has an effect on
the state, and every value it leaves open is a free value, so no command raises a fault. -/
inductive Fault
deriving DecidableEq, Repr

/-- Reasons for having no meaning. -/
inductive Refusal where
  /-- A command whose meaning is not written yet; raised by the dispatch only. Safe. -/
  | notModelled (mnemonic : String)
deriving DecidableEq, Repr

/-! ## Common page header (R607 to R620) -/

structure Hdr where
  enable        : Bool := true          -- BLK_CTRL.ENABLE
  halt          : Bool := false         -- BLK_CTRL.HALT
  fence         : Bool := false         -- BLK_CTRL.FENCE
  ready         : Bool := false         -- BLK_STATUS.READY
  intStatus     : W32 := 0
  intEnable     : W32 := 0
  errStatus     : W32 := 0
  errMask       : W32 := 0
  errSeverity   : W32 := 0
  firstValid    : Bool := false         -- ERR_FIRST
  firstBit      : Nat := 0
  firstClass    : Nat := 0
  firstMultiple : Bool := false
  log0          : W32 := 0
  log1          : W32 := 0
  log2          : W32 := 0
  log3          : W32 := 0
  cntCorr       : Nat := 0              -- ERR_COUNT_CORR
  cntUncorr     : Nat := 0              -- ERR_COUNT_UNCORR
  shadowSel     : Bool := false         -- SHD_CTRL
  complete      : Bool := false
  capAt         : Option Nat := none    -- tick of the capture that set VALID (R572)
deriving DecidableEq, Repr

/-! ## Kettle (chapter 02) -/

inductive PlanState where
  | stopped | running | stopping | startPending
deriving DecidableEq, Repr

structure Bank where
  words    : List W32 := List.replicate 2048 0
  valid    : Bool := false
  recLen   : Nat := 0                   -- plan length recorded at commit (R54)
  recSteps : Nat := 0                   -- DISC_MAX_STEPS recorded at commit (R54)
deriving DecidableEq, Repr

/-- A launch action in flight: delivered 8 ticks after its issue tick (R48). -/
structure Action where
  issued : Nat
  code   : Nat
  target : Nat
  arg16  : Nat
  arg64  : Nat
deriving DecidableEq, Repr

structure FsyncLine where
  cfg     : W32 := 0x0000abe0#32        -- EN [0], POLARITY [1], WIDTH [21:2] = 11,000
  overlap : Nat := 0
  issued  : Option Nat := none          -- issue tick of the pulse that holds the line
  first   : Nat := 0                    -- issue tick of the pulse that made it active, before any restart
  driven  : Bool := false               -- the ball is driven: EN as of the tick before (R70)
deriving DecidableEq, Repr

structure InFilter where
  polarity  : Bool := false
  minWidth  : Nat := 110
  minPeriod : Nat := 11000
  maxActive : Nat := 1100000
  release   : Nat := 1100000
  narrow    : Nat := 0
  dropped   : Nat := 0
  level     : Bool := false             -- synchronised level at the ball
  lead      : Option Nat := none        -- leading edge of the active level in progress
  leadTs    : Nat := 0                  -- the count at that edge (R46)
  since     : Nat := 0                  -- tick from which the present MIN_WIDTH holds (R624)
  ended     : Option Nat := none        -- end of that level
  judged    : Bool := false             -- the level already qualified or was ignored
  lastAcc   : Option Nat := none        -- leading edge of the last accepted pulse
  stuck     : Bool := false
  idleFrom  : Option Nat := none        -- start of the present inactivity of a STUCK input
  fastBeat  : Option Nat := none        -- beat of the last TOO_FAST event
deriving DecidableEq, Repr

structure TsFifo where
  ts       : List Nat := []
  hi       : W32 := 0
  overflow : Nat := 0
deriving DecidableEq, Repr

/-- An armed epoch (R60 to R66). -/
structure Epoch where
  target   : Nat
  beat     : Option Nat                 -- absent while a PLANNED epoch waits for MODE_SWITCH
  planned  : Bool
  byCap    : Bool                       -- armed by the management controller (R588)
  decision : Option Bool                -- SWITCH or CANCEL once sampled (R64)
deriving DecidableEq, Repr

structure Ktl where
  up           : Nat := 0                -- ticks since reset, which no host time load changes
  count        : W64 := 0
  countHi      : W32 := 0
  countLoadLo  : W32 := 0
  countLoadHi  : W32 := 0
  loadPending  : Option (Nat × Nat) := none   -- value to load, tick of the write
  planState    : PlanState := .stopped
  planBank     : Nat := 0
  activeBank   : Nat := 0
  planStartLo  : W32 := 0
  planStartHi  : W32 := 0
  pendingStart : Nat := 0
  planLen      : Nat := 33333
  cycleStart   : Nat := 0
  cycleLen     : Nat := 0
  cycleNo      : Nat := 0
  nextEntry    : Nat := 0
  shBank       : Option Nat := none
  shPlanLen    : Option Nat := none
  shPlan       : Option Bool := none
  banks        : List Bank := List.replicate 8 {}
  bankCtl      : Nat := 0
  errIndex     : Nat := 0
  errBank      : Nat := 0
  errCode      : Nat := 0
  ltAddr       : Nat := 0
  hot          : Bool := false
  forced       : Bool := false
  forcedFrom   : Nat := 0
  refreshed    : Option Nat := none     -- last beat whose refresh was commanded
  resumeBeat   : Nat := 0               -- first beat refreshed again after self-refresh (R477)
  hotWarnC     : Nat := 80
  epochBeatLo  : W32 := 0
  epochBeatHi  : W32 := 0
  epochTgtLo   : W32 := 0
  epochTgtHi   : W32 := 0
  epochPlanned : Bool := false
  epoch        : Option Epoch := none
  epochResult  : Nat := 0
  epochSeq     : Nat := 0
  epochLag     : Nat := 0
  epochLast    : Option Nat := none     -- tick since reset of the last switch or cancellation at a beat (R68)
  fsync        : List FsyncLine := List.replicate 16 {}
  inputs       : List InFilter := List.replicate 5 {}
  fifos        : List TsFifo := List.replicate 4 {}
  discEn       : Bool := false
  discMaxSteps : Nat := 1
  discCycles   : Nat := 1
  discPhase    : Nat := 0
  ppsLock      : Bool := false
  ppsLast      : Option Nat := none
  ppsMeasured  : Nat := 0
  ppsOutlier   : Nat := 0
  ppsLostSent  : Bool := false
  ppsRef       : Nat := 0               -- tick from which the absence of edges counts
  ppsMode      : Nat := 0
  ppsPolarity  : Bool := false
  ppsWidth     : Nat := 110000
  ppsPhase     : Nat := 0
  ppsOutEnd    : Option Nat := none
  ppsEcho      : Option Nat := none
  suppressed   : Nat := 0
  net          : List Action := []
deriving DecidableEq, Repr

/-! ## Management, fuses, flash, security (chapters 14, 15) -/

inductive UnitState where
  | ok | fenced | absent
deriving DecidableEq, Repr

structure MapEntry where
  phys  : Nat := 0
  state : UnitState := .ok
deriving DecidableEq, Repr

/-- Stages of a takeover (R560). -/
inductive TakeStage where
  | powering | testing | mapping | restoring
deriving DecidableEq, Repr

structure Takeover where
  target   : Unit'
  cause    : Nat                        -- CAUSE of R565
  detected : Nat
  failed   : Nat                        -- physical number
  spare    : Option Nat
  stage    : TakeStage
  goodAt   : Nat                        -- tick at which the present stage ends at the latest
  saveDone : Bool                       -- no save, or the save has ended
  hasJob   : Bool                       -- a saved job waits for the restore
  mapBeat  : Option Nat
deriving DecidableEq, Repr

structure FaultEntry where
  tick   : Nat
  blk    : Nat
  bit    : Nat
  cls    : Nat
  detail : Nat
deriving DecidableEq, Repr

structure Mgt where
  bootStage    : Nat := 0
  bootCode     : Nat := 0
  bootUnitNum  : Nat := 0
  bootUnitKind : Nat := 0
  bootQuick    : Bool := false
  bootSlotB    : Bool := false
  unitQuantity : Nat := 0
  unitMeasured : Int := 0
  coreMap      : List MapEntry := List.replicate 24 {}
  decMap       : List MapEntry := List.replicate 8 {}
  encMap       : List MapEntry := List.replicate 4 {}
  coreSpares   : List Nat := []
  decSpares    : List Nat := []
  encSpares    : List Nat := []
  takeovers    : Nat := 0
  takeover     : List Takeover := []
  quiesce      : Bool := false
  quiesceDone  : Bool := false
  safe         : Bool := false
  safeCause    : Nat := 0
  safeDue      : Option (Nat × Nat) := none   -- detection tick and CAUSE of a due entry (R580)
  safeMute     : Bool := false          -- the fatal entry names the Spout, mesh or HIF (R582)
  capC         : Nat := 0x64
  hystC        : Nat := 5
  bank6        : Nat := 0
  bank6En      : Bool := false
  bank7        : Nat := 0
  bank7En      : Bool := false
  bank9        : Nat := 0
  bank9En      : Bool := false
  bank12       : Nat := 0
  bank12En     : Bool := false
  capEn        : Bool := true
  div          : Nat := 0
  shDiv        : Option Nat := none
  faultLog     : List FaultEntry := []
  faultOver    : Nat := 0
  tempMax      : Nat := 0
  tempSensor   : Nat := 0
  pkgPower     : Nat := 0
  coolSince    : Option Nat := none
  capWait      : Option (Nat × Nat) := none   -- divider to step to, tick of the retry
  vddLower     : Bool := false            -- a slower clock lets VDD_CORE fall (R639)
  vddRaise     : Nat := 0                -- before a faster clock: 1 raise, 2 confirm, 3 confirmed (R639)
  fwSvn        : Nat := 0
  fwVersion    : W32 := 0
  fwDigest     : List Byte := []
  readAddr     : Nat := 0
deriving DecidableEq, Repr

structure Fuse where
  badCore    : Nat := 0
  badDec     : Nat := 0
  badEnc     : Nat := 0
  accFence   : Nat := 0
  variant    : Nat := 0
  life       : Life := .test
  nextLife   : Option Life := none
  sramRepair : List Nat := []
  hbmLane    : List Nat := []
  seed       : List Byte := List.replicate 32 0
  seedLock   : Bool := true
  subsys     : W32 := 0
  serial     : W64 := 0
  svnFloor   : Nat := 0
  vendorKey0 : List Byte := List.replicate 64 0
  vendorKey1 : List Byte := List.replicate 64 0
  vendorRev  : Nat := 0
  owner      : List (Option (List Byte)) := List.replicate 4 none
  ownerRev   : Nat := 0
deriving DecidableEq, Repr

structure Defect where
  kind  : Nat
  phys  : Nat
  cause : Nat
  boots : Nat
  tick  : Nat
deriving DecidableEq, Repr

structure DefectCopy where
  seq     : Nat := 0
  entries : List Defect := []
  valid   : Bool := true
deriving DecidableEq, Repr

structure Flash where
  copyA   : DefectCopy := {}
  copyB   : DefectCopy := {}
  boots   : Nat := 0
  unsaved : List Defect := []           -- defects the record does not hold yet
  stuck   : Option Nat := none          -- defects waiting when a write did not finish (R650)
deriving DecidableEq, Repr

structure Sec where
  op        : Nat := 0
  result    : Nat := 0
  session   : Option Port := none
  fails     : Nat := 0
  lockUntil : Nat := 0
  mbox      : List W32 := List.replicate 2048 0
  mboxAddr  : Nat := 0
  mboxLen   : Nat := 0
  debugOpen : Bool := false
deriving DecidableEq, Repr

/-! ## Jobs and compute cores (chapters 03 to 06, 11) -/

/-- A job-image header as the loader reads it (R129). -/
structure JobHdr where
  magic      : Nat := 0
  version    : Nat := 0
  hdrBytes   : Nat := 0
  jobId      : Nat := 0
  isFallback : Bool := false
  dlb        : Bool := false
  macroOff   : Nat := 0
  macroCount : Nat := 0
  descOff    : Nat := 0
  descCount  : Nat := 0
  rwtOff     : Nat := 0
  imageBytes : Nat := 0
  fallback   : Nat := 0
  deadline   : Nat := 0
  coreMask   : Nat := 0
  planId     : Nat := 0
  slotTicks  : Nat := 0
  cplRing    : Nat := 0
  saveOff    : Nat := 0
  saveCount  : Nat := 0
  crc        : Nat := 0
deriving DecidableEq, Repr

/-- The job store: the copy the sequencer executes from (R126), with the tables of the image. -/
structure JobStore where
  base   : Nat := 0
  hdr    : JobHdr := {}
  macros : List Nat := []               -- 256-bit words
  descs  : List Nat := []               -- 512-bit descriptors
  rwt    : List (Nat × Nat) := []
  save   : List (Nat × Nat) := []       -- (offset, lines)
deriving DecidableEq, Repr

inductive Phase where
  | idle | verify | run | save | restore | fallbackLoad
deriving DecidableEq, Repr

/-- Why a job stops before END. -/
inductive StopWhy where
  | none | aborted | skew | preempt | takeover
deriving DecidableEq, Repr

/-- A macro-instruction in progress behind the oldest one: a later member of a fusion chain, or an array
macro-instruction whose predecessor still drains (R194, R198). -/
structure Act where
  mi       : Nat
  tile     : Nat := 0                   -- next output tile to begin
  progress : Nat := 0                   -- output tiles written
  ended    : Bool := false              -- every tile is written
deriving DecidableEq, Repr

/-- The job that a core holds (R170 to R174, R424). -/
structure Job where
  ctx        : Nat
  slot       : Nat
  startTick  : Nat
  heldFrom   : Nat                      -- tick since which the job holds this core
  ticks      : Nat := 0                 -- ticks held before heldFrom
  jobId      : Nat := 0                 -- of the primary image
  cplRing    : Nat := 0
  priDeadline : Nat := 0
  mi         : Nat := 0                  -- index of the oldest macro-instruction in progress
  progress   : Nat := 0
  skipped    : Nat := 0
  firstSkip  : Option Nat := none
  preempts   : Nat := 0
  restored   : Bool := false
  spareTaken : Bool := false
  inFallback : Bool := false
  fbStarted  : Bool := false
  fbId       : Nat := 0
  fbAt       : Nat := 0
  lateBeat   : Bool := false
  indexOor   : Bool := false
  missed     : Bool := false            -- a deadline miss was counted
  acctTick   : Nat := 0                 -- ARRAY charged up to here
  begun      : Bool := false            -- the macro-instruction's boundary checks were made
  tile       : Nat := 0                 -- its next output tile to begin
  ahead      : List Act := []           -- macro-instructions in progress after it
  mseHit     : Nat := 0                 -- MSE channels that the run gathered into
  div        : Nat := 12                -- divider at START_TICK (R205)
  planId     : Nat := 0                 -- slot-table identity at START_TICK (R205)
  refusedFor : List (Nat × Nat) := []   -- requests refused for want of a frame (R448)
  badReads   : List Nat := []           -- lines whose read in verification was not answered OK (R204)
deriving DecidableEq, Repr

/-- One plane: a stationary block as loaded (R85, R89, R98). Weights are w′ of R85. -/
structure Plane where
  mode    : Nat := 0                    -- 0 MAC, 1 L1, 2 L2SQ, 3 HAMMING, 4 CMP
  enables : List Bool := List.replicate 32 false
  cols    : List Bool := List.replicate 32 false
  w       : List (List Int) := []       -- 32 block rows of 32 columns
  scales  : List Nat := []              -- F32 patterns of the columns' scales
  parity  : List Bool := List.replicate 32 true   -- of each block row: it holds (R113)
deriving DecidableEq, Repr

/-- An accumulator tile between its first plane load and the end of its drain (R180). -/
structure Walk where
  mi     : Nat := 0                     -- macro-instruction
  t      : Nat := 0                     -- its output tile
  g      : Nat := 0
  cb     : Nat := 0
  kr     : Nat := 0
  row    : Nat := 0
  plane  : Nat := 0
  loaded : Bool := false
  slot0  : Nat := 0                     -- first ring slot of the tile (R181)
deriving DecidableEq, Repr

/-- What the plane chain remembers of its last pass (R101 to R103, R211). -/
structure Chain where
  per    : List (Nat × Nat)             -- entry cycles and rows of the pass so far, by array
  six    : Bool := false                -- eight rows in any nine cycles (R217)
  blk    : Nat × Nat × Nat              -- tensor and mode, kr, cb of its block
  mi     : Nat                          -- macro-instruction of the pass
  plane  : Nat
deriving DecidableEq, Repr

structure MseCh where
  ctrl     : W32 := 0
  runTag   : Nat := 0                   -- settings of the open window (R244)
  runEn    : Bool := false
  runWin   : Nat := 0
  sum      : Nat := 0
  cnt      : Nat := 0
  runs     : Nat := 0
  cSum     : Nat := 0                   -- closed window
  cCnt     : Nat := 0
  limited  : Bool := false
  overrun  : Bool := false
  lost     : Bool := false
  unread   : Bool := false
  rHi      : W32 := 0                   -- latched by the read of SUM_LO (R243)
  rCnt     : W32 := 0
deriving DecidableEq, Repr

structure Core where
  job       : Option Job := none
  phase     : Phase := .idle
  store     : JobStore := {}
  mask      : Option Nat := none        -- sample mask copy; absent: every sample valid
  maskAll   : Bool := false             -- the mask applies to every macro-instruction (R423)
  batchSize : Nat := 0
  sat       : List Nat := List.replicate 1024 0
  plane0    : Plane := {}
  plane1    : Plane := {}
  walk      : Option Walk := none       -- the accumulator tile whose passes run
  drains    : List Walk := []           -- tiles whose passes have all entered, oldest first (R182)
  ring      : Nat := 0
  chain     : Option Chain := none
  codebook  : Option ((Nat × Nat) × List Int) := none   -- kept by the feeder: tensor and group, contents (R210)
  memFail   : Bool := false             -- an error another agent met in the core's memories (R112)
  redStore  : List (List (Int × Nat)) := []
  vregs     : List Byte := List.replicate 8192 0
  nmsFlags  : List Bool := []
  stall     : W64 := 0
  stallHi   : W32 := 0
  skewInfo  : W32 := 0
  skewBlock : W32 := 0
  saveLo    : W32 := 0
  saveHi    : W32 := 0
  frames    : List Bool := List.replicate 4 false
  mse       : List MseCh := List.replicate 4 {}
  mgmtFence : Bool := false
  drvFence  : Bool := false             -- the driver fence is in force (R612)
  wait      : Option Nat := none
  slice     : Bool := false
  stopWhy   : StopWhy := .none          -- a stop was requested (R116)
  saveFrame : Nat := 0
  due       : Nat := 0                  -- tick at which the present phase may end
deriving DecidableEq, Repr

/-! ## Scheduler (chapter 11) -/

inductive SlotState where
  | empty | valid | active | suspended
deriving DecidableEq, Repr

/-- Architectural state of a suspended job: what the save frame holds (R449), kept with the frame's
number and the core that saved it. -/
structure Saved where
  job     : Job
  store   : JobStore
  mask    : Option Nat
  maskAll : Bool
  batch   : Nat
  sat     : List Nat                    -- also in the frame
  plane0  : Plane
  plane1  : Plane
  walk    : Option Walk
  drains  : List Walk
  ring    : Nat
  chain   : Option Chain
  red     : List (List (Int × Nat))
  core    : Nat
  frame   : Nat
deriving DecidableEq, Repr

structure Slot where
  state    : SlotState := .empty
  image    : Nat := 0
  batch    : Nat := 0
  depAddr  : Nat := 0
  depEn    : Bool := false
  depMin   : Nat := 0
  coreMask : Nat := 0
  dlb      : Bool := false
  order    : Nat := 0                   -- validation or suspension order
  saved    : Option Saved := none
deriving DecidableEq, Repr

structure Ctx where
  enabled   : Bool := false
  held      : Bool := false
  part      : Nat := 0
  urgent    : Bool := false
  preempt   : Bool := false
  onValid   : Bool := false
  maxRun    : Nat := 1
  weight    : Nat := 1
  queueBase : Nat := 0
  stateBase : Nat := 0
  seq       : Nat := 0
  deficit   : Int := 0
  slots     : List Slot := List.replicate 64 {}
deriving DecidableEq, Repr

structure Sched where
  ctxs    : List Ctx := List.replicate 256 {}
  order   : Nat := 0
  held    : List (List (Nat × Nat)) := List.replicate 24 []    -- start queues (R429)
  after   : List (Option (Nat × Nat)) := List.replicate 24 none  -- launch when the save ends (R429)
deriving DecidableEq, Repr

/-! ## Host interface (chapter 13) -/

/-- The command and result registers of R282 and their kin. -/
structure CmdReg where
  cmd  : W32 := 0
  code : Nat := 0
  done : Bool := true
  ctx  : Nat := 0
deriving DecidableEq, Repr

inductive DmaState where
  | disabled | idle | run | haltBme | haltErr
deriving DecidableEq, Repr

/-- A read the channel has issued and not yet seen completed (R516, R517). -/
structure DmaRead where
  dev   : Nat
  bytes : Nat                            -- not yet returned
  since : Nat                            -- tick of issue
  desc  : Nat := 0                       -- its descriptor, counted from the one at CONS
deriving DecidableEq, Repr

/-- A read whose completions are discarded: the channel halted, was disabled or reset, or the read
timed out (R517, R525, R528). -/
structure DmaStale where
  bytes  : Nat
  counts : Bool                          -- each completion counts in DISCARDED
  late   : Bool                          -- the read timed out
deriving DecidableEq, Repr

structure DmaCh where
  cfg       : W32 := 0
  state     : DmaState := .disabled
  err       : Nat := 0
  discarded : Nat := 0
  cons      : Nat := 0
  prod      : Nat := 0
  pos       : Nat := 0
  ringLo    : W32 := 0
  ringHi    : W32 := 0
  wbLo      : W32 := 0
  wbHi      : W32 := 0
  ahead     : Nat := 0                  -- descriptors from CONS on whose requests have all been issued
  issued    : Nat := 0                  -- bytes requested of the descriptor after those
  reads     : List DmaRead := []        -- outstanding reads, oldest first
  stale     : List DmaStale := []
deriving DecidableEq, Repr

structure Win where
  cfg   : W32 := 0x00000054#32          -- LOG2_SIZE [7:2] = 0x15
  tgtLo : W32 := 0
  tgtHi : W32 := 0
deriving DecidableEq, Repr

structure Vec where
  addr    : W64 := 0
  data    : W32 := 0
  masked  : Bool := true
  pending : Bool := false
deriving DecidableEq, Repr

structure Doorbell where
  last    : Option Nat := none          -- tick of the last delivery
  pending : Option Nat := none          -- merged value
deriving DecidableEq, Repr

/-- An access through BAR2 at its device address, or a doorbell write behind one. -/
inductive BusAccess where
  | read (addr len : Nat)
  | write (addr : Nat) (data : List Byte)
  | doorbell (db v : Nat)
deriving DecidableEq, Repr

/-- An access answered HBM_BUSY that the host interface reissues, or one that must follow it (R463,
R507, R509). -/
structure Reissue where
  what  : BusAccess
  since : Nat
deriving DecidableEq, Repr

structure Hif where
  ctxTableLo  : W32 := 0
  ctxTableHi  : W32 := 0
  ctxCmd      : CmdReg := {}
  acctLo      : W32 := 0
  acctHi      : W32 := 0
  minGap      : Nat := 0x6e
  shMinGap    : Option Nat := none
  coalesced   : Nat := 0
  stormBeat   : Option Nat := none
  doorbells   : List Doorbell := List.replicate 392 {}
  dbOut       : List (Nat × Nat) := []          -- delivered values on their way to the targets
  partSched   : List W32 := List.replicate 8 0x04001000#32
  shPartSched : List (Option W32) := List.replicate 8 none
  wins        : List Win := List.replicate 64 {}
  irqMap      : List W32 := List.replicate 64 0
  dma         : List DmaCh := List.replicate 8 {}
  msix        : List Vec := List.replicate 256 {}
  msixReq     : List Nat := []                  -- requested vectors, oldest first (R523)
  msixEnable  : Bool := false
  msixFnMask  : Bool := false
  bme         : Bool := false
  mse         : Bool := false
  maxPayload  : Nat := 128                      -- Device Control, as PCI Express resets it
  maxRead     : Nat := 512
  cplRange    : Nat := 0                        -- Device Control 2
  cplOff      : Bool := false
  lastDma     : Nat := 7                        -- channel whose posted write was issued last
  linkUp      : Bool := false
  badLanes    : Nat := 0                        -- PCI Express lanes that failed loopback at boot (R548)
  linkWidth   : Nat := 0                        -- lanes of the trained link
  linkLost    : Bool := false
  reissue     : List Reissue := []
  aerCorr     : Nat := 0
  aerUncorr   : Nat := 0
  aerSeverity : Nat := 0x00462030               -- PCI Express default severities
  hdrLog      : List W32 := []
  subsys      : W32 := 0                        -- fuse shadow: Subsystem IDs (R499)
  serial      : W64 := 0                        -- fuse shadow: Device Serial Number (R499)
deriving DecidableEq, Repr

/-! ## Clusters and Saucers (chapter 07) -/

/-- A streamed tensor offered by a scaler to a Saucer (R257, R260, R261). -/
structure SauStream where
  cmd     : Nat                          -- device address of the Saucer command
  arrived : Nat                          -- tick of the scaler's first data (R260)
  data    : List Nat                     -- element codes
  ended   : Bool
  endAt   : Nat := 0                     -- tick at which it ended
deriving DecidableEq, Repr

structure SauCmd where
  addr     : Nat
  streamed : Bool
  started  : Nat
  status   : Nat                         -- 0 it runs, 1 CMD_INVALID, 4 MEM_ERROR
  readable : Bool                        -- the command word could be read
deriving DecidableEq, Repr

structure Clu where
  ringCfg : W32 := 0
  dbCfg   : W32 := 0
  cons    : Nat := 0
  prod    : Nat := 0
  pos     : Nat := 0
  dbPend  : List Nat := []               -- completed writes to the doorbell word
  ticks   : List Nat := []               -- doorbell tick of each pending ring entry
  cmd     : Option SauCmd := none
  streams : List SauStream := []
deriving DecidableEq, Repr

/-! ## Frame buffers, decoders, encoders, cameras, scalers (chapters 08, 09) -/

/-- A frame-buffer descriptor (R296). -/
structure Fb where
  yBase   : Nat := 0
  cBase   : Nat := 0
  pitch   : Nat := 0
  fbW     : Nat := 0
  fbH     : Nat := 0
  mvBase  : Nat := 0
  mvLines : Nat := 0
  wide    : Bool := false
deriving DecidableEq, Repr

structure DecDesc where
  codec      : Nat := 0
  auto       : Bool := false
  decOrder   : Bool := false
  span       : Nat := 0
  coreMask   : Nat := 0
  binBudget  : Nat := 0
  concealPct : Nat := 0
  tenBit     : Bool := false
  maxW       : Nat := 0
  maxH       : Nat := 0
  ringBase   : Nat := 0
  ringLenM1  : Nat := 0
  bsBase     : Nat := 0
  bsLines    : Nat := 0
  statusRing : Nat := 0
  reportAll  : Bool := false
  outqM1     : Nat := 0
  streamId   : Nat := 0
  fbTable    : Nat := 0
  fbCount    : Nat := 0
  stateBase  : Nat := 0
  consWb     : Nat := 0
  wdogTicks  : Nat := 0
deriving DecidableEq, Repr

/-- An entry of an output queue (R300). -/
structure OutPic where
  buf       : Nat
  picCount  : Nat
  pts       : Nat
  width     : Nat
  height    : Nat
  crop      : Nat × Nat × Nat × Nat
  bitDepth  : Nat
  concealed : Bool
  corrupt   : Bool
  name      : Option Nat := none         -- its name to the standard, until a restart
deriving DecidableEq, Repr

/-- An error in a picture: code, block, the core it stopped, the blocks it conceals (R308, R309, R316). -/
structure DecCut where
  code   : Nat
  addr   : Nat
  core   : Option Nat := none
  blocks : List (Nat × Nat) := []
deriving DecidableEq, Repr

/-- A picture in progress (R290 to R317). -/
structure DecPic where
  startAt  : Nat
  picCount : Nat := 0
  pts      : Nat := 0
  cores    : List Nat := []
  owners   : List Nat := []              -- place in `cores` of each partition's core (R306)
  tookAt   : Nat := 0                    -- tick of admission
  waited   : Bool := false               -- CORE_WAIT counted
  admitted : Bool := false               -- the Strainer has taken it
  consumed : Bool := false
  buf      : Option Nat := none
  code     : Nat := 0                    -- code of an entry that yields no picture
  errs     : List DecCut := []           -- what happened to it so far
  stopped  : List (Nat × Nat) := []      -- places in `cores` of cores that stopped, with their bins
  au       : AuInfo := default           -- the access unit as the standard reads it
  data     : Nat × Nat := (0, 0)         -- address and bytes of the access unit
  eos      : Bool := false
deriving DecidableEq, Repr

/-- The most recent decoded picture: buffer, width, height, bit depth (R313). -/
structure Surrogate where
  buf   : Nat
  w     : Nat
  h     : Nat
  depth : Nat
deriving DecidableEq, Repr

structure DecCtx where
  enabled    : Bool := false
  desc       : DecDesc := {}
  fbs        : List Fb := []
  cons       : Nat := 0
  prod       : Nat := 0
  pos        : Nat := 0
  heldStart  : Option (Nat × Nat) := none -- delivery tick of a held start and PROD then (R292)
  wantDis    : Bool := false             -- DISABLE pending
  wantDisc   : Bool := false             -- DISCONTINUITY pending
  waitRap    : Bool := false
  dropRasl   : Bool := false
  refused    : Nat := 0                  -- code of a refused sequence (R304)
  seqInfo    : Option SeqInfo := none
  tainted    : Bool := false
  recover    : List Int := []            -- recovery points named since the last taint (R312)
  params     : List ParamSet := []       -- parameter sets received (R284, R305)
  units      : List (List Byte × List (Nat × Nat)) := []   -- entries since the restart, blocks not decoded (R330)
  pic        : Option DecPic := none
  outq       : List OutPic := []
  dpbOut     : List OutPic := []         -- decoded pictures that await output
  refs       : List (Nat × Nat) := []    -- references by name and buffer
  holds      : List Nat := []            -- buffers held until RELEASE
  reading    : List Nat := []            -- buffers held by a scaler step
  surrogate  : Option Surrogate := none
deriving DecidableEq, Repr

structure Dec where
  tableLo  : W32 := 0
  tableHi  : W32 := 0
  cmd      : CmdReg := {}
  ctxs     : List DecCtx := List.replicate 128 {}
  act      : List W32 := List.replicate 128 0     -- DEC_CTX_SHDn, active values
  shd      : List (Option W32) := List.replicate 128 none
  busy     : List (Option Nat) := List.replicate 8 none
  kat      : List (Option Nat) := List.replicate 8 none   -- end of a known-answer run
  slice    : List Bool := List.replicate 8 false
  lastAuto : Nat := 127
deriving DecidableEq, Repr

structure Str where
  admitted : Nat := 0
  refused  : Nat := 0
deriving DecidableEq, Repr

structure EncDesc where
  codec      : Nat := 0
  auto       : Bool := false
  span       : Nat := 0
  coreMask   : Nat := 0
  rc         : Nat := 0
  refresh    : Nat := 1                  -- pictures per refresh period
  qp         : Nat := 0
  width      : Nat := 0
  height     : Nat := 0
  bitrate    : Nat := 0
  fpsNum     : Nat := 0
  fpsDen     : Nat := 0
  outBase    : Nat := 0
  outLines   : Nat := 0
  maxPic     : Nat := 0
  consAddr   : Nat := 0
  reconTable : Nat := 0
  srcStream  : Nat := 0
  statusRing : Nat := 0
  streamId   : Nat := 0
  slices     : Nat := 0
  qpMin      : Nat := 0
  qpMax      : Nat := 0
deriving DecidableEq, Repr

/-- An encoder picture in progress (R319 to R328). -/
structure EncPic where
  startAt : Nat
  picNo   : Nat
  pts     : Nat
  srcSeq  : Nat
  srcBuf  : Option Nat                   -- capture buffer it reads
  fb      : Fb                           -- where its samples lie
  bad     : Bool                         -- the source frame had an error (R326)
  idr     : Bool
  pos     : Nat
  offset  : Nat
  cores   : List Nat                     -- none while it waits for cores
  owners  : List Nat                     -- place in `cores` of each band's core (R329)
deriving DecidableEq, Repr

structure EncCtx where
  enabled   : Bool := false
  desc      : EncDesc := {}
  recon     : List Fb := []
  picCount  : Nat := 0
  pos       : Nat := 0                   -- position in the refresh period
  idrNext   : Bool := false              -- REFRESH_NOW waits for the next picture
  restart   : Bool := false              -- the next picture starts a new refresh period
  hasRecon  : Bool := false              -- a complete reconstruction exists
  lastSeq   : Option Nat := none         -- last frame encoded
  writeOff  : Nat := 0
  alt       : Nat := 0                   -- reconstruction buffer to write next
  wantDis   : Bool := false              -- DISABLE pending
  held      : List Nat := []             -- delivery ticks of starts that wait for the picture in progress
  past      : List (Option (Nat × Nat)) := []   -- size and QP of the pictures since ENABLE, none for a skipped one
  pic       : Option EncPic := none
deriving DecidableEq, Repr

structure Enc where
  tableLo : W32 := 0
  tableHi : W32 := 0
  cmd     : CmdReg := {}
  ctxs    : List EncCtx := List.replicate 16 {}
  act     : List W32 := List.replicate 16 0
  shd     : List (Option W32) := List.replicate 16 none
  busy    : List (Option Nat) := List.replicate 4 none
  slice   : List Bool := List.replicate 4 false
deriving DecidableEq, Repr

structure CapDesc where
  format    : Nat := 0
  vc        : Nat := 0
  width     : Nat := 0
  height    : Nat := 0
  fbTable   : Nat := 0
  fbCount   : Nat := 0
  stateBase : Nat := 0
  streamId  : Nat := 0
  timeout   : Nat := 0
deriving DecidableEq, Repr

/-- A frame of a capture channel (R340 to R342). -/
structure CapFrame where
  seq   : Nat
  pts   : Nat
  from_ : Nat                            -- tick since reset of its start
  buf   : Option Nat
  lines : Nat := 0
  rxErr : Bool := false
deriving DecidableEq, Repr

structure CapCh where
  enabled : Bool := false
  desc    : CapDesc := {}
  fbs     : List Fb := []
  nextSeq : Nat := 0
  openF   : Option CapFrame := none
  latest  : Option CapFrame := none
  sclSeq  : Option Nat := none           -- last frame taken by a scaler
  frameOut : Option (Nat × Fb × Nat) := none   -- latest FRAME output of this channel (R346): SEQ, buffer, PTS
  readers : List Nat := []               -- buffers read by a scaler step or an encoder picture
deriving DecidableEq, Repr

structure Csi where
  ports   : List W32 := List.replicate 8 0x00000390#32   -- LANE_MAP [9:2] = 0xE4
  portBad : List Bool := List.replicate 8 false
  tableLo : W32 := 0
  tableHi : W32 := 0
  cmd     : CmdReg := {}
  chs     : List CapCh := List.replicate 16 {}
deriving DecidableEq, Repr

structure SteerWin where
  x : Nat
  y : Nat
  w : Nat
  h : Nat
deriving DecidableEq, Repr

structure SteerSet where
  gen  : Nat := 0
  wins : List SteerWin := []
deriving DecidableEq, Repr

structure SteerSlot where
  front : SteerSet := {}
  back  : SteerSet := {}
  at_   : Option Nat := none             -- tick of the commit that made `front`
deriving DecidableEq, Repr

/-- A scaler command in progress (R358 to R370). -/
structure SclCmd where
  addr    : Nat
  started : Nat
  status  : Nat
  capSrc  : Bool                         -- capture channel rather than decode context
  src     : Nat
  buf     : Option Fb
  bufNo   : Nat
  words   : List Nat                     -- header and output entries as read (R347, R348)
  seq     : Nat
  pts     : Nat
  crop    : Nat × Nat × Nat × Nat        -- the FULL rectangle (R350)
  depth   : Nat
  format  : Nat                          -- capture format; 8 for a decoded picture
  flagCon : Bool
  flagCor : Bool
  flagRx  : Bool
  stream  : Nat
  steer   : SteerSet
  next    : Nat                          -- next entry
  doneMsk : Nat                          -- ENTRY_DONE
  held    : Nat := 0                     -- ticks that its Saucer held it (R260)
deriving DecidableEq, Repr

structure SclUnit where
  cmd      : Option SclCmd := none
  lastLo   : W32 := 0
  lastHi   : W32 := 0
  commands : Nat := 0
deriving DecidableEq, Repr

structure Scl where
  units  : List SclUnit := List.replicate 4 {}
  priv   : List W32 := List.replicate 8 0
  shPriv : List (Option W32) := List.replicate 8 none
  steer  : List SteerSlot := List.replicate 256 {}
deriving DecidableEq, Repr

/-! ## Caddy and Spout (chapter 10) -/

structure PartDesc where
  base      : Nat := 0                   -- first entry
  count     : Nat := 32
  steerSlot : Nat := 0
  recRing   : Nat := 0
  steerMax  : Nat := 0
  sense     : Bool := false
  emit      : Nat := 0
  nConfirm  : Nat := 1
  mTent     : Nat := 1
  mDelete   : Nat := 1
  alpha     : Nat := 0
  beta      : Nat := 0
  rnoise    : Nat := 1
  qnoise    : Nat := 0
  pInit     : Nat := 1
  newScore  : Int := 0
  costMax   : Int := 0
  mirEmb    : Nat := 0
  mirBox    : Nat := 0
  firstId   : Nat := 1
  margin    : Nat := 0
deriving DecidableEq, Repr

structure CdyPart where
  enabled : Bool := false
  known   : Bool := false                -- a descriptor was copied by an ENABLE
  desc    : PartDesc := {}
  nextId  : Option Nat := none
deriving DecidableEq, Repr

structure CdyRing where
  cfg    : W32 := 0
  baseLo : W32 := 0
  baseHi : W32 := 0
  dbLo   : W32 := 0
  dbHi   : W32 := 0
  cons   : Nat := 0
  prod   : Nat := 0
  pos    : Nat := 0
  dbPend : List (Nat × Bool) := []       -- completed doorbell writes, fallback attribute
  fallb  : List Bool := []               -- attribute of each pending command, oldest first
deriving DecidableEq, Repr


/-- What a command does at its end (R379, R390 to R397): the partition's entries, mirrors and next identity,
the steering set, the records with what their headers take from the sample. -/
structure CdyPlan where
  part    : Option Nat := none
  entries : List Nat := []
  nextId  : Option Nat := none
  steer   : Option SteerSet := none
  ring    : Nat := 0
  recs    : List (Nat × List Byte) := []
  seq     : Nat := 0
  stream  : Nat := 0
  ctx     : Nat := 0
  con     : Bool := false
  fb      : Bool := false
deriving DecidableEq, Repr

/-- The Caddy command in progress: when its done record is due and what it says (R392, R393). -/
structure CdyNow where
  due     : Nat
  done    : Option Nat                   -- DONE_ADDR, absent when the command was unreadable
  value   : Nat
  status  : Nat
  created : Nat
  deleted : Nat
  notCr   : Nat
  ring    : Nat
  plan    : CdyPlan := {}
deriving DecidableEq, Repr

structure Cdy where
  tableLo  : W32 := 0
  tableHi  : W32 := 0
  cmd      : CmdReg := {}
  parts    : List CdyPart := List.replicate 256 {}
  rings    : List CdyRing := List.replicate 8 {}
  lastRing : Nat := 7
  now      : Option CdyNow := none
  waitCmd  : Option W32 := none          -- partition command that waits for the boundary (R376)
  halted   : Bool := false               -- HALT or the safe state took effect (R416)
deriving DecidableEq, Repr

/-- What a completion record states beyond the job's own fields. -/
structure CplNote where
  status  : Nat
  verify  : Nat := 0
  stop    : Nat := 0
  detail  : Nat := 0
  prog    : Nat := 0
  sat     : Nat := 0
  core    : Nat
  ticks   : Nat
  who     : Nat
deriving DecidableEq, Repr

/-- A record on its way through the Spout (R409 to R411). -/
structure Rec where
  who   : Nat                            -- producer order of R409
  ring  : Nat
  cpl   : Bool
  bytes : List Byte
  tick  : Nat
deriving DecidableEq, Repr

structure SptRing where
  cfg      : W32 := 0x01000006#32        -- LOG2_LINES 6, HOLD_MAX 0x0100
  coal     : W32 := 0x00000001#32
  shCoal   : Option W32 := none
  baseLo   : W32 := 0
  baseHi   : W32 := 0
  wbLo     : W32 := 0
  wbHi     : W32 := 0
  cons     : Nat := 0
  prod     : Nat := 0
  dropped  : Nat := 0
  consBad  : Bool := false
  unsig    : Nat := 0                    -- lines since the last message
  unsigAt  : Option Nat := none          -- tick of the first line that no message covers
  flush    : Bool := false               -- a flush asked for a message that waits for its write-back (R408)
  wbAt     : Option Nat := none          -- tick of the first line no write-back covers
  dropBeat : Option Nat := none
deriving DecidableEq, Repr

structure Spt where
  rings     : List SptRing := List.replicate 64 {}
  arriving  : List Rec := []             -- handed off, not yet entered
  store     : List Rec := []
  part      : Nat := 0                   -- lines of the front record already issued
  partAt    : Option Nat := none         -- tick of the first of them
  waitCpl   : List (Job × CplNote) := [] -- jobs that ended and wait for a completion line (R411)
  dropPend  : W64 := 0
  lastIssue : Option Nat := none
  stopped   : Bool := false
deriving DecidableEq, Repr

/-! ## HBM and mesh (chapter 12) -/

structure Hbm where
  map        : Nat := 0
  lock       : Bool := false
  temp       : Nat := 0
  tempValid  : Bool := false
  tempSeq    : Nat := 0
  tempBlock  : Option Nat := none           -- block of 1,000 beats of the last reading (R468)
  retrain    : W32 := 0x00000002#32      -- OFFSET [22:1] = 1
  shRetrain  : Option W32 := none
  nextPc     : Nat := 0
  lastFail   : Bool := false
  fails      : Nat := 0
  window     : Option (Nat × Nat) := none   -- pseudo-channel, tick after the window
  keep       : Nat := 0x3f
  inSr       : Bool := false
  entering   : Option Nat := none           -- tick of ENTER
  exiting    : Option Nat := none           -- tick of EXIT
  fifoLat    : List Nat := List.replicate 32 0
  queue      : List (Nat × Nat) := List.replicate 32 (0, 0)   -- lines that wait, and until when
deriving DecidableEq, Repr

inductive FlitClass where
  | planned | opened | relocated
deriving DecidableEq, Repr

/-- A flit in a router (R479 to R487). -/
structure Flit where
  cls   : FlitClass
  who   : Src                              -- the requester it belongs to
  kind  : FlitKind
  addr  : Nat
  src   : Nat                              -- stops
  dest  : Nat
  agent : Nat                              -- agent of the source stop
  part  : Option Nat
  at_   : Nat                              -- stop whose router holds it
  inp   : Nat                              -- input it came by: 1 to 4 a link, 5 injection
  due   : Nat                              -- tick since reset from which it may take its next output
deriving DecidableEq, Repr

structure Mesh where
  active   : List (Nat × W32) := []        -- by (stop × 5 + port) × 1,100 + slot, rising, no 0
  shadow   : List (Nat × W32) := []
  committed : Option W32 := none
  planId   : W32 := 0
  stCtrl   : W32 := 0
  checking : Bool := false
  stStop   : Nat := 0
  stPort   : Nat := 0
  stSlot   : Nat := 0
  stActive : Bool := false
  errStop  : Nat := 0
  errPort  : Nat := 0
  errSlot  : Nat := 0
  errCode  : Nat := 0
  part     : List W32 := 0x7fffffff#32 :: List.replicate 7 0
  shPart   : List (Option W32) := List.replicate 8 none
  reloc    : Nat := 0
  rstSel   : Nat := 0                      -- MESH_PART_RESET.PART
  rstPart  : Nat := 0                      -- partition in reset
  rstBusy  : Bool := false
  rstAt    : Nat := 0
  flits    : List Flit := []
  served   : List (Nat × Nat) := List.replicate 160 (0, 0)   -- by output: last input served, tick + 1
deriving DecidableEq, Repr

/-! ## Self-test (chapter 14) -/

structure Slice where
  kind    : Nat
  index   : Nat
  segment : Nat
  preserve : Bool
  due     : Nat
  started : Bool
  saved   : List Host.Cell
deriving DecidableEq, Repr

structure Bist where
  cmd    : W32 := 0
  beat   : W32 := 0
  result : Nat := 0
  slices : Nat := 0
  slice  : Option Slice := none
  direct : List (Nat × W32) := []
deriving DecidableEq, Repr

/-! ## Power and link -/

structure Power where
  perst     : Bool := true
  railsOk   : Bool := true
  booted    : Bool := false
  stopped   : Bool := false                -- boot stop (R547)
  window    : Option (Nat × BootInfo) := none   -- window check repeats so far (R539)
  reset     : Option Bool := none          -- function-level (false) or hot (true) reset in progress
  resetAt   : Nat := 0
  therm     : Bool := false                -- THERM_TRIP_N latch
  vddMv     : Nat := 750
  vddAt     : Nat := 0
  pmRetry   : Bool := false
  vout      : Nat := 0
  iout      : Nat := 0
deriving DecidableEq, Repr

/-- What the device issues on the link, oldest first (R500, R516, R520, R523). -/
inductive Tlp where
  | memWrite (bus : Nat) (data : List Byte) (noSnoop : Bool)
  | memRead (ch : Nat) (bus bytes : Nat) (noSnoop : Bool)
  | cpl (status : CplStatus) (data : List Byte)
  | cfgRetry                             -- Configuration Request Retry Status (R524, R525)
  | msix (vec : Nat) (addr : W64) (data : W32)
deriving DecidableEq, Repr

structure State where
  pending  : List Instr := []
  free     : Nat := 0
  resp     : List Byte := []
  link     : List Tlp := []
  mem      : List Host.Cell := []
  badWords : List Nat := []
  power    : Power := {}
  hdrs     : List Hdr := []
  ktl      : Ktl := {}
  mgt      : Mgt := {}
  fuse     : Fuse := {}
  flash    : Flash := {}
  sec      : Sec := {}
  hif      : Hif := {}
  sched    : Sched := {}
  cores    : List Core := List.replicate 24 {}
  clus     : List Clu := List.replicate 7 {}
  dec      : Dec := {}
  str      : Str := {}
  enc      : Enc := {}
  csi      : Csi := {}
  scl      : Scl := {}
  cdy      : Cdy := {}
  spt      : Spt := {}
  hbm      : Hbm := {}
  mesh     : Mesh := {}
  bist     : Bist := {}
deriving DecidableEq, Repr

/-- Place of a page's header in `State.hdrs`. -/
def pageIdx : Page → Nat
  | .mgt => 0 | .sec => 1 | .ktl => 2 | .hif => 3 | .mesh => 4 | .hbm => 5
  | .core n => 6 + n.val
  | .clu m => 30 + m.val
  | .dec => 37 | .enc => 38 | .str => 39
  | .scl s => 40 + s.val
  | .csi p => 44 + p.val
  | .cdy => 52 | .spt => 53 | .bist => 54 | .fuse => 55

/-- ERR_SEVERITY after fundamental reset (R618), by page place. -/
def severityReset : Nat → W32
  | 0 => 0x708#32
  | 2 => 0x108#32
  | 1 | 3 | 4 | 5 => 0x8#32
  | _ => 0#32

/-- The headers of all 56 pages after fundamental reset (R607, R618). -/
def hdrsReset : List Hdr :=
  (List.range 56).map fun i => { errSeverity := severityReset i }

/-- The machine under fundamental reset: PERST_N asserted (R524), every register at the value the
rules give it, no command waiting. Values the manual leaves open are named in the assumption log. -/
def State.reset : State := { hdrs := hdrsReset }

end Sys2Proof.Machine
end

