-- ==== Sys2Proof/Machine/Upd.lean ====
section
/-! DEFINITION. Updates of one part of the state, each leaving every other part as it is. Numbered
parts are looked up with the part's reset value beyond the table's end. -/

namespace Sys2Proof.Machine

def State.onKtl (f : Ktl → Ktl) (s : State) : State := { s with ktl := f s.ktl }
def State.onMgt (f : Mgt → Mgt) (s : State) : State := { s with mgt := f s.mgt }
def State.onFuse (f : Fuse → Fuse) (s : State) : State := { s with fuse := f s.fuse }
def State.onFlash (f : Flash → Flash) (s : State) : State := { s with flash := f s.flash }
def State.onSec (f : Sec → Sec) (s : State) : State := { s with sec := f s.sec }
def State.onHif (f : Hif → Hif) (s : State) : State := { s with hif := f s.hif }
def State.onSched (f : Sched → Sched) (s : State) : State := { s with sched := f s.sched }
def State.onDec (f : Dec → Dec) (s : State) : State := { s with dec := f s.dec }
def State.onStr (f : Str → Str) (s : State) : State := { s with str := f s.str }
def State.onEnc (f : Enc → Enc) (s : State) : State := { s with enc := f s.enc }
def State.onCsi (f : Csi → Csi) (s : State) : State := { s with csi := f s.csi }
def State.onScl (f : Scl → Scl) (s : State) : State := { s with scl := f s.scl }
def State.onCdy (f : Cdy → Cdy) (s : State) : State := { s with cdy := f s.cdy }
def State.onSpt (f : Spt → Spt) (s : State) : State := { s with spt := f s.spt }
def State.onHbm (f : Hbm → Hbm) (s : State) : State := { s with hbm := f s.hbm }
def State.onMesh (f : Mesh → Mesh) (s : State) : State := { s with mesh := f s.mesh }
def State.onBist (f : Bist → Bist) (s : State) : State := { s with bist := f s.bist }
def State.onPower (f : Power → Power) (s : State) : State := { s with power := f s.power }

/-- Header of a page. -/
def State.hdr (s : State) (p : Page) : Hdr := s.hdrs.getD (pageIdx p) {}
def State.onHdr (p : Page) (f : Hdr → Hdr) (s : State) : State :=
  { s with hdrs := updAt s.hdrs (pageIdx p) f }

def State.core (s : State) (n : Nat) : Core := s.cores.getD n {}
def State.onCore (n : Nat) (f : Core → Core) (s : State) : State :=
  { s with cores := updAt s.cores n f }

def State.clu (s : State) (m : Nat) : Clu := s.clus.getD m {}
def State.onClu (m : Nat) (f : Clu → Clu) (s : State) : State := { s with clus := updAt s.clus m f }

def State.ctx (s : State) (c : Nat) : Ctx := s.sched.ctxs.getD c {}
def State.onCtx (c : Nat) (f : Ctx → Ctx) (s : State) : State :=
  s.onSched fun d => { d with ctxs := updAt d.ctxs c f }
def State.slot (s : State) (c k : Nat) : Slot := (s.ctx c).slots.getD k {}
def State.onSlot (c k : Nat) (f : Slot → Slot) (s : State) : State :=
  s.onCtx c fun x => { x with slots := updAt x.slots k f }

def State.bank (s : State) (b : Nat) : Bank := s.ktl.banks.getD b {}
def State.onBank (b : Nat) (f : Bank → Bank) (s : State) : State :=
  s.onKtl fun k => { k with banks := updAt k.banks b f }
def State.line (s : State) (n : Nat) : FsyncLine := s.ktl.fsync.getD n {}
def State.onLine (n : Nat) (f : FsyncLine → FsyncLine) (s : State) : State :=
  s.onKtl fun k => { k with fsync := updAt k.fsync n f }
def State.input (s : State) (n : Nat) : InFilter := s.ktl.inputs.getD n {}
def State.onInput (n : Nat) (f : InFilter → InFilter) (s : State) : State :=
  s.onKtl fun k => { k with inputs := updAt k.inputs n f }
def State.fifo (s : State) (n : Nat) : TsFifo := s.ktl.fifos.getD n {}
def State.onFifo (n : Nat) (f : TsFifo → TsFifo) (s : State) : State :=
  s.onKtl fun k => { k with fifos := updAt k.fifos n f }

def State.dma (s : State) (ch : Nat) : DmaCh := s.hif.dma.getD ch {}
def State.onDma (ch : Nat) (f : DmaCh → DmaCh) (s : State) : State :=
  s.onHif fun h => { h with dma := updAt h.dma ch f }
def State.doorbell (s : State) (d : Nat) : Doorbell := s.hif.doorbells.getD d {}
def State.vec (s : State) (v : Nat) : Vec := s.hif.msix.getD v {}
def State.onVec (v : Nat) (f : Vec → Vec) (s : State) : State :=
  s.onHif fun h => { h with msix := updAt h.msix v f }

def State.decCtx (s : State) (c : Nat) : DecCtx := s.dec.ctxs.getD c {}
def State.onDecCtx (c : Nat) (f : DecCtx → DecCtx) (s : State) : State :=
  s.onDec fun d => { d with ctxs := updAt d.ctxs c f }
def State.encCtx (s : State) (c : Nat) : EncCtx := s.enc.ctxs.getD c {}
def State.onEncCtx (c : Nat) (f : EncCtx → EncCtx) (s : State) : State :=
  s.onEnc fun d => { d with ctxs := updAt d.ctxs c f }
def State.cap (s : State) (c : Nat) : CapCh := s.csi.chs.getD c {}
def State.onCap (c : Nat) (f : CapCh → CapCh) (s : State) : State :=
  s.onCsi fun d => { d with chs := updAt d.chs c f }
def State.sclUnit (s : State) (u : Nat) : SclUnit := s.scl.units.getD u {}
def State.onSclUnit (u : Nat) (f : SclUnit → SclUnit) (s : State) : State :=
  s.onScl fun d => { d with units := updAt d.units u f }
def State.cdyPart (s : State) (p : Nat) : CdyPart := s.cdy.parts.getD p {}
def State.onCdyPart (p : Nat) (f : CdyPart → CdyPart) (s : State) : State :=
  s.onCdy fun d => { d with parts := updAt d.parts p f }
def State.cdyRing (s : State) (n : Nat) : CdyRing := s.cdy.rings.getD n {}
def State.onCdyRing (n : Nat) (f : CdyRing → CdyRing) (s : State) : State :=
  s.onCdy fun d => { d with rings := updAt d.rings n f }
def State.sptRing (s : State) (n : Nat) : SptRing := s.spt.rings.getD n {}
def State.onSptRing (n : Nat) (f : SptRing → SptRing) (s : State) : State :=
  s.onSpt fun d => { d with rings := updAt d.rings n f }

/-- Where a macro-instruction of a job stands. -/
def Job.act (j : Job) (mi : Nat) : Act :=
  if mi = j.mi then { mi := mi, tile := j.tile, progress := j.progress }
  else (j.ahead.find? (·.mi == mi)).getD { mi := mi }

/-- Put back where a macro-instruction stands. -/
def Job.putAct (a : Act) (j : Job) : Job :=
  if a.mi = j.mi then { j with tile := a.tile, progress := a.progress }
  else { j with ahead := a :: j.ahead.filter (·.mi != a.mi) }

/-- The oldest macro-instruction has ended: the next one is the oldest, and those that ended before it
end with it. -/
def Job.next : Nat → Job → Job
  | 0, j => j
  | fuel + 1, j =>
    match j.ahead.find? (·.mi == j.mi + 1) with
    | none => { j with mi := j.mi + 1, progress := 0, tile := 0, begun := false }
    | some a =>
      let k := { j with mi := a.mi, progress := a.progress, tile := a.tile, begun := true
                        ahead := j.ahead.filter (·.mi != a.mi) }
      if a.ended then k.next fuel else k

/-- The count as a number of ticks (R44). -/
def State.now (s : State) : Nat := s.ktl.count.toNat

/-- The beat of the present tick (02, The count). -/
def State.beat (s : State) : Nat := s.now / 1100

/-- Ticks since reset: what durations are measured by. -/
def State.up (s : State) : Nat := s.ktl.up

/-- The outcome type of a command. -/
abbrev Out := Host.Outcome State Fault Refusal

/-- Put bytes among what the device issues on the link. -/
def State.issue (t : Tlp) (s : State) : State := { s with link := s.link ++ [t] }

/-- The answer of a register read: one word. -/
def State.answer (w : W32) (s : State) : State := { s with resp := leBytes 4 w.toNat }

/-- Take the next free value: the value and the state after it. -/
def State.takeFree (s : State) : W64 × State :=
  (Config.freeValue s.free, { s with free := s.free + 1 })

end Sys2Proof.Machine
end

