-- ==== Sys2Proof/Machine/Flags.lean ====
section
/-! DEFINITION. Conditions, their classes, first-error capture, the chip fault log, interrupt bits and
interrupt vectors (R521 to R523, R568 to R579, R617 to R620). -/

namespace Sys2Proof.Machine

/-! ## Identity of a page (R603, R608) -/

/-- BLK_ID TYPE and INSTANCE. -/
def blkType : Page → Nat × Nat
  | .mgt => (1, 0) | .sec => (2, 0) | .ktl => (3, 0) | .hif => (4, 0) | .mesh => (5, 0)
  | .hbm => (6, 0)
  | .core n => (0x10, n.val)
  | .clu m => (0x11, m.val)
  | .dec => (0x20, 0) | .enc => (0x21, 0) | .str => (0x22, 0)
  | .scl s => (0x23, s.val)
  | .csi p => (0x24, p.val)
  | .cdy => (0x30, 0) | .spt => (0x31, 0) | .bist => (0x40, 0) | .fuse => (0x41, 0)

/-- BLK_ID of a page: revision 0x01, instance, type (R608). -/
def blkId (p : Page) : Nat := 1 + (blkType p).2 * 256 + (blkType p).1 * 65536

/-- BLK_CAPS of a page (R603). -/
def blkCaps : Page → Nat
  | .mgt | .ktl | .hif | .mesh | .hbm | .str | .spt => 0x08
  | .sec | .bist | .fuse => 0x00
  | .core _ => 0x1b
  | .clu _ => 0x0e
  | .dec => 0x1a
  | .enc => 0x1e
  | .scl _ => 0x0e
  | .csi _ => 0x0c
  | .cdy => 0x0a

/-- Interrupt source of a page (R521). -/
def irqSource : Page → Nat
  | .mgt => 0 | .sec => 1 | .ktl => 2 | .hif => 3 | .mesh => 4 | .hbm => 5
  | .bist | .fuse => 6
  | .core n => 8 + n.val
  | .clu m => 32 + m.val
  | .dec => 40 | .enc => 41 | .str => 42
  | .scl _ => 43
  | .csi _ => 44
  | .cdy => 45 | .spt => 46

/-- Pages that share a source (R521). -/
def sourcePages : Page → List Page
  | .bist | .fuse => [.bist, .fuse]
  | .scl _ => [.scl 0, .scl 1, .scl 2, .scl 3]
  | .csi _ => [.csi 0, .csi 1, .csi 2, .csi 3, .csi 4, .csi 5, .csi 6, .csi 7]
  | p => [p]

/-! ## MSI-X requests (R521 to R523) -/

/-- Messages of a vector go out now: not masked, MSI-X enabled, Bus Master Enable set. -/
def vecOpen (s : State) (v : Nat) : Bool :=
  s.hif.bme && s.hif.msixEnable && !s.hif.msixFnMask && !(s.vec v).masked

/-- Request a vector: queued for MSIX_SEND, or pending while masked or without Bus Master Enable
(R523). -/
def reqVector (v : Nat) (s : State) : State :=
  if vecOpen s v then s.onHif fun h => { h with msixReq := h.msixReq ++ [v] }
  else s.onVec v fun x => { x with pending := true }

/-- Request the vector of a source through HIF_IRQ_MAP (R521). -/
def reqSource (src : Nat) (s : State) : State :=
  let m := s.hif.irqMap.getD src 0
  if rbit m 31 then reqVector (rfld m 7 0) s else s

/-- Level of a page's source (R522). -/
def srcLevel (s : State) (p : Page) : Bool :=
  (sourcePages p).any fun q => ((s.hdr q).intStatus &&& (s.hdr q).intEnable) != 0

/-- Change the header of a page; a rising level of its source requests the vector (R522). -/
def onIrq (p : Page) (f : Hdr → Hdr) (s : State) : State :=
  let t := s.onHdr p f
  if srcLevel t p && !srcLevel s p then reqSource (irqSource p) t else t

/-- Set an INT_STATUS bit (R620). -/
def setInt (p : Page) (i : Nat) (s : State) : State :=
  onIrq p (fun h => { h with intStatus := h.intStatus ||| BitVec.ofNat 32 (2 ^ i) }) s

/-! ## Classes (R568 to R571, R617) -/

/-- Bits that R617 lists for a page. -/
def condBits : Page → List Nat
  | .mgt => [0, 2, 3, 4, 8, 9, 10]
  | .sec => [0, 2, 3, 4]
  | .ktl => [0, 2, 3, 4, 8]
  | .hif => [0, 1, 2, 3, 4, 8, 9, 10, 11, 12, 13]
  | .mesh => [0, 2, 3, 4, 8, 9]
  | .hbm => [0, 2, 3, 4, 8, 9, 10]
  | .core _ => [0, 2, 3, 4, 8]
  | .clu _ => [0, 1, 2, 3, 4]
  | .dec => [0, 1, 2, 3, 4, 8, 9]
  | .enc => [0, 2, 3, 4, 9]
  | .cdy => [0, 1, 2, 3, 4]
  | .bist | .fuse => [0, 2, 3]
  | _ => [0, 2, 3, 4]

/-- Correctable conditions: MEM_CORR, FLIT_CORR, DATA_CORR (R617). -/
def isCorr (p : Page) (b : Nat) : Bool :=
  b == 2 || (b == 9 && (p == .mesh || p == .hbm))

/-- Conditions whose default class is fatal (R570, R618). -/
def isFatalDefault (p : Page) (b : Nat) : Bool := rbit (severityReset (pageIdx p)) b

/-- Class of a condition: 0 correctable, 1 non-fatal, 2 fatal (R569, R574). -/
def condClass (s : State) (p : Page) (b : Nat) : Nat :=
  if isCorr p b then 0 else if rbit (s.hdr p).errSeverity b then 2 else 1

/-! ## The chip fault log (R575 to R579) -/

/-- Put an entry into a log of 16 (R577): the log and the number of entries dropped or removed. -/
def logInto (log : List FaultEntry) (e : FaultEntry) : List FaultEntry × Nat :=
  if log.length < 16 then (log ++ [e], 0)
  else if e.cls = 2 then
    match log.findIdx? (·.cls != 2) with
    | some i => (log.eraseIdx i ++ [e], 1)
    | none => (log, 1)
  else (log, 1)

/-- Append an entry to the chip fault log: FAULT when it is clear (R579), the internal-error
statuses of AER (R531). -/
def logFault (p : Page) (b cls : Nat) (detail : W32) (s : State) : State :=
  let e : FaultEntry := { tick := s.now, blk := blkId p, bit := b, cls := cls, detail := rfld detail 15 0 }
  let s := s.onMgt fun m =>
    let r := logInto m.faultLog e
    { m with faultLog := r.1, faultOver := satAdd 65535 m.faultOver r.2 }
  let s := s.onHif fun h =>
    if cls = 0 then { h with aerCorr := h.aerCorr ||| 2 ^ 14 }
    else if cls = 2 then { h with aerUncorr := h.aerUncorr ||| 2 ^ 22 } else h
  setInt .mgt 8 s

/-- A fatal occurrence makes an entry to the safe state due (R580, R582). -/
def fatalDue (p : Page) (s : State) : State :=
  s.onMgt fun m =>
    { m with
      safeDue := if m.safe then m.safeDue else m.safeDue.or (some (s.up, 1))
      safeMute := m.safeMute || p == .spt || p == .mesh || p == .hif }

/-! ## Capture (R571 to R574) -/

/-- What a header becomes when an unmasked condition occurs (R572, R573). -/
def capture (now : Nat) (b cls : Nat) (l0 l1 l2 l3 : W32) (h : Hdr) : Hdr :=
  let put (m : Bool) (c : Option Nat) (h : Hdr) : Hdr :=
    { h with firstValid := true, firstBit := b, firstClass := cls, firstMultiple := m,
             log0 := l0, log1 := l1, log2 := l2, log3 := l3, capAt := c }
  if !h.firstValid then put false (some now) h
  else if cls > h.firstClass then put true h.capAt h
  else if (match h.capAt with | some t => t / 2 == now / 2 | none => false)
      && b < h.firstBit && h.firstClass ≤ cls then put true h.capAt h
  else { h with firstMultiple := true }

/-- Status bit and counter of an occurrence, masked or not (R571, R574). -/
def countCond (b cls : Nat) (h : Hdr) : Hdr :=
  { h with
    errStatus := h.errStatus ||| BitVec.ofNat 32 (2 ^ b)
    cntCorr := if cls = 0 then satInc 0xffffffff h.cntCorr else h.cntCorr
    cntUncorr := if cls = 0 then h.cntUncorr else satInc 0xffffffff h.cntUncorr }

/-- A condition occurs in a page, with the four error-log words (R571 to R580). -/
def raiseLog (p : Page) (b : Nat) (l0 l1 l2 l3 : W32) (s : State) : State :=
  let cls := condClass s p b
  let h := s.hdr p
  if cls ≠ 2 && rbit h.errMask b then s.onHdr p (countCond b cls)
  else
    let captured := !h.firstValid
    let s := s.onHdr p fun h => capture s.now b cls l0 l1 l2 l3 (countCond b cls h)
    let s := if captured then setInt p 0 s else s
    let s := if cls ≠ 0 || captured then logFault p b cls l0 s else s
    if cls = 2 then fatalDue p s else s

/-- Detail of a condition in ERR_LOG0: a value a rule gives, or one the manual leaves open. -/
def detailOf (d : Option W32) (s : State) : W32 × State :=
  match d with
  | some w => (w, s)
  | none => (s.takeFree.1.setWidth 32, s.takeFree.2)

/-- A condition that names no device address: ERR_LOG0 holds its detail, ERR_LOG3 the unit (R619). -/
def raise (p : Page) (b : Nat) (d : Option W32) (unit : Nat) (s : State) : State :=
  let r := detailOf d s
  raiseLog p b r.1 0 (BitVec.ofNat 32 s.now) (BitVec.ofNat 32 unit) r.2

/-- A condition of a device address (R619). -/
def raiseAddr (p : Page) (b : Nat) (addr resp stop agent unit : Nat) (s : State) : State :=
  raiseLog p b (BitVec.ofNat 32 addr)
    (BitVec.ofNat 32 (addr / 2 ^ 32 % 65536 + resp * 65536 + stop * 2 ^ 19 + agent * 2 ^ 24))
    (BitVec.ofNat 32 s.now) (BitVec.ofNat 32 unit) s

/-- A HIF condition that arrives as a TLP logs the TLP header, whose words no rule gives (R530). -/
def raiseTlp (b : Nat) (s : State) : State :=
  let w (i : Nat) : W32 := (Config.freeValue (s.free + i)).setWidth 32
  raiseLog .hif b (w 0) (w 1) (w 2) (w 3) { s with free := s.free + 4 }

/-- The invalid-programming bit of a page (R13); its detail is left open. -/
def invalidProg (p : Page) (s : State) : State := raise p 0 none 0 s

/-! ## Writes to the error registers (R569, R571, R574) -/

/-- Bits of ERR_SEVERITY a write may change: promotion and demotion of non-fatal defaults; the bit of
a fatal default stays 1 (R569). -/
def severityMask (p : Page) : W32 :=
  (condBits p).foldl (fun w b =>
    if isCorr p b || isFatalDefault p b then w else w ||| BitVec.ofNat 32 (2 ^ b)) 0

/-- Bits of ERR_MASK a write may change: those of conditions that are not fatal (R571). -/
def maskMask (s : State) (p : Page) : W32 :=
  (condBits p).foldl (fun w b =>
    if condClass s p b = 2 then w else w ||| BitVec.ofNat 32 (2 ^ b)) 0

/-- INT_STATUS bits that R620 lists for a page. -/
def intBits : Page → W32
  | .mgt => 0x00007f01#32
  | .sec => 0x00000101#32
  | .ktl => 0x00ffff01#32
  | .hif => 0x00000301#32
  | .mesh => 0x00000301#32
  | .hbm => 0x00000101#32
  | .core _ => 0x00000701#32
  | .spt => 0x00000101#32
  | .bist => 0x00000101#32
  | _ => 0x00000001#32

end Sys2Proof.Machine
end

