-- ==== Sys2Proof/Machine/Ops.lean ====
section
/-! DEFINITION. Memory: the canonical list, the device address map, responses, reads and writes with
their errors, indivisible operations, and the hand-off of records (R32 to R36, R191, R192, R409,
R461 to R466, R469, R470, R494, R496). -/

namespace Sys2Proof.Machine

/-! ## The canonical list of bytes (log entry 3) -/

/-- Addresses rise strictly from `lo`, and no entry holds 0, what an unlisted address reads as. -/
def Memory.wfFrom : Nat → List Host.Cell → Bool
  | _, [] => true
  | lo, (a, v) :: r => lo ≤ a && v != 0 && Memory.wfFrom (a + 1) r

/-- The canonical form. -/
def Memory.wf (m : List Host.Cell) : Bool := Memory.wfFrom 0 m

/-- The byte at an address; an unlisted one reads 0. -/
def memGet : List Host.Cell → Nat → Byte
  | [], _ => 0
  | (x, v) :: r, a => if x = a then v else memGet r a

/-- Write the byte at an address. -/
def memPut : List Host.Cell → Nat → Byte → List Host.Cell
  | [], a, b => if b = 0 then [] else [(a, b)]
  | (x, v) :: r, a, b =>
    if a < x then (if b = 0 then (x, v) :: r else (a, b) :: (x, v) :: r)
    else if a = x then (if b = 0 then r else (a, b) :: r)
    else (x, v) :: memPut r a b

/-- Write a list of bytes at their addresses, in order. -/
def memPutAll (m : List Host.Cell) (cs : List Host.Cell) : List Host.Cell :=
  cs.foldl (fun m c => memPut m c.1 c.2) m

/-- Remove every byte of a set of addresses, which then read 0: banks not retained (log entry 12). -/
def memDrop (p : Nat → Bool) (m : List Host.Cell) : List Host.Cell := m.filter fun c => !p c.1

/-- Every listed byte of a set of addresses takes a free value, numbered from `k` on: data that the
part no longer keeps and that the manual leaves undefined (R476). -/
def memBlur (p : Nat → Bool) (k : Nat) (m : List Host.Cell) : List Host.Cell :=
  memPutAll m ((m.filter fun c => p c.1).mapIdx fun i c => (c.1, (Config.freeValue (k + i)).setWidth 8))

/-! ## The device address map (R32, R33) -/

inductive Region where
  | hbm | cluster (m : Nat) | core (n off : Nat) | caddy | hole
deriving DecidableEq, Repr

def hbmEnd : Nat := 0x000c00000000
def clusterBase : Nat := 0x800000000000
def coreBase : Nat := 0x800100000000
def caddyBase : Nat := 0x800200000000

/-- Offsets of a per-core window that hold memory (R33). -/
def coreOffOk (off : Nat) : Bool :=
  off < 0x100000 || (0x200000 ≤ off && off < 0x4a0000) || (0x600000 ≤ off && off < 0x640000)

/-- What a device address names (R32). -/
def regionOf (a : Nat) : Region :=
  if a < hbmEnd then .hbm
  else if a < clusterBase then .hole
  else if a < clusterBase + 7 * 0x800000 then .cluster ((a - clusterBase) / 0x800000)
  else if a < coreBase then .hole
  else if a < coreBase + 24 * 0x1000000 then
    if coreOffOk ((a - coreBase) % 0x1000000) then
      .core ((a - coreBase) / 0x1000000) ((a - coreBase) % 0x1000000)
    else .hole
  else if a < caddyBase then .hole
  else if a < caddyBase + 0x1000000 then .caddy
  else .hole

/-- Physical core of a logical core (R34). -/
def physCore (s : State) (n : Nat) : Nat := (s.mgt.coreMap.getD n {}).phys

/-- Key of the byte at offset `off` of the window of logical core `n`: its physical core's memory. -/
def coreKey (s : State) (n off : Nat) : Nat := coreBase + physCore s n * 0x1000000 + off

/-- Place in the stack of an HBM address under a map, written as map 0 writes it (R461). -/
def hbmPlace (map a : Nat) : Nat :=
  let put (row bank col pc : Nat) : Nat :=
    fld a 35 34 * 2 ^ 34 + row * 2 ^ 19 + bank * 2 ^ 15 + col * 2 ^ 11 + pc * 64 + a % 64
  match map with
  | 1 => put (fld a 33 19) (fld a 9 6) (fld a 18 15) (fld a 14 10)
  | 2 => put (fld a 29 15) (fld a 33 30) (fld a 14 11) (fld a 10 6)
  | _ => a

/-- Key in `State.mem` of a device address: the physical core's memory (R34), the place in the stack
(R461). Bytes of one line have consecutive keys. -/
def physKey (s : State) (a : Nat) : Nat :=
  match regionOf a with
  | .core n off => coreKey s n off
  | .hbm => hbmPlace s.hbm.map a
  | _ => a

/-- Window offset 0 of logical core n as a device address. -/
def coreWin (n : Nat) : Nat := coreBase + n * 0x1000000

/-! ## Fences, partitions, responses (R35, R36, R490, R494 to R496) -/

/-- Partition that MESH_PARTp gives a logical core (R490); 8 when none does. -/
def partOfCore (s : State) (n : Nat) : Nat :=
  ((List.range 8).find? fun p => rbit (s.mesh.part.getD p 0) n).getD 8

/-- Partition of a cluster (R490). -/
def partOfClu (s : State) (m : Nat) : Nat :=
  ((List.range 8).find? fun p => rbit (s.mesh.part.getD p 0) (24 + m)).getD 8

/-- A logical core is FENCED: the management fence or the driver fence in force (R35, R612). -/
def coreFenced (s : State) (n : Nat) : Bool := (s.core n).mgmtFence || (s.core n).drvFence

/-- A logical core is ABSENT (R562). -/
def coreAbsent (s : State) (n : Nat) : Bool := (s.mgt.coreMap.getD n {}).state == .absent

/-- The HBM controller refuses requests: from ENTER until IN_SR clears (R475, R477). -/
def hbmRefuses (s : State) : Bool := s.hbm.inSr || s.hbm.entering.isSome || s.hbm.exiting.isSome

def srcIsCore : Src → Nat → Bool
  | .core k, n => k.val == n
  | _, _ => false

/-- Response to a request of an agent for the byte at an address (R496). -/
def respOf (s : State) (src : Src) (a : Nat) : Resp :=
  match regionOf a with
  | .hole => .addrUnmapped
  | .hbm => if hbmRefuses s then .hbmSelfRefresh else .ok
  | .caddy => if src = .caddy ∨ src = .bar2 then .ok else .addrUnmapped
  | .cluster m => if s.mesh.rstBusy && partOfClu s m == s.mesh.rstPart then .targetInReset else .ok
  | .core n _ =>
    if coreAbsent s n then .addrUnmapped
    else if coreFenced s n && !srcIsCore src n then .targetFenced
    else if s.mesh.rstBusy && partOfCore s n == s.mesh.rstPart then .targetInReset
    else .ok

/-- Addresses that a range of `n` bytes from `a` touches, one for each 64-byte line. -/
def lineStarts (a n : Nat) : List Nat :=
  if n = 0 then []
  else a :: ((List.range ((a + n - 1) / 64 - a / 64)).map fun i => (a / 64 + 1 + i) * 64)

/-- Response to a request for a range: the first that is not OK. -/
def respRange (s : State) (src : Src) (a n : Nat) : Resp :=
  (((lineStarts a n).map (respOf s src)).find? (· != .ok)).getD .ok

/-- Response codes (R496). -/
def respCode : Resp → Nat
  | .ok => 0 | .addrUnmapped => 1 | .targetFenced => 2 | .targetInReset => 3 | .hbmBusy => 4
  | .hbmSelfRefresh => 5 | .poison => 6

/-! ## Requesters (R463, R478, R483, R619) -/

/-- Page in which a requester logs a response (R496). -/
def srcPage : Src → Page
  | .core n => .core n
  | .decoder _ => .dec
  | .encoder _ => .enc
  | .strainer => .str
  | .scaler s => .scl s
  | .saucer m => .clu m
  | .caddy => .cdy
  | .spout => .spt
  | .hdma _ | .bar2 | .sched => .hif
  | .mgmt => .mgt
  | .csi => .csi 0

/-- Mesh stop of a cluster (R478). -/
def clusterStop (m : Nat) : Nat := [8, 9, 14, 15, 16, 17, 22].getD m 0

/-- Cluster of a logical core: four physical cores to a cluster (R24, R34). -/
def clusterOf (s : State) (n : Nat) : Nat := physCore s n / 4

/-- Agent number of a logical core at its stop: its rank among those placed there (R483). -/
def coreAgent (s : State) (n : Nat) : Nat :=
  ((List.range n).filter fun k => !coreAbsent s k && clusterOf s k == clusterOf s n).length

/-- Mesh stop and agent number of a requester (R478, R483). -/
def srcStop (s : State) : Src → Nat × Nat
  | .core n => (clusterStop (clusterOf s n), coreAgent s n)
  | .decoder n => (11, n.val)
  | .encoder n => (11, 8 + n.val)
  | .strainer => (11, 12)
  | .scaler k => ([10, 13, 18, 21].getD k.val 0, 0)
  | .saucer m => (clusterStop m.val, 4)
  | .caddy => (19, 0)
  | .spout => (20, 0)
  | .hdma ch => (12, ch.val)
  | .bar2 => (12, 8)
  | .mgmt | .sched => (12, 9)
  | .csi => (23, 0)

/-- Logical unit number of a requester, and its physical number from bit 8, for ERR_LOG3 (R619). -/
def srcUnit (s : State) : Src → Nat
  | .core n => n.val + 256 * (s.mgt.coreMap.getD n.val {}).phys
  | .decoder n => n.val + 256 * (s.mgt.decMap.getD n.val {}).phys
  | .encoder n => n.val + 256 * (s.mgt.encMap.getD n.val {}).phys
  | .scaler n => n.val
  | .saucer m => m.val
  | .hdma ch => ch.val
  | _ => 0

/-- Log a response other than OK in the requester's page, but for POISON, which the detecting block
logs (R496); a BAR2 access is BAR2_RESPONSE (R530), and a host DMA channel logs its halt instead. -/
def logResp (src : Src) (r : Resp) (a : Nat) (s : State) : State :=
  let st := srcStop s src
  match r, src with
  | .ok, _ => s
  | _, .bar2 => raiseTlp 11 s
  | .poison, _ => s
  | _, .hdma _ => s
  | r, _ => raiseAddr (srcPage src) 4 a (respCode r) st.1 st.2 (srcUnit s src) s

/-! ## Uncorrectable words (R470, R192) -/

/-- The condition of the block that owns a memory. -/
def memPage (a : Nat) : Page × Nat :=
  match regionOf a with
  | .hbm | .hole => (.hbm, 8)
  | .cluster m => (.clu (Fin.ofNat 7 m), 3)
  | .core n _ => (.core (Fin.ofNat 24 n), 3)
  | .caddy => (.cdy, 3)

/-- An uncorrectable error that another agent than the core meets in a core's memories: the core fails at
its next row boundary (R112). -/
def markCore (src : Src) (a : Nat) (s : State) : State :=
  match regionOf a with
  | .core n _ => if srcIsCore src n then s else s.onCore n fun x => { x with memFail := true }
  | _ => s

/-- Log an uncorrectable error at a device address in the detecting block (R470). -/
def logUncorr (src : Src) (a : Nat) (s : State) : State :=
  let p := memPage a
  let s := markCore src a s
  let st := srcStop s src
  raiseAddr p.1 p.2 a 6 st.1 st.2 0 s

/-- Log a corrected error: DATA_CORR in HBM, MEM_CORR elsewhere (R469). -/
def logCorr (src : Src) (a : Nat) (s : State) : State :=
  let p := memPage a
  let st := srcStop s src
  raiseAddr p.1 (if p.1 = .hbm then 9 else 2) a 0 st.1 st.2 0 s

/-- A word that holds an uncorrectable error lies in a range of device addresses. -/
def badAt (s : State) (a n : Nat) : Bool :=
  s.badWords != [] && (lineStarts a n).any fun l =>
    let k := physKey s l
    let e := k + (min (l / 64 * 64 + 64) (a + n) - l)
    s.badWords.any fun w => k < w + 8 && w < e

/-- Mark the word at a device address as holding an uncorrectable error. -/
def spoil (a : Nat) (s : State) : State :=
  { s with badWords := insNat (physKey s a / 8 * 8) s.badWords }

/-- Lock the HBM map at the first access of any agent but the management controller (R462). -/
def touch (src : Src) (a : Nat) (s : State) : State :=
  if regionOf a = .hbm ∧ src ≠ .mgmt then s.onHbm fun h => { h with lock := true } else s

/-! ## Reads -/

/-- `n` bytes from a device address. -/
def peek (s : State) (a n : Nat) : List Byte :=
  (List.range n).map fun i => memGet s.mem (physKey s (a + i))

/-- `n` bytes from a device address as a little-endian number. -/
def peekNat (s : State) (a n : Nat) : Nat := leNat (peek s a n)

/-- A read by an agent: the response, the bytes, and the state after logging (R470, R496). -/
def readMem (src : Src) (a n : Nat) (s : State) : Resp × List Byte × State :=
  match respRange s src a n with
  | .ok =>
    let s := touch src a s
    if badAt s a n then (.poison, peek s a n, logResp src .poison a (logUncorr src a s))
    else (.ok, peek s a n, s)
  | r => (r, [], logResp src r a s)

/-! ## Writes -/

/-- Words that hold an uncorrectable error and that a set of written keys covers in part: not every byte of
the word is among the keys, or one is among `part`, the bytes of which only some bits are written. -/
def partialBad (s : State) (ks part : List Nat) : List Nat :=
  s.badWords.filter fun w =>
    ks.any (fun k => k / 8 * 8 == w) &&
    !((List.range 8).all fun i => ks.contains (w + i) && !part.contains (w + i))

/-- Write bytes at keys, those of `part` under a bit mask. A word covered in part whose read finds an
uncorrectable error stays as it is, with its check bits (R192, R465); a full write replaces it
(R470). -/
def putKeys (part : List Nat) (cs : List Host.Cell) (s : State) : State :=
  let bad := partialBad s (cs.map (·.1)) part
  { s with
    mem := memPutAll s.mem (cs.filter fun c => !bad.contains (c.1 / 8 * 8))
    badWords := s.badWords.filter fun w => bad.contains w || !(cs.any fun c => c.1 / 8 * 8 == w) }

/-- Bytes of consecutive device addresses with their keys. -/
def keyed (s : State) (a : Nat) (bs : List Byte) : List Host.Cell :=
  bs.mapIdx fun i b => (physKey s (a + i), b)

/-- Address of the doorbell word of a Saucer (R265). -/
def sauDbAddr (s : State) (m : Nat) : Nat :=
  clusterBase + m * 0x800000 + rfld (s.clu m).dbCfg 19 0 * 8

/-- A device address held in a _LO and _HI pair with alignment 2^a (R605). -/
def pairAddr (lo hi : W32) (a : Nat) : Nat := lo.toNat / 2 ^ a * 2 ^ a + rfld hi 15 0 * 2 ^ 32

/-- Address of the doorbell word of a Caddy ring (R380). -/
def cdyDbAddr (s : State) (n : Nat) : Nat :=
  let r := s.cdyRing n
  pairAddr r.dbLo r.dbHi 3

/-- A write completes that touches the doorbell words for which `hit` holds: each delivers its bits
[15:0] (R259, R380, R382). Rings that are not enabled ignore it. -/
def ringDoorbells (hit : Nat → Bool) (fb : Bool) (s : State) : State :=
  let s := (List.range 7).foldl (fun s m =>
    if rbit (s.clu m).ringCfg 31 && hit (sauDbAddr s m) then
      s.onClu m fun c => { c with dbPend := c.dbPend ++ [peekNat s (sauDbAddr s m) 2] }
    else s) s
  (List.range 8).foldl (fun s r =>
    if rbit (s.cdyRing r).cfg 31 && hit (cdyDbAddr s r) then
      s.onCdyRing r fun c => { c with dbPend := c.dbPend ++ [(peekNat s (cdyDbAddr s r) 2, fb)] }
    else s) s

/-- The word at `w` shares a byte with a range. -/
def inRange (a n w : Nat) : Bool := a < w + 8 && w < a + n

/-- Write bytes from a device address, whatever the response would be. -/
def poke (a : Nat) (bs : List Byte) (s : State) : State := putKeys [] (keyed s a bs) s

/-- Log the error of each word at the device addresses `ws` whose key is in `bad` (R192, R470). -/
def logWords (src : Src) (bad ws : List Nat) (s : State) : State :=
  (ws.filter fun w => bad.contains (physKey s w / 8 * 8)).foldl (fun s w => logUncorr src w s) s

/-- Words that a range of device addresses touches. -/
def wordsIn (a n : Nat) : List Nat := (List.range ((a + n + 7) / 8 - a / 8)).map fun i => (a / 8 + i) * 8

/-- A write by an agent: the response and the state (R35, R36, R192, R494, R496). The bytes of a
word that holds an uncorrectable error and is written in part are not written; the answer is
POISON. -/
def writeMem (src : Src) (a : Nat) (bs : List Byte) (fb : Bool) (s : State) : Resp × State :=
  match respRange s src a bs.length with
  | .ok =>
    let s := touch src a s
    let bad := partialBad s ((keyed s a bs).map (·.1)) []
    let t := ringDoorbells (inRange a bs.length) fb (poke a bs s)
    if bad = [] then (.ok, t)
    else (.poison, logResp src .poison a (logWords src bad (wordsIn a bs.length) t))
  | r => (r, logResp src r a s)

/-- A write of single bytes at device addresses; those of `part` are written under a bit mask (R191). -/
structure Cells where
  cells : List Host.Cell
  part  : List Nat := []
deriving DecidableEq, Repr

/-- An enabled partition holds the track-table entry of a device address (R378). -/
def inPart (s : State) (a : Nat) : Bool :=
  caddyBase ≤ a && s.cdy.parts.any fun p =>
    p.enabled && p.desc.base ≤ (a - caddyBase) / 128 &&
    (a - caddyBase) / 128 < p.desc.base + p.desc.count

/-- A write of BAR2 to an entry of an enabled partition is discarded and is an invalid programming
(R378). -/
def keptOf (src : Src) (w : Cells) (s : State) : List Host.Cell :=
  if src = .bar2 then w.cells.filter fun c => !inPart s c.1 else w.cells
def partFault (src : Src) (as : List Nat) (s : State) : State :=
  if src = .bar2 ∧ as.any (inPart s) = true then invalidProg .cdy s else s

/-- The owning memory serves a write of single bytes at device addresses, all of one request (R191,
R192): OK, or POISON with the errors logged where words written in part cannot be read. -/
def serveCells (src : Src) (w : Cells) (s : State) : Resp × State :=
  let cs := keptOf src w s
  let s := partFault src (w.cells.map (·.1)) s
  let s := match cs with | c :: _ => touch src c.1 s | [] => s
  let ks := cs.map fun c => (physKey s c.1, c.2)
  let part := w.part.map (physKey s)
  let bad := partialBad s (ks.map (·.1)) part
  let t := ringDoorbells (fun w => cs.any fun c => w ≤ c.1 && c.1 < w + 8) false (putKeys part ks s)
  if bad = [] then (.ok, t)
  else (.poison, logWords src bad ((cs.map fun c => c.1 / 8 * 8).eraseDups) t)

/-- A write of single bytes by an agent, which logs a response other than OK. -/
def writeCells (src : Src) (w : Cells) (s : State) : Resp × State :=
  match w.cells.find? fun c => respOf s src c.1 != .ok with
  | some c => (respOf s src c.1, logResp src (respOf s src c.1) c.1 s)
  | none =>
    let r := serveCells src w s
    (r.1, logResp src r.1 (w.cells.headD (0, 0)).1 r.2)

/-- A write whose response its requester does not act on further. -/
def store (src : Src) (a : Nat) (bs : List Byte) (s : State) : State := (writeMem src a bs false s).2

/-- Write `n` little-endian bytes of a number. -/
def storeNat (src : Src) (a n v : Nat) (s : State) : State := store src a (leBytes n v) s

/-! ## Indivisible operations (R465) -/

/-- The owning memory runs a 64-bit operation on the word at an address aligned to 8: an
uncorrectable read leaves the word unchanged and answers POISON (R465). -/
def serve64 (src : Src) (w : Nat) (fb : Bool) (f : Nat → Nat) (s : State) : Resp × State :=
  let s := touch src w s
  if src = .bar2 ∧ inPart s w = true then (.ok, invalidProg .cdy s)
  else if badAt s w 8 then (.poison, logUncorr src w s)
  else (.ok, ringDoorbells (inRange w 8) fb (poke w (leBytes 8 (f (peekNat s w 8))) s))

/-- A 64-bit operation by an agent, which logs a response other than OK. -/
def modify64 (src : Src) (a : Nat) (fb : Bool) (f : Nat → Nat) (s : State) : Resp × State :=
  let w := a / 8 * 8
  match respRange s src w 8 with
  | .ok =>
    let r := serve64 src w fb f s
    (r.1, logResp src r.1 w r.2)
  | r => (r, logResp src r w s)

/-- 64-bit add modulo 2^64. -/
def add64 (v old : Nat) : Nat := (old + v) % 2 ^ 64
/-- 64-bit bit-set. -/
def set64 (v old : Nat) : Nat := old ||| v
/-- 64-bit bit-clear. -/
def clear64 (v old : Nat) : Nat := old &&& (v ^^^ (2 ^ 64 - 1))

/-- An accounting add at HIF_ACCT_BASE (R440, R441): discarded while EN is 0, lost on an
uncorrectable read. `off` counts bytes from the base. -/
def account (src : Src) (off v : Nat) (s : State) : State :=
  if rbit s.hif.acctLo 0 then
    (modify64 src (pairAddr s.hif.acctLo s.hif.acctHi 6 + off) false (add64 v) s).2
  else s

/-- Increment a saturating 32-bit counter in memory; lost on an uncorrectable read (R465). -/
def bump32 (src : Src) (a : Nat) (s : State) : State :=
  if respRange s src a 4 != .ok then (logResp src (respRange s src a 4) a s)
  else
    let s := touch src a s
    if badAt s a 4 then logUncorr src a s
    else poke a (leBytes 4 (satInc 0xffffffff (peekNat s a 4))) s

/-! ## HBM queues and windows (R461, R466, R473) -/

/-- Pseudo-channel of an HBM address under the map in force (R461). -/
def pcOf (map a : Nat) : Nat := if map = 1 then fld a 14 10 else fld a 10 6

/-- SID and bank of a place in the stack (R461). -/
def bankOf (k : Nat) : Nat × Nat := (fld k 35 34, fld k 18 15)

/-- Tick until which requests to a pseudo-channel wait: the refresh window commanded for this beat
(R55, R466) or the pseudo-channel's retraining window (R473). -/
def pcWait (s : State) (pc : Nat) : Option Nat :=
  let r := if s.ktl.refreshed = some s.beat ∧ s.now % 1100 < 484 then some (s.up + 484 - s.now % 1100)
    else none
  match s.hbm.window with
  | some (p, e) => if p = pc ∧ s.up < e then some (max e (r.getD 0)) else r
  | none => r

/-- A request of `lines` lines reaches a pseudo-channel's queue of 128 lines: none when it is full
(R460, R466, R473). -/
def enqueue (pc lines : Nat) (s : State) : Option State :=
  match pcWait s pc with
  | none => some s
  | some e =>
    let q := s.hbm.queue.getD pc (0, 0)
    let held := if s.up < q.1 then q.2 else 0
    if held + lines ≤ 128 then
      some (s.onHbm fun h => { h with queue := updAt h.queue pc fun _ => (e, held + lines) })
    else none

/-- Admission of a request of up to 64 lines to the HBM queues, line by line. -/
def toQueues (a lines : Nat) (s : State) : Option State :=
  (List.range lines).foldl (fun o i => o.bind fun s =>
    let x := a / 64 * 64 + 64 * i
    if regionOf x = .hbm then enqueue (pcOf s.hbm.map x) 1 s else some s) (some s)

/-! ## Records (R395, R409) -/

/-- A record of a ring is dropped: counted, and RING_DROP at most once a beat (R410, R412). -/
def dropRec (n : Nat) (s : State) : State :=
  let first := (s.sptRing n).dropBeat != some s.beat
  let s := s.onSptRing n fun r => { r with dropped := satInc 65535 r.dropped, dropBeat := some s.beat }
  let s := s.onSpt fun p => { p with dropPend := p.dropPend ||| BitVec.ofNat 64 (2 ^ n) }
  if first then setInt .spt 8 s else s

/-- Hand a record to the Spout, in the producer order of one tick (R409); a ring that is not enabled
discards it (R412). -/
def handOff (who ring : Nat) (cpl : Bool) (bytes : List Byte) (s : State) : State :=
  let r : Rec := { who := who, ring := ring, cpl := cpl, bytes := bytes, tick := s.now }
  if !rbit (s.sptRing ring).cfg 31 then dropRec ring s
  else s.onSpt fun p =>
    let early := p.arriving.filter fun q => q.tick != r.tick || q.who ≤ who
    let late := p.arriving.filter fun q => q.tick == r.tick && q.who > who
    { p with arriving := early ++ r :: late }

def whoCaddy : Nat := 0
def whoCore (n : Nat) : Nat := 1 + n
def whoDec : Nat := 32
def whoEnc : Nat := 33
def whoScl (n : Nat) : Nat := 34 + n

/-- Common record header (R395). -/
def recHead (seq type linesM1 stream ctx : Nat) (concealed fallback last : Bool) (now : Nat) :
    List Byte :=
  leBytes 4 seq ++ leBytes 4 (1 * 16 + type * 256 + linesM1 * 65536) ++
  leBytes 4 (stream % 65536 + ctx % 256 * 65536 + (if concealed then 2 ^ 24 else 0) +
    (if fallback then 2 ^ 25 else 0) + (if last then 2 ^ 26 else 0)) ++ leBytes 4 now

/-- A list of bytes padded with 0, or cut, to `n` bytes. -/
def padTo (n : Nat) (bs : List Byte) : List Byte := (bs ++ List.replicate (n - bs.length) 0).take n

def b2n (b : Bool) : Nat := if b then 1 else 0

/-! ## Access of the host and of the ports -/

/-- The device answers memory requests on the link: brought up, link active, Memory Space Enable set,
no reset in progress (R504, R524, R525, R532; log entry 10). -/
def barOpen (s : State) : Bool :=
  s.power.booted && !s.power.perst && s.hif.linkUp && s.hif.mse && s.power.reset.isNone

/-- The SMBus port serves the management pages: powered, out of fundamental reset (R652). -/
def smbOpen (s : State) : Bool := !s.power.perst && s.power.railsOk

/-- Host writes reach the device: its memory space is open and the link was not lost (R533). -/
def barWr (s : State) : Bool := barOpen s && !s.hif.linkLost

/-- A host write that arrives does `f`. -/
def hostWrite (f : State → State) (s : State) : State := if barWr s then f s else s

/-- A BAR read that the device does not claim: Unsupported Request while the link is up (R504, R525). -/
def unclaimed (s : State) : State :=
  if s.hif.linkUp && !s.power.perst then { s.issue (.cpl .ur []) with resp := [] } else s

/-- A host register read that arrives does `f`. -/
def hostRead (f : State → State) (s : State) : State := if barOpen s then f s else unclaimed s

/-- A write of a command register with an OP field of `n` operations: a reserved OP leaves the field as it
was and is an invalid programming, the other fields take effect (R13); with GO it is discarded while
an operation is in progress (R282). -/
def cmdWrite (p : Page) (n : Nat) (old : CmdReg) (v : W32) (f : W32 → State → State) (s : State) : State :=
  if rbit v 31 && !old.done then invalidProg p s
  else if rfld v 10 8 ≥ n then f (setFld v 10 8 (rfld old.cmd 10 8)) (invalidProg p s)
  else f v s

/-- In FIELD and the other states the life cycle that is in force (R599). -/
def isField (s : State) : Bool := s.fuse.life == .field

end Sys2Proof.Machine
end

