-- ==== Sys2Proof/Machine/Shadow.lean ====
section
/-! DEFINITION. Shadow configurations, locks, ready signals and what a target applies (R61 to R65,
R490, R495, R563, R614, R615). -/

namespace Sys2Proof.Machine

/-- Epoch target bit of a page (R61, R615). -/
def targetBit : Page → Option Nat
  | .core n => some n.val
  | .clu m => some (24 + m.val)
  | .mesh => some 31 | .ktl => some 32 | .mgt => some 33
  | .scl s => some (34 + s.val)
  | .dec => some 38 | .enc => some 39 | .str => some 40
  | .csi _ => some 41
  | .cdy => some 42 | .spt => some 43 | .hbm => some 44 | .hif => some 45
  | .sec | .bist | .fuse => none

/-- Pages of a target bit (R615). -/
def targetPages (b : Nat) : List Page :=
  if b < 24 then [.core (Fin.ofNat 24 b)]
  else if b < 31 then [.clu (Fin.ofNat 7 (b - 24))]
  else if 34 ≤ b ∧ b < 38 then [.scl (Fin.ofNat 4 (b - 34))]
  else match b with
    | 31 => [.mesh] | 32 => [.ktl] | 33 => [.mgt] | 38 => [.dec] | 39 => [.enc] | 40 => [.str]
    | 41 => [.csi 0, .csi 1, .csi 2, .csi 3, .csi 4, .csi 5, .csi 6, .csi 7]
    | 42 => [.cdy] | 43 => [.spt] | 44 => [.hbm] | 45 => [.hif]
    | _ => []

/-- Target bits named by an armed epoch. -/
def armedTarget (s : State) : Nat := match s.ktl.epoch with | some e => e.target | none => 0

/-- SHD_CTRL.LOCKED: an armed epoch names the page's unit (R62). -/
def locked (s : State) (p : Page) : Bool :=
  match targetBit p with | some b => (armedTarget s).testBit b | none => false

/-- A write to a shadow: a change of a locked one is discarded and sets the invalid-programming bit
(R62, R659); another clears COMPLETE (R614). -/
def shadowWrite (p : Page) (changes : Bool) (f : State → State) (s : State) : State :=
  if locked s p then (if changes then invalidProg p s else s)
  else (f s).onHdr p fun h => { h with complete := false }

/-- Bank that an epoch installs: the staged one, or the bank in force (R614). -/
def nextBank (s : State) : Nat := s.ktl.shBank.getD s.ktl.planBank

/-- Plan length in force after an epoch. -/
def nextLen (s : State) : Nat := s.ktl.shPlanLen.getD s.ktl.planLen

/-- The bank is usable under a plan length and the DISC_MAX_STEPS in force (R54). -/
def bankFits (s : State) (b len : Nat) : Bool :=
  (s.bank b).valid && (s.bank b).recLen == len && s.ktl.discMaxSteps ≤ (s.bank b).recSteps

/-- MESH_PARTp after an epoch. -/
def nextPart (s : State) (p : Nat) : W32 :=
  ((s.mesh.shPart.getD p none).getD (s.mesh.part.getD p 0))

/-- A job of an ACTIVE or SUSPENDED slot belongs to a core: it holds it, or was saved from it. -/
def coreHasJob (s : State) (n : Nat) : Bool :=
  (s.core n).job.isSome ||
  s.sched.ctxs.any fun c => c.slots.any fun k =>
    match k.saved with | some v => v.core == n | none => false

/-- Partition changes that R490 lets an epoch make. -/
def partsOk (s : State) : Bool :=
  (List.range 24).all (fun n =>
    let now := (List.range 8).filter fun p => rbit (nextPart s p) n
    now.length == 1 && (!(coreHasJob s n) || now == [partOfCore s n])) &&
  (List.range 7).all fun m => ((List.range 8).filter fun p => rbit (nextPart s p) (24 + m)).length == 1

/-- A takeover whose map update lies ahead holds its core's readiness back (R563). -/
def inTakeover (s : State) (n : Nat) : Bool :=
  s.mgt.takeover.any fun t => t.target == .core (Fin.ofNat 24 n)

/-- Ready signal of a target (R54, R63, R485, R490, R495, R563, R614). -/
def ready (s : State) (b : Nat) : Bool :=
  (targetPages b).all (fun p => (s.hdr p).complete) &&
  (if b < 24 then
      !coreFenced s b && !coreAbsent s b && !inTakeover s b &&
      !(s.mesh.rstBusy && partOfCore s b == s.mesh.rstPart)
    else if b = 31 then s.mesh.committed.isSome && partsOk s
    else if b = 32 then bankFits s (nextBank s) (nextLen s)
    else true)

/-- Empty the shadow of a page and clear COMPLETE (R65, R614, R664). -/
def emptyShadow (p : Page) (s : State) : State :=
  let s := s.onHdr p fun h => { h with complete := false }
  match p with
  | .mesh => s.onMesh fun m =>
      { m with shadow := m.active, committed := none, shPart := List.replicate 8 none }
  | .ktl => s.onKtl fun k => { k with shBank := none, shPlanLen := none, shPlan := none }
  | .mgt => s.onMgt fun m => { m with shDiv := none }
  | .scl n => if n = 0 then s.onScl fun c => { c with shPriv := List.replicate 8 none } else s
  | .dec => s.onDec fun d => { d with shd := List.replicate 128 none }
  | .enc => s.onEnc fun d => { d with shd := List.replicate 16 none }
  | .spt => s.onSpt fun t => { t with rings := t.rings.map fun r => { r with shCoal := none } }
  | .hbm => s.onHbm fun h => { h with shRetrain := none }
  | .hif => s.onHif fun h => { h with shMinGap := none, shPartSched := List.replicate 8 none }
  | _ => s

/-- Staged words over the words in force. -/
def overlay (act : List W32) (sh : List (Option W32)) : List W32 :=
  act.mapIdx fun i w => (sh.getD i none).getD w

/-! ## Slot tables (R482) -/

/-- Entry of a table by its key; an unlisted one is FREE. -/
def tabGet : List (Nat × W32) → Nat → W32
  | [], _ => 0
  | (k, w) :: r, a => if k = a then w else tabGet r a

/-- Write an entry, keeping keys rising and listing no 0. -/
def tabPut : List (Nat × W32) → Nat → W32 → List (Nat × W32)
  | [], a, b => if b = 0 then [] else [(a, b)]
  | (x, v) :: r, a, b =>
    if a < x then (if b = 0 then (x, v) :: r else (a, b) :: (x, v) :: r)
    else if a = x then (if b = 0 then r else (a, b) :: r)
    else (x, v) :: tabPut r a b

/-- Key of the entry of a stop's output port for a slot: ports 0 north, 1 east, 2 south, 3 west,
4 local. -/
def tabKey (stop port slot : Nat) : Nat := (stop * 5 + port) * 1100 + slot

def seInput (w : W32) : Nat := rfld w 2 0
def seRskip (w : W32) : Bool := rbit w 3
def seAgent (w : W32) : Nat := rfld w 7 4
def seDest (w : W32) : Nat := rfld w 12 8
def seSrc (w : W32) : Nat := rfld w 17 13
def sePart (w : W32) : Nat := rfld w 21 18

/-- A table set has injection entries for a logical core at the stop where it now is (R489). -/
def coreServed (s : State) (tab : List (Nat × W32)) (n : Nat) : Bool :=
  let st := clusterStop (clusterOf s n)
  tab.any fun e => e.1 / 5500 == st && seInput e.2 == 5 && seAgent e.2 == coreAgent s n

/-- Relocated cores that stay so under a table set (R489). -/
def relocLeft (s : State) (tab : List (Nat × W32)) : Nat :=
  ((setBits 24 s.mesh.reloc).filter fun n => !coreServed s tab n).foldl (fun m n => m + 2 ^ n) 0

/-- A target applies its shadow at tick 0 of the epoch beat (R64), all but the Kettle's plan. -/
def applyShadow (p : Page) (s : State) : State :=
  match p with
  | .mesh => s.onMesh fun m =>
      { m with active := m.shadow, planId := m.committed.getD m.planId, part := overlay m.part m.shPart
               reloc := relocLeft s m.shadow }
  | .ktl => s.onKtl fun k =>
      { k with planBank := nextBank s, planLen := nextLen s, hot := k.shPlan.getD k.hot, forced := false }
  | .mgt => s.onMgt fun m => { m with div := m.shDiv.getD m.div }
  | .scl n => if n = 0 then s.onScl fun c => { c with priv := overlay c.priv c.shPriv } else s
  | .dec => s.onDec fun d => { d with act := overlay d.act d.shd }
  | .enc => s.onEnc fun d => { d with act := overlay d.act d.shd }
  | .spt => s.onSpt fun t => { t with rings := t.rings.map fun r => { r with coal := r.shCoal.getD r.coal } }
  | .hbm => s.onHbm fun h => { h with retrain := h.shRetrain.getD h.retrain }
  | .hif => s.onHif fun h =>
      { h with minGap := h.shMinGap.getD h.minGap, partSched := overlay h.partSched h.shPartSched }
  | _ => s

/-- Pages of every target bit of a set. -/
def targetsOf (t : Nat) : List Page := (setBits 46 t).flatMap targetPages

end Sys2Proof.Machine
end

