-- ==== Sys2Proof/Machine/Kettle.lean ====
section
/-! DEFINITION. The Kettle: count, plan, launch banks, refresh commands, epochs, FSYNC_OUT
(chapter 02). Commands that the Kettle's clock times act on their tick and change nothing on any
other (log entry 2). -/

namespace Sys2Proof.Machine

/-! ## Count (R44, R45, R82) -/

/-- A read of KTL_COUNT_LO latches the high half (R45). -/
def countLatch (s : State) : State := s.onKtl fun k => { k with countHi := (k.count >>> 32).setWidth 32 }

/-- KTL_COUNT_READ: LO answers the low half and latches the high half; HI answers the latch. -/
def execKtlCountRead (hi : Bool) (s : State) : Out :=
  .next (hostRead (fun s =>
    if hi then s.answer s.ktl.countHi
    else countLatch (s.answer (s.ktl.count.setWidth 32))) s)

/-! ## Launch banks (R47, R52 to R54) -/

/-- Entry `e` of a bank as a 128-bit number (R47). -/
def entryOf (b : Bank) (e : Nat) : Nat :=
  ((List.range 4).map fun i => (b.words.getD (4 * e + i) 0).toNat * 2 ^ (32 * i)).sum

def entOffset (e : Nat) : Nat := fld e 31 0
def entAction (e : Nat) : Nat := fld e 35 32
def entTarget (e : Nat) : Nat := fld e 47 40
def entArg16 (e : Nat) : Nat := fld e 63 48
def entArg64 (e : Nat) : Nat := fld e 127 64

/-- Code TARGET of R52: a target or argument outside the action's range (R48), a reserved field. -/
def entTargetBad (e : Nat) : Bool :=
  let t := entTarget e
  fld e 39 36 != 0 ||
  match entAction e with
  | 1 => entArg16 e ≥ 64 || entArg64 e != 0
  | 2 => t ≥ 128 || entArg16 e != 0 || entArg64 e != 0
  | 3 => t ≥ 16 || entArg16 e != 0 || entArg64 e != 0
  | 4 => t ≥ 4 || entArg16 e != 0 || entArg64 e % 64 != 0 || entArg64 e ≥ 2 ^ 48
  | 5 => t ≥ 16 || entArg16 e != 0 || entArg64 e != 0
  | 6 => (t ≥ 64 && t != 0xff) || entArg16 e != 0 || entArg64 e != 0
  | _ => t != 0 || entArg16 e != 0 || entArg64 e != 0

/-- Width of an FSYNC_OUT line (R70). -/
def lineWidth (l : FsyncLine) : Nat := rfld l.cfg 21 2

/-- Entries of a bank before END, with whether END was found; END itself is the last. -/
def bankEntries (b : Bank) : Nat → Nat → List Nat × Option Nat
  | 0, _ => ([], none)
  | fuel + 1, i =>
    let e := entryOf b i
    if entAction e = 0 then ([], some e)
    else let r := bankEntries b fuel (i + 1); (e :: r.1, r.2)

/-- Offset of the FSYNC_PULSE on a line before entry `i`, the wrap counted at the shortest cycle
(R52). -/
def prevPulse (es : List Nat) (i line : Nat) (short : Nat) : Option Int :=
  let on (e : Nat) : Bool := entAction e == 5 && entTarget e == line
  match ((es.take i).filter on).getLast? with
  | some e => some (entOffset e)
  | none =>
    match (es.filter on).getLast? with
    | some e => some ((entOffset e : Int) - short * 1100)
    | none => none

/-- Commit code of entry `i` (R52): the first of the table's checks that fails, 0 when none. -/
def entryCode (s : State) (es : List Nat) (short i : Nat) : Nat :=
  let e := es.getD i 0
  if i ≠ 0 ∧ entOffset e ≤ entOffset (es.getD (i - 1) 0) then 1
  else if entOffset e ≥ short * 1100 then 2
  else if entAction e ≥ 8 then 3
  else if entTargetBad e then 4
  else if entAction e = 7 ∧ entOffset e % 3300 ≠ 0 then 5
  else if entAction e = 5 then
    match prevPulse es i (entTarget e) short with
    | some p => if (entOffset e : Int) - p < lineWidth (s.line (entTarget e)) + 1 then 6 else 0
    | none => 0
  else 0

/-- Outcome of the check of a bank: first failing entry and its code, or none (R52, R54). -/
def bankCheck (s : State) (b : Nat) : Option (Nat × Nat) :=
  let len := nextLen s
  let steps := s.ktl.discMaxSteps
  let r := bankEntries (s.bank b) 512 0
  if len < 3 * steps + 3 then some (0, 2)
  else
    match (List.range r.1.length).find? fun i => entryCode s r.1 (len - 3 * steps) i != 0 with
    | some i => some (i, entryCode s r.1 (len - 3 * steps) i)
    | none =>
      match r.2 with
      | none => some (511, 7)
      | some e => if entTargetBad e then some (r.1.length, 4) else none

/-- A bank that is active or that an armed epoch names as the next one (R53). -/
def bankBusy (s : State) (b : Nat) : Bool :=
  (s.ktl.planState != .stopped && s.ktl.activeBank == b) ||
  ((armedTarget s).testBit 32 && nextBank s == b)

/-- COMMIT of the bank in KTL_BANK_CTRL (R52 to R54). -/
def commitBank (b : Nat) (s : State) : State :=
  if bankBusy s b then invalidProg .ktl s
  else
    let r := bankCheck s b
    let s := s.onKtl fun k =>
      { k with errIndex := (r.getD (0, 0)).1, errBank := b, errCode := (r.getD (0, 0)).2 }
    s.onBank b fun x =>
      { x with valid := r.isNone
               recLen := if r.isNone then nextLen s else x.recLen
               recSteps := if r.isNone then s.ktl.discMaxSteps else x.recSteps }

/-- INVALIDATE under R53. -/
def invalidateBank (b : Nat) (s : State) : State :=
  if bankBusy s b then invalidProg .ktl s else s.onBank b fun x => { x with valid := false }

/-- A write of KTL_BANK_CTRL. -/
def bankCtrlWrite (v : W32) (s : State) : State :=
  let b := rfld v 2 0
  let s := s.onKtl fun k => { k with bankCtl := b }
  let s := if rbit v 3 then commitBank b s else s
  if rbit v 4 then invalidateBank b s else s

def execCommit (v : W32) (s : State) : Out :=
  .next (hostWrite (bankCtrlWrite (v ||| 0x8#32)) s)

def execInvalidate (v : W32) (s : State) : Out :=
  .next (hostWrite (bankCtrlWrite (v ||| 0x10#32)) s)

/-- A write of KTL_LT_DATA: one that changes a busy bank is discarded (R53, R659); it makes a committed
bank invalid (log entry 15). -/
def ltWrite (w : W32) (s : State) : State :=
  let a := s.ktl.ltAddr
  let b := a / 8192
  if bankBusy s b then
    (if (s.bank b).words.getD (a % 8192 / 4) 0 = w then s else invalidProg .ktl s)
  else s.onBank b fun x => { x with words := updAt x.words (a % 8192 / 4) fun _ => w, valid := false }

/-- KTL_LT_ADDR advances by 4 at each access of KTL_LT_DATA (R621). -/
def ltAdvance (s : State) : State := s.onKtl fun k => { k with ltAddr := (k.ltAddr + 4) % 65536 }

/-- KTL_LT_DATA_ACCESS: a read answers the word at KTL_LT_ADDR. -/
def execKtlLtDataAccess (w : Option W32) (s : State) : Out :=
  .next (match w with
    | some v => hostWrite (fun s => ltAdvance (ltWrite v s)) s
    | none => hostRead (fun s =>
        let a := s.ktl.ltAddr
        ltAdvance (s.answer ((s.bank (a / 8192)).words.getD (a % 8192 / 4) 0))) s)

/-! ## The plan (R49 to R51, R54, R80, R83, R616, R622) -/

/-- The checks of START at the write: the bank fits and the start beat is a multiple of 3 at least
2 beats ahead (R51, R54). -/
def startOk (s : State) (bank beat : Nat) : Bool :=
  bankFits s bank s.ktl.planLen && beat % 3 == 0 && beat ≥ s.beat + 2

def planStartBeatOf (s : State) : Nat :=
  s.ktl.planStartLo.toNat + rfld s.ktl.planStartHi 21 0 * 2 ^ 32

/-- A direct write of KTL_PLAN_CTRL (R51, R82, R83, R616, R622). -/
def planCtrlDirect (v : W32) (s : State) : State :=
  let bank := rfld v 2 0
  let idle := s.ktl.planState == .stopped
  if (rbit v 3 && rbit v 4) || (bank != s.ktl.planBank && !idle)
      || (rbit v 3 && (!idle || !(s.bank bank).valid)) then invalidProg .ktl s
  else
    let s := s.onKtl fun k => { k with planBank := bank }
    let s :=
      if rbit v 3 then
        if startOk s bank (planStartBeatOf s) then
          s.onKtl fun k =>
            { k with planState := .startPending, activeBank := bank, pendingStart := planStartBeatOf s }
        else invalidProg .ktl s
      else s
    let s :=
      if rbit v 4 then
        s.onKtl fun k =>
          { k with planState := match k.planState with
              | .running => .stopping
              | .startPending => .stopped
              | x => x }
      else s
    if rbit v 5 then
      if idle then
        s.onKtl fun k =>
          { k with loadPending := some (k.countLoadLo.toNat + k.countLoadHi.toNat * 2 ^ 32, k.up) }
      else invalidProg .ktl s
    else s

/-- A write of KTL_PLAN_CTRL; with SHADOW_SEL it stages BANK only (R614). -/
def planCtrlWrite (v : W32) (s : State) : State :=
  if (s.hdr .ktl).shadowSel then
    shadowWrite .ktl (rfld v 2 0 != nextBank s)
      (fun s => s.onKtl fun k => { k with shBank := some (rfld v 2 0) }) s
  else planCtrlDirect v s

def execStart (v : W32) (s : State) : Out := .next (hostWrite (planCtrlWrite (v ||| 0x8#32)) s)
def execStop (v : W32) (s : State) : Out := .next (hostWrite (planCtrlWrite (v ||| 0x10#32)) s)
def execLoad (v : W32) (s : State) : Out := .next (hostWrite (planCtrlWrite (v ||| 0x20#32)) s)

/-- A plan cycle begins at the present tick or the one after. -/
def beginCycle (at_ len no : Nat) (k : Ktl) : Ktl :=
  { k with planState := .running, cycleStart := at_, cycleLen := len, cycleNo := no, nextEntry := 0 }

/-- PLAN_START_BEAT: at tick 0 of the start beat the cycle of the started bank begins (R51): cycle 0, of
KTL_PLAN_LEN beats (log entry 65). -/
def execPlanStartBeat (s : State) : Out :=
  .next (if s.ktl.planState = .startPending ∧ s.now = s.ktl.pendingStart * 1100 then
      s.onKtl (beginCycle s.now s.ktl.planLen 0)
    else s)

/-- Steps of the discipline procedure (R80) for an anchor prediction, with the multiple `m` given. -/
def discSteps (err : Int) (maxSteps : Nat) : Int := max (-maxSteps) (min maxSteps (err.tdiv 3300))

/-- Length in beats of cycle `no`, which begins at count `start` (R80). Where two multiples of the
measured second are equally near, which one is left open is a free value. -/
def cycleLenAt (start no : Nat) (s : State) : Nat × State :=
  let k := s.ktl
  if k.discEn && k.ppsLock then
    let r := k.discCycles - no % k.discCycles
    let anchor : Int := start + r * k.planLen * 1100
    let base : Int := (k.ppsLast.getD 0) + k.discPhase
    let sec : Int := max 1 k.ppsMeasured
    let rem : Int := (anchor - base) % sec
    let pick := if 2 * rem = sec then (some s.takeFree) else none
    let up : Bool := match pick with
      | some (v, _) => v.getLsbD 0
      | none => 2 * rem > sec
    let err : Int := if up then rem - sec else rem
    let len : Int := k.planLen - 3 * discSteps err k.discMaxSteps
    (len.toNat, match pick with | some (_, t) => t | none => s)
  else (k.planLen, s)

/-- PLAN_CYCLE_END: at the cycle's last tick, stop after STOP or set the next cycle (R51, R80). -/
def execPlanCycleEnd (s : State) : Out :=
  .next (
    let k := s.ktl
    if (k.planState = .running ∨ k.planState = .stopping) ∧
        s.now + 1 = k.cycleStart + k.cycleLen * 1100 then
      if k.planState = .stopping then s.onKtl fun k => { k with planState := .stopped }
      else
        let r := cycleLenAt (s.now + 1) (k.cycleNo + 1) s
        r.2.onKtl (beginCycle (s.now + 1) r.1 (k.cycleNo + 1))
    else s)

/-- An epoch that switches the Kettle takes effect at this tick: the old bank's outstanding entries are
not issued (R67). -/
def bankEnds (s : State) : Bool :=
  match s.ktl.epoch with
  | some e => e.target.testBit 32 && e.decision == some true && e.beat.map (· * 1100) == some s.now
  | none => false

/-- Entry of the running bank that issues at this tick (R49). -/
def entryDue (s : State) : Option (Nat × Nat) :=
  let k := s.ktl
  if (k.planState = .running ∨ k.planState = .stopping) ∧ k.cycleStart ≤ s.now ∧ bankEnds s = false then
    let es := (bankEntries (s.bank k.activeBank) 512 0).1
    ((List.range es.length).find? fun i =>
      k.nextEntry ≤ i && entOffset (es.getD i 0) == s.now - k.cycleStart).map fun i => (i, es.getD i 0)
  else none

/-- Actions other than FSYNC_PULSE are suppressed (R72, R585). -/
def suppressing (s : State) : Bool := s.mgt.safe || s.mgt.quiesce

/-- LAUNCH_ISSUE: the entry whose OFFSET is this tick leaves for its target (R48, R49), or is
suppressed and counted (R72, R585). -/
def execLaunchIssue (s : State) : Out :=
  .next (match entryDue s with
    | none => s
    | some (i, e) =>
      let s := s.onKtl fun k => { k with nextEntry := i + 1 }
      if entAction e ≠ 5 ∧ suppressing s then
        s.onKtl fun k => { k with suppressed := satInc 0xffffffff k.suppressed }
      else s.onKtl fun k =>
        { k with net := k.net ++ [{ issued := k.up, code := entAction e, target := entTarget e
                                    arg16 := entArg16 e, arg64 := entArg64 e }] })

/-- Take the action of a code and target out of the launch network that has travelled exactly `lat`
ticks (R48). -/
def takeAction (s : State) (lat code : Nat) (p : Action → Bool) : Option (Action × State) :=
  match s.ktl.net.findIdx? fun a => a.code == code && a.issued + lat == s.up && p a with
  | some i => (s.ktl.net[i]?).map fun a => (a, s.onKtl fun k => { k with net := k.net.eraseIdx i })
  | none => none

/-- The beat numbers in which once-per-beat events were last raised belong to the count before a load:
after it every such event may be raised again (R84). -/
def forgetBeats (s : State) : State :=
  (s.onHif fun h => { h with stormBeat := none }).onSpt fun p =>
    { p with rings := p.rings.map fun r => { r with dropBeat := none } }

/-- COUNT_LOADED: at the next tick whose old count is a multiple of 3,300 (R82). -/
def execCountLoaded (s : State) : Out :=
  .next (match s.ktl.loadPending with
    | some (v, at_) =>
      if s.now % 3300 = 0 ∧ at_ < s.up then
        let new := v / 3300 * 3300
        let s := s.onKtl fun k =>
          { k with count := BitVec.ofNat 64 new, loadPending := none, ppsLock := false, ppsLast := none
                   refreshed := if k.refreshed = some s.beat then some (new / 1100) else none
                   resumeBeat := 0, forcedFrom := 0
                   fifos := k.fifos.map fun f => { f with ts := [] }
                   inputs := k.inputs.map fun f => { f with fastBeat := none } }
        setInt .ktl 23 (forgetBeats s)
      else s
    | none => s)

/-! ## Refresh (R55 to R59, R468) -/

/-- The refresh plan in force refreshes a beat (R55, R57, R59, R477). -/
def refreshes (s : State) (b : Nat) : Bool :=
  !s.hbm.inSr && s.ktl.resumeBeat ≤ b &&
  (s.ktl.hot || (s.ktl.forced && s.ktl.forcedFrom ≤ b) || b % 3 == 0)

/-- REFRESH_WINDOW: at tick 0 of a refreshing beat. -/
def execRefreshWindow (s : State) : Out :=
  .next (if s.power.booted ∧ s.now % 1100 = 0 ∧ refreshes s s.beat then
      s.onKtl fun k => { k with refreshed := some s.beat }
    else s)

/-- HBM_TEMP_READING: inside a refresh window, once in each block of 1,000 beats (log entry 83), post the
reading, warn, force refresh (R58, R59, R468). -/
def execHbmTempReading (temp : BitVec 8) (s : State) : Out :=
  .next (if s.power.booted ∧ refreshes s s.beat = true ∧ s.now % 1100 < 484 ∧
      s.hbm.tempBlock ≠ some (s.beat / 1000) then
      let s := s.onHbm fun h =>
        { h with temp := temp.toNat, tempValid := true, tempSeq := (h.tempSeq + 1) % 65536
                 tempBlock := some (s.beat / 1000) }
      if s.ktl.hot then s
      else
        let s := if temp.toInt ≥ s.ktl.hotWarnC then setInt .ktl 10 s else s
        if temp.toInt > 85 ∧ !s.ktl.forced then
          setInt .ktl 11 (s.onKtl fun k => { k with forced := true, forcedFrom := s.beat + 1 })
        else s
    else s)

/-! ## Epochs (R60 to R69) -/

/-- KTL_EPOCH_BEAT takes a beat. -/
def putEpochBeat (b : Nat) (k : Ktl) : Ktl :=
  { k with epochBeatLo := BitVec.ofNat 32 b, epochBeatHi := BitVec.ofNat 32 (b / 2 ^ 32) }

/-- An epoch resolves without a switch: DISARM, reset, safe state (R65, R69, R84); its beat, where it
has one, stays readable (R69). -/
def dropEpoch (res : Nat) (s : State) : State :=
  setInt .ktl 9 (s.onKtl fun k =>
    let k := match k.epoch.bind (·.beat) with | some b => putEpochBeat b k | none => k
    { k with epoch := none, epochResult := res, epochSeq := (k.epochSeq + 1) % 65536 })

/-- The sampling tick of R64 has come for an epoch. -/
def sampled (s : State) (e : Epoch) : Bool :=
  e.decision.isSome ||
  match e.beat with
  | some b => (b - 1) * 1100 + 1092 ≤ s.now && s.now ≤ b * 1100
  | none => false

/-- An armed epoch is disarmed with CANCELLED_RESET unless its sampling tick has passed (R69). -/
def resetEpoch (s : State) : State :=
  match s.ktl.epoch with
  | some e => if sampled s e then s else dropEpoch 5 s
  | none => s

def epochBeatOf (s : State) : Nat := s.ktl.epochBeatLo.toNat + s.ktl.epochBeatHi.toNat * 2 ^ 32
def epochTgtOf (s : State) : Nat := s.ktl.epochTgtLo.toNat + s.ktl.epochTgtHi.toNat * 2 ^ 32

/-- Arm an epoch for a beat and a set of targets (R60). A rejected arm resolves no epoch, so it raises
nothing and leaves SEQ; an accepted one clears the list of lagging units (log entry 65). -/
def armEpoch (beat tgt : Nat) (planned byCap : Bool) (s : State) : State :=
  let late := !planned && (beat < s.beat + 2 || (tgt.testBit 32 && beat % 3 != 0))
  if s.ktl.epoch.isSome || tgt ≥ 2 ^ 46 || late then s.onKtl fun k => { k with epochResult := 4 }
  else s.onKtl fun k =>
    { k with epochResult := 1, epochLag := 0
             epoch := some { target := tgt, beat := if planned then none else some beat
                             planned := planned, byCap := byCap, decision := none } }

/-- A write of KTL_EPOCH_CTRL (R60, R65, R66). -/
def epochCtrlWrite (v : W32) (s : State) : State :=
  let s := s.onKtl fun k => { k with epochPlanned := rbit v 2 }
  let s := if rbit v 1 then
      match s.ktl.epoch with
      | some e => if sampled s e then s else dropEpoch 0 s
      | none => s
    else s
  if rbit v 0 then armEpoch (epochBeatOf s) (epochTgtOf s) (rbit v 2) false s else s

def execArm (v : W32) (s : State) : Out := .next (hostWrite (epochCtrlWrite (v ||| 1#32)) s)
def execDisarm (v : W32) (s : State) : Out := .next (hostWrite (epochCtrlWrite (v ||| 2#32)) s)

/-- MODE_SWITCH: the entry fixes the beat of an epoch armed with PLANNED as it issues (R66). -/
def execModeSwitch (s : State) : Out :=
  .next (match takeAction s 0 7 (fun _ => true) with
    | none => s
    | some (_, s) =>
      match s.ktl.epoch with
      | some e =>
        if e.planned ∧ e.beat = none then
          s.onKtl fun k => putEpochBeat (s.beat + 3) { k with epoch := some { e with beat := some (s.beat + 3) } }
        else s
      | none => s)

/-- EPOCH_SAMPLE: at tick 1,092 of the beat before the epoch beat (R63, R64). -/
def execEpochSample (s : State) : Out :=
  .next (match s.ktl.epoch with
    | some e =>
      match e.beat, e.decision with
      | some b, none =>
        if s.now + 8 = b * 1100 then
          let lag := (setBits 46 e.target).filter fun i => !ready s i
          s.onKtl fun k =>
            { k with epochLag := (lag.map (2 ^ ·)).sum
                     epoch := some { e with decision := some lag.isEmpty } }
        else s
      | _, _ => s
    | none => s)

/-- The Kettle's part of a switch: the plan, its bank and a new cycle, of the length that R80 gives it
(R57, R59, R67, R80). A pending start keeps its beat; a plan that was stopping is stopped, and one that is
STOPPED stays so (log entries 15, 65). A cycle that began at this same tick keeps its number. -/
def installPlan (s : State) : State :=
  let k := s.ktl
  match k.planState with
  | .stopped => s
  | .startPending => s.onKtl fun k => { k with activeBank := k.planBank }
  | .stopping => s.onKtl fun k => { k with planState := .stopped }
  | .running =>
    let no := if k.cycleStart = s.now then k.cycleNo else k.cycleNo + 1
    let r := cycleLenAt s.now no s
    r.2.onKtl fun k => beginCycle s.now r.1 no { k with activeBank := k.planBank }

/-- EPOCH_DONE: at tick 0 of the epoch beat every target applies its shadow, or keeps the old
configuration (R64, R65, R67, R84, R588). -/
def execEpochDone (s : State) : Out :=
  .next (match s.ktl.epoch with
    | some e =>
      match e.beat, e.decision with
      | some b, some sw =>
        if s.now = b * 1100 then
          let s := s.onKtl fun k =>
            putEpochBeat b { k with epoch := none, epochSeq := (k.epochSeq + 1) % 65536
                                    epochLast := some k.up, epochResult := if sw then 2 else 3 }
          if sw then
            let ps := targetsOf e.target
            let s := ps.foldl (fun s p => applyShadow p s) s
            let s := ps.foldl (fun s p => emptyShadow p s) s
            let s := if e.target.testBit 32 then installPlan s else s
            let s := if e.byCap then
                setInt .mgt 14 (s.onMgt fun m => { m with capWait := none, coolSince := none, vddRaise := 0
                                                          vddLower := m.vddLower || m.vddRaise == 0 })
              else s
            setInt .ktl 8 s
          else
            let s := if e.byCap then
                s.onMgt fun m => { m with capWait := m.capWait.map fun w => (w.1, s.up + 1100000) }
              else s
            setInt .ktl 9 s
        else s
      | _, _ => s
    | none => s)

/-! ## Levels of the sync inputs (R46, R73 to R77) -/

/-- A level of an input begins or ends at a tick, whose count is `ts`: while STUCK only the release is
timed. -/
def edgeTo (active : Bool) (up ts : Nat) (f : InFilter) : InFilter :=
  if f.stuck then { f with idleFrom := if active then none else some up }
  else if active then { f with lead := some up, leadTs := ts, ended := none, judged := false }
  else { f with ended := some up }

/-- The input's level is active under its polarity (R73). -/
def inputActive (f : InFilter) : Bool := f.level != f.polarity

/-! ## FSYNC_OUT (R70 to R72) -/

/-- FSYNC_PULSE: an issued entry starts the width of its line, or restarts it and counts an overlap
(R71); a disabled line does nothing (R70). The line is held from the issue tick on (log entry 15);
the ball follows 6 ticks later. -/
def execFsyncPulse (line : Fin 16) (s : State) : Out :=
  .next (match takeAction s 0 5 (fun a => a.target == line.val) with
    | none => s
    | some (a, s) =>
      let l := s.line line.val
      if rbit l.cfg 0 then
        let again : Bool := match l.issued with
          | some t => a.issued < t + lineWidth l + 1
          | none => false
        s.onLine line.val fun l =>
          { l with issued := some a.issued
                   first := if again then l.first else a.issued
                   overlap := if again then satInc 65535 l.overlap else l.overlap }
      else s)

/-- FSYNC_PULSE_END: the width has passed at the ball. -/
def execFsyncPulseEnd (line : Fin 16) (s : State) : Out :=
  .next (
    let l := s.line line.val
    match l.issued with
    | some t =>
      if t + 6 + lineWidth l ≤ s.up then s.onLine line.val fun l => { l with issued := none } else s
    | none => s)

/-- The pulse of a line is on its ball: from the 6th tick after its issue, for the width counted from the
last issue (R71). -/
def pulseOn (l : FsyncLine) (up : Nat) : Bool :=
  match l.issued with
  | some t => l.first + 6 ≤ up && up < t + 6 + lineWidth l
  | none => false

/-- Level of an FSYNC_OUT ball: absent while it is high-impedance, which it is until READY, while the line
is disabled and through the tick of its enable (R70, R71, R631, R633). -/
def fsyncLevel (s : State) (n : Nat) : Option Bool :=
  let l := s.line n
  if s.power.booted && !s.power.perst && s.power.railsOk && l.driven then
    some (pulseOn l s.up != rbit l.cfg 1)
  else none

/-- A write of KTL_FSYNC_CFGn: WIDTH 0 is outside its range (R13, R70); clearing EN ends the pulse. -/
def fsyncCfg (line : Nat) (v : W32) (s : State) : State :=
  let bad := rfld v 21 2 = 0
  let s := s.onLine line fun l =>
    { l with cfg := if bad then mergeBits 3#32 l.cfg v else v &&& 0x003fffff#32
             issued := if rbit v 0 then l.issued else none }
  if bad then invalidProg .ktl s else s

def execFsyncCfgWrite (line : Fin 16) (v : W32) (s : State) : Out :=
  .next (hostWrite (fsyncCfg line.val v) s)

end Sys2Proof.Machine
end

