-- ==== Sys2Proof/Machine/Float.lean ====
section
/-! DEFINITION. Exact arithmetic and its roundings: round-half-even of rationals, the three
floating-point formats, CRC-32 (R125, R215, R224, R227, R228, R232). Every operation gives the exact
result; `fpRound` rounds it once. -/

namespace Sys2Proof.Machine

/-- Round-half-even of num/den, den positive (R224). -/
def rheNat (num den : Nat) : Nat :=
  let q := num / den
  let r := num % den
  if 2 * r < den then q else if 2 * r > den then q + 1 else if q % 2 = 0 then q else q + 1

/-- Round-half-even of an integer over a positive number. -/
def rhe (num : Int) (den : Nat) : Int :=
  if num < 0 then -(rheNat num.natAbs den : Int) else rheNat num.natAbs den

/-- Round-half-even of x × 2^-s. -/
def rheShift (x : Int) (s : Nat) : Int := rhe x (2 ^ s)

/-- A floating-point value, exact: sign and magnitude num/den. -/
inductive Fp where
  | nan
  | inf (neg : Bool)
  | fin (neg : Bool) (num den : Nat)
deriving DecidableEq, Repr

/-- A format: exponent and fraction bits (R227). -/
structure Fmt where
  eb : Nat
  fb : Nat
deriving DecidableEq, Repr

def f16 : Fmt := ⟨5, 10⟩
def bf16 : Fmt := ⟨8, 7⟩
def f32 : Fmt := ⟨8, 23⟩

inductive Rnd where
  | even | down | up
deriving DecidableEq, Repr

/-- m × 2^e as a fraction. -/
def dyadic (neg : Bool) (m : Nat) (e : Int) : Fp :=
  if e ≥ 0 then .fin neg (m * 2 ^ e.toNat) 1 else .fin neg m (2 ^ (-e).toNat)

/-- Decode a pattern. -/
def fpDecode (f : Fmt) (w : Nat) : Fp :=
  let neg := w.testBit (f.eb + f.fb)
  let e := w / 2 ^ f.fb % 2 ^ f.eb
  let m := w % 2 ^ f.fb
  let bias : Int := 2 ^ (f.eb - 1) - 1
  if e = 2 ^ f.eb - 1 then (if m = 0 then .inf neg else .nan)
  else if e = 0 then dyadic neg m (1 - bias - f.fb)
  else dyadic neg (m + 2 ^ f.fb) (e - bias - f.fb)

/-- The canonical NaN (R227, R228). -/
def fpNaN (f : Fmt) : Nat := (2 ^ f.eb - 1) * 2 ^ f.fb + 2 ^ (f.fb - 1)

def fpInf (f : Fmt) (neg : Bool) : Nat := (2 ^ f.eb - 1) * 2 ^ f.fb + (if neg then 2 ^ (f.eb + f.fb) else 0)

/-- Largest finite pattern of a sign. -/
def fpMax (f : Fmt) (neg : Bool) : Nat := fpInf f neg - 1

/-- Floor of log2 of num/den, both positive. -/
def log2Ratio (num den : Nat) : Int :=
  let e : Int := (num.log2 : Int) - den.log2
  let ge : Bool := if e ≥ 0 then den * 2 ^ e.toNat ≤ num else den ≤ num * 2 ^ (-e).toNat
  if ge then e else e - 1

/-- Round num/den × 2^-u to a whole number. -/
def roundUnits (rnd : Rnd) (neg : Bool) (num den : Nat) (u : Int) : Nat :=
  let n := if u ≥ 0 then num else num * 2 ^ (-u).toNat
  let d := if u ≥ 0 then den * 2 ^ u.toNat else den
  match rnd, neg with
  | .even, _ => rheNat n d
  | .down, false | .up, true => n / d
  | .down, true | .up, false => cdiv n d

/-- Encode a value in a format with one rounding (R228). -/
def fpRound (f : Fmt) (rnd : Rnd) : Fp → Nat
  | .nan => fpNaN f
  | .inf neg => fpInf f neg
  | .fin neg num den =>
    let sg := if neg then 2 ^ (f.eb + f.fb) else 0
    if num = 0 then sg
    else
      let bias : Int := 2 ^ (f.eb - 1) - 1
      let u : Int := max (log2Ratio num den - f.fb) (1 - bias - f.fb)
      let n := roundUnits rnd neg num den u
      let code := if n < 2 ^ f.fb then n else ((u + f.fb + bias).toNat * 2 ^ f.fb + (n - 2 ^ f.fb))
      if code ≥ fpInf f false then
        match rnd, neg with
        | .even, _ | .up, false | .down, true => fpInf f neg
        | _, _ => fpMax f neg
      else sg + code

/-- F32 rounding of an exact value, and the value it stands for. -/
def rne32 (x : Fp) : Fp := fpDecode f32 (fpRound f32 .even x)

def fpOfInt (i : Int) : Fp := .fin (i < 0) i.natAbs 1

def fpNeg : Fp → Fp
  | .nan => .nan | .inf n => .inf (!n) | .fin n a b => .fin (!n) a b

/-- Exact sum; an exact zero sum of opposite signs is +0 (R228). -/
def fpAdd : Fp → Fp → Fp
  | .nan, _ | _, .nan => .nan
  | .inf a, .inf b => if a = b then .inf a else .nan
  | .inf a, _ => .inf a
  | _, .inf b => .inf b
  | .fin na a b, .fin nb c d =>
    let x : Int := (if na then -1 else 1) * (a * d : Nat) + (if nb then -1 else 1) * (c * b : Nat)
    if x = 0 then .fin (na && nb) 0 1 else .fin (x < 0) x.natAbs (b * d)

/-- Exact product. -/
def fpMul : Fp → Fp → Fp
  | .nan, _ | _, .nan => .nan
  | .inf a, .inf b => .inf (a != b)
  | .inf a, .fin nb n _ => if n = 0 then .nan else .inf (a != nb)
  | .fin na n _, .inf b => if n = 0 then .nan else .inf (na != b)
  | .fin na a b, .fin nb c d => .fin (na != nb) (a * c) (b * d)

/-- Exact quotient by a positive count. -/
def fpDivNat : Fp → Nat → Fp
  | .fin n a b, d => .fin n a (b * d)
  | x, _ => x

/-- Order key of a value that is not NaN: −0 lies below +0 (R232). -/
def fpLt : Fp → Fp → Bool
  | .nan, _ | _, .nan => false
  | .inf a, .inf b => a && !b
  | .inf a, .fin .. => a
  | .fin .., .inf b => !b
  | .fin na a b, .fin nb c d =>
    match na, nb with
    | true, false => true
    | false, true => false
    | false, false => a * d < c * b
    | true, true => c * b < a * d

/-- Numeric order, in which −0 equals +0. -/
def fpNumLt : Fp → Fp → Bool
  | .fin na a b, .fin nb c d => if a = 0 ∧ c = 0 then false else fpLt (.fin na a b) (.fin nb c d)
  | x, y => fpLt x y

def fpMaxOf : Fp → Fp → Fp
  | .nan, _ | _, .nan => .nan
  | x, y => if fpLt x y then y else x

def fpMinOf : Fp → Fp → Fp
  | .nan, _ | _, .nan => .nan
  | x, y => if fpLt y x then y else x

def fpAbs : Fp → Fp
  | .nan => .nan | .inf _ => .inf false | .fin _ a b => .fin false a b

/-- Round-half-even of a finite value to an integer. -/
def fpRhe (neg : Bool) (num den : Nat) : Int := rhe (if neg then -(num : Int) else num) den

/-! ## CRC-32 of IEEE 802.3 (R125) -/

/-- One bit of the reflected CRC-32. -/
def crcBit (c : Nat) : Nat := if c % 2 = 1 then (c / 2) ^^^ 0xedb88320 else c / 2

def crcByte (c b : Nat) : Nat := (List.range 8).foldl (fun c _ => crcBit c) (c ^^^ b)

/-- CRC-32 of a message. -/
def crc32 (m : List Byte) : Nat := (m.foldl (fun c b => crcByte c b.toNat) 0xffffffff) ^^^ 0xffffffff

end Sys2Proof.Machine
end

