-- ==== Sys2Proof/Machine/Operands.lean ====
section
/-! DEFINITION. The operand forms of jobs and commands: tensor descriptors and their elements, macro
words, job-image headers (chapters 04, 05, 06; R129, R137 to R166, R189, R190). A descriptor is its
512-bit number, a macro word its 256-bit number. -/

namespace Sys2Proof.Machine

/-! ## Tensor descriptors (R161 to R165) -/

def dBase (d : Nat) : Nat := fld d 47 0
def dType (d : Nat) : Nat := fld d 51 48
def dLayout (d : Nat) : Nat := fld d 53 52
def dAlloc (d : Nat) : Nat := fld d 95 64
def dN (d : Nat) : Nat := fld d 127 96
def dH (d : Nat) : Nat := fld d 159 128
def dW (d : Nat) : Nat := fld d 191 160
def dC (d : Nat) : Nat := fld d 223 192
def dS1 (d : Nat) : Nat := fld d 255 224
def dS2 (d : Nat) : Nat := fld d 287 256
def dS3 (d : Nat) : Nat := fld d 319 288
def dPad (d : Nat) : Nat := fld d 327 320
def dPadMode (d : Nat) : Bool := bitAt d 328
def dStat (d : Nat) : Bool := bitAt d 329
def dMse (d : Nat) : Bool := bitAt d 330
def dTag (d : Nat) : Nat := fld d 351 336
def dThresh (d : Nat) : Nat := fld d 383 352
def dAux (d : Nat) : Nat := fld d 431 384
def dAuxLines (d : Nat) : Nat := fld d 479 448

/-- Element types (R162): 0 I8, 1 U8, 2 CB16, 3 CB256, 4 BS8, 5 B1, 6 I32, 7 F16, 8 BF16, 9 F32. -/
def typeBits (t : Nat) : Nat := [8, 8, 4, 8, 8, 1, 32, 16, 16, 32].getD t 8

def isFloatType (t : Nat) : Bool := 7 ≤ t && t ≤ 9
def isIntType (t : Nat) : Bool := t == 0 || t == 1 || t == 6

def fmtOf (t : Nat) : Fmt := if t = 7 then f16 else if t = 8 then bf16 else f32

/-- ZERO_POINT, signed for I8 (R161). -/
def dZero (d : Nat) : Int := if dType d = 0 then toSigned 8 (fld d 63 56) else fld d 63 56

/-- Positions N·H·W. -/
def dPos (d : Nat) : Nat := dN d * dH d * dW d

/-- Elements of a run and its length b0 in bytes (R164). -/
def runElems (d : Nat) : Nat :=
  match dLayout d with | 0 => dC d | 1 => dW d | _ => dW d * 32

def runBytes (d : Nat) : Nat := cdiv (runElems d * typeBits (dType d)) 8

/-- Counts c1, c2, c3 (R164). -/
def dCounts (d : Nat) : Nat × Nat × Nat :=
  match dLayout d with
  | 0 => (dW d, dH d, dN d)
  | 1 => (dH d, dC d, dN d)
  | _ => (dH d, cdiv (dC d) 32, dN d)

/-- An element's position in n, h, w order and its channel. -/
structure Elt where
  n : Nat
  h : Nat
  w : Nat
  c : Nat
deriving DecidableEq, Repr

/-- Bit address of an element, counted from byte 0 of the device address space (R164). -/
def eltBit (d : Nat) (e : Elt) : Nat :=
  let b := typeBits (dType d)
  match dLayout d with
  | 0 => (dBase d + e.n * dS3 d + e.h * dS2 d + e.w * dS1 d) * 8 + e.c * b
  | 1 => (dBase d + e.n * dS3 d + e.c * dS2 d + e.h * dS1 d) * 8 + e.w * b
  | _ => (dBase d + e.n * dS3 d + e.c / 32 * dS2 d + e.h * dS1 d) * 8 + (e.w * 32 + e.c % 32) * b

/-- Bytes of an element: address and count. -/
def eltRange (d : Nat) (e : Elt) : Nat × Nat :=
  (eltBit d e / 8, max 1 (typeBits (dType d) / 8))

/-- The code of an element in memory. -/
def eltCode (s : State) (d : Nat) (e : Elt) : Nat :=
  let bit := eltBit d e
  peekNat s (bit / 8) (max 1 (typeBits (dType d) / 8)) / 2 ^ (bit % 8) % 2 ^ typeBits (dType d)

/-- An element lies inside the tensor. -/
def hasElt (d : Nat) (e : Elt) : Bool := e.n < dN d && e.h < dH d && e.w < dW d && e.c < dC d

/-- The code that a macro-instruction takes for an element; where its shapes, which the loader lets pass, name
one outside the tensor, no rule says what it takes (log entry 70). -/
def eltIn (s : State) (d : Nat) (e : Elt) : Nat :=
  if hasElt d e then eltCode s d e
  else Config.noElement d (((e.n * 2 ^ 32 + e.h) * 2 ^ 32 + e.w) * 2 ^ 32 + e.c) % 2 ^ typeBits (dType d)

/-- Bytes of an element that the tensor has. -/
def rangeIn (d : Nat) (e : Elt) : List (Nat × Nat) := if hasElt d e then [eltRange d e] else []

/-- Element `p` in the order n, h, w, all channels of a position before the next (R175). -/
def eltAt (d p : Nat) : Elt :=
  { n := p / (dC d * dW d * dH d), h := p / (dC d * dW d) % dH d, w := p / dC d % dW d, c := p % dC d }

/-- Position `r` in n, h, w order with channel `c`. -/
def posAt (d r c : Nat) : Elt :=
  { n := r / (dW d * dH d), h := r / dW d % dH d, w := r % dW d, c := c }

/-- Value of an integer code by type. -/
def codeInt (t code : Nat) : Int :=
  match t with
  | 0 | 4 => toSigned 8 code
  | 6 => toSigned 32 code
  | _ => code

/-- Pad code of an operand (R190). -/
def padCode (d : Nat) : Nat :=
  let pv : Int := toSigned 8 (dPad d)
  if dPadMode d then
    match dType d with
    | 6 => ofSigned 32 pv
    | 7 | 8 | 9 => fpRound (fmtOf (dType d)) .even (fpOfInt pv)
    | _ => dPad d
  else match dType d with
    | 0 | 1 => fld d 63 56
    | _ => 0

/-- A write of an element: device address, bit mask and value of each byte. -/
structure EltWrite where
  addr : Nat
  mask : Nat
  val  : Nat
deriving DecidableEq, Repr

/-- The byte writes of an element's code (R191). -/
def eltWrites (d : Nat) (e : Elt) (code : Nat) : List EltWrite :=
  let bit := eltBit d e
  let b := typeBits (dType d)
  if b < 8 then
    [{ addr := bit / 8, mask := (2 ^ b - 1) * 2 ^ (bit % 8), val := code % 2 ^ b * 2 ^ (bit % 8) }]
  else (List.range (b / 8)).map fun i => { addr := bit / 8 + i, mask := 255, val := code / 256 ^ i % 256 }

/-- Merge the write of some bits of a byte into a list of such writes. -/
def bitSet (w : EltWrite) : List EltWrite → List EltWrite
  | [] => [w]
  | u :: r =>
    if u.addr = w.addr then
      { addr := w.addr, mask := u.mask ||| w.mask, val := (u.val &&& (255 ^^^ w.mask)) ||| w.val } :: r
    else u :: bitSet w r

/-- The bytes that a list of element writes leaves: whole bytes as they come, bits merged (R191). -/
def mergeWrites (s : State) (ws : List EltWrite) : Cells :=
  let bits := (ws.filter (·.mask != 255)).foldl (fun l w => bitSet w l) []
  let byte (w : EltWrite) : Byte := BitVec.ofNat 8
    (((memGet s.mem (physKey s w.addr)).toNat &&& (255 ^^^ w.mask)) ||| w.val)
  { cells := ((ws.filter (·.mask == 255)) ++ bits).map fun w => (w.addr, byte w)
    part := (bits.filter (·.mask != 255)).map (·.addr) }

/-! ## Macro words (R137, R138, R142, R144, R147, R152, R154 to R156, R158, R159) -/

def mOp (m : Nat) : Nat := fld m 7 0
def mFuseIn (m : Nat) : Bool := bitAt m 8
def mFuseOut (m : Nat) : Bool := bitAt m 9
def mDst (m : Nat) : Nat := fld m 25 16
def mSrc0 (m : Nat) : Nat := fld m 35 26
def mSrc1 (m : Nat) : Nat := fld m 45 36
def mSrc2 (m : Nat) : Nat := fld m 55 46
def mP0 (m : Nat) : Nat := fld m 127 64
def mP1 (m : Nat) : Nat := fld m 191 128
def mP2 (m : Nat) : Nat := fld m 255 192

def mStrideH (m : Nat) : Nat := fld (mP1 m) 3 0 + 1
def mStrideW (m : Nat) : Nat := fld (mP1 m) 7 4 + 1
def mDilH (m : Nat) : Nat := fld (mP1 m) 11 8 + 1
def mDilW (m : Nat) : Nat := fld (mP1 m) 15 12 + 1
def mPadT (m : Nat) : Nat := fld (mP1 m) 23 16
def mPadB (m : Nat) : Nat := fld (mP1 m) 31 24
def mPadL (m : Nat) : Nat := fld (mP1 m) 39 32
def mPadR (m : Nat) : Nat := fld (mP1 m) 47 40
def mGroups (m : Nat) : Nat := fld (mP1 m) 63 48

/-- QP and INIT of MATMUL, CONV2D and DWCONV (R142). -/
def mQp (m : Nat) : Nat := fld (mP0 m) 9 0
def mQpEn (m : Nat) : Bool := bitAt (mP0 m) 10
def mInit (m : Nat) : Nat := fld (mP0 m) 20 11
def mInitEn (m : Nat) : Bool := bitAt (mP0 m) 21

/-- Operands of DIST (R147, R150). -/
def distCell (m : Nat) : Nat := fld (mP0 m) 2 0
def distReduce (m : Nat) : Nat := fld (mP0 m) 5 3
def distK (m : Nat) : Nat := fld (mP0 m) 8 6
def distSense (m : Nat) : Bool := bitAt (mP0 m) 9
def distQp (m : Nat) : Nat := fld (mP0 m) 19 10
def distQpEn (m : Nat) : Bool := bitAt (mP0 m) 20
def distGate (m : Nat) : Nat := fld (mP0 m) 22 21

/-- Operands of ELTWISE (R152). -/
def eltOp (m : Nat) : Nat := fld (mP0 m) 5 0
def eltBcast (m : Nat) : Bool := bitAt (mP0 m) 6
def eltQp (m : Nat) : Nat := fld (mP0 m) 17 8
def eltQpEn (m : Nat) : Bool := bitAt (mP0 m) 18

/-- Operands of POOL (R154). -/
def poolMode (m : Nat) : Nat := fld (mP0 m) 1 0
def poolKH (m : Nat) : Nat := fld (mP0 m) 15 8 + 1
def poolKW (m : Nat) : Nat := fld (mP0 m) 23 16 + 1

def opMatmul : Nat := 1
def opConv2d : Nat := 2
def opDwconv : Nat := 3
def opDist : Nat := 4
def opEltwise : Nat := 5
def opPool : Nat := 6
def opRequant : Nat := 7
def opNms : Nat := 8
def opGather : Nat := 9
def opScatter : Nat := 10
def opCopy : Nat := 11
def opWait : Nat := 16
def opSignal : Nat := 17
def opFence : Nat := 18
def opEnd : Nat := 31

/-- Opcodes that run on the arrays (R114). -/
def isArrayOp (o : Nat) : Bool := o == opMatmul || o == opConv2d || o == opDist

/-! ## Job images (R129, R133, R135) -/

def jobMagic : Nat := 0x4a424c4d

/-- Parse the 128 bytes of a header. -/
def parseHdr (b : List Byte) : JobHdr :=
  let w (o n : Nat) : Nat := leNat ((b.drop o).take n)
  { magic := w 0 4, version := w 4 2, hdrBytes := w 6 2, jobId := w 8 4
    isFallback := bitAt (w 0xc 4) 0, dlb := bitAt (w 0xc 4) 1
    macroOff := w 0x10 4, macroCount := w 0x14 4, descOff := w 0x18 4, descCount := w 0x1c 4
    rwtOff := w 0x20 4, imageBytes := w 0x24 4, fallback := w 0x28 6, deadline := w 0x30 4
    coreMask := w 0x34 3, planId := w 0x38 4, slotTicks := w 0x3c 4, cplRing := fld (w 0x40 4) 5 0
    saveOff := w 0x44 4, saveCount := fld (w 0x48 4) 4 0, crc := w 0x7c 4 }

/-- Sizes as the loader takes them for times: 0 when outside their stated range (R200). -/
def sizeOr0 (lo hi v : Nat) : Nat := if lo ≤ v ∧ v ≤ hi then v else 0

/-- Ticks that one image adds to verification (R200). -/
def verifyTicks (h : JobHdr) : Nat :=
  1100 + cdiv (if h.imageBytes % 64 = 0 then sizeOr0 256 1048576 h.imageBytes else 0) 64 +
  12 * (sizeOr0 1 4096 h.macroCount + sizeOr0 1 1024 h.descCount)

/-- Load a job store from an image in memory (R126). -/
def loadStore (s : State) (base : Nat) : JobStore :=
  let h := parseHdr (peek s base 128)
  { base := base, hdr := h
    macros := (List.range h.macroCount).map fun i => peekNat s (base + h.macroOff + 32 * i) 32
    descs := (List.range h.descCount).map fun i => peekNat s (base + h.descOff + 64 * i) 64
    rwt := if h.rwtOff = 0 then [] else
      (List.range h.macroCount).map fun i =>
        (peekNat s (base + h.rwtOff + 8 * i) 4, peekNat s (base + h.rwtOff + 8 * i + 4) 4)
    save := if h.saveOff = 0 then [] else
      (List.range h.saveCount).map fun i =>
        (peekNat s (base + h.saveOff + 16 * i) 6, peekNat s (base + h.saveOff + 16 * i + 8) 4) }

/-- IMAGE_CRC of an image agrees with its bytes (R125). -/
def crcOk (s : State) (base : Nat) (h : JobHdr) : Bool :=
  crc32 (peek s base 0x7c ++ [0, 0, 0, 0] ++ peek s (base + 0x80) (h.imageBytes - 0x80)) == h.crc

/-- Descriptor of the store by index. -/
def desc (c : Core) (i : Nat) : Nat := c.store.descs.getD i 0

/-- Macro word in progress. -/
def macroOf (c : Core) (j : Job) : Nat := c.store.macros.getD j.mi 0

/-- Arithmetic divider in force: 6, 7, 9 or 12 (R27, R588). -/
def divider (s : State) : Nat := [6, 7, 9, 12].getD s.mgt.div 12

/-- Unfenced accumulator slots of a bank (R184). -/
def ringSlots (s : State) : Nat := 1024 - s.fuse.accFence

/-! ## Array geometry (R178, R179, R248) -/

structure Geo where
  m    : Nat
  nc   : Nat
  kb   : Nat
  tr   : Nat
  nrg  : Nat
  ncb  : Nat
deriving DecidableEq, Repr

/-- Group of an output channel, channels per group, groups of a column block (R248). -/
def cog (d1 g : Nat) : Nat := dN d1 / max 1 g

def groupSpan (nc cg cb : Nat) : Nat × Nat :=
  (cb * 32 / max 1 cg, (min nc (cb * 32 + 32) - 1) / max 1 cg)

/-- Largest group span of a CONV2D (R248). -/
def convQ (nc cg : Nat) : Nat :=
  ((List.range (cdiv nc 32)).map fun cb => (groupSpan nc cg cb).2 - (groupSpan nc cg cb).1 + 1).foldl max 1

/-- Channel blocks of one group (R247). -/
def ncblkOf (d1 : Nat) : Nat := cdiv (dC d1) 32

/-- m, nc, kb and the row groups of an array macro-instruction. `d` gives the descriptors. -/
def geoOf (op d0 d1 dst word : Nat) : Geo :=
  let m := if op = opConv2d then dN d0 * dH dst * dW dst else dPos d0
  let nc := dN d1
  let kb :=
    if op = opConv2d then convQ nc (cog d1 (mGroups word)) * dH d1 * dW d1 * ncblkOf d1
    else if op = opDist ∧ distCell word = 3 then cdiv (cdiv (dC d0) 8) 32
    else cdiv (dC d0) 32
  let ncb := cdiv nc 32
  let q := cdiv m 4
  let tr := if q ≤ 448 then q
    else if ncb = 1 ∧ q ≤ 896 ∧ ¬(op = opDist ∧ distReduce word ≠ 0) then q else 448
  { m := m, nc := nc, kb := kb, tr := tr, nrg := cdiv m (4 * max 1 tr), ncb := ncb }

/-- Rows of row group g and rows each array takes (R179). -/
def rowsOf (x : Geo) (g : Nat) : Nat := min x.m ((g + 1) * 4 * x.tr) - g * 4 * x.tr
def trgOf (x : Geo) (g : Nat) : Nat := cdiv (rowsOf x g) 4

/-! ## Sample masks (R186, R187, R423) -/

/-- The sample mask applies to a macro-instruction with this SRC0. -/
def maskedBy (c : Core) (d0 : Nat) : Bool := c.mask.isSome && (c.maskAll || dN d0 == c.batchSize)

/-- A sample of SRC0 is masked. -/
def sampleMasked (c : Core) (d0 n : Nat) : Bool :=
  maskedBy c d0 && !((c.mask.getD 0).testBit n)

/-! ## Requantisation (R222 to R226, R236, R240) -/

/-- The requantisation record of channel `ch`. -/
def qpRecord (s : State) (qd ch : Nat) : Nat :=
  peekNat s (dBase qd + if dC qd = 2 then 0 else 8 * ch) 8

/-- Limits of an integer type. -/
def typeLo (t : Nat) : Int := match t with | 0 => -128 | 6 => -2147483648 | _ => 0
def typeHi (t : Nat) : Int := match t with | 0 => 127 | 6 => 2147483647 | _ => 255

/-- A result with whether the type limit changed it. -/
structure Lim where
  val : Int
  sat : Bool
deriving DecidableEq, Repr

/-- Limit to a type (R224, R231, R233, R235). -/
def limitTo (t : Nat) (i : Int) : Lim :=
  { val := limit (typeLo t) (typeHi t) i, sat := limit (typeLo t) (typeHi t) i != i }

/-- What the requantisation unit is given (R225). -/
inductive QIn where
  | int (x : Int)
  | fp (x : Fp)
deriving DecidableEq, Repr

/-- x × M × 2^-S of an input that is finite, as a fraction with sign. -/
def qScale (x : QIn) (m : Int) : Option (Int × Nat) :=
  match x with
  | .int i => some (i * m, 1)
  | .fp (.fin neg num den) => some ((if neg then -1 else 1) * (num : Int) * m, den)
  | .fp _ => none

/-- Requantised code: out, y before the clamp, whether it counts as saturated (R224, R225, R236). -/
def requant1 (t rec : Nat) (x : QIn) : Int × Int × Bool :=
  let m := toSigned 32 (fld rec 31 0)
  let sh := fld rec 37 32
  let rd (b : Nat) : Int := if t = 0 then toSigned 8 b else b
  let zo := rd (fld rec 47 40)
  let y : Lim :=
    match qScale x m with
    | some (num, den) => limitTo t (rhe num (den * 2 ^ sh) + zo)
    | none =>
      match x with
      | .fp (.inf true) => ⟨typeLo t, true⟩
      | .fp (.inf false) => ⟨typeHi t, true⟩
      | _ => ⟨zo, true⟩
  (limit (rd (fld rec 55 48)) (rd (fld rec 63 56)) y.val, y.val, y.sat)

/-- The error term e8 of R240; for an infinity or NaN input the manual states none. -/
def mseTerm (t rec : Nat) (x : QIn) (y : Int) : Option Int :=
  let m := toSigned 32 (fld rec 31 0)
  let sh := fld rec 37 32
  let zo : Int := if t = 0 then toSigned 8 (fld rec 47 40) else fld rec 47 40
  (qScale x m).map fun q => limit (-32767) 32767 ((y - zo) * 256 - rhe (q.1 * 256) (q.2 * 2 ^ sh))

end Sys2Proof.Machine
end

