-- ==== Sys2Proof/Machine/Loader.lean ====
section
/-! DEFINITION. The loader's checks (R123 to R169, R196 to R205, R222, R250): each gives the first
failure in the order of R168 and R201, as VERIFY code and DETAIL (R170). -/

namespace Sys2Proof.Machine

/-- A failure at verification: VERIFY code, DETAIL, whether it lies in the fallback image; or a line of an
image that the loader cannot read, which ends the job and rejects nothing (R496). -/
structure Reject where
  code   : Nat := 0
  detail : Nat := 0xffff
  fb     : Bool
  unread : Option Nat := none
deriving DecidableEq, Repr

/-- The lowest code that fails; the list is in ascending order of codes (R201). -/
def firstFail (l : List (Nat × Bool)) : Option Nat := (l.find? (·.2)).map (·.1)

/-! ## Memories (R20, R32, R33, R36) -/

/-- The memory that holds an address: 0 HBM, 1 cluster, 2 weight, 3 activation, 4 accumulator,
5 vector-local, with its cluster or core number. -/
def memId (a : Nat) : Option (Nat × Nat) :=
  match regionOf a with
  | .hbm => some (0, 0)
  | .cluster m => some (1, m)
  | .core n off =>
    some (if off < 0x100000 then 2 else if off < 0x400000 then 3 else if off < 0x600000 then 4 else 5, n)
  | _ => none

/-- A range lies within one memory. -/
def oneMem (a n : Nat) : Bool := n ≠ 0 && (memId a).isSome && memId a == memId (a + n - 1)

/-- A range lies in memory that a job of core `n` may address (R20). -/
def jobRange (n a len : Nat) : Bool :=
  oneMem a len && match memId a with
    | some (k, m) => k < 2 || m == n
    | none => false

def overlaps (a n b m : Nat) : Bool := a < b + m && b < a + n

/-- Allocation of a descriptor: address and bytes. -/
def allocOf (d : Nat) : Nat × Nat := (dBase d, dAlloc d * 64)

def inMem (kind n : Nat) (d : Nat) : Bool :=
  memId (dBase d) == some (kind, n) && oneMem (dBase d) (dAlloc d * 64)

/-! ## Descriptors (R161, R162, R164, R165) -/

/-- Span of a descriptor's elements in bytes (R165). -/
def dExtent (d : Nat) : Nat :=
  let c := dCounts d
  (c.2.2 - 1) * dS3 d + (c.2.1 - 1) * dS2 d + (c.1 - 1) * dS1 d + runBytes d

def strideBad (d : Nat) : Bool :=
  let e := max 1 (typeBits (dType d) / 8)
  dS1 d % e != 0 || dS2 d % e != 0 || dS3 d % e != 0

def boundsBad (d : Nat) : Bool :=
  let c := dCounts d
  dS1 d < runBytes d ||
  dS2 d < (c.1 - 1) * dS1 d + runBytes d ||
  dS3 d < (c.2.1 - 1) * dS2 d + (c.1 - 1) * dS1 d + runBytes d ||
  dExtent d > dAlloc d * 64

/-- Failures of one descriptor, in ascending code. -/
def descChecks (n d : Nat) : List (Nat × Bool) :=
  let t := dType d
  let aux := 2 ≤ t && t ≤ 4
  [ (2, fld d 55 54 != 0 || fld d 335 331 != 0 || fld d 447 432 != 0 || fld d 511 480 != 0),
    (4, dLayout d == 3 || dAlloc d == 0 || dN d == 0 || dH d == 0 || dW d == 0 || dC d == 0 ||
        (t > 1 && fld d 63 56 != 0) || (!aux && t < 10 && dAux d != 0) ||
        (dAux d == 0 && dAuxLines d != 0)),
    (5, t > 9),
    (7, dBase d % 64 != 0 || dAux d % 64 != 0 || strideBad d),
    (8, boundsBad d || !jobRange n (dBase d) (dAlloc d * 64) ||
        (dAux d != 0 && dAuxLines d != 0 && !jobRange n (dAux d) (dAuxLines d * 64))),
    (9, dPos d > 0xffffffff) ]

/-! ## Macro-instructions -/

/-- Fields that an opcode uses: DST, SRC0, SRC1, SRC2 (R138). -/
def usedFields (m : Nat) : Bool × Bool × Bool × Bool :=
  match mOp m with
  | 1 | 2 | 3 | 7 | 9 | 10 => (true, true, true, false)
  | 4 => (true, true, true, distGate m != 0)
  | 5 => (true, true, eltOp m ≤ 4 || eltOp m == 6, false)
  | 6 | 8 | 11 => (true, true, false, false)
  | _ => (false, false, false, false)

def canFuse (o : Nat) : Bool := [1, 2, 3, 5, 6, 7].contains o

def opKnown (o : Nat) : Bool := (1 ≤ o && o ≤ 11) || (16 ≤ o && o ≤ 18) || o == 31

/-- Reserved or unused bits of a macro word that are not 0 (R137, R138, R143, R147, R150, R167). -/
def macroReserved (m : Nat) : Bool :=
  let u := usedFields m
  let p0 := mP0 m
  let p1 := mP1 m
  fld m 15 10 != 0 || fld m 63 56 != 0 || mP2 m != 0 ||
  (!u.1 && mDst m != 0) || (!u.2.1 && mSrc0 m != 0) || (!u.2.2.1 && mSrc1 m != 0) ||
  (!u.2.2.2 && mSrc2 m != 0) ||
  match mOp m with
  | 1 => fld p0 63 22 != 0 || p1 != 0 || (!mQpEn m && mQp m != 0) || (!mInitEn m && mInit m != 0)
  | 2 | 3 => fld p0 63 22 != 0 || (!mQpEn m && mQp m != 0) || (!mInitEn m && mInit m != 0)
  | 4 => fld p0 63 23 != 0 || (!distQpEn m && distQp m != 0) ||
      (distReduce m != 0 && (distQp m != 0 || distQpEn m)) ||
      (match distGate m with
       | 2 => fld p1 15 10 != 0 || fld p1 63 32 != 0
       | 3 => false
       | _ => p1 != 0)
  | 5 => bitAt p0 7 || fld p0 63 19 != 0 || (!eltQpEn m && eltQp m != 0)
  | 6 => fld p0 7 2 != 0 || fld p0 63 24 != 0 || fld p1 63 48 != 0
  | 8 => fld p0 63 44 != 0 || p1 != 0
  | 16 => fld p0 63 33 != 0 || p1 != 0
  | 17 => fld p0 63 50 != 0
  | _ => p0 != 0 || p1 != 0

/-- Reserved values of encoded fields (R144, R147, R152, R154, R159). -/
def macroEncoding (m : Nat) : Bool :=
  match mOp m with
  | 2 => mGroups m == 0
  | 3 => mGroups m == 0 || mGroups m > 8
  | 4 => distCell m > 4 || distReduce m > 3 || distGate m == 3 ||
      (if distReduce m == 3 then distK m == 0 || distK m > 4 else distK m != 0)
  | 5 => eltOp m > 8
  | 6 => poolMode m == 3
  | 17 => fld (mP0 m) 49 48 > 1
  | _ => false

/-- A check on an operand that exists; an index out of range is VERIFY_COUNT's concern. -/
def onD (o : Option Nat) (f : Nat → Bool) : Bool := match o with | some d => f d | none => false

/-- The descriptors of a macro word. -/
structure Ops where
  dst  : Option Nat
  s0   : Option Nat
  s1   : Option Nat
  s2   : Option Nat
  qp   : Option Nat
  init : Option Nat
  box  : Option Nat
deriving DecidableEq, Repr

/-- Descriptor indices that a macro word names. -/
def namedIdx (m : Nat) : List Nat :=
  let u := usedFields m
  (if u.1 then [mDst m] else []) ++ (if u.2.1 then [mSrc0 m] else []) ++
  (if u.2.2.1 then [mSrc1 m] else []) ++ (if u.2.2.2 then [mSrc2 m] else []) ++
  (match mOp m with
   | 1 | 2 | 3 => (if mQpEn m then [mQp m] else []) ++ (if mInitEn m then [mInit m] else [])
   | 4 => (if distQpEn m then [distQp m] else []) ++ (if distGate m == 2 then [fld (mP1 m) 9 0] else [])
   | 5 => if eltQpEn m then [eltQp m] else []
   | _ => [])

def opsOf (ds : List Nat) (m : Nat) : Ops :=
  let u := usedFields m
  let g (b : Bool) (i : Nat) : Option Nat := if b then ds[i]? else none
  { dst := g u.1 (mDst m), s0 := g u.2.1 (mSrc0 m), s1 := g u.2.2.1 (mSrc1 m)
    s2 := g u.2.2.2 (mSrc2 m)
    qp := match mOp m with
      | 1 | 2 | 3 => g (mQpEn m) (mQp m)
      | 4 => g (distQpEn m) (distQp m)
      | 5 => g (eltQpEn m) (eltQp m)
      | 7 => g true (mSrc1 m)
      | _ => none
    init := match mOp m with | 1 | 2 | 3 => g (mInitEn m) (mInit m) | _ => none
    box := g (mOp m == 4 && distGate m == 2) (fld (mP1 m) 9 0) }

def tIn (l : List Nat) (o : Option Nat) : Bool := onD o fun d => !l.contains (dType d)

/-- DST type of a macro-instruction that may requantise. -/
def dstTypeBad (qpEn : Bool) (o : Option Nat) : Bool := if qpEn then tIn [0, 1] o else tIn [6] o

/-- VERIFY_DTYPE (R86, R143, R148, R153, R154, R163, R197, R222, R250, R270). -/
def macroDtype (m : Nat) (o : Ops) : Bool :=
  let same (a b : Option Nat) : Bool := onD a fun x => onD b fun y => dType x != dType y
  let plain := [0, 1, 5, 6, 7, 8, 9]
  tIn [6] o.qp || tIn [6] o.init || (mFuseOut m && tIn [0, 1] o.dst) ||
  match mOp m with
  | 1 => tIn [0, 1, 4] o.s0 || tIn [0, 1, 2, 3, 4] o.s1 || dstTypeBad (mQpEn m) o.dst
  | 2 => tIn [0, 1, 4] o.s0 || tIn [0, 1, 2, 3, 4] o.s1 || dstTypeBad (mQpEn m) o.dst ||
      (onD o.s0 fun d => dType d == 4 && mGroups m > 1 && dC d / max 1 (mGroups m) % 32 != 0)
  | 3 => tIn [0, 1] o.s0 || tIn [0, 1, 2, 3] o.s1 || dstTypeBad (mQpEn m) o.dst
  | 4 => (if distCell m == 3 then tIn [5] o.s0 || tIn [5] o.s1 else tIn [0, 1] o.s0 || tIn [0, 1] o.s1) ||
      same o.s0 o.s1 || (distGate m == 1 && tIn [5] o.s2) || (distGate m == 2 && (tIn [6] o.s2 || tIn [6] o.box)) ||
      (if distReduce m == 0 then dstTypeBad (distQpEn m) o.dst else tIn [6] o.dst)
  | 5 =>
    let num := [0, 1, 6, 7, 8, 9]
    tIn num o.s0 || tIn num o.dst ||
    (eltOp m == 6 && (tIn [0, 1] o.s0 || tIn [0, 1] o.s1)) ||
    (eltOp m ≤ 4 && (tIn num o.s1 ||
      (onD o.s0 fun a => onD o.s1 fun b =>
        !((isIntType (dType a) && isIntType (dType b)) || (isFloatType (dType a) && dType a == dType b))))) ||
    (if eltQpEn m then tIn [0, 1] o.dst || (onD o.s0 fun a => isFloatType (dType a))
     else eltOp m != 7 && same o.s0 o.dst)
  | 6 =>
    tIn [0, 1, 7, 8, 9] o.s0 || tIn [0, 1, 7, 8, 9] o.dst ||
    (onD o.s0 fun a => onD o.dst fun b =>
      !((dType a ≤ 1 && dType b ≤ 1) || (isFloatType (dType a) && dType a == dType b)))
  | 7 => tIn [6, 9] o.s0 || tIn [0, 1] o.dst
  | 8 => tIn [6] o.s0 || tIn [6] o.dst || (onD o.s0 fun d => dC d != 4) || (onD o.dst fun d => dC d != 4)
  | 9 | 10 => tIn [6] o.s1 || tIn plain o.s0 || tIn plain o.dst
  | 11 => tIn plain o.s0 || tIn plain o.dst
  | _ => false

/-- R145 for one dimension: sizes in and out, pads, dilation, kernel, stride. -/
def windowOk (i out p0 p1 dil k st : Nat) : Bool :=
  dil * (k - 1) + 1 ≤ i + p0 + p1 && out == (i + p0 + p1 - dil * (k - 1) - 1) / st + 1

def dims (d : Nat) : Nat × Nat × Nat × Nat := (dN d, dH d, dW d, dC d)

/-- R145 for a window macro-instruction with kernel kh × kw. -/
def windowShape (m a b kh kw : Nat) : Bool :=
  dN a == dN b && windowOk (dH a) (dH b) (mPadT m) (mPadB m) (mDilH m) kh (mStrideH m) &&
  windowOk (dW a) (dW b) (mPadL m) (mPadR m) (mDilW m) kw (mStrideW m)

def qpShapeBad (o : Ops) : Bool :=
  onD o.qp fun q => dLayout q != 0 || dPos q != 1 ||
    (onD o.dst fun t => dC q != 2 && dC q != 2 * dC t)

def initShapeBad (o : Ops) : Bool :=
  onD o.init fun i => dPos i != 1 || dN i != 1 || (onD o.dst fun t => dC i != dC t)

/-- VERIFY_SHAPE (R143, R145, R146, R148, R150, R153, R156, R157, R222). -/
def macroShape (m : Nat) (o : Ops) : Bool :=
  qpShapeBad o || initShapeBad o ||
  (onD o.s0 fun a => onD o.dst fun t =>
    match mOp m with
    | 1 => dPos t != dPos a || (onD o.s1 fun w => dC a != dC w || dC t != dN w)
    | 2 => onD o.s1 fun w =>
        let g := max 1 (mGroups m)
        !windowShape m a t (dH w) (dW w) || dC t != dN w || dC a % g != 0 || dC t % g != 0 ||
        dC w != dC a / g || dH w > 16 || dW w > 16
    | 3 => onD o.s1 fun w =>
        !windowShape m a t (dH w) (dW w) || dN w != dC a * mGroups m || dC t != dN w || dC w != 1 ||
        dH w > 16 || dW w > 16
    | 4 => onD o.s1 fun w =>
        dC a != dC w || dPos t != dPos a ||
        dC t != (match distReduce m with | 0 => dN w | 1 => 1 | 2 => 2 | _ => 2 * distK m) ||
        (onD o.s2 fun x => dPos x != dPos a || dC x != (if distGate m == 1 then dN w else 2)) ||
        (onD o.box fun x => dPos x != dN w || dC x != 2)
    | 5 => dims a != dims t ||
        (onD o.s1 fun b =>
          if eltOp m == 6 then dPos b * dC b != 256
          else if eltBcast m then dPos b != 1 || dC b != dC a else dims b != dims a)
    | 6 => !windowShape m a t (poolKH m) (poolKW m)
    | 9 => onD o.s1 fun i => dC i != 1 || dPos i != dPos t
    | 10 => onD o.s1 fun i => dC i != 1 || dPos i != dPos a
    | 11 => dims a != dims t || dType a != dType t
    | _ => false)

/-- A fused link joins shapes that differ (the loader table). -/
def linkShapeBad (ds ms : List Nat) (i : Nat) : Bool :=
  mFuseOut (ms.getD i 0) && mFuseIn (ms.getD (i + 1) 0) &&
  onD ds[mDst (ms.getD i 0)]? fun a => onD ds[mSrc0 (ms.getD (i + 1) 0)]? fun b => dims a != dims b

/-- VERIFY_BOUNDS of operand placement (R159, R222, the loader table). -/
def macroBounds (n m : Nat) (o : Ops) : Bool :=
  let out (k : Nat) (x : Option Nat) : Bool := onD x fun d => !inMem k n d
  let outVec (x : Option Nat) : Bool := onD x fun d => !inMem 3 n d && !inMem 5 n d
  out 2 o.qp || out 2 o.init ||
  match mOp m with
  | 1 | 2 | 4 => out 3 o.s0 || out 3 o.s2 || out 2 o.s1
  | 3 => out 2 o.s1 || outVec o.s0 || outVec o.dst
  | 5 => outVec o.s0 || outVec o.s1 || outVec o.dst
  | 6 | 8 => outVec o.s0 || outVec o.dst
  | 17 =>
    let a := fld (mP0 m) 47 0
    !(oneMem a 8 && match memId a with | some (k, _) => k < 2 | none => false)
  | _ => false

/-- Output tiles of a macro-instruction (R175). -/
def tileCount (m a t : Nat) (s1 : Nat) : Nat :=
  match mOp m with
  | 1 | 2 => let x := geoOf (mOp m) a s1 t m; x.nrg * x.ncb
  | 4 => let x := geoOf 4 a s1 t m; if distReduce m = 0 then x.nrg * x.ncb else x.nrg
  | 3 | 6 => dN t * dH t * cdiv (dC t) 32
  | 5 | 7 => cdiv (dPos t * dC t) 4096
  | 8 => 1
  | 9 => dPos t
  | 10 => dPos a
  | 11 => let c := dCounts t; c.1 * c.2.1 * c.2.2
  | _ => 0

/-- VERIFY_COUNT (R166). -/
def macroCountBad (ds : List Nat) (m : Nat) (o : Ops) : Bool :=
  (namedIdx m).any (· ≥ ds.length) ||
  (onD o.s0 fun a => onD o.dst fun t => tileCount m a t (o.s1.getD 0) > 0xffffffff)

/-- VERIFY_K_LIMIT (R16). -/
def macroKBad (m : Nat) (o : Ops) : Bool :=
  onD o.s0 fun a => onD o.dst fun t => onD o.s1 fun w =>
    if isArrayOp (mOp m) then (geoOf (mOp m) a w t m).kb * 32 > 4194304
    else if mOp m == 3 then dH w * dW w * mGroups m > 4194304 else false

/-- Largest trg sum of two consecutive tiles of one macro-instruction, its first and its last trg
(R203). -/
def pairNeed (x : Geo) : Nat × Nat × Nat :=
  let last := trgOf x (x.nrg - 1)
  let inner :=
    if x.nrg ≥ 2 then (if x.ncb ≥ 2 ∨ x.nrg ≥ 3 then 2 * x.tr else x.tr + last)
    else if x.ncb ≥ 2 then 2 * last else last
  (inner, trgOf x 0, last)

/-- trg of the accumulator tile before macro `i` in its plane chain (R103, R203). -/
def prevTrg (ds ms : List Nat) : Nat → Option Nat
  | 0 => none
  | i + 1 =>
    let m := ms.getD i 0
    if isArrayOp (mOp m) then
      let o := opsOf ds m
      match o.s0, o.s1, o.dst with
      | some a, some w, some t => some (pairNeed (geoOf (mOp m) a w t m)).2.2
      | _, _, _ => none
    else if mOp m == 16 || mOp m == 18 || mOp m == 31 then none
    else prevTrg ds ms i

/-- VERIFY_ACC_CAPACITY at macro `i` (R203). -/
def macroAccBad (slots : Nat) (ds ms : List Nat) (i : Nat) (o : Ops) : Bool :=
  let m := ms.getD i 0
  isArrayOp (mOp m) &&
  (onD o.s0 fun a => onD o.s1 fun w => onD o.dst fun t =>
    let p := pairNeed (geoOf (mOp m) a w t m)
    p.1 > slots || (match prevTrg ds ms i with | some q => q + p.2.1 > slots | none => false))

/-- Members of the fusion chain before macro `i`, nearest first (R140, R196). -/
def chainBefore (ms : List Nat) : Nat → List Nat
  | 0 => []
  | i + 1 =>
    if mFuseIn (ms.getD (i + 1) 0) && mFuseOut (ms.getD i 0) then i :: chainBefore ms i else []

/-- Operand descriptors of a macro word. -/
def operandList (o : Ops) : List Nat :=
  [o.s0, o.s1, o.s2, o.qp, o.init, o.box].filterMap id

def allocOverlap (a b : Nat) : Bool :=
  overlaps (allocOf a).1 (allocOf a).2 (allocOf b).1 (allocOf b).2

/-- VERIFY_FUSION_SPACE at macro `i` (R197, the loader table). -/
def fusionSpaceBad (n : Nat) (ds ms : List Nat) (i : Nat) (o : Ops) : Bool :=
  let m := ms.getD i 0
  (mFuseOut m && onD o.dst fun t => !inMem 3 n t) ||
  (chainBefore ms i).any fun j =>
    let mj := ms.getD j 0
    let oj := opsOf ds mj
    (onD oj.dst fun t =>
      ((operandList o).any fun x => allocOverlap t x && !(j + 1 == i && some x == o.s0 && mDst mj == mSrc0 m)) ||
      (onD o.dst fun u => allocOverlap t u)) ||
    (onD o.dst fun u => (operandList oj).any fun x => allocOverlap u x)

/-- VERIFY_FUSION_LINK at macro `i` (R140). -/
def fusionLinkBad (ms : List Nat) (i : Nat) : Bool :=
  let m := ms.getD i 0
  (!canFuse (mOp m) && (mFuseIn m || mFuseOut m)) ||
  (mFuseOut m && !(match ms[i + 1]? with
    | some x => mFuseIn x && mSrc0 x == mDst m
    | none => false)) ||
  (mFuseIn m && !(i ≠ 0 && mFuseOut (ms.getD (i - 1) 0)))

/-- VERIFY_CODEBOOK (R207). -/
def codebookBad (n : Nat) (o : Ops) : Bool :=
  onD o.s1 fun w =>
    (dType w == 2 || dType w == 3) &&
    (dAux w == 0 || memId (dAux w) != some (2, n) ||
     dAuxLines w < cdiv (dN w) 32 * (if dType w == 2 then 1 else 5) ||
     overlaps (dAux w) (dAuxLines w * 64) (allocOf w).1 (allocOf w).2)

/-- Scale blocks of a BS8 tensor (R212). -/
def scaleBlocks (d : Nat) : Nat := dPos d * cdiv (dC d) 32

/-- VERIFY_SCALE (R213). -/
def scaleBad (ds : List Nat) (o : Ops) : Bool :=
  [o.s0, o.s1].any fun x => onD x fun d =>
    dType d == 4 &&
    (dAux d == 0 || memId (dAux d) != memId (dBase d) || dAuxLines d < cdiv (4 * scaleBlocks d) 64 ||
     ds.any fun e => overlaps (dAux d) (dAuxLines d * 64) (allocOf e).1 (allocOf e).2)

/-- Failures of macro `i`, in ascending code (R201). -/
def macroChecks (slots n : Nat) (ds ms : List Nat) (i : Nat) : List (Nat × Bool) :=
  let m := ms.getD i 0
  if opKnown (mOp m) then
    let o := opsOf ds m
    [ (2, macroReserved m),
      (4, macroEncoding m || (mOp m == 31) != (i + 1 == ms.length)),
      (5, macroDtype m o), (6, macroShape m o || linkShapeBad ds ms i),
      (7, mOp m == 17 && fld (mP0 m) 47 0 % 8 != 0),
      (8, macroBounds n m o), (9, macroCountBad ds m o), (10, macroKBad m o),
      (11, macroAccBad slots ds ms i o),
      (12, (chainBefore ms i).length ≥ 4),
      (13, fusionSpaceBad n ds ms i o), (14, fusionLinkBad ms i),
      (15, codebookBad n o), (16, scaleBad ds o) ]
  else [(2, fld m 15 10 != 0 || fld m 63 56 != 0), (3, true)]

/-! ## Tables (R133 to R136) -/

def rwtRises (t : List (Nat × Nat)) (i : Nat) : Bool :=
  i ≠ 0 && ((t.getD (i - 1) (0, 0)).1 < (t.getD i (0, 0)).1 ||
            (t.getD (i - 1) (0, 0)).2 < (t.getD i (0, 0)).2)

/-- Failures of save-list entry `i`; `raw` is its 128-bit number. -/
def saveChecks (n : Nat) (sv : List (Nat × Nat)) (raw i : Nat) : List (Nat × Bool) :=
  let e := sv.getD i (0, 0)
  let len := e.2 * 64
  [ (2, fld raw 63 48 != 0 || fld raw 127 96 != 0),
    (4, e.2 == 0 || e.2 > 65536),
    (7, e.1 % 64 != 0),
    (20, e.1 + len > 0x1000000 || !jobRange n (coreWin n + e.1) len ||
      ((sv.take i).any fun f => overlaps e.1 len f.1 (f.2 * 64)) ||
      ((sv.take (i + 1)).map (·.2)).sum * 64 > 0x400000) ]

/-! ## Header (R123 to R125, R129 to R131) -/

/-- Sections of an image after the header: offset and bytes. -/
def sections (h : JobHdr) : List (Nat × Nat) :=
  [(h.macroOff, 32 * h.macroCount), (h.descOff, 64 * h.descCount)] ++
  (if h.rwtOff = 0 then [] else [(h.rwtOff, 8 * h.macroCount)]) ++
  (if h.saveOff = 0 then [] else [(h.saveOff, 16 * h.saveCount)])

def sectionsOk (h : JobHdr) : Bool :=
  let l := sections h
  l.all (fun x => x.1 % 64 == 0 && 0x80 ≤ x.1 && x.1 + x.2 ≤ h.imageBytes) &&
  (List.range l.length).all fun i => (List.range i).all fun j =>
    !overlaps (l.getD i (0, 0)).1 (l.getD i (0, 0)).2 (l.getD j (0, 0)).1 (l.getD j (0, 0)).2

/-- The fixed fields, sizes and placement of an image. -/
def headerOk (base : Nat) (h : JobHdr) : Bool :=
  h.magic == jobMagic && h.version == 1 && h.hdrBytes == 128 &&
  h.imageBytes % 64 == 0 && 256 ≤ h.imageBytes && h.imageBytes ≤ 1048576 &&
  base % 64 == 0 && base + h.imageBytes ≤ hbmEnd && sectionsOk h

def headerReserved (s : State) (base : Nat) : Bool :=
  let w (o n : Nat) : Nat := peekNat s (base + o) n
  fld (w 0xc 4) 31 2 != 0 || w 0x2e 2 != 0 || w 0x37 1 != 0 || fld (w 0x40 4) 31 6 != 0 ||
  fld (w 0x48 4) 31 5 != 0 || w 0x4c 48 != 0

/-- R130 for a primary image; `fixed` is the mode of its partition. -/
def coreMaskBad (fixed dlb : Bool) (mask : Nat) : Bool :=
  let n := (setBits 24 mask).length
  if fixed then n != 1 || dlb else n == 0

/-! ## One image, and a job -/

/-- What the loader knows of the job besides its image. -/
structure LoadCtx where
  core  : Nat
  fixed : Bool
  part  : Nat
  bad   : List Nat := []                -- lines whose read was answered with another code than OK
deriving DecidableEq, Repr

/-- A core outside the partition counts as ABSENT (R422). -/
def maskAbsent (s : State) (part mask : Nat) : Bool :=
  (setBits 24 mask).any fun n => coreAbsent s n || partOfCore s n != part

/-- Failures of a header that can be read, in ascending code (R129 to R131, R202). -/
def headerFail (s : State) (x : LoadCtx) (fb : Bool) (base : Nat) : Option Nat :=
  let h := parseHdr (peek s base 128)
  firstFail
    [ (1, !crcOk s base h), (2, headerReserved s base),
      (4, h.macroCount == 0 || h.macroCount > 4096 || h.descCount == 0 || h.descCount > 1024 ||
          h.saveCount > 16 || (h.saveOff == 0 && h.saveCount != 0) || (x.fixed && h.slotTicks == 0)),
      (18, !fb && (coreMaskBad x.fixed h.dlb h.coreMask || maskAbsent s x.part h.coreMask ||
           !h.coreMask.testBit x.core)),
      (19, if fb then !h.isFallback || h.fallback != 0 else h.isFallback) ]

/-- First failure of an image behind its header: VERIFY code and DETAIL (R167, R168, R201). -/
def bodyFail (s : State) (x : LoadCtx) (base : Nat) : Option (Nat × Nat) :=
  let h := parseHdr (peek s base 128)
  let st := loadStore s base
  let ds := st.descs
  let ms := st.macros
  match (List.range ds.length).find? fun i => (firstFail (descChecks x.core (ds.getD i 0))).isSome with
  | some i => some ((firstFail (descChecks x.core (ds.getD i 0))).getD 0, 0x8000 + i)
  | none =>
    let f (i : Nat) : Option Nat := firstFail (macroChecks (ringSlots s) x.core ds ms i)
    match (List.range ms.length).find? fun i => (f i).isSome with
    | some i => some ((f i).getD 0, i)
    | none =>
      match (List.range st.rwt.length).find? fun i => rwtRises st.rwt i with
      | some i => some (4, 0xc000 + i)
      | none =>
        let g (i : Nat) : Option Nat :=
          firstFail (saveChecks x.core st.save (peekNat s (base + h.saveOff + 16 * i) 16) i)
        match (List.range st.save.length).find? fun i => (g i).isSome with
        | some i => some ((g i).getD 0, 0xe000 + i)
        | none => none

/-- First line of a range that holds an uncorrectable error. -/
def unreadAt (s : State) (a n : Nat) : Option Nat :=
  if badAt s a n then (lineStarts a n).find? fun l => badAt s (l / 64 * 64) 64 else none

/-- First failure of an image at `base`; `fb` for a fallback image, whose header has been read. An image
whose header is in order is copied, and then checked (R126, R168). -/
def imageFail (s : State) (x : LoadCtx) (fb : Bool) (base : Nat) : Option Reject :=
  let h := parseHdr (peek s base 128)
  match if fb then none else unreadAt s base 128 with
  | some a => some { fb := fb, unread := some a }
  | none =>
    if headerOk base h = false then some { code := 1, fb := fb }
    else
      match unreadAt s base h.imageBytes with
      | some a => some { fb := fb, unread := some a }
      | none =>
        match headerFail s x fb base with
        | some c => some { code := c, fb := fb }
        | none => (bodyFail s x base).map fun r => { code := r.1, detail := r.2, fb := fb }

/-- Ticks that the fallback adds to verification: its own part, or 1,100 when its header
cannot be read (R200). -/
def fbTicks (s : State) (fb : Nat) : Nat :=
  let readable := fb % 64 = 0 ∧ fb + 128 ≤ hbmEnd ∧ respOf s .sched fb = .ok ∧ !badAt s fb 128
  if fb = 0 then 0 else if readable then verifyTicks (parseHdr (peek s fb 128)) else 1100

/-- Verification time of a job (R200). -/
def verifyTime (s : State) (base : Nat) : Nat :=
  let h := parseHdr (peek s base 128)
  verifyTicks h + fbTicks s h.fallback

/-- Remaining work of the first macro-instruction in ticks at a divider (R134, R204). -/
def remTicks (t : List (Nat × Nat)) (i d : Nat) : Nat :=
  cdiv ((t.getD i (0, 0)).1 * d) 12 + (t.getD i (0, 0)).2

/-- The dependency word of a slot fails (R204). -/
def depFails (s : State) (core : Nat) (bad : List Nat) (k : Slot) : Bool :=
  k.depEn &&
  (k.depAddr % 8 != 0 || (match memId k.depAddr with | some (x, _) => x > 1 | none => true) ||
   respOf s (.core (Fin.ofNat 24 core)) k.depAddr != .ok || badAt s k.depAddr 8 ||
   bad.contains (k.depAddr / 64) ||
   peekNat s k.depAddr 8 < k.depMin)

/-- First failure of a job in the order of R168, with the divider, fenced slots and plan identity in
force at its start (R205). -/
def jobFail (s : State) (x : LoadCtx) (k : Slot) (div planId : Nat) : Option Reject :=
  let h := parseHdr (peek s k.image 128)
  match imageFail s x false k.image with
  | some r => some r
  | none =>
    let fbF : Option Reject :=
      if h.fallback = 0 then none
      else if h.fallback % 64 ≠ 0 ∨ h.fallback + 128 > hbmEnd then some { code := 19, fb := true }
      else if respOf s .sched h.fallback ≠ .ok ∨ badAt s h.fallback 128 ∨ x.bad.contains (h.fallback / 64) ∨
          x.bad.contains (h.fallback / 64 + 1) then some { code := 1, fb := true }
      else imageFail s x true h.fallback
    match fbF with
    | some r => some r
    | none =>
      let st := loadStore s k.image
      if x.fixed ∧ verifyTime s k.image + remTicks st.rwt 0 div > h.slotTicks then some { code := 17, fb := false }
      else if x.fixed ∧ h.planId ≠ planId then some { code := 17, fb := false }
      else if depFails s x.core x.bad k then some { code := 17, detail := 0xfffe, fb := false } else none

end Sys2Proof.Machine
end

