-- ==== Sys2Proof/Machine/JobOps.lean ====
section
/-! DEFINITION. The life of a job on a core: launch, accounting, statistics at a run's end,
completion records, save and restore, and the start of a takeover (chapters 04, 06, 11, 14). A stop
under R116 takes effect at once, since every micro-step is whole (log entry 16). -/

namespace Sys2Proof.Machine

/-- A logical core as a requester. -/
def coreSrc (n : Nat) : Src := .core (Fin.ofNat 24 n)
def corePage (n : Nat) : Page := .core (Fin.ofNat 24 n)

/-- `n` free bytes, for contents whose layout or value the manual leaves open. -/
def freeBytes (n : Nat) (s : State) : List Byte × State :=
  ((List.range n).map fun i => (Config.freeValue (s.free + i)).setWidth 8, { s with free := s.free + n })

/-! ## Free cores, modes, holds -/

/-- A page is halted by HALT or by ENABLE = 0 (R610, R611). -/
def haltOn (s : State) (p : Page) : Bool := (s.hdr p).halt || !(s.hdr p).enable

/-- A core is busy: an ACTIVE job, a takeover, a fence, HALT, or a slice (R429, R556, R610, R612). -/
def coreBusy (s : State) (n : Nat) : Bool :=
  (s.core n).job.isSome || inTakeover s n || coreFenced s n || haltOn s (corePage n) || (s.core n).slice

/-- Scheduling register of a partition (R428). -/
def partReg (s : State) (p : Nat) : W32 := s.hif.partSched.getD p 0
def partShare (s : State) (p : Nat) : Bool := rbit (partReg s p) 0
def ctxShare (s : State) (c : Nat) : Bool := partShare s (s.ctx c).part

/-- A context is held: HOLD, QUIESCE, the safe state, or its partition's reset (R426, R492, R581,
R585). -/
def ctxHeld (s : State) (c : Nat) : Bool :=
  (s.ctx c).held || s.mgt.quiesce || s.mgt.safe ||
  (s.mesh.rstBusy && s.mesh.rstPart == (s.ctx c).part)

/-- Count in a context's counter area (R427). -/
def ctxCount (c off : Nat) (s : State) : State := bump32 .sched ((s.ctx c).stateBase + off) s

/-! ## Launch -/

/-- A launch reaches a core: START_TICK, and verification begins, which sets the planes, the vector
registers, the reduction store and the NMS flag store to 0 (R4, R200, R205, R424, R601). -/
def launch (n c k : Nat) (s : State) : State :=
  let sl := s.slot c k
  let h := parseHdr (peek s sl.image 128)
  let s := s.onSlot c k fun x => { x with state := .active, saved := none }
  s.onCore n fun x =>
    { x with
      job := some { ctx := c, slot := k, startTick := s.now, heldFrom := s.up, acctTick := s.up
                    jobId := h.jobId, cplRing := h.cplRing, priDeadline := h.deadline
                    div := divider s, planId := s.mesh.planId.toNat }
      phase := .verify, due := s.up + verifyTime s sl.image, store := {}
      mask := none, maskAll := false, batchSize := 0, sat := List.replicate 1024 0
      walk := none, drains := [], ring := 0, chain := none, codebook := none, redStore := [], wait := none
      stopWhy := .none, plane0 := {}, plane1 := {}, vregs := List.replicate 8192 0, nmsFlags := [] }

/-! ## Accounting (R440, R441) -/

/-- Charge ARRAY with the ticks since the last charge. -/
def chargeArray (n : Nat) (s : State) : State :=
  match (s.core n).job with
  | some j =>
    let s := s.onCore n fun x => { x with job := x.job.map fun j => { j with acctTick := s.up } }
    account .sched (32 * j.ctx) (s.up - j.acctTick) s
  | none => s

/-- Charge VECTOR of a job's context. -/
def chargeVector (n ticks : Nat) (s : State) : State :=
  match (s.core n).job with
  | some j => account .sched (32 * j.ctx + 8) ticks s
  | none => s

/-! ## Statistics at the end of a run (R236 to R244) -/

/-- Start a window with the settings in CORE_MSE_CTRL (R244). -/
def mseStart (m : MseCh) : MseCh :=
  { m with runTag := rfld m.ctrl 15 0, runEn := rbit m.ctrl 16, runWin := rfld m.ctrl 31 18
           sum := 0, cnt := 0, runs := 0 }

/-- The open window becomes the closed one (R242). -/
def mseClose (m : MseCh) : MseCh :=
  mseStart { m with cSum := m.sum, cCnt := m.cnt, limited := m.sum == 2 ^ 48 - 1
                    overrun := m.overrun || m.unread, unread := true }

/-- A contributing run of a channel ends: the channel and whether its window closed. -/
def mseRun (m : MseCh) : MseCh × Bool :=
  if m.runs = m.runWin then (mseClose m, true) else ({ m with runs := m.runs + 1 }, false)

/-- A job run ends: a core's channels that it gathered into count it, windows close and raise MSE_READY. -/
def mseRunEndAt (n hit : Nat) (s : State) : State :=
  let r := (s.core n).mse.mapIdx fun i m => if hit.testBit i then mseRun m else (m, false)
  let s := s.onCore n fun x => { x with mse := r.map (·.1) }
  if r.any (·.2) then setInt (corePage n) 9 s else s

/-- A job run ends for every core on which it gathered (R242, R439). -/
def mseRunEnd (hit : Nat) (s : State) : State :=
  (List.range 24).foldl (fun s n =>
    if hit / 16 ^ n % 16 = 0 then s else mseRunEndAt n (hit / 16 ^ n % 16) s) s

/-- Descriptors whose count exceeds SAT_THRESH (R238). -/
def drifted (st : JobStore) (sat : List Nat) : List Nat :=
  (List.range st.descs.length).filter fun i =>
    dThresh (st.descs.getD i 0) < sat.getD i 0 && dThresh (st.descs.getD i 0) != 0xffffffff

/-- A CAL_DRIFT record (R395, R402). -/
def driftRec (j : Job) (d i cnt now : Nat) : List Byte :=
  recHead 0 8 0 0 j.ctx false j.inFallback false now ++
  leBytes 4 j.jobId ++ leBytes 4 (dTag d + i * 65536) ++ leBytes 4 cnt ++ leBytes 4 (dThresh d) ++
  List.replicate 32 0

/-- The image's run ends: drift records ahead of the completion record, and MSE windows. -/
def endRun (n : Nat) (j : Job) (st : JobStore) (sat : List Nat) (s : State) : State :=
  let l := drifted st sat
  let s := l.foldl (fun s i =>
    handOff (whoCore n) j.cplRing false
      (driftRec j (st.descs.getD i 0) i (sat.getD i 0) s.now) s) s
  let s := if l = [] then s else setInt (corePage n) 8 s
  mseRunEnd j.mseHit s

/-! ## Completion records (R170 to R174) -/

def jsDone : Nat := 0
def jsPartial : Nat := 1
def jsFallback : Nat := 2
def jsPreempted : Nat := 3
def jsAborted : Nat := 4
def jsSkew : Nat := 5
def jsRejected : Nat := 6

def cplFlags (j : Job) (x : CplNote) : Nat :=
  b2n j.inFallback + 2 * b2n j.lateBeat + 4 * b2n j.indexOor + 8 * b2n (x.sat > 0) +
  16 * b2n j.spareTaken + 32 * b2n j.restored

/-- The 64 bytes of a completion record. -/
def cplBytes (j : Job) (x : CplNote) (seq now : Nat) : List Byte :=
  leBytes 4 j.jobId ++ leBytes 4 (x.status + x.verify * 256 + cplFlags j x * 65536) ++
  leBytes 4 (x.stop + x.detail * 65536) ++ leBytes 4 x.prog ++ leBytes 8 j.startTick ++
  leBytes 8 now ++ leBytes 8 x.ticks ++ leBytes 4 x.sat ++
  leBytes 4 (j.ctx + j.slot * 256 + x.core * 65536 + j.preempts * 2 ^ 24) ++ leBytes 4 j.fbId ++
  leBytes 4 (j.fbAt + min 65535 j.skipped * 65536) ++ leBytes 4 seq ++ leBytes 4 0

/-- Hand a completion record to the Spout; the slot becomes EMPTY, and a context without a job loses a
positive deficit (R170, R424, R434). -/
def handComplete (j : Job) (x : CplNote) (s : State) : State :=
  let seq := (s.ctx j.ctx).seq
  let s := handOff x.who j.cplRing true (cplBytes j x seq s.now) s
  let s := s.onCtx j.ctx fun c => { c with seq := (c.seq + 1) % 2 ^ 32 }
  let s := s.onSlot j.ctx j.slot fun k => { k with state := .empty, saved := none }
  s.onCtx j.ctx fun c =>
    if c.slots.all (·.state == .empty) then { c with deficit := min c.deficit 0 } else c

/-- A completion line is free in the Spout's store for a ring, or the ring discards (R411, R412). -/
def cplRoom (s : State) (ring : Nat) : Bool :=
  !rbit (s.sptRing ring).cfg 31 ||
  (s.spt.waitCpl == [] && decide (((s.spt.arriving ++ s.spt.store).filter (·.cpl)).length < 256))

/-- A job has ended: its completion record is handed off; one that finds no completion line waits, and its
slot with it (R411). -/
def complete (j : Job) (x : CplNote) (s : State) : State :=
  if cplRoom s j.cplRing then handComplete j x s
  else (s.onSlot j.ctx j.slot fun k => { k with state := .active, saved := none }).onSpt fun p =>
    { p with waitCpl := p.waitCpl ++ [(j, x)] }

/-- Jobs that wait for a completion line hand off their records, in order, while there are lines or their
rings discard them (R411, R412). -/
def handWaiting (s : State) : State :=
  s.spt.waitCpl.foldl (fun s w =>
    if cplRoom (s.onSpt fun p => { p with waitCpl := [] }) w.1.cplRing then
      handComplete w.1 w.2 (s.onSpt fun p => { p with waitCpl := p.waitCpl.erase w })
    else s) s

/-- Record of a job that never held a core: rejected at validation, or VALID at DISABLE (R422,
R425). -/
def completeUnheld (c k jobId ring : Nat) (x : CplNote) (s : State) : State :=
  complete { ctx := c, slot := k, startTick := s.now, heldFrom := s.up, jobId := jobId, cplRing := ring }
    { x with core := 0xff, ticks := 0, who := whoCore 24 } s

/-- Last member of the fusion chain that macro `i` lies in (R172). -/
def chainEnd (ms : List Nat) : Nat → Nat → Nat
  | 0, i => i
  | fuel + 1, i => if mFuseOut (ms.getD i 0) then chainEnd ms fuel (i + 1) else i

/-- STOP_MACRO and PROGRESS of a job at its present place (R172, R177). -/
def stopPlace (st : JobStore) (j : Job) : Nat × Nat :=
  let l := chainEnd st.macros 4 j.mi
  if l = j.mi then (j.mi, j.progress) else (l, 0)

def satTotal (sat : List Nat) : Nat := min 0xffffffff sat.sum

/-- Ticks a job has held cores. -/
def heldTicks (j : Job) (up : Nat) : Nat := j.ticks + (up - j.heldFrom)

/-- The core gives up its job: engine state as before a launch. -/
def clearCore (x : Core) : Core :=
  { x with job := none, phase := .idle, store := {}, mask := none, maskAll := false, batchSize := 0
           walk := none, drains := [], chain := none, codebook := none, ring := 0, redStore := []
           wait := none, stopWhy := .none }

/-- Free a frame of a core. -/
def freeFrame (n f : Nat) (s : State) : State :=
  s.onCore n fun x => { x with frames := updAt x.frames f fun _ => false }

/-- Lines of a job's save list. -/
def saveLines (st : JobStore) : Nat := (st.save.map (·.2)).sum

/-- Injection entries of a beat that the active slot tables give a core's DMA towards the HBM stops (R451). -/
def dmaSlots (s : State) (n : Nat) : Nat :=
  (s.mesh.active.filter fun e =>
    e.1 / 5500 == clusterStop (clusterOf s n) && seInput e.2 == 5 && seAgent e.2 == coreAgent s n &&
      (seDest e.2 < 8 || 24 ≤ seDest e.2)).length

/-- Ticks in which a core's DMA moves lines to or from its save area; a core whose table gives it no entry
moves them in slots that the table does not count, at most one line a tick (R451; log entry 17). -/
def moveTicks (s : State) (n lines : Nat) : Nat :=
  64 + cdiv (lines * 1100) (if dmaSlots s n = 0 then 1100 else dmaSlots s n)

/-- A restore of a suspended job begins on a core (R450, R451). -/
def beginRestore (n c k : Nat) (s : State) : State :=
  match (s.slot c k).saved with
  | none => s
  | some v =>
    let s := s.onSlot c k fun x => { x with state := .active }
    let s := if v.core = n then s else ctxCount c 0x20 s
    s.onCore n fun x =>
      { x with
        job := some { v.job with heldFrom := s.up, acctTick := s.up }
        phase := .restore, store := v.store, sat := v.sat, wait := none, stopWhy := .none
        due := s.up + moveTicks s n (cdiv v.store.hdr.imageBytes 64 + 11648 + saveLines v.store) }

/-- A start that waits for a core's save (R429, R437) reaches the core when it is released, unless its
slot is no longer VALID or SUSPENDED or its context is held or disabled; a core that is busy takes it
into its start queue. A driver fence asked for takes effect (R612). -/
def releaseCore (n : Nat) (s : State) : State :=
  let s := s.onCore n fun x => { x with drvFence := x.drvFence || (s.hdr (corePage n)).fence }
  match s.sched.after.getD n none with
  | none => s
  | some (c, k) =>
    let s := s.onSched fun d => { d with after := updAt d.after n fun _ => none }
    if (s.ctx c).enabled && !ctxHeld s c then
      match (s.slot c k).state, coreBusy s n with
      | .valid, false => launch n c k s
      | .suspended, false => beginRestore n c k s
      | .valid, true => s.onSched fun d => { d with held := updAt d.held n fun q => (c, k) :: q }
      | _, _ => s
    else s

/-- Tell a takeover of the core that its job needs no (further) save. -/
def takeoverNoJob (n : Nat) (s : State) : State :=
  s.onMgt fun m =>
    { m with takeover := m.takeover.map fun t =>
        if t.target == .core (Fin.ofNat 24 n) && !t.saveDone then { t with saveDone := true, hasJob := false }
        else t }

/-- A job ends on its core with a status: counts, windows, account, record, release. A job that is
saved or restored gives its frame back. -/
def finishJob (n status : Nat) (s : State) : State :=
  match (s.core n).job with
  | none => s
  | some j =>
    let x := s.core n
    let s := chargeArray n s
    let ran := x.phase != .verify
    let sat := if ran then satTotal x.sat else 0
    let s := if ran then endRun n j x.store x.sat s else s
    let place := if x.phase = .fallbackLoad then (0, 0) else stopPlace x.store j
    let s :=
      if x.phase = .save then freeFrame n x.saveFrame s
      else if x.phase = .restore then
        match (s.slot j.ctx j.slot).saved with
        | some v => freeFrame v.core v.frame s
        | none => s
      else s
    let s := complete j
      { status := status, stop := place.1, prog := if status = jsAborted ∨ status = jsPreempted ∨ status = jsSkew then place.2 else 0
        detail := if status = jsPartial then j.firstSkip.getD 0 else 0
        sat := sat, core := n, ticks := heldTicks j s.up, who := whoCore n } s
    releaseCore n (takeoverNoJob n (s.onCore n clearCore))

/-- A job fails verification (R170, R171). -/
def rejectJob (n : Nat) (r : Reject) (s : State) : State :=
  match (s.core n).job with
  | none => s
  | some j =>
    let s := chargeArray n s
    let s := complete { j with inFallback := r.fb }
      { status := jsRejected, verify := r.code, detail := r.detail, core := n
        ticks := heldTicks j s.up, who := whoCore n } s
    releaseCore n (takeoverNoJob n (s.onCore n clearCore))

/-- A SUSPENDED job ends with the progress recorded at its save, and its frame is freed (R518). -/
def endSaved (status c k : Nat) (s : State) : State :=
  match (s.slot c k).saved with
  | none => s
  | some v =>
    let s := endRun v.core v.job v.store v.sat s
    let place := stopPlace v.store v.job
    let s := complete v.job
      { status := status, stop := place.1, prog := place.2, sat := satTotal v.sat
        core := v.core, ticks := v.job.ticks, who := whoCore v.core } s
    freeFrame v.core v.frame s

/-- A SUSPENDED job ends with JS_PREEMPTED (R425, R492, R562). -/
def discardSaved (c k : Nat) (s : State) : State := endSaved jsPreempted c k s

/-! ## Takeovers (R559 to R563) -/

/-- The spare chosen for a failed core: one of its cluster, or the lowest that remains (R561). -/
def chooseSpare (s : State) (phys : Nat) : Option Nat :=
  (s.mgt.coreSpares.find? (· / 4 == phys / 4)).or s.mgt.coreSpares.head?

/-- A logical core becomes ABSENT: no spare remains (R562). Its saved job ends. -/
def becomeAbsent (n : Nat) (s : State) : State :=
  let saved := (List.range 256).flatMap fun c => (List.range 64).filterMap fun k =>
    match (s.slot c k).saved with
    | some v => if v.core = n ∧ v.frame = 3 ∧ (s.slot c k).state = .suspended then some (c, k) else none
    | none => none
  let s := s.onMgt fun m =>
    { m with
      takeover := m.takeover.filter fun t => t.target != .core (Fin.ofNat 24 n)
      coreMap := updAt m.coreMap n fun e => { e with state := .absent } }
  let s := s.onCore n fun x => { x with mgmtFence := false }
  let s := setInt .mgt 11 (s.onHdr (corePage n) fun h => { h with ready := false })
  saved.foldl (fun s ck => discardSaved ck.1 ck.2 s) s

/-- A takeover without a spare ends once its save is over. -/
def settleLost (n : Nat) (s : State) : State :=
  if s.mgt.takeover.any fun t => t.target == .core (Fin.ofNat 24 n) && t.spare.isNone && t.saveDone then
    becomeAbsent n s
  else s

/-- A takeover of a logical core starts: fence, spare, defect, and a stop of its job (R559 to R561,
R565). One already under way goes on alone (R563). -/
def startTakeover (n cause : Nat) (s : State) : State :=
  if inTakeover s n || coreAbsent s n then s
  else
    let phys := physCore s n
    let sp := chooseSpare s phys
    let busy := (s.core n).job.isSome
    let s := s.onMgt fun m =>
      { m with
        coreSpares := m.coreSpares.filter fun p => some p != sp
        coreMap := updAt m.coreMap n fun e => { e with state := .fenced }
        takeover := m.takeover ++
          [{ target := .core (Fin.ofNat 24 n), cause := cause, detected := s.up, failed := phys
             spare := sp, stage := .powering, goodAt := s.up + 23100, saveDone := !busy
             hasJob := false, mapBeat := none }] }
    let s := s.onFlash fun f =>
      { f with unsaved := f.unsaved ++
          [{ kind := 1, phys := phys, cause := cause, boots := f.boots, tick := s.now }] }
    let s := s.onCore n fun x =>
      { x with mgmtFence := true, stopWhy := if busy then .takeover else x.stopWhy }
    settleLost n s

/-- Tiles begun and not finished on the arrays: those whose passes run and those that drain. -/
def begunTiles (x : Core) : List (Nat × Nat) :=
  ((x.drains ++ x.walk.toList).map fun w => (w.mi, w.t)).eraseDups

/-- A begun tile is skipped (R112): its macro-instruction goes on after it. -/
def skipTile (t : Nat × Nat) (j : Job) : Job :=
  let a := j.act t.1
  { j.putAct { a with tile := max a.tile (t.2 + 1) } with
    skipped := j.skipped + 1, firstSkip := some (match j.firstSkip with | some k => min k t.1 | none => t.1) }

/-- Every tile that the core had begun and not finished is skipped: those on the arrays, and the one that
another unit works on, of macro-instruction `mi`. The ring pointer and the plane chain stand (R103,
R181). -/
def skipTiles (mi : Option Nat) (x : Core) : Core :=
  match x.job with
  | none => x
  | some j =>
    if x.phase == .run then
      let own := mi.toList.map fun i => (i, (j.act i).tile)
      { x with job := some ((begunTiles x ++ own).foldl (fun j t => skipTile t j) j), walk := none, drains := [] }
    else x

/-- An uncorrectable core error stops the job, skips the tiles in progress, and starts a takeover
(R112, R113, R559). -/
def coreFailed (n cause : Nat) (mi : Option Nat) (s : State) : State :=
  startTakeover n cause (s.onCore n (skipTiles mi))

/-- An uncorrectable error at an address of a core's memories (R112). -/
def coreFails (n addr : Nat) (mi : Option Nat) (s : State) : State :=
  let st := srcStop s (coreSrc n)
  coreFailed n 1 mi
    (raiseAddr (corePage n) 3 addr 6 st.1 st.2 (srcUnit s (coreSrc n)) s)

/-- Errors that other agents met in the memories of cores act (R112): the job stops, a takeover starts. -/
def coreMemFailures (s : State) : State :=
  if s.cores.any (·.memFail) then (List.range 24).foldl (fun s n =>
    if (s.core n).memFail then coreFailed n 1 none (s.onCore n fun x => { x with memFail := false }) else s) s
  else s

/-! ## Save and restore (R445 to R454) -/

def frameBase (s : State) (n f : Nat) : Nat :=
  pairAddr (s.core n).saveLo (s.core n).saveHi 23 + f * 0x800000

/-- Lowest free frame of 0 to 2 (R448). -/
def freeFrameOf (s : State) (n : Nat) : Option Nat :=
  (List.range 3).find? fun f => (s.core n).frames.getD f true == false

/-- A preemption other than a takeover can be saved. -/
def canSave (s : State) (n : Nat) : Bool := rbit (s.core n).saveLo 0 && (freeFrameOf s n).isSome

/-- The save of a job begins in a frame (R450, R451). -/
def beginSave (n f : Nat) (counts : Bool) (s : State) : State :=
  s.onCore n fun x =>
    { x with
      phase := .save, saveFrame := f, frames := updAt x.frames f fun _ => true
      due := s.up + moveTicks s n (11648 + saveLines x.store)
      job := x.job.map fun j =>
        { j with preempts := if counts then min 255 (j.preempts + 1) else j.preempts } }

/-- The unfenced accumulators of a core's four arrays: 160 bytes a slot (R93, R606). -/
def accRanges (s : State) (n : Nat) : List (Nat × Nat) :=
  (List.range 4).map fun a => (coreWin n + 0x400000 + a * 163840, ringSlots s * 160)

/-- The ranges of a job's save list in a core's memory. -/
def listRanges (s : State) (n : Nat) : List (Nat × Nat) :=
  (s.core n).store.save.map fun e => (coreWin n + e.1, e.2 * 64)

/-- Where a save frame's accumulator part takes its bytes: slot 0 of every array first (R449; log entry 82). -/
def accPlaces (s : State) (n : Nat) : List Nat :=
  (List.range (ringSlots s)).flatMap fun k =>
    (List.range 4).map fun a => coreWin n + 0x400000 + a * 163840 + k * 160

/-- The accumulators as a save reads them. A takeover's save goes on over words that hold an uncorrectable
error: they belong to skipped tiles, and what it reads there is free (R112, R560; log entry 26). -/
def accSaved (n : Nat) (s : State) : List Byte × State :=
  let ps := accPlaces s n
  let bs := ps.flatMap fun p => peek s p 160
  if (accRanges s n).any fun r => badAt s r.1 r.2 then
    let f := freeBytes bs.length s
    (((ps.flatMap fun p => (List.range 160).map (p + ·)).zip (bs.zip f.1)).map fun b =>
      if badAt s b.1 1 then b.2.2 else b.2.1, f.2)
  else (bs, s)

/-- Ranges whose uncorrectable errors end a save (R452). -/
def saveNeeds (s : State) (n : Nat) : List (Nat × Nat) :=
  if (s.core n).saveFrame = 3 then listRanges s n else accRanges s n ++ listRanges s n

/-- The bytes of a save frame (R449): parts whose layout the manual does not give are free. -/
def frameBytes (n : Nat) (s : State) : List (Nat × List Byte) × State :=
  let x := s.core n
  let ctl := freeBytes 4096 s
  let pl := freeBytes 16384 ctl.2
  let rd := freeBytes 57344 pl.2
  let ac := accSaved n rd.2
  ([(0, ctl.1), (0x1000, x.sat.flatMap (leBytes 4)), (0x2000, x.vregs), (0x4000, pl.1),
    (0x8000, rd.1), (0x16000, ac.1 ++ List.replicate (s.fuse.accFence * 640) 0),
    (0x100000, x.store.save.flatMap fun e => peek s (coreWin n + e.1) (e.2 * 64))], ac.2)

/-- Write a list of ranges in order; the first response that is not OK. -/
def writeAll (src : Src) : List (Nat × List Byte) → State → Resp × State
  | [], s => (.ok, s)
  | (a, bs) :: r, s =>
    match writeMem src a bs false s with
    | (.ok, t) => writeAll src r t
    | e => e

/-- The save is complete: the slot is SUSPENDED and the core released (R450). -/
def suspend (n : Nat) (s : State) : State :=
  match (s.core n).job with
  | none => s
  | some j =>
    let s := chargeArray n s
    let x := s.core n
    let v : Saved :=
      { job := { j with ticks := heldTicks j s.up, acctTick := s.up }
        store := x.store, mask := x.mask, maskAll := x.maskAll, batch := x.batchSize, sat := x.sat
        plane0 := x.plane0, plane1 := x.plane1, walk := x.walk, drains := x.drains, ring := x.ring
        chain := x.chain
        red := x.redStore, core := n, frame := x.saveFrame }
    let s := s.onSched fun d => { d with order := d.order + 1 }
    let s := s.onSlot j.ctx j.slot fun k =>
      { k with state := .suspended, saved := some v, order := s.sched.order }
    let s := s.onMgt fun m =>
      { m with takeover := m.takeover.map fun t =>
          if t.target == .core (Fin.ofNat 24 n) && !t.saveDone then { t with saveDone := true, hasJob := true }
          else t }
    settleLost n (releaseCore n (s.onCore n clearCore))

/-- Put a saved job's state back into a core. -/
def install (v : Saved) (sat : List Nat) (vregs : List Byte) (x : Core) : Core :=
  { x with phase := .run, store := v.store, mask := v.mask, maskAll := v.maskAll, batchSize := v.batch
           sat := sat, vregs := vregs, walk := v.walk, drains := v.drains, ring := v.ring, chain := v.chain
           plane0 := { v.plane0 with parity := List.replicate 32 true }
           plane1 := { v.plane1 with parity := List.replicate 32 true }, codebook := none, redStore := v.red }

/-- A list of bytes as little-endian words. -/
def wordsOf (k : Nat) : Nat → List Byte → List Nat
  | 0, _ => []
  | n + 1, bs => leNat (bs.take k) :: wordsOf k n (bs.drop k)

/-- The save-list ranges of a frame with their device addresses on core `n`. -/
def rangeWrites (n base : Nat) : List (Nat × Nat) → List (Nat × Nat × Nat)
  | [] => []
  | (off, ln) :: r => (coreWin n + off, base, ln * 64) :: rangeWrites n (base + ln * 64) r

end Sys2Proof.Machine
end

