-- ==== Sys2Proof/Machine/Sched.lean ====
section
/-! DEFINITION. The job scheduler: contexts, validation, fixed-plan starts, the share arbiter,
preemption, save and restore (chapter 11). A request for preemption is recorded by the step that makes
it; PREEMPT_REQUEST makes it take effect. -/

namespace Sys2Proof.Machine

/-! ## Context commands (R418, R419, R425, R426) -/

/-- An area of `n` bytes lies in HBM with an alignment. -/
def inHbm (a n al : Nat) : Bool := a % al == 0 && a + n ≤ hbmEnd

/-- The areas of a context: queue and counters. -/
def ctxAreas (q st : Nat) : List (Nat × Nat) := [(q, 2048), (st, 64)]

/-- Some area of a list overlaps one of another. -/
def areasMeet (l r : List (Nat × Nat)) : Bool :=
  l.any fun a => r.any fun b => overlaps a.1 a.2 b.1 b.2

/-- Codes of R282. -/
def okCode : Nat := 0
def badDescriptor : Nat := 1
def badFb : Nat := 2
def overlapCode : Nat := 3
def badState : Nat := 4

/-- A context descriptor breaks a range, an alignment or a reserved field (R418, R419). -/
def ctxDescBad (d : Nat) : Bool :=
  fld d 15 11 != 0 || fld d 63 32 != 0 || fld d 127 112 != 0 || fld d 191 176 != 0 ||
  fld d 511 192 != 0 || fld d 10 6 > 23 || fld d 31 16 == 0 ||
  !inHbm (fld d 111 64) 2048 64 || !inHbm (fld d 175 128) 64 64

/-- ENABLE of a job context: the code and the state (R419). -/
def ctxEnableOp (c : Nat) (s : State) : Nat × State :=
  let (r, bs, s) := readMem .sched (pairAddr s.hif.ctxTableLo s.hif.ctxTableHi 6 + 64 * c) 64 s
  let d := leNat bs
  let q := fld d 111 64
  let st := fld d 175 128
  if r ≠ .ok ∨ ctxDescBad d = true then (badDescriptor, s)
  else if overlaps q 2048 st 64 ∨ ((List.range 256).any fun k =>
      k != c && (s.ctx k).enabled &&
      areasMeet (ctxAreas q st) (ctxAreas (s.ctx k).queueBase (s.ctx k).stateBase)) = true then
    (overlapCode, s)
  else if (s.ctx c).enabled then (badState, s)
  else (okCode, s.onCtx c fun _ =>
    { enabled := true, held := false, part := fld d 2 0, urgent := bitAt d 3, preempt := bitAt d 4
      onValid := bitAt d 5, maxRun := fld d 10 6 + 1, weight := fld d 31 16
      queueBase := q, stateBase := st })

/-- One slot ends when its context is disabled (R425). -/
def disableSlot (c k : Nat) (s : State) : State :=
  match (s.slot c k).state with
  | .empty => s
  | .valid =>
    let h := parseHdr (peek s (s.slot c k).image 128)
    completeUnheld c k h.jobId h.cplRing
      { status := jsAborted, core := 0xff, ticks := 0, who := 0 } s
  | .active =>
    match (List.range 24).find? fun n =>
        (s.core n).job.any fun j => j.ctx == c && j.slot == k with
    | some n => finishJob n jsAborted s
    | none => s
  | .suspended => discardSaved c k s

def ctxDisableOp (c : Nat) (s : State) : Nat × State :=
  if (s.ctx c).enabled then
    let s := s.onCtx c fun x => { x with enabled := false }
    (okCode, (List.range 64).foldl (fun s k => disableSlot c k s) s)
  else (badState, s)

/-- Cores on which a job of a context is ACTIVE. -/
def ctxCores (s : State) (c : Nat) : List Nat :=
  (List.range 24).filter fun n => (s.core n).job.any fun j => j.ctx == c

/-- Record a request to preempt the job of a core; one already made stands. -/
def askPreempt (n : Nat) (s : State) : State :=
  s.onCore n fun x =>
    if x.job.isSome ∧ x.stopWhy = .none ∧ x.phase ≠ .save then { x with stopWhy := .preempt } else x

def holdOp (c : Nat) (s : State) : Nat × State :=
  if !(s.ctx c).enabled then (badState, s)
  else if (s.ctx c).held then (okCode, s)
  else
    let s := s.onCtx c fun x => { x with held := true }
    (okCode, (ctxCores s c).foldl (fun s n => askPreempt n s) s)

def unholdOp (c : Nat) (s : State) : Nat × State :=
  if !(s.ctx c).enabled then (badState, s)
  else (okCode, s.onCtx c fun x => { x with held := false })

/-- A write of HIF_CTX_CMD (R282, R419): GO runs the operation, which completes at once
(log entry 18). -/
def ctxCmdWrite (v : W32) (s : State) : State :=
  cmdWrite .hif 4 s.hif.ctxCmd v (fun v s =>
    let s := s.onHif fun h => { h with ctxCmd := { h.ctxCmd with cmd := v &&& 0x7ff#32 } }
    if rbit v 31 then
      let c := rfld v 7 0
      let r := match rfld v 10 8 with
        | 0 => ctxEnableOp c s
        | 1 => ctxDisableOp c s
        | 2 => holdOp c s
        | _ => unholdOp c s
      r.2.onHif fun h => { h with ctxCmd := { h.ctxCmd with code := r.1, done := true, ctx := c } }
    else s) s

/-- The word that commands operation `op` on a unit number. -/
def cmdWord (op c : Nat) : W32 := BitVec.ofNat 32 (2 ^ 31 + op * 256 + c)

def execCtxEnable (ctx : Fin 256) (s : State) : Out :=
  .next (hostWrite (ctxCmdWrite (cmdWord 0 ctx.val)) s)
def execCtxDisable (ctx : Fin 256) (s : State) : Out :=
  .next (hostWrite (ctxCmdWrite (cmdWord 1 ctx.val)) s)
def execHold (ctx : Fin 256) (s : State) : Out :=
  .next (hostWrite (ctxCmdWrite (cmdWord 2 ctx.val)) s)
def execUnhold (ctx : Fin 256) (s : State) : Out :=
  .next (hostWrite (ctxCmdWrite (cmdWord 3 ctx.val)) s)

/-! ## Starts (R429, R430, R437, R448) -/

/-- A core is free for a new start: not busy and not promised to another. -/
def coreFree (s : State) (n : Nat) : Bool := !coreBusy s n && (s.sched.after.getD n none).isNone

/-- The job of a core may be preempted for an URGENT start (R429, R437, R446). -/
def isVictim (s : State) (n : Nat) : Bool :=
  let x := s.core n
  match x.job with
  | some j =>
    !(s.ctx j.ctx).urgent && (s.ctx j.ctx).preempt && x.phase != .verify &&
    (s.sched.after.getD n none).isNone && !coreFenced s n
  | none => false

/-- An URGENT start asks for a core: the preemption is recorded, or refused for want of a frame
(R448); the flag says which. A job that already stops, or is saved, needs no further request. -/
def urgentAsk (n c k : Nat) (s : State) : Bool × State :=
  if (s.core n).phase = .save ∨ (s.core n).stopWhy ≠ .none then
    (true, s.onSched fun d => { d with after := updAt d.after n fun _ => some (c, k) })
  else if canSave s n then
    (true, askPreempt n (s.onSched fun d => { d with after := updAt d.after n fun _ => some (c, k) }))
  else
    let refused := (s.core n).job.any fun j => j.refusedFor.contains (c, k)
    let s := s.onCore n fun x => { x with job := x.job.map fun j =>
      { j with refusedFor := if refused then j.refusedFor else (c, k) :: j.refusedFor } }
    (false, if refused then s else ctxCount c 0x14 s)

/-- The single core of a fixed-plan CORE_MASK. -/
def maskCore (m : Nat) : Nat := (setBits 24 m).headD 0

/-- Hold a start in its core's queue of 8, or drop it (R429). -/
def holdStart (n c k : Nat) (s : State) : State :=
  if (s.sched.held.getD n []).length < 8 then
    ctxCount c 4 (s.onSched fun d => { d with held := updAt d.held n fun q => q ++ [(c, k)] })
  else ctxCount c 8 s

/-- A JOB_START delivered for a context and slot (R429). -/
def jobStartOp (c k : Nat) (s : State) : State :=
  if !(s.ctx c).enabled || ctxHeld s c || ctxShare s c || (s.ctx c).onValid then ctxCount c 0xc s
  else if (s.slot c k).state ≠ .valid then ctxCount c 0 s
  else
    let n := maskCore (s.slot c k).coreMask
    if coreFree s n then launch n c k s
    else if (s.ctx c).urgent && isVictim s n then
      let r := urgentAsk n c k s
      if r.1 then r.2 else holdStart n c k r.2
    else holdStart n c k s

/-- JOB_START: the action arrives 8 ticks after its issue (R48, R429). -/
def execJobStart (ctx : Fin 256) (slot : Fin 64) (s : State) : Out :=
  .next (match takeAction s 8 1 (fun a => a.target == ctx.val && a.arg16 == slot.val) with
    | some (_, s) => jobStartOp ctx.val slot.val s
    | none => s)

/-! ## Validation (R420 to R423, R430) -/

/-- A job is rejected at validation (R422); where its header cannot be read, what the record takes
from it is left open. -/
def rejectAtValidation (c k code : Nat) (h : Option JobHdr) (s : State) : State :=
  let id := s.takeFree
  let rg := id.2.takeFree
  let ids : (Nat × Nat) × State := match h with
    | some h => ((h.jobId, h.cplRing), s)
    | none => ((id.1.toNat % 2 ^ 32, rg.1.toNat % 64), rg.2)
  completeUnheld c k ids.1.1 ids.1.2
    { status := jsRejected, verify := code, detail := 0xffff, core := 0xff, ticks := 0, who := 0 } ids.2

/-- Validate one EMPTY slot (R421, R422), and start an ON_VALID job (R430). -/
def validate (c k : Nat) (s : State) : State :=
  let (r0, bs, s) := readMem .sched ((s.ctx c).queueBase + 32 * k) 32 s
  let e := leNat bs
  let img := fld e 47 0
  if r0 ≠ .ok ∨ img % 64 ≠ 0 ∨ img + 128 > hbmEnd then rejectAtValidation c k 1 none s
  else
    let (r, hb, s) := readMem .sched img 128 s
    if r ≠ .ok then rejectAtValidation c k 1 none s
    else
      let h := parseHdr hb
      let part := (s.ctx c).part
      if coreMaskBad (!partShare s part) h.dlb h.coreMask || maskAbsent s part h.coreMask then
        rejectAtValidation c k 18 (some h) s
      else
        let s := s.onSched fun d => { d with order := d.order + 1 }
        let s := s.onSlot c k fun _ =>
          { state := .valid, image := img, batch := fld e 111 64, depAddr := fld e 159 112
            depEn := bitAt e 160, depMin := fld e 255 192, coreMask := h.coreMask, dlb := h.dlb
            order := s.sched.order }
        if !partShare s part && (s.ctx c).onValid && !ctxHeld s c then
          let n := maskCore h.coreMask
          if coreFree s n then launch n c k s
          else if (s.ctx c).urgent && isVictim s n then (urgentAsk n c k s).2
          else s
        else s

/-- The slots that a doorbell or a privileged kick names become valid, or count as ignored (R421). -/
def validateMask (c mask : Nat) (s : State) : State :=
  if (s.ctx c).enabled then
    (setBits 64 mask).foldl (fun s k =>
      if (s.slot c k).state = .empty then validate c k s else ctxCount c 0x10 s) s
  else s

/-- Take the value of a delivered doorbell. -/
def takeDb (d : Nat) (s : State) : Option (Nat × State) :=
  match s.hif.dbOut.find? (·.1 == d) with
  | some x => some (x.2, s.onHif fun h => { h with dbOut := h.dbOut.erase x })
  | none => none

/-- CTX_DOORBELL: a delivered value validates slots; the safe state discards it (R421, R581). -/
def execCtxDoorbell (ctx : Fin 256) (s : State) : Out :=
  .next (match takeDb ctx.val s with
    | some (v, s) => if s.mgt.safe then s else validateMask ctx.val v s
    | none => s)

/-! ## A fixed-plan core becomes free (R431) -/

/-- Slots of all contexts with a property. -/
def slotsWith (s : State) (p : Nat → Slot → Bool) : List (Nat × Nat) :=
  (List.range 256).flatMap fun c => (List.range 64).filterMap fun k =>
    if p c (s.slot c k) then some (c, k) else none

/-- The entry of a list of slots with the largest or smallest order. -/
def byOrder (s : State) (newest : Bool) (l : List (Nat × Nat)) : Option (Nat × Nat) :=
  l.foldl (fun b x =>
    match b with
    | none => some x
    | some y =>
      let ox := (s.slot x.1 x.2).order
      let oy := (s.slot y.1 y.2).order
      if newest then (if ox > oy then some x else some y) else (if ox < oy then some x else some y))
    none

/-- A held start that is removed: its context is disabled or its slot not VALID (R431). -/
def startGone (s : State) (x : Nat × Nat) : Bool :=
  !(s.ctx x.1).enabled || (s.slot x.1 x.2).state != .valid

/-- The next job of a free fixed-plan core (R431). -/
def fixedNext (n : Nat) (s : State) : State :=
  let susp := slotsWith s fun c k =>
    k.state == .suspended && (s.ctx c).enabled && !ctxHeld s c && !ctxShare s c &&
    k.saved.any fun v => v.core == n
  match byOrder s true susp with
  | some (c, k) => beginRestore n c k s
  | none =>
    let s := s.onSched fun d => { d with held := updAt d.held n fun q => q.filter fun x => !startGone s x }
    match (s.sched.held.getD n []).find? fun x => !ctxHeld s x.1 with
    | some (c, k) =>
      launch n c k (s.onSched fun d => { d with held := updAt d.held n fun q => q.erase (c, k) })
    | none =>
      let wait := slotsWith s fun c k =>
        k.state == .valid && (s.ctx c).enabled && (s.ctx c).onValid && !ctxHeld s c &&
        !ctxShare s c && k.coreMask.testBit n
      match byOrder s false wait with
      | some (c, k) => launch n c k s
      | none => s

/-- CORE_FREE_SELECT. -/
def execCoreFreeSelect (core : Fin 24) (s : State) : Out :=
  .next (if coreFree s core.val ∧ ¬ partShare s (partOfCore s core.val) then fixedNext core.val s else s)

/-! ## Share mode (R434 to R439) -/

def dlbOn (s : State) (p : Nat) : Bool := rbit (partReg s p) 1

/-- The candidate job of a context: its oldest SUSPENDED, else its first VALID slot (R435). -/
def candidate (s : State) (c : Nat) : Option Nat :=
  let pick (st : SlotState) : Option Nat :=
    (byOrder s false (((List.range 64).filter fun k => (s.slot c k).state == st).map fun k => (c, k))).map (·.2)
  (pick .suspended).or (pick .valid)

/-- Slots of a context that are ACTIVE or SUSPENDED. -/
def running (s : State) (c : Nat) : Nat :=
  ((s.ctx c).slots.filter fun k => k.state == .active || k.state == .suspended).length

/-- A candidate may use a core (R435, R439, R445). -/
def mayUse (s : State) (p c k n : Nat) : Bool :=
  let sl := s.slot c k
  match sl.saved with
  | some v => v.core == n || (dlbOn s p && sl.dlb && v.frame != 3 && sl.coreMask.testBit n)
  | none => sl.coreMask.testBit n

/-- A context's candidate, when the context is eligible apart from a free core (R435). -/
def eligible (s : State) (c : Nat) : Option Nat :=
  if (s.ctx c).enabled && !ctxHeld s c && ctxShare s c then
    (candidate s c).filter fun k =>
      (s.slot c k).state == .suspended || decide (running s c < (s.ctx c).maxRun)
  else none

/-- Contexts of a partition. -/
def members (s : State) (p : Nat) : List Nat :=
  (List.range 256).filter fun c => (s.ctx c).enabled && (s.ctx c).part == p

/-- Rounds that make a context's deficit positive (R436). -/
def roundsFor (s : State) (p c : Nat) : Nat :=
  let d := (s.ctx c).deficit
  if d > 0 then 0 else (-d).toNat / (max 1 ((s.ctx c).weight * rfld (partReg s p) 31 16)) + 1

/-- Context of a list with the largest deficit, the lower number first (R436). -/
def largest (s : State) (l : List Nat) : Option Nat :=
  l.foldl (fun b c => match b with
    | none => some c
    | some d => if (s.ctx c).deficit > (s.ctx d).deficit then some c else some d) none

/-- Add rounds to every context of the partition with a VALID or SUSPENDED job (R436). -/
def refill (p r : Nat) (s : State) : State :=
  (members s p).foldl (fun s c =>
    if (s.ctx c).slots.any fun k => k.state == .valid || k.state == .suspended then
      s.onCtx c fun x => { x with deficit := x.deficit + (r * x.weight * rfld (partReg s p) 31 16 : Nat) }
    else s) s

/-- Eligible contexts of a class with a free core that the candidate may use. -/
def choices (s : State) (p : Nat) (urgent : Bool) (free : List Nat) : List Nat :=
  (members s p).filter fun c => (s.ctx c).urgent == urgent &&
    (eligible s c).any fun k => free.any fun n => mayUse s p c k n

/-- Give a free core to the context of a class that R436 chooses, if one is eligible. -/
def grant (p : Nat) (urgent : Bool) (s : State) : Option State :=
  let free := (List.range 24).filter fun n => coreFree s n && partOfCore s n == p
  let l := choices s p urgent free
  match l with
  | [] => none
  | _ =>
    let r := (l.map (roundsFor s p)).foldl min ((l.map (roundsFor s p)).headD 0)
    let s := if l.any fun c => (s.ctx c).deficit > 0 then s else refill p r s
    (largest s l).bind fun c => (eligible s c).bind fun k =>
      (free.find? fun n => mayUse s p c k n).map fun n =>
        if (s.slot c k).state = .suspended then beginRestore n c k s else launch n c k s

/-- The victim of an URGENT candidate: smallest deficit, then the lower core (R437). -/
def victimFor (s : State) (p c k : Nat) : Option Nat :=
  let defOf (n : Nat) : Int := match (s.core n).job with
    | some j => (s.ctx j.ctx).deficit
    | none => 0
  let open_ (n : Nat) : Bool := partOfCore s n == p && mayUse s p c k n && isVictim s n &&
    !((s.core n).job.any fun j => j.refusedFor.contains (c, k))
  ((List.range 24).filter open_).foldl (fun b n => match b with
    | none => some n
    | some m => if defOf n < defOf m then some n else some m) none

/-- An URGENT context preempts for its candidate (R437). -/
def urgentShare (p : Nat) (s : State) : State :=
  let asked := s.sched.after.filterMap fun x => x.map (·.1)
  let l := (members s p).filter fun c => (s.ctx c).urgent && !asked.contains c &&
    (eligible s c).any fun k => (victimFor s p c k).isSome
  match (largest s l).bind fun c => (eligible s c).bind fun k => (victimFor s p c k).map fun n => (c, k, n) with
  | some (c, k, n) => (urgentAsk n c k s).2
  | none => s

/-- SHARE_ARBITRATE: one choice of the arbiter of a share partition. -/
def execShareArbitrate (part : Fin 8) (s : State) : Out :=
  .next (if partShare s part.val then
      match grant part.val true s with
      | some t => t
      | none => match grant part.val false s with
        | some t => t
        | none => urgentShare part.val s
    else s)

/-- What a tick does to the deficits: each falls by the ACTIVE jobs of its context (R434). -/
def deficitTick (s : State) : State :=
  s.onSched fun d => { d with ctxs := d.ctxs.map fun c =>
    { c with deficit := c.deficit - ((c.slots.filter fun k => k.state == .active).length : Nat) } }

/-! ## Preemption, save, restore (R446, R448, R450, R452) -/

/-- A preemption is refused when it would take effect (R448): the job runs on, and a start that waited
for it is held again or waits. -/
def refusePreempt (n : Nat) (s : State) : State :=
  let s := s.onCore n fun x => { x with stopWhy := .none }
  match s.sched.after.getD n none with
  | none => s
  | some (c, k) =>
    let s := ctxCount c 0x14 (s.onSched fun d => { d with after := updAt d.after n fun _ => none })
    if ctxShare s c || (s.ctx c).onValid then s else holdStart n c k s

/-- PREEMPT_REQUEST: the request takes effect at a micro-step of a running job; its save begins in the
lowest free frame, or frame 3 for a takeover (R116, R446, R448, R450). -/
def execPreemptRequest (core : Fin 24) (s : State) : Out :=
  .next (
    let n := core.val
    let x := s.core n
    if x.phase = .run then
      match x.stopWhy with
      | .preempt =>
        match freeFrameOf s n with
        | some f => if rbit x.saveLo 0 then beginSave n f true s else refusePreempt n s
        | none => refusePreempt n s
      | .takeover =>
        if rbit x.saveLo 0 then beginSave n 3 false s else finishJob n jsAborted s
      | _ => s
    else s)

/-- SAVE_COMPLETE: the frame is written and the slot SUSPENDED, or an error ends the job (R450,
R452). -/
def execSaveComplete (core : Fin 24) (s : State) : Out :=
  .next (
    let n := core.val
    let x := s.core n
    if x.phase = .save ∧ x.due ≤ s.up then
      match (saveNeeds s n).find? fun r => badAt s r.1 r.2 with
      | some r => finishJob n jsAborted (coreFails n r.1 none s)
      | none =>
        let (fr, s) := frameBytes n s
        let base := frameBase s n x.saveFrame
        match writeAll (coreSrc n) (fr.map fun r => (base + r.1, r.2)) s with
        | (.ok, s) => suspend n s
        | (_, s) => finishJob n jsAborted s
    else s)

/-- RESTORE_COMPLETE: the image is reloaded and rechecked, the frame read back, and the job goes on;
an error ends it (R127, R450, R452). -/
def execRestoreComplete (core : Fin 24) (s : State) : Out :=
  .next (
    let n := core.val
    let x := s.core n
    match x.job with
    | none => s
    | some j =>
      match (s.slot j.ctx j.slot).saved with
      | none => s
      | some v =>
        if x.phase = .restore ∧ x.due ≤ s.up then
          let h := parseHdr (peek s v.store.base 128)
          let (r1, _, s) := readMem (coreSrc n) v.store.base (min (max 128 h.imageBytes) 1048576) s
          let crc := decide (h.imageBytes ≤ 1048576) && crcOk s v.store.base h
          let st := loadStore s v.store.base
          let base := frameBase s v.core v.frame
          let (r2, img, s) := readMem (coreSrc n) base 0xb6000 s
          let (r3, rng, s) :=
            if saveLines st = 0 then (Resp.ok, [], s)
            else readMem (coreSrc n) (base + 0x100000) (saveLines st * 64) s
          if r1 = .ok ∧ crc = true ∧ r2 = .ok ∧ r3 = .ok then
            let s := freeFrame v.core v.frame s
            let s := s.onSlot j.ctx j.slot fun k => { k with saved := none }
            let s := s.onCore n fun x =>
              install { v with store := st } (wordsOf 4 1024 (img.drop 0x1000)) ((img.drop 0x2000).take 8192) x
            let s := s.onCore n fun x => { x with job := x.job.map fun j =>
              { j with restored := j.restored || v.frame != 3 } }
            let s := ((accPlaces s n).mapIdx fun i p => (p, (img.drop (0x16000 + i * 160)).take 160)).foldl
              (fun s w => poke w.1 w.2 s) s
            (rangeWrites n 0 st.save).foldl (fun s w =>
              poke w.1 ((rng.drop w.2.1).take w.2.2) s) s
          else finishJob n jsAborted s
        else s)

end Sys2Proof.Machine
end

