-- ==== Sys2Proof/Machine/Jobs.lean ====
section
/-! DEFINITION. The sequencer's control: verification's end, macro-instruction boundaries, WAIT_BEAT,
SIGNAL, FENCE, END, the fallback image, core failures and the MSE registers (chapters 04, 05, 06,
11). -/

namespace Sys2Proof.Machine

/-! ## Verification's end (R186, R200, R367, R423) -/

/-- The job reads its sample mask, once, at its first micro-step (R186, R367, R423). -/
def readMask (n : Nat) (k : Slot) (s : State) : State :=
  if k.batch = 0 then s
  else
    let (r, bs, s) := readMem (coreSrc n) k.batch 64 s
    s.onCore n fun x =>
      if r = .ok then { x with mask := some (leNat (bs.take 8)), batchSize := fld (leNat (bs.drop 16)) 6 0 }
      else { x with mask := some 0, maskAll := true }

/-- A requester of a core was answered with something other than OK in the middle of its job: the job
ends with JS_ABORTED (R496). -/
def abortJob (n : Nat) (s : State) : State := finishJob n jsAborted s

/-- VERIFY_DONE: the job is rejected, a line that cannot be read ends it, or its store is loaded and it issues its first micro-step. -/
def execVerifyDone (core : Fin 24) (s : State) : Out :=
  .next (
    let n := core.val
    let x := s.core n
    match x.job with
    | some j =>
      if x.phase = .verify ∧ x.due ≤ s.up then
        let k := s.slot j.ctx j.slot
        let lc : LoadCtx := { core := n, fixed := !ctxShare s j.ctx, part := (s.ctx j.ctx).part, bad := j.badReads }
        match jobFail s lc k j.div j.planId with
        | some r =>
          match r.unread with
          | some a => abortJob n (logUncorr (coreSrc n) a s)
          | none => rejectJob n r s
        | none =>
          readMask n k (s.onCore n fun x => { x with phase := .run, store := loadStore s k.image })
      else s
    | none => s)

/-! ## Boundaries (R438, R441 to R444) -/

/-- The core's sequencer issues micro-steps: a job runs, it does not wait and no stop or error of the
core's memories is at hand (R112, R116). -/
def issuing (x : Core) : Bool := x.phase == .run && x.wait.isNone && x.stopWhy == .none && !x.memFail

/-- The core's sequencer may take the oldest macro-instruction, one of its own: its job and word. -/
def atMacro (s : State) (n op : Nat) : Option (Job × Nat) :=
  let x := s.core n
  match x.job with
  | some j =>
    if issuing x && mOp (macroOf x j) == op && decide (j.mi < x.store.macros.length) then
      some (j, macroOf x j)
    else none
  | none => none

def onJob (n : Nat) (f : Job → Job) (s : State) : State :=
  s.onCore n fun x => { x with job := x.job.map f }

/-- The oldest macro-instruction in progress has ended. -/
def advance (n : Nat) (s : State) : State :=
  onJob n (fun j => j.next (j.ahead.length + 1)) (chargeArray n s)

/-- Every tile of a macro-instruction is written. -/
def endMacro (n mi : Nat) (s : State) : State :=
  match (s.core n).job with
  | none => s
  | some j => if mi = j.mi then advance n s else onJob n (fun j => j.putAct { j.act mi with ended := true }) s

/-- LS_i of the deadline monitor (R442). -/
def latestStart (s : State) (x : Core) (j : Job) : Int :=
  (j.startTick + x.store.hdr.deadline : Int) - remTicks x.store.rwt j.mi (divider s)

/-- The deadline monitor watches the job and predicts a miss (R442). -/
def missPredicted (s : State) (x : Core) (j : Job) : Bool :=
  ctxShare s j.ctx && rbit (partReg s (s.ctx j.ctx).part) 2 && !j.inFallback &&
  x.store.hdr.deadline != 0 && x.store.hdr.rwtOff != 0 && decide ((s.now : Int) > latestStart s x j)

/-- The primary is abandoned (R239, R443): its counts are discarded and the fallback's load begins. -/
def abandon (n : Nat) (s : State) : State :=
  let fb := parseHdr (peek s (s.core n).store.hdr.fallback 128)
  s.onCore n fun x =>
    { x with
      phase := .fallbackLoad, due := s.up + 64 + cdiv fb.imageBytes 64
      sat := List.replicate 1024 0, walk := none, drains := [], chain := none, codebook := none, ring := 0
      job := x.job.map fun j =>
        { j with inFallback := true, fbStarted := true, fbId := fb.jobId, fbAt := j.mi, skipped := 0
                 firstSkip := none, mi := 0, progress := 0, tile := 0, ahead := [], begun := false } }

/-- A job yields at this boundary (R438). -/
def yields (s : State) (n : Nat) (j : Job) : Bool :=
  let c := s.ctx j.ctx
  let p := c.part
  ctxShare s j.ctx && rbit (partReg s p) 3 && c.preempt &&
  decide (c.deficit < -((rfld (partReg s p) 15 8 * 1100 : Nat) : Int)) &&
  ((members s p).any fun d => ((s.ctx d).urgent || !c.urgent) && decide ((s.ctx d).deficit > 0) &&
    (eligible s d).any fun k => mayUse s p d k n) && canSave s n

/-- The boundary before a macro-instruction, the sequencer's own among them, or before the first member
of a fusion chain: true when it may begin now (log entry 24). -/
def boundary (n : Nat) (s : State) : Bool × State :=
  let x := s.core n
  match x.job with
  | none => (false, s)
  | some j =>
    if j.begun then (true, s)
    else if mFuseIn (macroOf x j) then (true, onJob n (fun j => { j with begun := true }) s)
    else
      let miss := missPredicted s x j
      let s := if miss ∧ ¬ j.missed then
          onJob n (fun j => { j with missed := true }) (ctxCount j.ctx 0x18 s) else s
      if miss ∧ x.store.hdr.fallback ≠ 0 then (false, abandon n s)
      else if yields s n j then (false, ctxCount j.ctx 0x1c (askPreempt n s))
      else (true, onJob n (fun j => { j with begun := true }) s)

/-! ## What runs at once on the units of a core (R114, R194 to R199) -/

/-- The unit that executes an opcode (R114): arrays, depthwise path, vector engine, requantisation unit,
core DMA engine, sequencer. -/
def unitOf (op : Nat) : Nat :=
  if isArrayOp op then 0
  else if op = opDwconv then 1
  else if op = opEltwise ∨ op = opPool ∨ op = opNms then 2
  else if op = opRequant then 3
  else if op = opGather ∨ op = opScatter ∨ op = opCopy then 4
  else 5

def macroAt (x : Core) (mi : Nat) : Nat := x.store.macros.getD mi 0

/-- Output tiles of a macro-instruction (R175). -/
def tilesOf (x : Core) (m : Nat) : Nat :=
  tileCount m (desc x (mSrc0 m)) (desc x (mDst m)) (desc x (mSrc1 m))

/-- Every tile of a macro-instruction has begun, and none is in its passes: its unit has issued its last
micro-step. -/
def issued (x : Core) (j : Job) (mi : Nat) : Bool :=
  tilesOf x (macroAt x mi) ≤ (j.act mi).tile && !(x.walk.any fun w => w.mi == mi)

/-- Two macro-instructions conflict: the allocation of one's DST overlaps one of the other's operands
(R195). -/
def conflicts (x : Core) (a b : Nat) : Bool :=
  let l (m : Nat) : List Nat :=
    (opsOf x.store.descs m).dst.toList ++ operandList (opsOf x.store.descs m)
  let hit (m k : Nat) : Bool := (l k).any fun d => allocOverlap (desc x (mDst m)) d
  hit a b || hit b a

/-- Macro-instructions that may be in progress, from `cur` on: the rest of a fusion chain (R198), and an
array macro-instruction behind one that only drains, where the two do not conflict (R194, R195). -/
def window (x : Core) (j : Job) : Nat → Nat → List Nat
  | 0, cur => [cur]
  | fuel + 1, cur =>
    let nxt := cur + 1
    let m := macroAt x nxt
    let drainsOnly := isArrayOp (mOp (macroAt x cur)) && isArrayOp (mOp m) && issued x j cur &&
      (List.range (nxt - j.mi)).all fun i => !conflicts x (macroAt x (j.mi + i)) m
    if decide (nxt < x.store.macros.length) && j.begun && (mFuseIn m || drainsOnly) then
      cur :: window x j fuel nxt
    else [cur]

/-- A macro-instruction still has something to begin, or to end. -/
def unfinished (x : Core) (j : Job) (mi : Nat) : Bool :=
  !(j.act mi).ended && (!issued x j mi || !(x.drains.any fun w => w.mi == mi))

/-- The macro-instruction that a unit turns to next: the first of those in progress that the unit has not
finished (R194, R198). -/
def unitTurn (x : Core) (unit : Nat) : Option Nat :=
  match x.job with
  | some j =>
    if issuing x && decide (j.mi < x.store.macros.length) then
      (window x j 8 j.mi).find? fun mi => unitOf (mOp (macroAt x mi)) == unit && unfinished x j mi
    else none
  | none => none

/-- The unit of an opcode turns to a macro-instruction of that opcode: its index and word. -/
def turn (s : State) (n op : Nat) : Option (Nat × Nat) :=
  match unitTurn (s.core n) (unitOf op) with
  | some mi => if mOp (macroAt (s.core n) mi) = op then some (mi, macroAt (s.core n) mi) else none
  | none => none

/-- The boundary of a macro-instruction that begins: the oldest one's is `boundary`. One behind it that is
no member of its chain waits where its boundary would stop the job, until it is the oldest. -/
def boundaryAt (n mi : Nat) (s : State) : Bool × State :=
  let x := s.core n
  match x.job with
  | none => (false, s)
  | some j =>
    if mi = j.mi then boundary n s
    else if mFuseIn (macroAt x mi) || j.ahead.any (·.mi == mi) then (true, s)
    else
      let k := { j with mi := mi }
      let miss := missPredicted s x k
      if (miss && x.store.hdr.fallback != 0) || yields s n k then (false, s)
      else if miss && !j.missed then
        (true, onJob n (fun j => { j with missed := true }) (ctxCount j.ctx 0x18 s))
      else (true, s)

/-! ### The watermark of a fused intermediate (R199) -/

/-- First tile of a macro-instruction that is begun and not finished, or is not begun. -/
def tilesBehind (x : Core) (j : Job) (mi : Nat) : Nat :=
  (((x.drains ++ x.walk.toList).filter fun w => w.mi == mi).map (·.t)).foldl min (j.act mi).tile

/-- The watermark P: positions of DST, in n, h, w order, whose channels have all been written. -/
def watermark (x : Core) (j : Job) (mi : Nat) : Nat :=
  let m := macroAt x mi
  let t := tilesBehind x j mi
  let dst := desc x (mDst m)
  if mi < j.mi ∨ (j.act mi).ended = true ∨ tilesOf x m ≤ t then dPos dst
  else if isArrayOp (mOp m) then
    let g := geoOf (mOp m) (desc x (mSrc0 m)) (desc x (mSrc1 m)) dst m
    min g.m (t / max 1 g.ncb * 4 * g.tr)
  else if mOp m = opDwconv ∨ mOp m = opPool then t / max 1 (cdiv (dC dst) 32) * dW dst
  else min (dPos dst * dC dst) (t * 4096) / max 1 (dC dst)

/-- Positions of SRC0 that output row (n, h) of a window macro-instruction needs, with kernel height kh. -/
def rowNeed (m d0 n h kh : Nat) : Nat :=
  let last : Int := min ((dH d0 : Int) - 1) ((h * mStrideH m + mDilH m * (kh - 1) : Nat) - (mPadT m : Int))
  if last < 0 then n * dH d0 * dW d0 else (n * dH d0 + last.toNat + 1) * dW d0

/-- Positions of SRC0 that a tile reads (R199). -/
def tileNeed (x : Core) (m t : Nat) : Nat :=
  let d0 := desc x (mSrc0 m)
  let d1 := desc x (mSrc1 m)
  let dst := desc x (mDst m)
  let place (q : Nat) : Nat × Nat := (q / max 1 (dH dst), q % max 1 (dH dst))
  if isArrayOp (mOp m) then
    let g := geoOf (mOp m) d0 d1 dst m
    let last := min g.m ((t / max 1 g.ncb + 1) * 4 * g.tr)
    if mOp m = opConv2d then
      let p := place ((last - 1) / max 1 (dW dst))
      rowNeed m d0 p.1 p.2 (dH d1)
    else last
  else if mOp m = opDwconv then let p := place (t / max 1 (cdiv (dC dst) 32)); rowNeed m d0 p.1 p.2 (dH d1)
  else if mOp m = opPool then let p := place (t / max 1 (cdiv (dC dst) 32)); rowNeed m d0 p.1 p.2 (poolKH m)
  else cdiv (min (dPos dst * dC dst) ((t + 1) * 4096)) (max 1 (dC dst))

/-- A tile of a macro-instruction may issue its first micro-step: the producer of a fused SRC0 has written
every position that it reads. -/
def covered (x : Core) (mi t : Nat) : Bool :=
  match x.job with
  | some j => !mFuseIn (macroAt x mi) || decide (tileNeed x (macroAt x mi) t ≤ watermark x j (mi - 1))
  | none => false

/-! ## WAIT_BEAT, SIGNAL, FENCE, END (R158 to R160) -/

/-- A plane chain ends: the next load starts a new one at slot 0 (R103, R181). -/
def endChain (n : Nat) (s : State) : State := s.onCore n fun x => { x with chain := none, codebook := none, ring := 0 }

/-- Beat that a WAIT_BEAT names; none when BASE is 0 and no plan cycle runs. -/
def waitTarget (s : State) (j : Job) (m : Nat) : Option Nat :=
  let b := fld (mP0 m) 31 0
  if bitAt (mP0 m) 32 then some (j.startTick / 1100 + b)
  else if s.ktl.planState = .running ∨ s.ktl.planState = .stopping then some (s.ktl.cycleStart / 1100 + b)
  else none

/-- WAIT_BEAT past its boundary: the wait, or the next macro-instruction (R158). -/
def waitBegin (n : Nat) (j : Job) (m : Nat) (s : State) : State :=
  let s := endChain n s
  match waitTarget s j m with
  | some b =>
    if s.now < b * 1100 then s.onCore n fun x => { x with wait := some (b * 1100) }
    else if s.now = b * 1100 then advance n s
    else advance n (onJob n (fun j => { j with lateBeat := true }) s)
  | none => advance n (onJob n (fun j => { j with lateBeat := true }) s)

def execWaitBeat (core : Fin 24) (s : State) : Out :=
  .next (match atMacro s core.val opWait with
    | none => s
    | some (j, m) =>
      match boundary core.val s with
      | (false, s) => s
      | (true, s) => waitBegin core.val j m s)

/-- WAIT_BEAT_RESUME: the awaited tick has come. -/
def execWaitBeatResume (core : Fin 24) (s : State) : Out :=
  .next (
    let n := core.val
    let x := s.core n
    match x.wait with
    | some t =>
      if x.phase = .run ∧ x.stopWhy = .none ∧ t ≤ s.now then
        advance n (s.onCore n fun x => { x with wait := none })
      else s
    | none => s)

/-- SIGNAL past its boundary: a write or an indivisible add of P1, with the fallback attribute (R159,
R382). -/
def signalOp (n : Nat) (j : Job) (m : Nat) (s : State) : State :=
  let a := fld (mP0 m) 47 0
  let r :=
    if fld (mP0 m) 49 48 = 0 then writeMem (coreSrc n) a (leBytes 8 (mP1 m)) j.inFallback s
    else modify64 (coreSrc n) a j.inFallback (add64 (mP1 m)) s
  if r.1 = .ok then advance n r.2 else abortJob n r.2

def execSignal (core : Fin 24) (s : State) : Out :=
  .next (match atMacro s core.val opSignal with
    | none => s
    | some (j, m) =>
      match boundary core.val s with
      | (false, s) => s
      | (true, s) => signalOp core.val j m s)

/-- FENCE: every earlier write is complete, and the plane chain restarts. -/
def execFence (core : Fin 24) (s : State) : Out :=
  .next (match atMacro s core.val opFence with
    | some _ =>
      match boundary core.val s with
      | (false, s) => s
      | (true, s) => advance core.val (endChain core.val s)
    | none => s)

/-- Status of a job at END (R171). -/
def endStatus (j : Job) : Nat :=
  if j.skipped > 0 then jsPartial else if j.inFallback then jsFallback else jsDone

/-- END: the counts are compared and the completion record is handed off (R160, R238); it waits while
the store has no line for the record (R411). -/
def execJobEnd (core : Fin 24) (s : State) : Out :=
  .next (match atMacro s core.val opEnd with
    | some (j, _) =>
      match boundary core.val s with
      | (false, s) => s
      | (true, s) => if cplRoom s j.cplRing then finishJob core.val (endStatus j) s else s
    | none => s)

/-- FALLBACK_START: the fallback's image is loaded and its first micro-step issues, or a CRC mismatch
ends the job (R127, R443). -/
def execFallbackStart (core : Fin 24) (s : State) : Out :=
  .next (
    let n := core.val
    let x := s.core n
    if x.phase = .fallbackLoad ∧ x.due ≤ s.up then
      let base := x.store.hdr.fallback
      let (r1, hb, s) := readMem (coreSrc n) base 128 s
      let h := parseHdr hb
      let (r2, _, s) := if r1 = .ok then readMem (coreSrc n) base h.imageBytes s else (r1, [], s)
      if r2 = .ok ∧ crcOk s base h = true then
        s.onCore n fun x => { x with phase := .run, store := loadStore s base }
      else finishJob n jsAborted s
    else s)

/-! ## Core failures and statistics registers -/

/-- CORE_MEM_UNCORR: an uncorrectable error at an address of the core's memories (R112, R559). -/
def execCoreMemUncorr (core : Fin 24) (addr : BitVec 48) (s : State) : Out :=
  .next (
    let n := core.val
    match regionOf addr.toNat with
    | .core m _ =>
      if m = n ∧ ¬ coreAbsent s n then
        let s := spoil addr.toNat s
        coreFails n addr.toNat none s
      else s
    | _ => s)

def mseOf (s : State) (n ch : Nat) : MseCh := (s.core n).mse.getD ch {}
def onMse (n ch : Nat) (f : MseCh → MseCh) (s : State) : State :=
  s.onCore n fun x => { x with mse := updAt x.mse ch f }

/-- CORE_MSE_SUM_HI of a closed window. -/
def mseHiWord (m : MseCh) : W32 :=
  BitVec.ofNat 32 (m.cSum / 2 ^ 32 + b2n m.limited * 2 ^ 16 + b2n m.overrun * 2 ^ 17 + b2n m.lost * 2 ^ 18)

/-- OVERRUN and LOST in CORE_MSE_SUM_HI. -/
def mseFlags : W32 := 0x60000#32

/-- A read of CORE_MSE_SUM_LO latches the other words of the closed window; OVERRUN and LOST move into the
latch and stand there until CORE_MSE_SUM_HI is read (R242, R243; log entry 19). -/
def mseReadLo (n ch : Nat) (s : State) : State :=
  onMse n ch (fun m =>
    { m with rHi := mseHiWord m ||| (m.rHi &&& mseFlags), rCnt := BitVec.ofNat 32 m.cCnt
             overrun := false, lost := false, unread := false }) s

/-- A read of CORE_MSE_SUM_HI clears OVERRUN and LOST, which are of type RC (R14, R242). -/
def mseReadHi (n ch : Nat) (s : State) : State :=
  onMse n ch (fun m => { m with rHi := m.rHi &&& ~~~mseFlags }) s

/-- CORE_MSE_SUM_LO_READ: the read answers the low word. -/
def execCoreMseSumLoRead (core : Fin 24) (ch : Fin 4) (s : State) : Out :=
  .next (hostRead (fun s =>
    mseReadLo core.val ch.val (s.answer (BitVec.ofNat 32 (mseOf s core.val ch.val).cSum))) s)

/-- A write of CORE_MSE_CTRL: the settings act at the next window start; RESTART starts one now
(R241, R244). -/
def mseCtrlWrite (n ch : Nat) (v : W32) (s : State) : State :=
  onMse n ch (fun m =>
    let m := { m with ctrl := v &&& 0xfffdffff#32 }
    if rbit v 17 then mseStart m else m) s

def execRestart (core : Fin 24) (ch : Fin 4) (v : W32) (s : State) : Out :=
  .next (hostWrite (mseCtrlWrite core.val ch.val (v ||| 0x20000#32)) s)

end Sys2Proof.Machine
end

