-- ==== Sys2Proof/Machine/Tiles.lean ====
section
/-! DEFINITION. What every tile does: reads with their failures, requantised or plain results, the
writes of a tile, saturation counts and error sums (R112, R191, R192, R222 to R241, R496). -/

namespace Sys2Proof.Machine

/-! ## Reads -/

/-- An address lies in a core's own memory. -/
def ownMem (n a : Nat) : Bool := match regionOf a with | .core m _ => m == n | _ => false

/-- The 64-byte lines of operand ranges: a unit reads an operand in whole lines (R189). -/
def wholeLines (rs : List (Nat × Nat)) : List (Nat × Nat) :=
  rs.flatMap fun r => (lineStarts r.1 r.2).map fun l => (l / 64 * 64, 64)

/-- First range of a list whose read is not answered with its data, and how it is answered. -/
def rangesFail (n : Nat) (s : State) (rs : List (Nat × Nat)) : Option (Nat × Resp) :=
  (rs.find? fun r => respRange s (coreSrc n) r.1 r.2 != .ok || badAt s r.1 r.2).map fun r =>
    (r.1, if respRange s (coreSrc n) r.1 r.2 != .ok then respRange s (coreSrc n) r.1 r.2 else .poison)

/-- A read of a macro-instruction fails: in the core's own memory the core fails, and the tile of
macro-instruction `mi` that another unit than the arrays works on is skipped (R112); elsewhere the job
ends (R496). -/
def readFails (n a : Nat) (r : Resp) (mi : Option Nat) (s : State) : State :=
  if r = .poison then
    if ownMem n a then coreFails n a mi s else abortJob n (logUncorr (coreSrc n) a s)
  else abortJob n (logResp (coreSrc n) r a s)

/-- The vector engine leaves its registers with contents that no rule states (R449). -/
def scratchRegs (n : Nat) (s : State) : State :=
  let r := freeBytes 8192 s
  r.2.onCore n fun x => { x with vregs := r.1 }

/-- Reads of HBM lock its map (R462). -/
def touchAll (n : Nat) (rs : List (Nat × Nat)) (s : State) : State :=
  rs.foldl (fun s r => touch (coreSrc n) r.1 s) s

/-! ## Results -/

/-- One result: its writes, whether it counts as saturated, and its error term: absent when nothing is
gathered, `some none` when the manual states no value (R240). -/
structure Res where
  writes : List EltWrite
  sat    : Bool := false
  e8     : Option (Option Int) := none
deriving DecidableEq, Repr

/-- A result requantised by the record of its channel (R222 to R225, R240). -/
def resQp (s : State) (dst qd : Nat) (e : Elt) (x : QIn) : Res :=
  let q := qpRecord s qd e.c
  let r := requant1 (dType dst) q x
  { writes := eltWrites dst e (ofSigned 8 r.1), sat := r.2.2
    e8 := if dMse dst then some (mseTerm (dType dst) q x r.2.1) else none }

/-- A result limited to the type of DST. -/
def resLim (dst : Nat) (e : Elt) (i : Int) : Res :=
  let l := limitTo (dType dst) i
  { writes := eltWrites dst e (ofSigned (typeBits (dType dst)) l.val), sat := l.sat }

/-- A result that is a code. -/
def resCode (dst : Nat) (e : Elt) (code : Nat) : Res := { writes := eltWrites dst e code }

/-- An F32 drain without requantisation (R226). -/
def resFp (dst : Nat) (e : Elt) (x : Fp) : Res :=
  match x with
  | .fin neg a b => resLim dst e (fpRhe neg a b)
  | .inf true => { writes := eltWrites dst e 0x80000000, sat := true }
  | .inf false => { writes := eltWrites dst e 0x7fffffff, sat := true }
  | .nan => { writes := eltWrites dst e 0, sat := true }

/-! ## Statistics (R236, R237, R240, R241) -/

/-- Add a term to the channels that gather a tag. -/
def mseAdd (tag : Nat) (e8 : Int) (m : MseCh) : MseCh :=
  if m.runEn && m.runTag == tag then
    { m with sum := satAdd (2 ^ 48 - 1) m.sum (e8 * e8).toNat, cnt := satInc 0xffffffff m.cnt }
  else m

/-- Channels that gather a tag, as a mask. -/
def mseMask (x : Core) (tag : Nat) : Nat :=
  (((List.range 4).filter fun i => (x.mse.getD i {}).runEn && (x.mse.getD i {}).runTag == tag).map (2 ^ ·)).sum

/-- Gather one error term; one that the manual does not state is free within its limits. -/
def gather1 (n tag : Nat) (e8 : Option Int) (s : State) : State :=
  let r : Int × State := match e8 with
    | some e => (e, s)
    | none => ((s.takeFree.1.toNat % 65535 : Nat) - 32767, s.takeFree.2)
  r.2.onCore n fun x =>
    { x with mse := x.mse.map (mseAdd tag r.1)
             job := x.job.map fun j => { j with mseHit := j.mseHit ||| mseMask x tag * 16 ^ n } }

/-- Count and gather the results of a tile written to descriptor `di`. -/
def tally (n di dst : Nat) (rs : List Res) (s : State) : State :=
  let k := (rs.filter (·.sat)).length
  let s := if dStat dst then
      s.onCore n fun x => { x with sat := updAt x.sat di fun c => satAdd 0xffffffff c k } else s
  rs.foldl (fun s r => match r.e8 with
    | some e => gather1 n (dTag dst) e s
    | none => s) s

/-- Write results and count them; false when a write was not answered OK, which ends the job (R192,
R496). -/
def writeRes (n di dst : Nat) (rs : List Res) (s : State) : Bool × State :=
  match writeCells (coreSrc n) (mergeWrites s (rs.flatMap (·.writes))) s with
  | (.ok, s) => (true, tally n di dst rs s)
  | (_, s) => (false, abortJob n s)

/-- A macro-instruction's next tile to begin becomes `t`, and `k` more of its tiles are written (R176,
R177). -/
def tilesTo (n mi t k : Nat) (s : State) : State :=
  onJob n (fun j => let a := j.act mi; j.putAct { a with tile := t, progress := a.progress + k }) s

end Sys2Proof.Machine
end

