-- ==== Sys2Proof/Machine/Arrays.lean ====
section
/-! DEFINITION. The arrays: stationary blocks, row entry, drain, and the walks of MATMUL, CONV2D and
DIST built from them (chapters 03, 05, 06, 07). A micro-step is one plane load, one row of one array
with its whole crossing, or one drained slot row of the four arrays. -/

namespace Sys2Proof.Machine

/-- An array macro-instruction in progress: what every micro-step reads. -/
structure Arr where
  n    : Nat
  mi   : Nat
  op   : Nat
  m    : Nat
  d0   : Nat
  d1   : Nat
  d2   : Nat
  dst  : Nat
  geo  : Geo
deriving DecidableEq, Repr

def arrOf (n : Nat) (x : Core) (mi : Nat) : Arr :=
  let m := macroAt x mi
  let d0 := desc x (mSrc0 m)
  let d1 := desc x (mSrc1 m)
  let dst := desc x (mDst m)
  { n := n, mi := mi, op := mOp m, m := m, d0 := d0, d1 := d1, d2 := desc x (mSrc2 m), dst := dst
    geo := geoOf (mOp m) d0 d1 dst m }

/-- DIST with a reduction (R147). -/
def Arr.reduces (a : Arr) : Bool := a.op == opDist && distReduce a.m != 0

/-- Cell mode (R88): 0 MAC, 1 L1, 2 L2SQ, 3 HAMMING, 4 CMP. -/
def Arr.mode (a : Arr) : Nat := if a.op = opDist then distCell a.m else 0

/-- Accumulation in F32 (R215). -/
def Arr.bs (a : Arr) : Bool := dType a.d0 == 4 || dType a.d1 == 4

/-- Tiles of the macro-instruction (R175). -/
def Arr.tiles (a : Arr) : Nat := if a.reduces then a.geo.nrg else a.geo.nrg * a.geo.ncb

/-! ## Rows and blocks (R179, R247 to R249) -/

def Arr.firstRow (a : Arr) (g : Nat) : Nat := g * 4 * a.geo.tr

/-- Sample of a streamed row. -/
def Arr.sample (a : Arr) (r : Nat) : Nat :=
  if a.op = opConv2d then r / max 1 (dH a.dst * dW a.dst) else r / max 1 (dH a.d0 * dW a.d0)

/-- A row is not masked (R185). -/
def Arr.rowOk (a : Arr) (x : Core) (r : Nat) : Bool := r < a.geo.m && !sampleMasked x a.d0 (a.sample r)

/-- A row group has an unmasked row (R661). -/
def Arr.groupLive (a : Arr) (x : Core) (g : Nat) : Bool :=
  (List.range (rowsOf a.geo g)).any fun i => a.rowOk x (a.firstRow g + i)

/-- What a reduction block stands for in column block cb: served group, kernel position, channel
block, whether the pass is empty (R248, R249, R660). -/
structure Blk where
  q     : Nat
  kh    : Nat
  kw    : Nat
  cblk  : Nat
  empty : Bool
deriving DecidableEq, Repr

def Arr.blk (a : Arr) (kr cb : Nat) : Blk :=
  if a.op = opConv2d then
    let nb := max 1 (ncblkOf a.d1)
    let sp := groupSpan a.geo.nc (cog a.d1 (mGroups a.m)) cb
    let qs := kr / (nb * max 1 (dW a.d1) * max 1 (dH a.d1))
    { q := sp.1 + qs, kh := kr / (nb * max 1 (dW a.d1)) % max 1 (dH a.d1)
      kw := kr / nb % max 1 (dW a.d1), cblk := kr % nb, empty := sp.1 + qs > sp.2 }
  else { q := 0, kh := 0, kw := 0, cblk := kr, empty := false }

/-- Reduction position i of a block lies inside the tensor (R185, R249). -/
def Arr.redOk (a : Arr) (b : Blk) (i : Nat) : Bool :=
  if a.op = opConv2d then !b.empty && b.cblk * 32 + i < dC a.d1
  else if a.mode = 3 then b.cblk * 32 + i < cdiv (dC a.d0) 8
  else b.cblk * 32 + i < dC a.d0

/-- Output channel of a column, and whether the column is unmasked (R185). -/
def Arr.colOk (a : Arr) (cb j : Nat) : Bool := cb * 32 + j < a.geo.nc

/-- The column's channel belongs to the served group (R249). -/
def Arr.inGroup (a : Arr) (b : Blk) (ch : Nat) : Bool :=
  a.op != opConv2d || ch / max 1 (cog a.d1 (mGroups a.m)) == b.q

/-! ## The weight feeder (R85 to R87, R206 to R210, R212, R213) -/

/-- Element of SRC1 for channel `ch` and reduction position `i`. -/
def Arr.wElt (b : Blk) (ch i : Nat) : Elt := { n := ch, h := b.kh, w := b.kw, c := b.cblk * 32 + i }

/-- Position of DIST's reference row. -/
def Arr.wAt (a : Arr) (b : Blk) (ch i : Nat) : Elt := if a.op = opConv2d then Arr.wElt b ch i
  else { n := ch, h := 0, w := 0, c := b.cblk * 32 + i }

/-- Eight binary dimensions of a B1 row from cell position `p` (R87). -/
def hamCode (s : State) (d : Nat) (e : Nat → Elt) (p : Nat) : Nat :=
  (((List.range 8).filter fun b => p * 8 + b < dC d).map fun b => eltCode s d (e (p * 8 + b)) * 2 ^ b).sum

/-- Byte `i` of the codebook of a channel's group. -/
def cbByte (s : State) (d ch i : Nat) : Int :=
  toSigned 8 (peekNat s (dAux d + (if dType d = 2 then 64 else 320) * (ch / 32) + i) 1)

/-- Contents of the codebook of a column block (R208, R209). -/
def cbValues (s : State) (d cb : Nat) : List Int :=
  (List.range (if dType d = 2 then 17 else 257)).map (cbByte s d (32 * cb))

/-- The stationary operand w′ of a position inside the tensor, with the codebook of its block. -/
def Arr.wVal (a : Arr) (s : State) (cbk : List Int) (b : Blk) (ch i : Nat) : Int :=
  let e := a.wAt b ch i
  if a.mode = 3 then hamCode s a.d1 (fun c => { e with c := c }) (b.cblk * 32 + i)
  else
    let code := eltCode s a.d1 e
    match dType a.d1 with
    | 2 => cbk.getD code 0 - cbk.getD 16 0
    | 3 => cbk.getD code 0 - cbk.getD 256 0
    | 4 => toSigned 8 code
    | t => if a.mode = 0 then codeInt t code - dZero a.d1 else codeInt t code

/-- Number of the scale block of an element's position (R212). -/
def scaleBlock (d : Nat) (e : Elt) : Nat :=
  ((e.n * dH d + e.h) * dW d + e.w) * cdiv (dC d) 32 + e.c / 32

/-- Entry of a scale stream: F16 scale and tag (R213). -/
def scaleEntry (s : State) (d j : Nat) : Nat × Nat :=
  let w := peekNat s (dAux d + 4 * j) 4
  (fld w 15 0, fld w 23 16)

/-- The pattern of scale 1.0. -/
def one16 : Nat := 0x3c00

/-- Columns of a block that read a weight: unmasked and of the served group. -/
def Arr.loadCols (a : Arr) (b : Blk) (cb : Nat) : List Nat :=
  if b.empty then [] else (List.range 32).filter fun j => a.colOk cb j && a.inGroup b (cb * 32 + j)

/-- The load of a block needs a codebook, and the feeder holds it: kept from the block before, of the same
tensor and group (R210). -/
def Arr.cbHeld (a : Arr) (x : Core) (cb : Nat) : Bool := x.codebook.any fun k => k.1 == (a.d1, cb)

/-- The codebook that the feeder holds after a load: the block's, none for a block that uses none. -/
def Arr.cbAfter (a : Arr) (s : State) (x : Core) (b : Blk) (cb : Nat) : Option ((Nat × Nat) × List Int) :=
  if b.empty || !(dType a.d1 == 2 || dType a.d1 == 3) then none
  else if a.cbHeld x cb then x.codebook
  else some ((a.d1, cb), cbValues s a.d1 cb)

/-- Ranges that a plane load reads. -/
def Arr.loadRanges (a : Arr) (x : Core) (b : Blk) (cb : Nat) : List (Nat × Nat) :=
  let cols := a.loadCols b cb
  wholeLines <| (cols.flatMap fun j => ((List.range 32).filter (a.redOk b)).map fun i =>
    if a.mode = 3 then eltRange a.d1 { a.wAt b (cb * 32 + j) 0 with c := (b.cblk * 32 + i) * 8 }
    else eltRange a.d1 (a.wAt b (cb * 32 + j) i)) ++
  (match dType a.d1 with
   | 2 => if b.empty ∨ a.cbHeld x cb = true then [] else [(dAux a.d1 + 64 * cb, 64)]
   | 3 => if b.empty ∨ a.cbHeld x cb = true then [] else [(dAux a.d1 + 320 * cb, 320)]
   | 4 => cols.map fun j => (dAux a.d1 + 4 * scaleBlock a.d1 (a.wAt b (cb * 32 + j) 0), 4)
   | _ => [])

/-- First column whose scale tag disagrees with its data block: block number and tag (R218). -/
def Arr.loadSkew (a : Arr) (s : State) (b : Blk) (cb : Nat) : Option (Nat × Nat) :=
  if dType a.d1 = 4 then
    ((a.loadCols b cb).map fun j =>
      let k := scaleBlock a.d1 (a.wAt b (cb * 32 + j) 0)
      (k, (scaleEntry s a.d1 k).2)).find? fun x => x.2 != x.1 % 256
  else none

/-- The plane that a load leaves (R85, R89, R106, R107, R249). -/
def Arr.plane (a : Arr) (s : State) (x : Core) (b : Blk) (cb : Nat) : Plane :=
  let cbk := match a.cbAfter s x b cb with | some k => k.2 | none => []
  let cols := a.loadCols b cb
  { mode := a.mode
    enables := (List.range 32).map (a.redOk b)
    cols := (List.range 32).map (a.colOk cb)
    w := (List.range 32).map fun i => (List.range 32).map fun j =>
      if cols.contains j && a.redOk b i then a.wVal s cbk b (cb * 32 + j) i else 0
    scales := (List.range 32).map fun j =>
      if dType a.d1 = 4 ∧ cols.contains j = true then
        (scaleEntry s a.d1 (scaleBlock a.d1 (a.wAt b (cb * 32 + j) 0))).1
      else one16 }

/-! ## Streamed rows (R85 to R87, R190, R216, R247) -/

/-- Input position of a row in a pass; none in padding. -/
def Arr.rowPos (a : Arr) (b : Blk) (r : Nat) : Option Elt :=
  if a.op = opConv2d then
    let o := posAt a.dst r 0
    let ih : Int := (o.h * mStrideH a.m + b.kh * mDilH a.m : Nat) - (mPadT a.m : Int)
    let iw : Int := (o.w * mStrideW a.m + b.kw * mDilW a.m : Nat) - (mPadL a.m : Int)
    if 0 ≤ ih ∧ ih < dH a.d0 ∧ 0 ≤ iw ∧ iw < dW a.d0 then
      some { n := o.n, h := ih.toNat, w := iw.toNat, c := b.q * dC a.d1 + b.cblk * 32 }
    else none
  else some (posAt a.d0 r (b.cblk * 32))

/-- Streamed operand of reduction position i. -/
def Arr.aVal (a : Arr) (s : State) (b : Blk) (r i : Nat) : Int :=
  let z : Int := if a.mode = 0 ∧ dType a.d0 ≠ 4 then dZero a.d0 else 0
  match a.rowPos b r with
  | none => codeInt (dType a.d0) (padCode a.d0) - z
  | some e =>
    if a.mode = 3 then hamCode s a.d0 (fun c => { e with c := c }) (b.cblk * 32 + i)
    else codeInt (dType a.d0) (eltCode s a.d0 { e with c := e.c + i }) - z

/-- Ranges that a row reads. -/
def Arr.rowRanges (a : Arr) (b : Blk) (r : Nat) : List (Nat × Nat) :=
  if b.empty then [] else
  match a.rowPos b r with
  | none => []
  | some e =>
    wholeLines <| (((List.range 32).filter (a.redOk b)).map fun i =>
      if a.mode = 3 then eltRange a.d0 { e with c := (b.cblk * 32 + i) * 8 }
      else eltRange a.d0 { e with c := e.c + i }) ++
    (if dType a.d0 = 4 then [(dAux a.d0 + 4 * scaleBlock a.d0 e, 4)] else [])

/-- Scale block of a row: number, scale, tag; none where no entry is read (R216, R218). -/
def Arr.rowScale (a : Arr) (s : State) (b : Blk) (r : Nat) : Option (Nat × Nat × Nat) :=
  if dType a.d0 = 4 ∧ ¬ b.empty then
    (a.rowPos b r).map fun e => (scaleBlock a.d0 e, scaleEntry s a.d0 (scaleBlock a.d0 e))
  else none

/-- Contribution of a cell (R88). -/
def cellOf (mode : Nat) (x w : Int) : Int :=
  match mode with
  | 0 => x * w
  | 1 => (x - w).natAbs
  | 2 => (x - w) * (x - w)
  | 3 => (((List.range 8).filter fun i => (x.toNat ^^^ w.toNat).testBit i).length : Nat)
  | _ => if x > w then 1 else 0

/-- Column sum of a row in a plane (R90, R107). -/
def colSum (p : Plane) (xs : List Int) (j : Nat) : Int :=
  ((List.range 32).map fun i =>
    if p.enables.getD i false then cellOf p.mode (xs.getD i 0) ((p.w.getD i []).getD j 0) else 0).sum

/-! ## Occupancy and stalls (R101, R105, R211, R217, R251 to R253) -/

/-- Entry cycles of a row. -/
def Arr.rowCost (a : Arr) (b : Blk) (r : Nat) : Nat :=
  if a.op ≠ opConv2d ∨ b.empty = true then 1
  else if dLayout a.d0 = 1 then 2 * mStrideW a.m
  else match a.rowPos b r with
    | none => 1
    | some e =>
      let secs := (List.range (min 32 (dC a.d1 - b.cblk * 32))).map fun i =>
        (eltRange a.d0 { e with c := e.c + i }).1 / 32
      if secs.all (· == secs.headD 0) then 1 else 2

/-- What a pass gives each of the four arrays: entry cycles of its rows, and rows. -/
def Arr.perArray (a : Arr) (x : Core) (b : Blk) (g : Nat) : List (Nat × Nat) :=
  let t := trgOf a.geo g
  (List.range 4).map fun k =>
    let rows := ((List.range t).filter fun i =>
      k * t + i < rowsOf a.geo g && a.rowOk x (a.firstRow g + k * t + i))
    ((rows.map fun i => a.rowCost b (a.firstRow g + k * t + i)).sum, rows.length)

/-- At ÷6 rows of a BS8 SRC0 enter eight in nine cycles (R217). -/
def Arr.six (a : Arr) (s : State) : Bool := dType a.d0 == 4 && divider s == 6

/-- Occupancy of the pass so far: the largest sum over the four arrays (R105, R217, R253). -/
def Chain.rows (c : Chain) : Nat :=
  (c.per.map fun p => p.1 + if c.six then (p.2 - 1) / 8 else 0).foldl max 0

/-- A pass goes on as one longer pass (R102). -/
def Chain.extend (c : Chain) (per : List (Nat × Nat)) (six : Bool) (mi : Nat) : Chain :=
  { c with per := List.zipWith (fun p q => (p.1 + q.1, p.2 + q.2)) c.per per, six := c.six || six, mi := mi }

/-- Identity of a stationary block for R102: tensor, cell mode and form. -/
def Arr.blkId (a : Arr) (kr cb : Nat) : Nat × Nat × Nat :=
  ((a.d1 * 8 + a.mode) * 2 ^ 20 + mGroups a.m * 32 + a.op, kr, cb)

/-- Entry spacing G of a block after the previous one (R211). -/
def Arr.spacing (a : Arr) (s : State) (x : Core) (b : Blk) (cb : Nat) : Nat :=
  let t := dType a.d1
  if b.empty || t < 2 || t > 4 then 32
  else
    let same := a.cbHeld x cb
    let bytes := (if t = 2 then 512 else 1024) + (if t = 4 then 128 else 0) +
      (if same then 0 else if t = 2 then 64 else if t = 3 then 320 else 0)
    max 32 (cdiv (3 * bytes) (16 * divider s))

/-! ## Tiles (R180, R181, R661) -/

/-- Row group and column block of a tile. -/
def Arr.place (a : Arr) (t : Nat) : Nat × Nat :=
  if a.reduces then (t, 0) else (t / max 1 a.geo.ncb, t % max 1 a.geo.ncb)

/-- Next tile from `t` on that is walked; tiles whose rows are all masked are omitted (R661). -/
def Arr.nextLive (a : Arr) (x : Core) : Nat → Nat → Nat
  | 0, t => t
  | fuel + 1, t => if a.groupLive x (a.place t).1 then t else a.nextLive x fuel (t + 1)

def Arr.liveFrom (a : Arr) (x : Core) (t : Nat) : Nat := a.nextLive x (a.tiles - t) t

/-- An accumulator tile takes its slots from the ring (R181). -/
def takeSlots (a : Arr) (t g cb : Nat) (s : State) : State :=
  s.onCore a.n fun x =>
    { x with ring := (x.ring + trgOf a.geo g) % ringSlots s
             walk := some { mi := a.mi, t := t, g := g, cb := cb, slot0 := x.ring } }

/-- The vector-engine work of DIST's gating and TOPK merges: a number of ticks that the manual does not
give (R114, R441), and registers left with contents that it does not state (log entry 68). -/
def distVector (a : Arr) (s : State) : State :=
  if a.op = opDist ∧ (distGate a.m ≠ 0 ∨ distReduce a.m = 3) then
    scratchRegs a.n (chargeVector a.n s.takeFree.1.toNat s.takeFree.2)
  else s

/-- Every tile of the macro-instruction is written: it ends. One that was omitted as a whole leaves the plane
chain as if it were absent (R661). -/
def arrEnd (a : Arr) (s : State) : State :=
  endMacro a.n a.mi (distVector a (s.onCore a.n fun x =>
    { x with chain := x.chain.map fun c => if c.mi + 1 = a.mi then { c with mi := a.mi } else c }))

/-- End the macro-instruction when no tile of it is left to begin or to drain. -/
def arrSettle (a : Arr) (s : State) : State :=
  let x := s.core a.n
  match x.job with
  | some j =>
    if a.tiles ≤ (j.act a.mi).tile && !(begunTiles x).any (·.1 == a.mi) then arrEnd a s else s
  | none => s

/-- Begin the next tile that is walked, when a fused SRC0 covers it; omitted tiles count as written
(R199, R661). -/
def openTile (a : Arr) (s : State) : State :=
  let x := s.core a.n
  match x.job with
  | none => s
  | some j =>
    let t := (j.act a.mi).tile
    let u := a.liveFrom x t
    let p := a.place u
    if u ≥ a.tiles then arrSettle a (tilesTo a.n a.mi u (u - t) s)
    else if covered x a.mi u then takeSlots a u p.1 p.2 (tilesTo a.n a.mi u (u - t) s)
    else s

/-- The array macro-instruction of an opcode that the arrays turn to, past its boundary and with a tile open
where one may begin. -/
def arrStart (n op : Nat) (s : State) : Option (Arr × State) :=
  match turn s n op with
  | none => none
  | some (mi, _) =>
    let a := arrOf n (s.core n) mi
    if (s.core n).walk.isSome then some (a, s)
    else
      let r := boundaryAt n mi s
      some (a, if r.1 then openTile a r.2 else r.2)

/-! ## Micro-steps -/

/-- Offset in the core window of an accumulator (R33, R93). -/
def accOff (arr slot col : Nat) : Nat := 0x400000 + arr * 163840 + slot * 160 + col * 5

def accRead (s : State) (n arr slot col : Nat) : Nat := peekNat s (coreWin n + accOff arr slot col) 5

/-- Array, slot of row index `i` of a group. -/
def rowSlot (s : State) (a : Arr) (w : Walk) (i : Nat) : Nat × Nat :=
  let t := max 1 (trgOf a.geo w.g)
  (i / t, (w.slot0 + i % t) % ringSlots s)

/-- Initial value of a column (R95, R142). -/
def Arr.init (a : Arr) (s : State) (x : Core) (ch : Nat) : Int :=
  if a.op ≠ opDist ∧ mInitEn a.m then
    toSigned 32 (eltCode s (desc x (mInit a.m)) { n := 0, h := 0, w := 0, c := ch })
  else 0

/-- New accumulator code of a column (R95, R96, R215). -/
def Arr.accum (a : Arr) (s : State) (x : Core) (first : Bool) (old : Nat) (sum : Int)
    (sa sw ch : Nat) : Nat :=
  if a.bs then
    let p := rne32 (fpMul (fpMul (fpOfInt sum) (fpDecode f16 sa)) (fpDecode f16 sw))
    let base := if first then rne32 (fpOfInt (a.init s x ch)) else fpDecode f32 (old % 2 ^ 32)
    fpRound f32 .even (fpAdd base p)
  else
    ofSigned 40 ((if first then a.init s x ch else toSigned 40 old) + sum)

/-! ## Drain (R97, R118, R142, R149 to R151, R182, R183, R226) -/

/-- A pair of DIST is admitted by its gate (R150, R374). -/
def interArea (x0 y0 x1 y1 u0 v0 u1 v1 : Int) : Nat :=
  (max 0 (min x1 u1 - max x0 u0)).toNat * (max 0 (min y1 v1 - max y0 v0)).toNat

/-- The two corners of a box tensor's row, X0, Y0, X1, Y1 (R372). -/
def boxAt (s : State) (d : Nat) (e : Elt) : Int × Int × Int × Int :=
  let a := eltCode s d { e with c := 0 }
  let b := eltCode s d { e with c := 1 }
  (toSigned 16 (fld a 15 0), toSigned 16 (fld a 31 16), toSigned 16 (fld b 15 0), toSigned 16 (fld b 31 16))

def boxArea (b : Int × Int × Int × Int) : Nat := (max 0 (b.2.2.1 - b.1)).toNat * (max 0 (b.2.2.2 - b.2.1)).toNat

/-- Intersection and union of two boxes (R272). -/
def interUnion (b c : Int × Int × Int × Int) : Nat × Nat :=
  let i := interArea b.1 b.2.1 b.2.2.1 b.2.2.2 c.1 c.2.1 c.2.2.1 c.2.2.2
  (i, boxArea b + boxArea c - i)

def Arr.admits (a : Arr) (s : State) (x : Core) (r ch : Nat) : Bool :=
  if a.op ≠ opDist then true
  else match distGate a.m with
    | 1 => eltCode s a.d2 (posAt a.d2 r ch) == 1
    | 2 =>
      let bd := desc x (fld (mP1 a.m) 9 0)
      let u := interUnion (boxAt s a.d2 (posAt a.d2 r 0)) (boxAt s bd (posAt bd ch 0))
      u.2 > 0 && fld (mP1 a.m) 31 16 * u.2 ≤ u.1 * 65536
    | _ => true

/-- Ranges that the gate of a row reads. -/
def Arr.gateRanges (a : Arr) (x : Core) (cb r : Nat) : List (Nat × Nat) :=
  if a.op ≠ opDist then []
  else
    let cols := ((List.range 32).filter (a.colOk cb)).map fun j => cb * 32 + j
    match distGate a.m with
    | 1 => cols.map fun ch => eltRange a.d2 (posAt a.d2 r ch)
    | 2 =>
      let bd := desc x (fld (mP1 a.m) 9 0)
      (eltRange a.d2 (posAt a.d2 r 0)) :: (eltRange a.d2 (posAt a.d2 r 1)) ::
        cols.flatMap fun ch => [eltRange bd (posAt bd ch 0), eltRange bd (posAt bd ch 1)]
    | _ => []

def Arr.qpEn (a : Arr) : Bool := if a.op = opDist then distQpEn a.m else mQpEn a.m
def Arr.qpIdx (a : Arr) : Nat := if a.op = opDist then distQp a.m else mQp a.m

/-- Fill of an excluded pair's I32 value (R151). -/
def fillI32 (sense : Bool) : Int := if sense then -2147483648 else 2147483647

/-- Result of one drained accumulator. -/
def Arr.drainRes (a : Arr) (s : State) (x : Core) (r ch acc : Nat) : Res :=
  let e := posAt a.dst r ch
  if a.admits s x r ch then
    if a.qpEn then
      resQp s a.dst (desc x a.qpIdx) e
        (if a.bs then .fp (fpDecode f32 (acc % 2 ^ 32)) else .int (toSigned 40 acc))
    else if a.bs then resFp a.dst e (fpDecode f32 (acc % 2 ^ 32))
    else resLim a.dst e (toSigned 40 acc)
  else
    let t := dType a.dst
    let v := if t = 6 then fillI32 (distSense a.m)
      else if distSense a.m then typeLo t else typeHi t
    resCode a.dst e (ofSigned (typeBits t) v)

/-- Candidates that a reduction keeps. -/
def Arr.keep (a : Arr) : Nat := if distReduce a.m = 3 then distK a.m else 1

/-- Merge a candidate into a row of the reduction store: best first, the lower index on equal values
(R149, R183). -/
def insCand (sense : Bool) (v : Int) (i : Nat) : List (Int × Nat) → List (Int × Nat)
  | [] => [(v, i)]
  | (u, k) :: r =>
    if (if sense then v > u else v < u) || (v == u && i < k) then (v, i) :: (u, k) :: r
    else (u, k) :: insCand sense v i r

/-- Rows of the four arrays that drain row `i` reads: index in the group. -/
def drainRows (a : Arr) (x : Core) (w : Walk) : List Nat :=
  let t := trgOf a.geo w.g
  ((List.range 4).map fun k => k * t + w.row).filter fun i =>
    i < rowsOf a.geo w.g && a.rowOk x (a.firstRow w.g + i)

/-- Results of a row of a reduction (R148, R151). -/
def Arr.reduced (a : Arr) (r : Nat) (cs : List (Int × Nat)) : List Res :=
  let put (c : Nat) (code : Nat) : Res := resCode a.dst (posAt a.dst r c) code
  let val (k : Nat) : Nat := match cs[k]? with
    | some v => ofSigned 32 (limitTo 6 v.1).val
    | none => ofSigned 32 (fillI32 (distSense a.m))
  let idx (k : Nat) : Nat := match cs[k]? with | some v => v.2 | none => 0xffffffff
  match distReduce a.m with
  | 1 => [put 0 (val 0)]
  | 2 => [put 0 (val 0), put 1 (idx 0)]
  | _ => (List.range (distK a.m)).flatMap fun k => [put (2 * k) (val k), put (2 * k + 1) (idx k)]

/-- The oldest tile has drained. -/
def popDrain (n : Nat) (s : State) : State := s.onCore n fun x => { x with drains := x.drains.drop 1 }

/-- The output tile of the oldest drain is written: it counts, and with it the omitted tiles behind it
(R176, R661). -/
def tileWritten (a : Arr) (w : Walk) (s : State) : State :=
  let s := popDrain a.n s
  let x := s.core a.n
  let tile := match x.job with | some j => (j.act a.mi).tile | none => 0
  arrSettle a (tilesTo a.n a.mi tile (a.liveFrom x (w.t + 1) - w.t) s)

/-- After the last slot row of an accumulator tile: of a reduction, only the last column block writes the
output tile (R183). -/
def drainEnd (a : Arr) (w : Walk) (s : State) : State :=
  let x := s.core a.n
  if a.reduces then
    if w.cb + 1 < a.geo.ncb then popDrain a.n s
    else
      let rs := ((List.range (rowsOf a.geo w.g)).filter fun i => a.rowOk x (a.firstRow w.g + i)).flatMap
        fun i => a.reduced (a.firstRow w.g + i) (x.redStore.getD i [])
      match writeRes a.n (mDst a.m) a.dst rs s with
      | (true, s) => tileWritten a w s
      | (false, s) => s
  else tileWritten a w s

/-- What a slot row reads when it drains: accumulators, gates, QP entries. -/
def Arr.drainReads (a : Arr) (s : State) (x : Core) (w : Walk) : List (Nat × Nat) :=
  let rows := drainRows a x w
  let qpR : List (Nat × Nat) :=
    if !a.reduces && a.qpEn then ((List.range 32).filter (a.colOk w.cb)).map fun j =>
      (dBase (desc x a.qpIdx) + (if dC (desc x a.qpIdx) = 2 then 0 else 8 * (w.cb * 32 + j)), 8) else []
  (rows.map fun i => (coreWin a.n + accOff (rowSlot s a w i).1 (rowSlot s a w i).2 0, 160)) ++
    wholeLines ((rows.flatMap fun i => a.gateRanges x w.cb (a.firstRow w.g + i)) ++ qpR)

/-- Results of a slot row that drains without a reduction. -/
def Arr.drainResults (a : Arr) (s : State) (x : Core) (w : Walk) : List Res :=
  (drainRows a x w).flatMap fun i => ((List.range 32).filter (a.colOk w.cb)).map fun j =>
    a.drainRes s x (a.firstRow w.g + i) (w.cb * 32 + j)
      (accRead s a.n (rowSlot s a w i).1 (rowSlot s a w i).2 j)

/-- The reduction store after a slot row of a tile has been merged into it (R183); the first slot row of the
first column block begins a new one. -/
def Arr.merged (a : Arr) (s : State) (x : Core) (w : Walk) : List (List (Int × Nat)) :=
  let cols := (List.range 32).filter (a.colOk w.cb)
  let acc (i j : Nat) : Nat := accRead s a.n (rowSlot s a w i).1 (rowSlot s a w i).2 j
  let upd (st : List (List (Int × Nat))) (i : Nat) : List (List (Int × Nat)) :=
    updAt st i fun l => cols.foldl (fun l j =>
      if a.admits s x (a.firstRow w.g + i) (w.cb * 32 + j) then
        (insCand (distSense a.m) (toSigned 40 (acc i j)) (w.cb * 32 + j) l).take a.keep
      else l) l
  (drainRows a x w).foldl upd
    (if w.cb = 0 ∧ w.row = 0 then List.replicate (rowsOf a.geo w.g) [] else x.redStore)

/-- One slot row of the four arrays drains from the oldest tile. -/
def drainStep (a : Arr) (w : Walk) (s : State) : State :=
  let n := a.n
  let x := s.core n
  let after (s : State) : State :=
    if w.row + 1 < trgOf a.geo w.g then
      s.onCore n fun x => { x with drains := { w with row := w.row + 1 } :: x.drains.drop 1 }
    else drainEnd a w s
  match rangesFail n s (a.drainReads s x w) with
  | some f => readFails n f.1 f.2 none s
  | none =>
    if a.reduces then after (s.onCore n fun x => { x with redStore := a.merged s x w })
    else
      match writeRes n (mDst a.m) a.dst (a.drainResults s x w) s with
      | (true, s) => after s
      | (false, s) => s

/-- A slot row of the oldest tile that drains, of whatever macro-instruction. -/
def drainOne (n : Nat) (s : State) : State :=
  let x := s.core n
  match x.drains with
  | [] => s
  | w :: _ => if issuing x then drainStep (arrOf n x w.mi) w s else s

/-- Every pending drain runs to its end, as long as nothing stops it. -/
def drainAll (n : Nat) : Nat → State → State
  | 0, s => s
  | fuel + 1, s => if (s.core n).drains = [] then s else drainAll n fuel (drainOne n s)

/-- Slot rows that the pending drains have left. -/
def drainFuel (x : Core) : Nat := x.drains.length * 1024

/-! ## Plane loads and row entries -/

/-- Record a scale and tag mismatch and stop the job after the drains that are owed (R219, R220). -/
def skewStop (n di side j found : Nat) (s : State) : State :=
  let s := if rbit (s.core n).skewInfo 11 then s
    else setInt (corePage n) 10 (s.onCore n fun x =>
      { x with
        skewInfo := BitVec.ofNat 32 (di + side * 2 ^ 10 + 2 ^ 11 + j % 256 * 2 ^ 16 + found * 2 ^ 24)
        skewBlock := BitVec.ofNat 32 j })
  let t := drainAll n (drainFuel (s.core n)) s
  if issuing (t.core n) then finishJob n jsSkew t else t

/-- The plane of a chain, by number. -/
def planeOf (x : Core) (p : Nat) : Plane := if p = 0 then x.plane0 else x.plane1
def putPlane (p : Nat) (v : Plane) (x : Core) : Core :=
  if p = 0 then { x with plane0 := v } else { x with plane1 := v }

/-- The pass of a walk begins, in the plane of its chain. -/
def beginPass (a : Arr) (w : Walk) (c : Chain) (s : State) : State :=
  s.onCore a.n fun x =>
    { x with chain := some c, walk := some { w with loaded := true, row := 0, plane := c.plane } }

/-- The block of a pass is loaded into the other plane than the last pass's; at the start of a chain into
plane 0. A block that is not ready in time stalls the arrays (R98, R100, R101, R211). -/
def loadPlane (a : Arr) (w : Walk) (s : State) : State :=
  let x := s.core a.n
  let b := a.blk w.kr w.cb
  let rows := match x.chain with | some c => c.rows | none => 0
  let adv := match x.chain with | some _ => max rows (a.spacing s x b w.cb) | none => 0
  let p := match x.chain with | some c => 1 - c.plane | none => 0
  beginPass a w
    { per := a.perArray x b w.g, six := a.six s, blk := a.blkId w.kr w.cb, mi := a.mi, plane := p }
    (s.onCore a.n fun x => putPlane p (a.plane s x b w.cb)
      { x with stall := x.stall + BitVec.ofNat 64 (adv - rows), codebook := a.cbAfter s x b w.cb })

/-- The load of the block of the open pass; none where consecutive passes of one macro-instruction, or of
back-to-back ones, use one block (R102, R218, R219). -/
def loadStep (a : Arr) (w : Walk) (s : State) : State :=
  let n := a.n
  let x := s.core n
  let b := a.blk w.kr w.cb
  match x.chain.filter fun c => c.blk == a.blkId w.kr w.cb && decide (a.mi ≤ c.mi + 1) with
  | some c => beginPass a w (c.extend (a.perArray x b w.g) (a.six s) a.mi) s
  | none =>
    match rangesFail n s (a.loadRanges x b w.cb), a.loadSkew s b w.cb with
    | some f, _ => readFails n f.1 f.2 none s
    | none, some k => skewStop n (mSrc1 a.m) 1 k.1 k.2 s
    | none, none => loadPlane a w s

/-- Index of the next unmasked row of the pass from `i`. -/
def nextRow (a : Arr) (x : Core) (g i : Nat) : Option Nat :=
  ((List.range (rowsOf a.geo g)).find? fun k => i ≤ k && a.rowOk x (a.firstRow g + k))

/-- After the last row of a pass: the next pass; after the last pass the tile waits for its drain, and the
next column block of a reduction or, later, the next tile follows (R180). -/
def passDone (a : Arr) (w : Walk) (s : State) : State :=
  if w.kr + 1 < a.geo.kb then
    s.onCore a.n fun x => { x with walk := some { w with kr := w.kr + 1, loaded := false, row := 0 } }
  else
    let s := s.onCore a.n fun x => { x with drains := x.drains ++ [{ w with row := 0 }], walk := none }
    if a.reduces ∧ w.cb + 1 < a.geo.ncb then takeSlots a w.t w.g (w.cb + 1) s
    else tilesTo a.n a.mi (a.liveFrom (s.core a.n) (w.t + 1)) 0 s

/-- What row `i` of the open pass reads: activations, the accumulators to add to, INIT (R96, R142). -/
def Arr.rowReads (a : Arr) (s : State) (x : Core) (w : Walk) (i : Nat) : List (Nat × Nat) :=
  let sl := rowSlot s a w i
  let first := w.kr == 0
  let accR : List (Nat × Nat) :=
    if first && (List.range 32).all (a.colOk w.cb) then []
    else [(coreWin a.n + accOff sl.1 sl.2 0, 160)]
  let initR : List (Nat × Nat) :=
    if first && a.op != opDist && mInitEn a.m then
      ((List.range 32).filter (a.colOk w.cb)).map fun j =>
        eltRange (desc x (mInit a.m)) { n := 0, h := 0, w := 0, c := w.cb * 32 + j }
    else []
  a.rowRanges (a.blk w.kr w.cb) (a.firstRow w.g + i) ++ accR ++ wholeLines initR

/-- New value of the accumulator of column `j` when row `i` enters. -/
def Arr.rowAcc (a : Arr) (s : State) (x : Core) (w : Walk) (i j : Nat) : Nat :=
  let r := a.firstRow w.g + i
  let b := a.blk w.kr w.cb
  let sl := rowSlot s a w i
  let p := planeOf x w.plane
  let xs := (List.range 32).map fun k => if a.redOk b k then a.aVal s b r k else 0
  a.accum s x (w.kr == 0) (accRead s a.n sl.1 sl.2 j) (colSum p xs j)
    (match a.rowScale s b r with | some k => k.2.1 | none => one16) (p.scales.getD j one16) (w.cb * 32 + j)

/-- Bytes of the accumulators that row `i` writes: those of the columns the plane holds. -/
def Arr.rowCells (a : Arr) (s : State) (x : Core) (w : Walk) (i : Nat) : List Host.Cell :=
  let sl := rowSlot s a w i
  ((List.range 32).filter fun j => (planeOf x w.plane).cols.getD j false).flatMap fun j =>
    (leBytes 5 (a.rowAcc s x w i j)).mapIdx fun k byte => (coreKey s a.n (accOff sl.1 sl.2 j + k), byte)

/-- The tile's slots are not all drained: its first row is held (R182). -/
def slotsHeld (a : Arr) (x : Core) (w : Walk) (s : State) : Bool :=
  let ring (p k : Nat) : List Nat := (List.range k).map fun i => (p + i) % ringSlots s
  w.kr == 0 && w.row == 0 && x.drains.any fun d =>
    let t := trgOf (arrOf a.n x d.mi).geo d.g
    (ring (d.slot0 + d.row) (t - d.row)).any fun i => (ring w.slot0 (trgOf a.geo w.g)).contains i

/-- A row meets a block row whose parity does not hold: the row completes, and the core fails; its block is
no longer the one of R102 (R113). -/
def parityFail (a : Arr) (s : State) : State :=
  coreFailed a.n 2 none <|
    raise (corePage a.n) 8 none (srcUnit s (coreSrc a.n)) <|
    s.onCore a.n fun x => { x with chain := x.chain.map fun c => { c with blk := (0, 0, 0) } }

/-- One row enters, crosses and adds its column sums (R90 to R97, R104 to R107, R113, R218, R660). `bad` is a
block row whose weight has lost its parity. -/
def rowStep (a : Arr) (w : Walk) (bad : Option (Fin 32)) (s : State) : State :=
  let n := a.n
  let x := s.core n
  match nextRow a x w.g w.row with
  | none => passDone a w s
  | some i =>
    let b := a.blk w.kr w.cb
    let p := planeOf x w.plane
    let par := match bad with | some k => updAt p.parity k.val fun _ => false | none => p.parity
    let next (s : State) : State :=
      match nextRow a x w.g (i + 1) with
      | some k => s.onCore n fun x => { x with walk := some { w with row := k } }
      | none => passDone a w s
    let go (s : State) : State :=
      if par.all id then next s
      else parityFail a (next (s.onCore n (putPlane w.plane { p with parity := par })))
    if slotsHeld a x w s then s
    else if b.empty then go s
    else
      match rangesFail n s (a.rowReads s x w i),
          (a.rowScale s b (a.firstRow w.g + i)).filter fun k => k.2.2 != k.1 % 256 with
      | some f, _ => readFails n f.1 f.2 none s
      | none, some k => skewStop n (mSrc0 a.m) 0 k.1 k.2.2 s
      | none, none => go (putKeys [] (a.rowCells s x w i) s)

/-- The next micro-step of the arrays: a drain that is owed, else one of the open tile, else the next tile. -/
def arrStep (a : Arr) (s : State) : State :=
  let x := s.core a.n
  match x.drains, x.walk with
  | _ :: _, _ => drainOne a.n s
  | [], some w => if w.loaded then rowStep a w none s else loadStep a w s
  | [], none => openTile a s

/-- The macro-instruction has not ended and the core issues micro-steps. -/
def arrGoes (a : Arr) (x : Core) : Bool :=
  issuing x && x.job.any fun j => decide (j.mi ≤ a.mi) && !(j.act a.mi).ended

/-- Micro-steps until the macro-instruction ends, waits for its producer, or the job stops. -/
def arrRun (a : Arr) : Nat → State → State
  | 0, s => s
  | fuel + 1, s =>
    if arrGoes a (s.core a.n) then
      let t := arrStep a s
      if (t.core a.n).walk.isNone && (t.core a.n).drains == [] && (s.core a.n).drains == [] then t
      else arrRun a fuel t
    else s

/-- More micro-steps than a walk can have, with the drains before it. -/
def arrFuel (a : Arr) (x : Core) : Nat :=
  drainFuel x + (a.geo.nrg * a.geo.ncb + 1) * ((a.geo.kb + 1) * (4 * a.geo.tr + 3) + a.geo.tr + 2)

/-- An array macro-instruction walks to its end (R180). -/
def arrMacro (n op : Nat) (s : State) : State :=
  match arrStart n op s with
  | none => s
  | some (a, t) => arrRun a (arrFuel a (t.core n)) t

def execMatmul (core : Fin 24) (s : State) : Out := .next (arrMacro core.val opMatmul s)
def execConv2d (core : Fin 24) (s : State) : Out := .next (arrMacro core.val opConv2d s)
def execDist (core : Fin 24) (s : State) : Out := .next (arrMacro core.val opDist s)

/-- Opcode of the macro-instruction that the arrays turn to. -/
def arrOpNow (s : State) (n : Nat) : Nat :=
  match unitTurn (s.core n) 0 with | some mi => mOp (macroAt (s.core n) mi) | none => 0

/-- A micro-step of one kind on the open tile of the core's array macro-instruction. -/
def micro (n : Nat) (f : Arr → Walk → State → State) (s : State) : State :=
  match arrStart n (arrOpNow s n) s with
  | none => s
  | some (a, s) =>
    match (s.core n).walk with
    | some w => if issuing (s.core n) then f a w s else s
    | none => s

def execPlaneLoad (core : Fin 24) (s : State) : Out :=
  .next (micro core.val (fun a w s => if w.loaded then s else loadStep a w s) s)

def execRowEntry (core : Fin 24) (parity : Option (Fin 32)) (s : State) : Out :=
  .next (micro core.val (fun a w s => if w.loaded then rowStep a w parity s else s) s)

/-- DRAIN: a slot row of the oldest tile that drains. -/
def execDrain (core : Fin 24) (s : State) : Out := .next (drainOne core.val s)

end Sys2Proof.Machine
end

