-- ==== Sys2Proof/Machine/Hbm.lean ====
section
/-! DEFINITION. The HBM controller: map, requests and indivisible operations, retraining,
self-refresh (R458 to R477). -/

namespace Sys2Proof.Machine

/-! ## HBM_CFG (R461, R462) -/

/-- A write of HBM_CFG: LOCK can only be set; a change of MAP while LOCK is set is discarded, MAP 3 is
reserved (R13). -/
def hbmCfgOp (v : W32) (s : State) : State :=
  let map := rfld v 1 0
  if map ≠ s.hbm.map ∧ s.hbm.lock = true then invalidProg .hbm s
  else
    let s := if map = 3 then invalidProg .hbm s else s.onHbm fun h => { h with map := map }
    s.onHbm fun h => { h with lock := h.lock || rbit v 31 }

def execHbmCfgWrite (v : W32) (s : State) : Out := .next (hostWrite (hbmCfgOp v) s)

/-! ## Requests (R463 to R466, R469, R470) -/

/-- The response flit of a request: its code and the data it carries. -/
def State.respond (r : Resp) (data : List Byte) (s : State) : State :=
  { s with resp := BitVec.ofNat 8 (respCode r) :: data }

/-- A request that passes the address map and the queues is served by the memory's controller. -/
def serveRequest (src : Src) (a lines : Nat) (f : State → Resp × List Byte × State) (s : State) : State :=
  match respRange s src a (64 * lines) with
  | .ok =>
    match toQueues a lines s with
    | none => s.respond .hbmBusy []
    | some s => let r := f s; r.2.2.respond r.1 r.2.1
  | r => s.respond r []

/-- First word of a range that holds an uncorrectable error, as a device address. -/
def firstBad (s : State) (a n : Nat) : Option Nat :=
  ((List.range (n / 8)).map fun i => a + 8 * i).find? fun w => s.badWords.contains (physKey s w / 8 * 8)

/-- What the SECDED check finds in the word at an address when it is read (R469, R470). -/
def eccFinds (src : Src) (ecc : Ecc) (a : Nat) (s : State) : State :=
  match ecc with
  | .clean => s
  | .corrected => logCorr src a s
  | .uncorrectable => spoil a s

/-- MEM_READ: the lines from the line of `addr` on; `ecc` concerns the word at `addr`. -/
def execMemRead (src : Src) (addr : BitVec 48) (lines : Fin 65) (ecc : Ecc) (s : State) : Out :=
  .next (
    let a := addr.toNat / 64 * 64
    let n := 64 * lines.val
    serveRequest src a lines.val (fun s =>
      let s := eccFinds src ecc addr.toNat (touch src a s)
      match firstBad s a n with
      | some w => (.poison, peek s a n, logUncorr src w s)
      | none => (.ok, peek s a n, s)) s)

/-- MEM_WRITE: one line under a byte mask; words written in part are read, changed and written as one
operation, and `ecc` concerns the first of them (R191, R192, R465). -/
def execMemWrite (src : Src) (addr : BitVec 48) (mask : W64) (data : List Byte) (ecc : Ecc) (s : State) :
    Out :=
  .next (
    let a := addr.toNat / 64 * 64
    let part (w : Nat) : Bool :=
      ((List.range 8).any fun i => mask.getLsbD (8 * w + i)) &&
      !((List.range 8).all fun i => mask.getLsbD (8 * w + i))
    let cs := ((List.range 64).filter fun i => mask.getLsbD i).map fun i => (a + i, data.getD i 0)
    serveRequest src a 1 (fun s =>
      let s := match (List.range 8).find? part with
        | some w => eccFinds src ecc (a + 8 * w) s
        | none => s
      let r := serveCells src { cells := cs } s
      (r.1, [], r.2)) s)

/-- An indivisible operation on the word of an address (R465). -/
def serveWord (src : Src) (addr : BitVec 48) (ecc : Ecc) (f : Nat → Nat) (s : State) : State :=
  let w := addr.toNat / 8 * 8
  serveRequest src (w / 64 * 64) 1 (fun s =>
    let r := serve64 src w false f (eccFinds src ecc w s)
    (r.1, [], r.2)) s

def execMemAdd (src : Src) (addr : BitVec 48) (v : W64) (ecc : Ecc) (s : State) : Out :=
  .next (serveWord src addr ecc (add64 v.toNat) s)
def execMemBitSet (src : Src) (addr : BitVec 48) (v : W64) (ecc : Ecc) (s : State) : Out :=
  .next (serveWord src addr ecc (set64 v.toNat) s)
def execMemBitClear (src : Src) (addr : BitVec 48) (v : W64) (ecc : Ecc) (s : State) : Out :=
  .next (serveWord src addr ecc (clear64 v.toNat) s)

/-! ## Retraining (R472 to R474) -/

def retrainOffset (s : State) : Nat := rfld s.hbm.retrain 22 1

/-- A write of HBM_RETRAIN_CFG, to the register or its shadow: OFFSET outside its values keeps the one
before (R13, R472). -/
def retrainMerge (old v : W32) : W32 × Bool :=
  let o := rfld v 22 1
  let bad : Bool := o % 3 != 1 || o > 2999998
  (if bad then mergeBits 0x7f800001#32 old v else v &&& 0x7fffffff#32, bad)

def retrainCfgWrite (v : W32) (s : State) : State :=
  if (s.hdr .hbm).shadowSel then
    let old := s.hbm.shRetrain.getD s.hbm.retrain
    let r := retrainMerge old v
    let s := if r.2 then invalidProg .hbm s else s
    shadowWrite .hbm (r.1 != old) (fun s => s.onHbm fun h => { h with shRetrain := some r.1 }) s
  else
    let r := retrainMerge s.hbm.retrain v
    let s := if r.2 then invalidProg .hbm s else s
    s.onHbm fun h => { h with retrain := r.1 }

/-- HBM_RETRAIN_WINDOW: at tick 0 of beat OFFSET of the cycles that hold a window (R472). -/
def execHbmRetrainWindow (s : State) : Out :=
  .next (
    let k := s.ktl
    let o := retrainOffset s
    if rbit s.hbm.retrain 0 = true ∧ (k.planState = .running ∨ k.planState = .stopping) ∧
        k.cycleNo % (rfld s.hbm.retrain 30 23 + 1) = 0 ∧ o + 2 ≤ k.cycleLen ∧
        s.now = k.cycleStart + o * 1100 ∧ (s.hbm.window.all fun w => w.2 ≤ s.up) = true ∧ hbmRefuses s = false then
      s.onHbm fun h => { h with window := some (h.nextPc, s.up + 2200), nextPc := (h.nextPc + 1) % 32 }
    else s)

/-- HBM_RETRAIN_DONE: at the first tick after the window (R474). -/
def execHbmRetrainDone (pass : Bool) (latency : Nat) (s : State) : Out :=
  .next (match s.hbm.window with
    | some (pc, e) =>
      if e = s.up then
        let s := s.onHbm fun h => { h with window := none, lastFail := !pass }
        if pass then s.onHbm fun h => { h with fifoLat := updAt h.fifoLat pc fun _ => latency }
        else
          raise .hbm 10 none pc (s.onHbm fun h => { h with fails := satInc 65535 h.fails })
      else s
    | none => s)

/-! ## Self-refresh (R475 to R477) -/

/-- Some job is ACTIVE. -/
def anyActive (s : State) : Bool :=
  s.sched.ctxs.any fun c => c.slots.any fun k => k.state == .active

def srBusy (s : State) : Bool := s.hbm.entering.isSome || s.hbm.exiting.isSome

/-- A write of HBM_SR_CTRL: an ENTER that is not accepted discards the write; while BUSY, ENTER and
EXIT are ignored. -/
def srCtrlWrite (v : W32) (s : State) : State :=
  let ent := rbit v 8 && !srBusy s
  if ent && (s.ktl.planState != .stopped || anyActive s) then invalidProg .hbm s
  else
    let s := s.onHbm fun h => { h with keep := rfld v 5 0 }
    if ent && !s.hbm.inSr then s.onHbm fun h => { h with entering := some s.up }
    else if rbit v 9 && s.hbm.inSr && !srBusy s then s.onHbm fun h => { h with exiting := some s.up }
    else s

def execEnter (v : W32) (s : State) : Out := .next (hostWrite (srCtrlWrite (v ||| 0x100#32)) s)
def execExit (v : W32) (s : State) : Out := .next (hostWrite (srCtrlWrite (v ||| 0x200#32)) s)

/-- Banks of SID `sid` that self-refresh retains (R476). -/
def keptBanks (keep sid : Nat) : Nat := [2, 4, 8, 16].getD (fld keep (2 * sid + 1) (2 * sid)) 16

/-- The key of an HBM byte whose bank is not retained. -/
def bankLost (keep k : Nat) : Bool := k < hbmEnd && keptBanks keep (bankOf k).1 ≤ (bankOf k).2

/-- The bytes and words of a set of keys lose what they hold. -/
def loseMem (p : Nat → Bool) (s : State) : State :=
  { s with mem := memBlur p s.free s.mem, free := s.free + (s.mem.filter fun c => p c.1).length
           badWords := s.badWords.filter fun w => !p w }

/-- SR_ENTRY: tick 0 of a beat that is a multiple of 3, the queues drained (R475); data of banks that
are not retained is undefined from here on (R476). -/
def execSrEntry (s : State) : Out :=
  .next (match s.hbm.entering with
    | some t =>
      if t < s.up ∧ s.now % 3300 = 0 ∧ (s.hbm.queue.all fun q => q.1 ≤ s.up) = true then
        let s := loseMem (bankLost s.hbm.keep) s
        setInt .hbm 8 (s.onHbm fun h => { h with entering := none, inSr := true })
      else s
    | none => s)

/-- Every pseudo-channel is trained; the latency each gets is left open (R29, R477). -/
def trainAll (s : State) : State :=
  { s.onHbm fun h => { h with
      fifoLat := (List.range 32).map fun i => (Config.freeValue (s.free + i)).toNat } with
    free := s.free + 32 }

/-- SR_DONE: exit and training are finished; refresh resumes at the next beat that is a multiple of 3
(R477). -/
def execSrDone (s : State) : Out :=
  .next (match s.hbm.exiting with
    | some t =>
      if t < s.up then
        let s := (trainAll s).onHbm fun h => { h with exiting := none, inSr := false }
        setInt .hbm 8 (s.onKtl fun k => { k with resumeBeat := (s.beat / 3 + 1) * 3 })
      else s
    | none => s)

end Sys2Proof.Machine
end

