-- ==== Sys2Proof/Machine/Codec.lean ====
section
/-! DEFINITION. What decoders, encoders, cameras and scalers share: frame-buffer descriptors and their
samples, unit numbers, core states, the takeover of a codec core (R282, R283, R296 to R299, R559 to
R564). -/

namespace Sys2Proof.Machine

/-! ## Frame buffers (R296, R298) -/

/-- A frame-buffer descriptor read as fields. -/
def parseFb (d : Nat) : Fb :=
  { yBase := fld d 47 0, cBase := fld d 111 64, pitch := fld d 143 128, fbW := fld d 175 160
    fbH := fld d 191 176, mvBase := fld d 239 192, mvLines := fld d 287 256, wide := bitAt d 288 }

/-- Luma, chroma and motion regions. -/
def fbRegions (f : Fb) : List (Nat × Nat) :=
  [(f.yBase, f.pitch * f.fbH), (f.cBase, f.pitch * cdiv f.fbH 2), (f.mvBase, f.mvLines * 64)]

/-- A descriptor breaks R296 for a width, a height and bytes per row. -/
def fbBad (d w h rowBytes : Nat) (tenBit : Bool) : Bool :=
  let f := parseFb d
  fld d 63 48 != 0 || fld d 127 112 != 0 || fld d 159 144 != 0 || fld d 255 240 != 0 ||
  fld d 511 289 != 0 || f.pitch < 64 || f.pitch > 16384 || f.pitch % 64 != 0 || f.fbW < w || f.fbH < h ||
  f.mvLines < cdiv (cdiv f.fbW 16 * cdiv f.fbH 16) 4 || f.pitch < f.fbW * (if f.wide then 2 else 1) ||
  f.pitch < rowBytes || (tenBit && !f.wide) ||
  (fbRegions f).any fun r => !inHbm r.1 r.2 64

/-- Two entries of a list of regions overlap. -/
def meets (l : List (Nat × Nat)) : Bool :=
  (List.range l.length).any fun i => (List.range i).any fun j =>
    overlaps (l.getD i (0, 0)).1 (l.getD i (0, 0)).2 (l.getD j (0, 0)).1 (l.getD j (0, 0)).2

/-- Bytes of a sample container. -/
def fbStep (f : Fb) : Nat := if f.wide then 2 else 1

/-- A luma sample. -/
def lumaAt (s : State) (f : Fb) (x y : Nat) : Nat :=
  peekNat s (f.yBase + y * f.pitch + x * fbStep f) (fbStep f)

/-- Sample `k` (0 Cb, 1 Cr) of a chroma position. -/
def chromaAt (s : State) (f : Fb) (k x y : Nat) : Nat :=
  peekNat s (f.cBase + y * f.pitch + (2 * x + k) * fbStep f) (fbStep f)

/-- The bytes of a picture's rows, clipped at the frame buffer's bounds (R297, R298): `luma x y` and
`chroma k x y` give the samples. -/
def pictureRows (f : Fb) (w h : Nat) (luma : Nat → Nat → Nat) (chroma : Nat → Nat → Nat → Nat) :
    List (Nat × List Byte) :=
  let cw := min w f.fbW
  let ch := min h f.fbH
  ((List.range ch).map fun y =>
    (f.yBase + y * f.pitch, (List.range cw).flatMap fun x => leBytes (fbStep f) (luma x y))) ++
  ((List.range (cdiv ch 2)).map fun y =>
    (f.cBase + y * f.pitch, (List.range (cdiv cw 2)).flatMap fun x =>
      leBytes (fbStep f) (chroma 0 x y) ++ leBytes (fbStep f) (chroma 1 x y)))

/-- Frame-buffer descriptors of a table. -/
def fbRaw (s : State) (table n : Nat) : List Nat := (List.range n).map fun i => peekNat s (table + 64 * i) 64

/-! ## Codec cores (R294, R329, R564) -/

def decSrc (n : Nat) : Src := .decoder (Fin.ofNat 8 n)
def encSrc (n : Nat) : Src := .encoder (Fin.ofNat 4 n)

def decState (s : State) (n : Nat) : UnitState := (s.mgt.decMap.getD n {}).state
def encState (s : State) (n : Nat) : UnitState := (s.mgt.encMap.getD n {}).state

/-- A logical decoder core is free. -/
def decFree (s : State) (n : Nat) : Bool :=
  (s.dec.busy.getD n none).isNone && (s.dec.kat.getD n none).isNone && decState s n == .ok &&
  !s.dec.slice.getD n false && !haltOn s .dec

/-- A logical encoder core is free. -/
def encFree (s : State) (n : Nat) : Bool :=
  (s.enc.busy.getD n none).isNone && encState s n == .ok && !s.enc.slice.getD n false && !haltOn s .enc

/-- Give a picture's cores back. -/
def freeCores (c : Nat) (l : List (Option Nat)) : List (Option Nat) :=
  l.map fun x => if x = some c then none else x

/-- Claim cores for a context. -/
def claim (c : Nat) (ns : List Nat) (l : List (Option Nat)) : List (Option Nat) :=
  ns.foldl (fun l n => updAt l n fun _ => some c) l

/-- The core with the fewest samples so far, ties to the lower. -/
def fewest (l : List Nat) : Nat := (l.findIdx? (· == l.foldl min (l.headD 0))).getD 0

/-- Division of partitions or bands over `c` cores, in order: the place of each one's core (R306, R329). -/
def ownersOver (c : Nat) (sizes : List Nat) : List Nat :=
  (sizes.foldl (fun (l, o) n => (updAt l (fewest l) (· + n), o ++ [fewest l])) (List.replicate c 0, [])).2

/-- Wavefront rows go to core r mod c (R306). -/
def ownersRows (c : Nat) (sizes : List Nat) : List Nat := (List.range sizes.length).map (· % max 1 c)

/-- What the owner at place `k` has of a list that is divided. -/
def ownedBy {α : Type} (k : Nat) (owners : List Nat) (l : List α) : List α :=
  ((owners.zip l).filter (·.1 == k)).map (·.2)

/-- Every sample of a frame buffer's picture: luma, then the chroma pairs. -/
def fbSamples (s : State) (f : Fb) (w h : Nat) : List Nat :=
  ((List.range h).flatMap fun y => (List.range w).map fun x => lumaAt s f x y) ++
  ((List.range (cdiv h 2)).flatMap fun y => (List.range (cdiv w 2)).flatMap fun x =>
    [chromaAt s f 0 x y, chromaAt s f 1 x y])

/-- The bytes that a region of luma samples and its chroma take in a frame buffer, as ranges. -/
def fbRanges (f : Fb) (x y w h : Nat) : List (Nat × Nat) :=
  ((List.range h).map fun i => (f.yBase + (y + i) * f.pitch + x * fbStep f, w * fbStep f)) ++
  ((List.range (cdiv (y + h) 2 - y / 2)).map fun i =>
    (f.cBase + (y / 2 + i) * f.pitch + x / 2 * 2 * fbStep f, (cdiv (x + w) 2 - x / 2) * 2 * fbStep f))

/-- Reads of ranges by an agent: whether one is answered other than OK. -/
def readsFail (src : Src) (rs : List (Nat × Nat)) (s : State) : Bool × State :=
  rs.foldl (fun (b, s) r =>
    let (a, _, s) := readMem src r.1 r.2 s
    (b || a != .ok, s)) (false, s)

/-! ## Takeover of a codec core (R559, R560, R564) -/

/-- Map entry of a target. -/
def mapOf (s : State) : Unit' → MapEntry
  | .core n => s.mgt.coreMap.getD n.val {}
  | .dec n => s.mgt.decMap.getD n.val {}
  | .enc n => s.mgt.encMap.getD n.val {}

/-- Change the map entry of a target. -/
def onMap (u : Unit') (f : MapEntry → MapEntry) (s : State) : State :=
  s.onMgt fun m => match u with
    | .core n => { m with coreMap := updAt m.coreMap n.val f }
    | .dec n => { m with decMap := updAt m.decMap n.val f }
    | .enc n => { m with encMap := updAt m.encMap n.val f }

/-- Kind of a unit in the defect record and in R550: 1 core, 2 decoder, 3 encoder. -/
def unitKind : Unit' → Nat
  | .core _ => 1 | .dec _ => 2 | .enc _ => 3

/-- A defect waits to be recorded (R565). -/
def noteDefect (kind phys cause : Nat) (s : State) : State :=
  s.onFlash fun f => { f with unsaved := f.unsaved ++
    [{ kind := kind, phys := phys, cause := cause, boots := f.boots, tick := s.now }] }

/-- A logical codec core without a spare is ABSENT (R564). -/
def codecAbsent (u : Unit') (s : State) : State :=
  setInt .mgt 11 (onMap u (fun e => { e with state := .absent })
    (s.onMgt fun m => { m with takeover := m.takeover.filter (·.target != u) }))

/-- A takeover of a codec core starts: fenced, the single spare of its kind chosen; no save. -/
def startCodec (u : Unit') (cause : Nat) (s : State) : State :=
  if (mapOf s u).state = .ok then
    let phys := (mapOf s u).phys
    let sp : Option Nat := match u with
      | .dec _ => s.mgt.decSpares.head?
      | _ => s.mgt.encSpares.head?
    let s := onMap u (fun e => { e with state := .fenced }) s
    let s := s.onMgt fun m =>
      { m with
        decSpares := match u with | .dec _ => m.decSpares.tail | _ => m.decSpares
        encSpares := match u with | .enc _ => m.encSpares.tail | _ => m.encSpares
        takeover := m.takeover ++
          [{ target := u, cause := cause, detected := s.up, failed := phys, spare := sp
             stage := .powering, goodAt := s.up + 23100, saveDone := true, hasJob := false, mapBeat := none }] }
    let s := noteDefect (unitKind u) phys cause s
    if sp.isNone then codecAbsent u s else s
  else s

end Sys2Proof.Machine
end

