-- ==== Sys2Proof/Machine/Encoder.lean ====
section
/-! DEFINITION. The video encoders: contexts, starts, output rings, reports, core faults (chapter 08,
R318 to R333; R346). What the rules leave to the encoder, its choice of coding and its bytes, are
functions without a body of what R331 lets them depend on (log entry 8). -/

namespace Sys2Proof.Machine

/-! ## Descriptors and commands (R318, R327) -/

def parseEnc (d : Nat) : EncDesc :=
  { codec := fld d 1 0, auto := bitAt d 2, span := fld d 4 3, coreMask := fld d 11 8, rc := fld d 13 12
    refresh := fld d 23 16 + 1, qp := fld d 29 24, width := fld d 47 32, height := fld d 63 48
    bitrate := fld d 95 64, fpsNum := fld d 111 96, fpsDen := fld d 127 112, outBase := fld d 175 128
    outLines := fld d 223 192, maxPic := fld d 255 224, consAddr := fld d 303 256
    reconTable := fld d 367 320, srcStream := fld d 399 384, statusRing := fld d 405 400
    streamId := fld d 431 416, slices := fld d 439 432, qpMin := fld d 453 448, qpMax := fld d 461 456 }

def encDescBad (d : Nat) : Bool :=
  let x := parseEnc d
  fld d 7 5 != 0 || fld d 15 14 != 0 || fld d 31 30 != 0 || fld d 191 176 != 0 || fld d 319 304 != 0 ||
  fld d 383 368 != 0 || fld d 415 406 != 0 || fld d 447 440 != 0 || fld d 511 462 != 0 ||
  x.codec == 3 || x.rc == 3 || x.qp > 51 || x.width < 64 || x.width > 4096 || x.width % 8 != 0 ||
  x.height < 64 || x.height > 2304 || x.height % 8 != 0 ||
  (x.rc != 0 && (x.bitrate < 64 || x.bitrate > 100000)) || x.fpsNum == 0 || x.fpsDen == 0 ||
  x.maxPic < 4096 || x.maxPic > 16777216 || x.maxPic % 64 != 0 || x.outLines < 2 * x.maxPic / 64 ||
  !inHbm x.outBase (x.outLines * 64) 64 || !inHbm x.consAddr 8 8 || !inHbm x.reconTable 128 64 ||
  x.srcStream > 15 || x.slices == 0 || x.slices > 68 || x.qpMin > 51 || x.qpMax < x.qpMin || x.qpMax > 51

/-- ENABLE of an encode context, checked as R283 checks. -/
def encEnableOp (c : Nat) (s : State) : Nat × State :=
  let (r, bs, s) := readMem (encSrc 0) (pairAddr s.enc.tableLo s.enc.tableHi 6 + 64 * c) 64 s
  let d := leNat bs
  let x := parseEnc d
  if r ≠ .ok ∨ encDescBad d = true then (badDescriptor, s)
  else
    let (r2, _, s) := readMem (encSrc 0) x.reconTable 128 s
    let raw := fbRaw s x.reconTable 2
    let fbs := raw.map parseFb
    if r2 ≠ .ok ∨ (raw.any fun f => fbBad f x.width x.height 0 false) = true then (badFb, s)
    else if meets ([(x.outBase, x.outLines * 64), (x.consAddr, 8)] ++ fbs.flatMap fbRegions) then
      (overlapCode, s)
    else if (s.encCtx c).enabled then (badState, s)
    else
      let s := s.onEncCtx c fun y =>
        { enabled := true, desc := x, recon := fbs, picCount := y.picCount }
      (okCode, s.onEnc fun e => { e with
        act := updAt e.act c fun _ => BitVec.ofNat 32 (x.coreMask + x.span * 16) })

/-- DISABLE at a frame boundary. -/
def encDisabled (x : EncCtx) : EncCtx := { x with enabled := false, wantDis := false, held := [] }

def encDisableOp (c : Nat) (s : State) : Nat × State :=
  let x := s.encCtx c
  if !x.enabled then (badState, s)
  else if x.pic.isSome then (okCode, s.onEncCtx c fun x => { x with wantDis := true })
  else (okCode, s.onEncCtx c encDisabled)

def encRefreshOp (c : Nat) (s : State) : Nat × State :=
  if !(s.encCtx c).enabled then (badState, s)
  else (okCode, s.onEncCtx c fun x => { x with idrNext := true })

/-- A write of ENC_CTX_CMD. -/
def encCmdWrite (v : W32) (s : State) : State :=
  cmdWrite .enc 3 s.enc.cmd v (fun v s =>
    let s := s.onEnc fun d => { d with cmd := { d.cmd with cmd := v &&& 0x001f070f#32 } }
    if rbit v 31 then
      let c := rfld v 3 0
      let r := match rfld v 10 8 with
        | 0 => encEnableOp c s
        | 1 => encDisableOp c s
        | _ => encRefreshOp c s
      r.2.onEnc fun d => { d with cmd := { d.cmd with code := r.1, done := true, ctx := c } }
    else s) s

def execEncEnable (ctx : Fin 16) (s : State) : Out :=
  .next (hostWrite (encCmdWrite (cmdWord 0 ctx.val)) s)
def execEncDisable (ctx : Fin 16) (s : State) : Out :=
  .next (hostWrite (encCmdWrite (cmdWord 1 ctx.val)) s)
def execRefreshNow (ctx : Fin 16) (s : State) : Out :=
  .next (hostWrite (encCmdWrite (cmdWord 2 ctx.val)) s)

/-! ## Sources (R319, R343, R346) -/

/-- A frame offered to an encoder: SEQ, PTS, where its samples lie, capture buffer, error. -/
structure EncSource where
  seq : Nat
  pts : Nat
  fb  : Fb
  buf : Option Nat
  bad : Bool
deriving DecidableEq, Repr

/-- The most recent completed frame of SRC_STREAM that the context has not encoded. -/
def encSource (s : State) (x : EncCtx) : Option EncSource :=
  let ch := s.cap x.desc.srcStream
  let f : Option EncSource :=
    if ch.enabled && ch.desc.format == 0 then
      ch.latest.map fun f =>
        { seq := f.seq, pts := f.pts, fb := ch.fbs.getD (f.buf.getD 0) {}, buf := f.buf, bad := f.rxErr }
    else ch.frameOut.map fun f => { seq := f.1, pts := f.2.2, fb := f.2.1, buf := none, bad := false }
  f.filter fun f => x.lastSeq != some f.seq

/-! ## Reports (R328) -/

def encOk : Nat := 0
def encInputBad : Nat := 1
def encRingFull : Nat := 2
def encNoInput : Nat := 3
def encCap : Nat := 4
def encFault : Nat := 5

/-- Hand off an encode report and charge its account (R441); a skipped picture starts no period. -/
def encReport (c code : Nat) (p : EncPic) (skipped : Bool) (bytes qp : Nat) (s : State) : State :=
  let x := s.encCtx c
  let s := account (encSrc (p.cores.headD 0)) (32 * (384 + c) + 16) ((s.up - p.startAt) * p.cores.length) s
  let s := s.onEncCtx c fun x => { x with past := x.past ++ [if skipped then none else some (bytes, qp)] }
  handOff whoEnc x.desc.statusRing false
    (recHead p.picNo 6 0 x.desc.streamId 0 false false false s.now ++
     leBytes 4 p.picNo ++
     leBytes 4 (c + code * 256 + b2n p.idr * 65536 + (if !skipped && p.pos == 0 then 131072 else 0)) ++
     leBytes 8 p.pts ++ leBytes 4 p.offset ++ leBytes 4 bytes ++
     leBytes 4 (qp % 256 + p.pos % 256 * 256 + x.desc.streamId * 65536) ++
     leBytes 4 (min 0xffffffff (s.up - p.startAt)) ++ List.replicate 16 0) s

/-- A picture skipped at its start: what the report takes from a picture is left open. -/
def encSkip (c code : Nat) (startAt picNo : Nat) (pts : Option Nat) (s : State) : State :=
  let (a, s) := s.takeFree
  let (b, s) := s.takeFree
  let p : EncPic :=
    { startAt := startAt, picNo := picNo, pts := pts.getD b.toNat, srcSeq := 0, srcBuf := none, fb := {}
      bad := false, idr := false, pos := fld a.toNat 15 8, offset := fld a.toNat 63 32, cores := []
      owners := [] }
  encReport c code p true 0 (fld a.toNat 7 0) s

/-! ## Starts (R319, R320, R325, R329) -/

/-- Where the picture goes in the output ring, when MAX_PIC_BYTES are free (R325). -/
def encPlace (x : EncCtx) (consumed : Nat) : Option Nat :=
  let size := x.desc.outLines * 64
  let w := x.writeOff
  let gap := (consumed % size + size - w) % size
  let avail := if gap = 0 then size else gap
  let wrap := size - w < x.desc.maxPic
  let need := (if wrap then size - w else 0) + x.desc.maxPic + 64
  if need ≤ avail then some (if wrap then 0 else w) else none

/-- Cores of the context that are not ABSENT and how many a picture takes (R329, R564). -/
def encCores (s : State) (c : Nat) : List Nat × Nat :=
  let w := s.enc.act.getD c 0
  let l := (setBits 4 (rfld w 3 0)).filter fun n => encState s n != .absent
  (l, min (rfld w 5 4 + 1) l.length)

/-- Side of a block: macroblocks of AVC, coding tree blocks of HEVC (R321). -/
def encBlock (x : EncDesc) : Nat := if x.codec = 0 then 16 else 64

/-- Block columns C and rows. -/
def encCols (x : EncDesc) : Nat := cdiv x.width (encBlock x)
def encRows (x : EncDesc) : Nat := cdiv x.height (encBlock x)

/-- Block rows of each of the SLICES bands of a picture, together all its rows (R329). -/
def encBands (x : EncDesc) : List Nat :=
  ((List.range x.slices).foldl (fun (left, l) i =>
    let n := if i + 1 = x.slices then left else min left (Config.bandRows (encRows x) x.slices i)
    (left - n, l ++ [n])) (encRows x, [])).2

/-- Band of a block row. -/
def bandOf : List Nat → Nat → Nat
  | [], _ => 0
  | n :: r, y => if y < n then 0 else 1 + bandOf r (y - n)

/-- Luma samples of each band. -/
def bandSizes (x : EncDesc) : List Nat :=
  let rowOf := (List.range (encRows x)).map fun y =>
    (bandOf (encBands x) y, x.width * (min x.height ((y + 1) * encBlock x) - y * encBlock x))
  (List.range x.slices).map fun i => ((rowOf.filter (·.1 == i)).map (·.2)).sum

/-- A picture of a context that waits takes its cores when enough are free; its bands are divided over them
(R329). -/
def encClaim (c : Nat) (s : State) : State :=
  match (s.encCtx c).pic with
  | none => s
  | some p =>
    let k := encCores s c
    let free := (k.1.filter (encFree s)).take k.2
    if p.cores = [] ∧ k.2 ≠ 0 ∧ k.2 ≤ free.length then
      let p := { p with cores := free, owners := ownersOver free.length (bandSizes (s.encCtx c).desc) }
      (s.onEncCtx c fun x => { x with pic := some p }).onEnc fun e => { e with busy := claim c free e.busy }
    else s

/-- Pictures that wait take free cores, the longest wait first, then the lower context. -/
def encAssign (s : State) : State :=
  let l := (List.range 16).filterMap fun c =>
    (s.encCtx c).pic.bind fun p => if p.cores = [] then some (p.startAt, c) else none
  (l.insertionSort fun a b => a.1 < b.1 ∨ (a.1 = b.1 ∧ a.2 ≤ b.2)).foldl (fun s x => encClaim x.2 s) s

/-- A picture start of an enabled context, delivered at a tick (R319, R320, R325, R328); none in the safe state
or under QUIESCE (R581, R585). -/
def encBegin (c tick : Nat) (s : State) : State :=
  if s.mgt.safe || s.mgt.quiesce then s else
  let x := s.encCtx c
  let no := x.picCount
  let s := s.onEncCtx c fun x => { x with picCount := (x.picCount + 1) % 2 ^ 32 }
  match encSource s x with
  | none => encSkip c encNoInput tick no none s
  | some f =>
    if (encCores s c).2 = 0 then encSkip c encFault tick no (some f.pts) s
    else
      let (r, bs, s) := readMem (encSrc 0) x.desc.consAddr 8 s
      if r ≠ .ok then
        encSkip c encFault tick no (some f.pts) (s.onEncCtx c fun x => { x with restart := true })
      else
        match encPlace x (leNat bs) with
        | none => encSkip c encRingFull tick no (some f.pts) s
        | some off =>
          let idr := x.idrNext || !x.hasRecon
          let p : EncPic :=
            { startAt := tick, picNo := no, pts := f.pts, srcSeq := f.seq, srcBuf := f.buf, fb := f.fb
              bad := f.bad, idr := idr, pos := if idr || x.restart then 0 else x.pos, offset := off
              cores := [], owners := [] }
          let s := s.onEncCtx c fun x => { x with idrNext := false, restart := false, pic := some p }
          let s := match f.buf with
            | some b => s.onCap x.desc.srcStream fun h => { h with readers := b :: h.readers }
            | none => s
          encAssign s

/-- A start for an enabled context: while a picture of it is in progress the start waits. -/
def encStart (c : Nat) (s : State) : State :=
  let x := s.encCtx c
  if x.pic.isSome then s.onEncCtx c fun x => { x with held := x.held ++ [s.up] } else encBegin c s.up s

/-- ENCODE_START delivered (R319). -/
def execEncodeStart (ctx : Fin 16) (s : State) : Out :=
  .next (match takeAction s 8 3 (fun a => a.target == ctx.val) with
    | none => s
    | some (_, s) =>
      let x := s.encCtx ctx.val
      if !x.enabled || x.desc.auto then s else encStart ctx.val s)

/-- A frame of a source is complete: its AUTO contexts start (R319). -/
def encAutoStart (chan : Nat) (s : State) : State :=
  (List.range 16).foldl (fun s c =>
    let x := s.encCtx c
    if x.enabled && x.desc.auto && x.desc.srcStream == chan && !s.mgt.safe && !s.mgt.quiesce then encStart c s
    else s) s

/-! ## Ends (R324 to R328, R333) -/

/-- Starts that waited run, one after another, until one of them has a picture in progress (R328). -/
def encHeld (c : Nat) : List Nat → State → State
  | [], s => s
  | tick :: r, s =>
    if (s.encCtx c).pic.isSome then s.onEncCtx c fun x => { x with held := tick :: r }
    else encHeld c r (encBegin c tick s)

/-- The picture's cores and source frame are given back; a DISABLE takes effect; held starts run. -/
def encClose (c : Nat) (p : EncPic) (s : State) : State :=
  let x := s.encCtx c
  let s := s.onEnc fun e => { e with busy := freeCores c e.busy }
  let s := match p.srcBuf with
    | some b => s.onCap x.desc.srcStream fun h => { h with readers := h.readers.erase b }
    | none => s
  let s := s.onEncCtx c fun x =>
    let y := { x with pic := none, held := [] }
    if y.wantDis then encDisabled y else y
  encAssign (if x.wantDis then s else encHeld c x.held s)

/-- A picture that fails: no bytes, ENC_CORE_FAULT, and the next starts a refresh period (R333). -/
def encFail (c : Nat) (p : EncPic) (s : State) : State :=
  let (v, s) := s.takeFree
  let s := encReport c encFault p false 0 (fld v.toNat 7 0) s
  encClose c p (s.onEncCtx c fun x => { x with restart := true })

/-- Bits of a sample of a codec (R277). -/
def encDepth (x : EncDesc) : Nat := if x.codec = 2 then 10 else 8

/-- What a picture depends on (R323, R326, R331): a frame with a receive error is replaced by the
reconstruction before it. -/
def encView (s : State) (x : EncCtx) (p : EncPic) : EncView :=
  let d := x.desc
  let before := if x.hasRecon then fbSamples s (x.recon.getD (1 - x.alt) {}) d.width d.height else []
  { codec := d.codec, rc := d.rc, refresh := d.refresh, qp := d.qp, width := d.width, height := d.height
    bitrate := d.bitrate, fpsNum := d.fpsNum, fpsDen := d.fpsDen, maxPic := d.maxPic, slices := d.slices
    qpMin := d.qpMin, qpMax := d.qpMax, idr := p.idr, bad := p.bad, pos := p.pos, past := x.past
    source := if p.bad then before else fbSamples s p.fb d.width d.height
    previous := before }

/-- First and one past the last column that picture k of a refresh period codes intra (R321). -/
def refreshCols (cols period k : Nat) : Nat × Nat :=
  (k * cdiv cols (max 1 period), min cols ((k + 1) * cdiv cols (max 1 period)))

/-- Profile and level of the codec numbers, 4:2:0, level at most 5.1 (R277, R318). -/
def encProfile (codec : Nat) : Profile :=
  match codec with
  | 0 => .avcHigh | 1 => .hevcMain | _ => .hevcMain10

/-- Units at the head of a picture: at picture 0 of a period the parameter sets and the recovery point with
count p − 1 (R322). -/
def encHeads (v : EncView) : List HeadUnit :=
  let level := min 51 (Config.encLevel v)
  if v.pos ≠ 0 then []
  else (if v.codec = 0 then [] else [HeadUnit.vps (encProfile v.codec) level]) ++
    [.sps (encProfile v.codec) .c420 level, .pps, .recoveryPoint (v.refresh - 1)]

/-- QP of a block: the constant one, the initial one in the first picture, or what rate control gives, within
QP_MIN to QP_MAX (R318, R323). -/
def blockQp (v : EncView) (i : Nat) : Nat :=
  max v.qpMin (min v.qpMax (if v.rc = 0 ∨ v.past = [] then v.qp else Config.encQp v i))

/-- A region to the left of a limit: what a block of a refreshed column may refer to (R321). -/
def withinCols (lim : Nat) : EncMode → EncMode
  | .inter x y w h => .inter (min x (lim - 1)) y (min w (lim - min x (lim - 1))) h
  | m => m

/-- Coding of block `i` in raster order, with `cap` once the picture's space runs out: an IDR picture is intra
(R320), the refresh column is intra (R321), a frame with a receive error or a full picture leaves the
rest as skip (R324, R326), and blocks of refreshed columns refer to refreshed columns only (R321). -/
def blockCode (v : EncView) (cols side : Nat) (cap : Bool) (i : Nat) : BlockCode :=
  let c := i % max 1 cols
  let r := refreshCols cols v.refresh v.pos
  let mode : EncMode :=
    if v.idr || (r.1 ≤ c && c < r.2) then .intra
    else if v.bad || cap then .skip
    else if c < r.1 then withinCols (r.1 * side) (Config.encMode v i)
    else Config.encMode v i
  { mode := mode, qp := blockQp v i }

/-- Bytes of the access unit with the blocks coded so far. -/
def encBytes (v : EncView) (l : List BlockCode) : List Byte :=
  (encHeads v).flatMap (Config.encHead v) ++ Config.encData v l

/-- The blocks of a picture of `n`, and whether its size reached MAX_PIC_BYTES less the reserve before the
last one (R324). -/
def codeBlocks (v : EncView) (cols side n : Nat) : List BlockCode × Bool :=
  (List.range n).foldl (fun (l, cap) i =>
    let cap := cap || decide (v.maxPic ≤ (encBytes v l).length + Config.encReserve v)
    (l ++ [blockCode v cols side cap i], cap)) ([], false)

/-- Mean QP, rounded half even (R328). -/
def meanQp (l : List BlockCode) : Nat :=
  (rhe ((l.map (·.qp)).sum : Nat) (max 1 l.length : Nat)).toNat

/-- What encoding a picture gives: the access unit, its mean QP, whether it was capped, its
reconstruction. -/
structure EncResult where
  au     : List Byte
  qp     : Nat
  capped : Bool
  rows   : List (Nat × List Byte)
deriving DecidableEq, Repr

/-- The picture as coded (R320 to R326, R331). -/
def encResult (s : State) (x : EncCtx) (p : EncPic) : EncResult :=
  let d := x.desc
  let v := encView s x p
  let k := codeBlocks v (encCols d) (encBlock d) (encCols d * encRows d)
  let smp (plane a b : Nat) : Nat := Config.encRecon v k.1 plane a b % 2 ^ encDepth d
  { au := (encBytes v k.1).take d.maxPic, qp := meanQp k.1, capped := k.2
    rows := pictureRows (x.recon.getD x.alt {}) d.width d.height (smp 0) fun k => smp (k + 1) }

/-- Ranges that a picture reads: its frame and the reconstruction before it. -/
def encReads (x : EncCtx) (p : EncPic) : List (Nat × Nat) :=
  let d := x.desc
  (if p.bad then [] else fbRanges p.fb 0 0 d.width d.height) ++
  if x.hasRecon then fbRanges (x.recon.getD (1 - x.alt) {}) 0 0 d.width d.height else []

/-- ENC_PICTURE_DONE: the access unit and the reconstruction are written, and the report follows. -/
def execEncPictureDone (ctx : Fin 16) (s : State) : Out :=
  .next (
    let c := ctx.val
    let x := s.encCtx c
    match x.pic with
    | none => s
    | some p =>
      if p.cores = [] then s
      else
        let src := encSrc (p.cores.headD 0)
        match readsFail src (encReads x p) s with
        | (true, s) => encFail c p s
        | (false, s) =>
          let res := encResult s x p
          match writeAll src ((x.desc.outBase + p.offset, res.au) :: res.rows) s with
          | (.ok, s) =>
            let code := if p.bad then encInputBad else if res.capped then encCap else encOk
            let s := encReport c code p false res.au.length res.qp s
            let s := s.onEncCtx c fun x =>
              { x with writeOff := p.offset + res.au.length, alt := 1 - x.alt, hasRecon := true
                       lastSeq := some p.srcSeq, pos := (p.pos + 1) % max 1 x.desc.refresh }
            encClose c p s
          | (_, s) => encFail c p s)

/-- ENC_CORE_FAULT: a core fails; the picture on it ends without bytes and the spare takes over
(R333, R559, R564). -/
def execEncCoreFault (core : Fin 4) (s : State) : Out :=
  .next (
    if encState s core.val = .ok then
      let s := raise .enc 9 none (srcUnit s (encSrc core.val)) s
      let s := startCodec (.enc core) 1 s
      match s.enc.busy.getD core.val none with
      | some c =>
        match (s.encCtx c).pic with
        | some p => encFail c p s
        | none => s
      | none => s
    else s)

end Sys2Proof.Machine
end

