-- ==== Sys2Proof/Machine/Csi.lean ====
section
/-! DEFINITION. CSI-2 receive ports and capture channels (chapter 09, R334 to R345). A packet is an
operand; how a line's bytes hold its pixels follows CSI-2 (log entry 20). -/

namespace Sys2Proof.Machine

/-! ## Ports (R334, R335, R621) -/

/-- LANE_MAP names every lane once. -/
def lanesOk (m : Nat) : Bool :=
  (List.range 4).all fun i => (List.range 4).any fun j => fld m (2 * j + 1) (2 * j) == i

/-- A write of CSI_PORT_CFGp: SPLIT and the lane map change only while both channels are disabled. -/
def csiPortWrite (p : Nat) (v : W32) (s : State) : State :=
  let old := s.csi.ports.getD p 0
  let busy := (s.cap (2 * p)).enabled || (s.cap (2 * p + 1)).enabled
  let page : Page := .csi (Fin.ofNat 8 p)
  if busy && ((old ^^^ v) &&& 0x3fd#32) != 0 then invalidProg page s
  else
    let bad := !lanesOk (rfld v 9 2)
    let mask : W32 := if bad then 0xfc01#32 else 0xfffd#32
    let s := s.onCsi fun c => { c with ports := updAt c.ports p fun o => mergeBits mask o v }
    if bad then invalidProg page s else s

/-! ## Channels (R336, R338, R339) -/

def parseCap (d : Nat) : CapDesc :=
  { format := fld d 2 0, vc := fld d 6 3, width := fld d 47 32, height := fld d 63 48
    fbTable := fld d 111 64, fbCount := fld d 116 112, stateBase := fld d 175 128
    streamId := fld d 207 192, timeout := fld d 255 224 }

/-- Bytes of a stored line (R336). -/
def storedBytes (x : CapDesc) : Nat :=
  match x.format with | 1 | 4 => 2 * x.width | 2 => 3 * x.width | _ => x.width

def capDescBad (d : Nat) : Bool :=
  let x := parseCap d
  fld d 31 7 != 0 || fld d 127 117 != 0 || fld d 191 176 != 0 || fld d 223 208 != 0 || fld d 511 256 != 0 ||
  x.format > 4 || x.width < 16 || x.width > 8192 || x.width % 2 != 0 || x.height < 16 || x.height > 4352 ||
  x.height % 2 != 0 || x.fbCount < 3 || x.fbCount > 24 || !inHbm x.fbTable (64 * x.fbCount) 64 ||
  !inHbm x.stateBase 64 64 || x.timeout < 1100

/-- Container width against the format (R336). -/
def capWideBad (x : CapDesc) (f : Fb) : Bool :=
  match x.format with | 0 | 3 => f.wide | 4 => !f.wide | _ => false

/-- Frame-buffer regions of the other enabled channels and of the enabled decode contexts. -/
def otherRegions (s : State) (c : Nat) : List (Nat × Nat) :=
  ((List.range 16).flatMap fun k =>
    if k ≠ c ∧ (s.cap k).enabled = true then (s.cap k).fbs.flatMap fbRegions else []) ++
  (List.range 128).flatMap fun k =>
    if (s.decCtx k).enabled then (s.decCtx k).fbs.flatMap fbRegions else []

/-- ENABLE of a capture channel (R339). -/
def csiEnableOp (c : Nat) (s : State) : Nat × State :=
  let (r, bs, s) := readMem .csi (pairAddr s.csi.tableLo s.csi.tableHi 6 + 64 * c) 64 s
  let d := leNat bs
  let x := parseCap d
  if r ≠ .ok ∨ capDescBad d = true ∨ (c % 2 = 1 ∧ ¬ rbit (s.csi.ports.getD (c / 2) 0) 0) then
    (badDescriptor, s)
  else
    let (r2, _, s) := readMem .csi x.fbTable (64 * x.fbCount) s
    let raw := fbRaw s x.fbTable x.fbCount
    let fbs := raw.map parseFb
    if areasMeet (fbs.flatMap fbRegions) (otherRegions s c) then (badDescriptor, s)
    else if r2 ≠ .ok ∨ (raw.any fun f => fbBad f x.width x.height (storedBytes x) false) = true ∨
        (fbs.any (capWideBad x)) = true then (badFb, s)
    else if meets ((x.stateBase, 64) :: fbs.flatMap fbRegions) then (overlapCode, s)
    else if (s.cap c).enabled then (badState, s)
    else (okCode, s.onCap c fun h =>
      { enabled := true, desc := x, fbs := fbs, nextSeq := h.nextSeq, readers := h.readers })

/-- DISABLE: at once; a frame in progress is discarded. -/
def csiDisableOp (c : Nat) (s : State) : Nat × State :=
  if (s.cap c).enabled then
    (okCode, s.onCap c fun h => { h with enabled := false, openF := none, latest := none, frameOut := none })
  else (badState, s)

/-- A write of CSI_CH_CMD. -/
def csiCmdWrite (v : W32) (s : State) : State :=
  cmdWrite (.csi 0) 2 s.csi.cmd v (fun v s =>
    let s := s.onCsi fun d => { d with cmd := { d.cmd with cmd := v &&& 0x001f070f#32 } }
    if rbit v 31 then
      let c := rfld v 3 0
      let r := if rfld v 10 8 = 0 then csiEnableOp c s else csiDisableOp c s
      r.2.onCsi fun d => { d with cmd := { d.cmd with code := r.1, done := true, ctx := c } }
    else s) s

def execCsiEnable (ch : Fin 16) (s : State) : Out :=
  .next (hostWrite (csiCmdWrite (cmdWord 0 ch.val)) s)
def execCsiDisable (ch : Fin 16) (s : State) : Out :=
  .next (hostWrite (csiCmdWrite (cmdWord 1 ch.val)) s)

/-! ## Frames (R340 to R344) -/

/-- Count in the channel's state area (R344). -/
def capCount (c off : Nat) (s : State) : State := bump32 .csi ((s.cap c).desc.stateBase + off) s

/-- Buffers of a channel in use (R343). -/
def capUsed (h : CapCh) (b : Nat) : Bool :=
  h.readers.contains b || (h.openF.any fun f => f.buf == some b) || (h.latest.any fun f => f.buf == some b)

/-- The open frame carries RX_ERR. -/
def rxError (c : Nat) (s : State) : State :=
  s.onCap c fun h => { h with openF := h.openF.map fun f => { f with rxErr := true } }

/-- A frame is complete: it becomes the channel's latest frame, and AUTO encoders start. -/
def closeFrame (c : Nat) (f : CapFrame) (s : State) : State :=
  let s := if f.rxErr then capCount c 4 s else s
  let s := s.onCap c fun h => { h with openF := none, latest := if f.buf.isSome then some f else h.latest }
  if f.buf.isSome ∧ (s.cap c).desc.format = 0 then encAutoStart c s else s

/-- A packet reaches an enabled channel: header corrections and other virtual channels are counted;
`f` handles one of the channel's own. In the safe state every frame is discarded (R581). -/
def packet (c vc : Nat) (hdr : PktHdr) (f : State → State) (s : State) : State :=
  if !(s.cap c).enabled || s.mgt.safe then s
  else
    match hdr with
    | .bad => rxError c s
    | _ =>
      let s := if hdr = .corrected then capCount c 0x10 s else s
      if vc ≠ (s.cap c).desc.vc then capCount c 0x14 s else f s

/-- CSI_FRAME_START. -/
def execCsiFrameStart (ch : Fin 16) (vc : Fin 16) (hdr : PktHdr) (s : State) : Out :=
  .next (packet ch.val vc.val hdr (fun s =>
    let c := ch.val
    let s := match (s.cap c).openF with
      | some f => closeFrame c { f with rxErr := true } s
      | none => s
    let h := s.cap c
    let b := (List.range h.desc.fbCount).find? fun b => !capUsed h b
    let s := s.onCap c fun h =>
      { h with nextSeq := (h.nextSeq + 1) % 2 ^ 32
               openF := some { seq := h.nextSeq, pts := s.now, from_ := s.up, buf := b } }
    let s := capCount c 0 s
    if b.isNone then capCount c 8 s else s) s)

/-- CSI-2 data type of a capture format (R336). -/
def dataType (format : Nat) : Nat := [0x18, 0x1e, 0x24, 0x2a, 0x2b].getD format 0

/-- Bytes of line `l` as sent. -/
def sentBytes (x : CapDesc) (l : Nat) : Nat :=
  match x.format with
  | 0 => if l % 2 = 0 then x.width else 2 * x.width
  | 1 => 2 * x.width
  | 2 => 3 * x.width
  | 4 => cdiv (5 * x.width) 4
  | _ => x.width

/-- Sample `i` of a RAW10 line: four high parts, then a byte of low parts. -/
def raw10 (p : List Byte) (i : Nat) : Nat :=
  (p.getD (5 * (i / 4) + i % 4) 0).toNat * 4 +
    fld (p.getD (5 * (i / 4) + 4) 0).toNat (2 * (i % 4) + 1) (2 * (i % 4))

/-- Pixels of a line that arrived. -/
def gotPixels (x : CapDesc) (l n : Nat) : Nat :=
  min x.width (match x.format with
    | 0 => if l % 2 = 0 then n else n / 2
    | 1 => n / 2
    | 2 => n / 3
    | 4 => n * 4 / 5
    | _ => n)

/-- What a line's payload writes: row `l` of the luma plane, and a chroma row of YUV420_8. -/
def lineWrites (x : CapDesc) (f : Fb) (l : Nat) (p : List Byte) : List (Nat × List Byte) :=
  let n := gotPixels x l p.length
  let row := f.yBase + l * f.pitch
  match x.format with
  | 0 =>
    if l % 2 = 0 then [(row, p.take n)]
    else [(row, (List.range n).map fun i => p.getD (2 * i + 1) 0),
          (f.cBase + l / 2 * f.pitch, (List.range (n / 2 * 2)).map fun i => p.getD (2 * i) 0)]
  | 1 => [(row, p.take (2 * n))]
  | 2 => [(row, (List.range (3 * n)).map fun i => p.getD (i / 3 * 3 + 2 - i % 3) 0)]
  | 4 => [(row, (List.range n).flatMap fun i => leBytes 2 (raw10 p i))]
  | _ => [(row, p.take n)]

/-- CSI_LINE: a long packet. -/
def execCsiLine (ch : Fin 16) (vc : Fin 16) (dt : Fin 64) (hdr : PktHdr) (crcOk overflow : Bool)
    (payload : List Byte) (s : State) : Out :=
  .next (packet ch.val vc.val hdr (fun s =>
    let c := ch.val
    let x := (s.cap c).desc
    if dt.val ≠ dataType x.format then capCount c 0x18 s
    else
      match (s.cap c).openF with
      | none => s
      | some f =>
        let bad := f.rxErr || !crcOk || overflow || payload.length != sentBytes x f.lines ||
          f.lines ≥ x.height
        let s := s.onCap c fun h => { h with openF := some { f with lines := f.lines + 1, rxErr := bad } }
        match f.buf with
        | some b =>
          if f.lines < x.height then
            (writeAll .csi (lineWrites x ((s.cap c).fbs.getD b {}) f.lines payload) s).2
          else s
        | none => s) s)

/-- CSI_FRAME_END. -/
def execCsiFrameEnd (ch : Fin 16) (vc : Fin 16) (hdr : PktHdr) (s : State) : Out :=
  .next (packet ch.val vc.val hdr (fun s =>
    let c := ch.val
    match (s.cap c).openF with
    | some f => closeFrame c { f with rxErr := f.rxErr || f.lines != (s.cap c).desc.height } s
    | none => s) s)

/-- CSI_FRAME_TIMEOUT: no frame end within FRAME_TIMEOUT. -/
def execCsiFrameTimeout (ch : Fin 16) (s : State) : Out :=
  .next (
    let c := ch.val
    match (s.cap c).openF with
    | some f =>
      if f.from_ + (s.cap c).desc.timeout ≤ s.up then
        closeFrame c { f with rxErr := true } (capCount c 0xc s)
      else s
    | none => s)

end Sys2Proof.Machine
end

