-- ==== Sys2Proof/Machine/Vector.lean ====
section
/-! DEFINITION. The macro-instructions of the depthwise path, the vector engine, the requantisation
unit and the core DMA engine: each walks its output tiles in order to the end (chapters 04 to 07). -/

namespace Sys2Proof.Machine

/-- A macro-instruction walked tile by tile: how many tiles, what a tile reads, what it gives, whether
it sets INDEX_OOR, and the vector-engine ticks of the whole, absent where none issue and `some none`
where the manual gives no number. -/
structure TileOp where
  di    : Nat
  dst   : Nat
  tiles : Nat
  reads : State → Nat → List (Nat × Nat)
  give  : State → Nat → List Res
  oor   : State → Nat → Bool := fun _ _ => false
  ticks : Option (Option Nat)

/-- Every tile is written: the vector engine is charged and the macro-instruction ends (R441). -/
def tilesEnd (n mi : Nat) (o : TileOp) (s : State) : State :=
  endMacro n mi (match o.ticks with
    | none => s
    | some (some k) => chargeVector n k s
    | some none => chargeVector n s.takeFree.1.toNat s.takeFree.2)

/-- An index of the tile is out of range (R156, R174). -/
def noteOor (n t : Nat) (o : TileOp) (s : State) : State :=
  if o.oor s t then onJob n (fun j => { j with indexOor := true }) s else s

/-- Walk the tiles of a macro-instruction from its next one, as far as a fused SRC0 covers them (R199). -/
def runTiles (n mi : Nat) (o : TileOp) : Nat → State → State
  | 0, s => s
  | fuel + 1, s =>
    let x := s.core n
    match x.job with
    | none => s
    | some j =>
      let t := (j.act mi).tile
      if t ≥ o.tiles then tilesEnd n mi o s
      else if !covered x mi t then s
      else
        let rs := wholeLines (o.reads s t)
        match rangesFail n s rs with
        | some f => readFails n f.1 f.2 (some mi) s
        | none =>
          let s := touchAll n rs (noteOor n t o s)
          match writeRes n o.di o.dst (o.give s t) s with
          | (true, s) => runTiles n mi o fuel (tilesTo n mi (t + 1) 1 s)
          | (false, s) => s

/-- A tiled macro-instruction of an opcode that its unit turns to, from its boundary on. The vector engine
leaves its registers with contents that no rule states (R449); the depthwise path does not use them
(R120). -/
def tileMacro (n op : Nat) (vec : Bool) (f : Core → Nat → TileOp) (s : State) : State :=
  match turn s n op with
  | none => s
  | some (mi, m) =>
    match boundaryAt n mi s with
    | (false, s) => s
    | (true, s) =>
      let o := f (s.core n) m
      let s := if vec then scratchRegs n s else s
      runTiles n mi o (o.tiles + 1) s

/-! ## Windows: DWCONV and POOL (R144, R145, R175, R190, R235, R247, R266, R269) -/

/-- n, h, channel block of a window tile. -/
def winPlace (dst t : Nat) : Nat × Nat × Nat :=
  let nb := max 1 (cdiv (dC dst) 32)
  (t / (nb * max 1 (dH dst)), t / nb % max 1 (dH dst), t % nb)

/-- Output elements of a window tile. -/
def winElts (dst t : Nat) : List Elt :=
  let p := winPlace dst t
  (List.range (dW dst)).flatMap fun w =>
    ((List.range 32).filter fun i => p.2.2 * 32 + i < dC dst).map fun i =>
      { n := p.1, h := p.2.1, w := w, c := p.2.2 * 32 + i }

/-- Input position of a window element; none in padding. -/
def winPos (m d0 : Nat) (e : Elt) (kh kw ci : Nat) : Option Elt :=
  let ih : Int := (e.h * mStrideH m + kh * mDilH m : Nat) - (mPadT m : Int)
  let iw : Int := (e.w * mStrideW m + kw * mDilW m : Nat) - (mPadL m : Int)
  if 0 ≤ ih ∧ ih < dH d0 ∧ 0 ≤ iw ∧ iw < dW d0 then
    some { n := e.n, h := ih.toNat, w := iw.toNat, c := ci }
  else none

/-- Kernel positions in row-major order. -/
def kernel (kh kw : Nat) : List (Nat × Nat) :=
  (List.range kh).flatMap fun i => (List.range kw).map fun j => (i, j)

/-- Cycles of the tap steps of a window tile; `v` positions a cycle. -/
def winCycles (dst taps v : Nat) : Nat := taps * cdiv (dW dst) v

/-- Ticks of a number of arithmetic cycles at the divider in force. -/
def cycleTicks (s : State) (c : Nat) : Nat := cdiv (c * divider s) 12

/-- x′ of an integer element code (R85, R230). -/
def prime (d code : Nat) : Int :=
  if dType d ≤ 1 then codeInt (dType d) code - dZero d else codeInt (dType d) code

/-- Code presented at a window position. -/
def winCode (s : State) (d0 : Nat) (p : Option Elt) : Nat :=
  match p with | some e => eltIn s d0 e | none => padCode d0

/-- w′ of a depthwise tap (R206, R209, R266). -/
def dwWeight (s : State) (d1 ch kh kw : Nat) : Int :=
  let code := eltCode s d1 { n := ch, h := kh, w := kw, c := 0 }
  match dType d1 with
  | 2 => cbByte s d1 ch code - cbByte s d1 ch 16
  | 3 => cbByte s d1 ch code - cbByte s d1 ch 256
  | t => codeInt t code - dZero d1

/-- Ranges of codebooks that channels of a block use. -/
def cbRange (d1 cb : Nat) : List (Nat × Nat) :=
  match dType d1 with
  | 2 => [(dAux d1 + 64 * cb, 64)]
  | 3 => [(dAux d1 + 320 * cb, 257)]
  | _ => []

/-- Ranges of QP and INIT entries that an output element uses. -/
def qpRange (qd ch : Nat) : Nat × Nat := (dBase qd + if dC qd = 2 then 0 else 8 * ch, 8)

/-- Tiles whose sample is masked, in window tiles. -/
def winMasked (x : Core) (d0 dst t : Nat) : Bool := sampleMasked x d0 (winPlace dst t).1

def dwconvOp (s0 : State) (x : Core) (m : Nat) : TileOp :=
  let d0 := desc x (mSrc0 m)
  let d1 := desc x (mSrc1 m)
  let dst := desc x (mDst m)
  let ks := kernel (dH d1) (dW d1)
  let nb := cdiv (dC dst) 32
  let tiles := dN dst * dH dst * nb
  let live := ((List.range tiles).filter fun t => !winMasked x d0 dst t).length
  { di := mDst m, dst := dst, tiles := tiles
    reads := fun _ t =>
      if winMasked x d0 dst t then [] else
      (winElts dst t).flatMap (fun e =>
        (ks.flatMap fun k => eltRange d1 { n := e.c, h := k.1, w := k.2, c := 0 } ::
          ((winPos m d0 e k.1 k.2 (e.c / mGroups m)).toList.map (eltRange d0))) ++
        (if mQpEn m then [qpRange (desc x (mQp m)) e.c] else []) ++
        (if mInitEn m then [eltRange (desc x (mInit m)) { n := 0, h := 0, w := 0, c := e.c }] else [])) ++
      cbRange d1 (winPlace dst t).2.2
    give := fun s t =>
      if winMasked x d0 dst t then [] else
      (winElts dst t).map fun e =>
        let i : Int := if mInitEn m then
            toSigned 32 (eltCode s (desc x (mInit m)) { n := 0, h := 0, w := 0, c := e.c }) else 0
        let acc := i + (ks.map fun k =>
          prime d0 (winCode s d0 (winPos m d0 e k.1 k.2 (e.c / mGroups m))) * dwWeight s d1 e.c k.1 k.2).sum
        if mQpEn m then resQp s dst (desc x (mQp m)) e (.int acc) else resLim dst e acc
    ticks := some (some (cycleTicks s0
      (live * winCycles dst ks.length 8 * if dLayout d0 = 1 then 4 else 1))) }

/-- A POOL element of integer type (R235). -/
def poolInt (m dst : Nat) (e : Elt) (xs : List Int) (d : Nat) : Res :=
  let z := if dType dst ≤ 1 then dZero dst else 0
  if poolMode m = 0 then resLim dst e (xs.foldl max (xs.headD 0) + z)
  else if d = 0 then resLim dst e (dZero dst)
  else resLim dst e (rhe xs.sum d + z)

/-- A POOL element of float type (R229, R235). -/
def poolFp (m dst : Nat) (e : Elt) (xs : List Fp) (d : Nat) : Res :=
  let f := fmtOf (dType dst)
  let v : Fp :=
    match xs with
    | [] => .fin false 0 1
    | y :: ys =>
      if poolMode m = 0 then ys.foldl fpMaxOf y
      else fpDivNat (ys.foldl (fun a b => rne32 (fpAdd a b)) y) d
  resCode dst e (fpRound f .even (if d = 0 then .fin false 0 1 else v))

def poolOp (s0 : State) (x : Core) (m : Nat) : TileOp :=
  let d0 := desc x (mSrc0 m)
  let dst := desc x (mDst m)
  let ks := kernel (poolKH m) (poolKW m)
  let tiles := dN dst * dH dst * cdiv (dC dst) 32
  let live := ((List.range tiles).filter fun t => !winMasked x d0 dst t).length
  let v := if dType d0 ≤ 1 then 8 else if dType d0 = 9 then 2 else 4
  let inside (e : Elt) : List (Nat × Nat) :=
    if poolMode m = 2 then ks.filter fun k => (winPos m d0 e k.1 k.2 e.c).isSome else ks
  { di := mDst m, dst := dst, tiles := tiles
    reads := fun _ t =>
      if winMasked x d0 dst t then [] else
      (winElts dst t).flatMap fun e => ks.flatMap fun k =>
        (winPos m d0 e k.1 k.2 e.c).toList.flatMap (rangeIn d0)
    give := fun s t =>
      if winMasked x d0 dst t then [] else
      (winElts dst t).map fun e =>
        let cs := (inside e).map fun k => winCode s d0 (winPos m d0 e k.1 k.2 e.c)
        if isFloatType (dType d0) then poolFp m dst e (cs.map (fpDecode (fmtOf (dType d0)))) cs.length
        else poolInt m dst e (cs.map (prime d0)) cs.length
    ticks := some (some (cycleTicks s0
      (live * (winCycles dst ks.length v + if poolMode m = 0 then 0 else cdiv (dW dst) 2) + 12))) }

def execDwconv (core : Fin 24) (s : State) : Out :=
  .next (tileMacro core.val opDwconv false (dwconvOp s) s)

def execPool (core : Fin 24) (s : State) : Out :=
  .next (tileMacro core.val opPool true (poolOp s) s)

/-! ## ELTWISE and REQUANT (R152, R153, R226, R230 to R234) -/

/-- Elements of a tile of 4,096, those of masked samples left out. -/
def runOf (x : Core) (d0 dst t : Nat) : List Elt :=
  ((List.range 4096).filter fun i => t * 4096 + i < dPos dst * dC dst).filterMap fun i =>
    let e := eltAt dst (t * 4096 + i)
    if sampleMasked x d0 e.n then none else some e

/-- Element of SRC1 for an element (BCAST, R152). -/
def secondOf (m : Nat) (e : Elt) : Elt :=
  if eltBcast m then { n := 0, h := 0, w := 0, c := e.c } else e

/-- Element of the LUT for an 8-bit code (R153, R230). -/
def lutElt (d1 code : Nat) : Elt := eltAt d1 (code % 256)

/-- r of an integer ELTWISE (R230, R231). -/
def eltInt (op : Nat) (a b : Int) : Int :=
  match op with
  | 0 => a + b
  | 1 => a - b
  | 2 => a * b
  | 3 => max a b
  | 4 => min a b
  | 6 => b
  | 8 => a.natAbs
  | _ => a

/-- The exact result of a float ELTWISE (R232). -/
def eltFp (op : Nat) (a b : Fp) : Fp :=
  match op with
  | 0 => fpAdd a b
  | 1 => fpAdd a (fpNeg b)
  | 2 => fpMul a b
  | 3 => fpMaxOf a b
  | 4 => fpMinOf a b
  | 8 => fpAbs a
  | _ => a

/-- The clamp of R152 on an integer code (R234). -/
def clampInt (m : Nat) (i : Int) : Int :=
  limit (toSigned 32 (fld (mP1 m) 31 0)) (toSigned 32 (fld (mP1 m) 63 32)) i

/-- The clamp on a float code (R234). -/
def clampFp (m : Nat) (f : Fmt) (code : Nat) : Nat :=
  let lo := fpDecode f32 (fld (mP1 m) 31 0)
  let hi := fpDecode f32 (fld (mP1 m) 63 32)
  let v := fpDecode f code
  if v = .nan then code
  else if fpNumLt hi lo || fpNumLt hi v then fpRound f .down hi
  else if fpNumLt v lo then fpRound f .up lo
  else code

/-- A limited integer with the type's zero point, then the clamp (R231, R233, R234). -/
def eltLim (m dst : Nat) (e : Elt) (i : Int) (forced : Bool) : Res :=
  let l := limitTo (dType dst) i
  { writes := eltWrites dst e (ofSigned (typeBits (dType dst)) (clampInt m l.val)), sat := l.sat || forced }

def zeroOf (d : Nat) : Int := if dType d ≤ 1 then dZero d else 0

/-- A float value cast to an integer type (R233). -/
def castFpInt (m dst : Nat) (e : Elt) (v : Fp) : Res :=
  match v with
  | .fin neg a b => eltLim m dst e (fpRhe neg a b + zeroOf dst) false
  | .inf true => eltLim m dst e (typeLo (dType dst)) true
  | .inf false => eltLim m dst e (typeHi (dType dst)) true
  | .nan => eltLim m dst e (zeroOf dst) true

/-- One element of ELTWISE. -/
def eltRes (s : State) (x : Core) (m d0 d1 dst : Nat) (e : Elt) : Res :=
  let op := eltOp m
  let c0 := eltCode s d0 e
  if isFloatType (dType d0) then
    let f := fmtOf (dType d0)
    let v := eltFp op (fpDecode f c0) (fpDecode f (eltCode s d1 (secondOf m e)))
    if isFloatType (dType dst) then
      resCode dst e (clampFp m (fmtOf (dType dst)) (fpRound (fmtOf (dType dst)) .even v))
    else castFpInt m dst e v
  else
    let second : Int :=
      if op = 6 then prime d1 (eltCode s d1 (lutElt d1 c0)) else prime d1 (eltCode s d1 (secondOf m e))
    let r := eltInt op (prime d0 c0) second
    if eltQpEn m then
      let q := qpRecord s (desc x (eltQp m)) e.c
      let o := requant1 (dType dst) q (.int r)
      { writes := eltWrites dst e (ofSigned 8 (clampInt m o.1)), sat := o.2.2
        e8 := if dMse dst then some (mseTerm (dType dst) q (.int r) o.2.1) else none }
    else if isFloatType (dType dst) then
      resCode dst e (clampFp m (fmtOf (dType dst)) (fpRound (fmtOf (dType dst)) .even (fpOfInt r)))
    else eltLim m dst e (r + zeroOf dst) false

def eltwiseOp (x : Core) (m : Nat) : TileOp :=
  let d0 := desc x (mSrc0 m)
  let d1 := desc x (mSrc1 m)
  let dst := desc x (mDst m)
  { di := mDst m, dst := dst, tiles := cdiv (dPos dst * dC dst) 4096
    reads := fun s t =>
      (runOf x d0 dst t).flatMap fun e =>
        eltRange d0 e ::
        (if eltOp m ≤ 4 then [eltRange d1 (secondOf m e)]
         else if eltOp m = 6 then [eltRange d1 (lutElt d1 (eltCode s d0 e))] else []) ++
        (if eltQpEn m then [qpRange (desc x (eltQp m)) e.c] else [])
    give := fun s t => (runOf x d0 dst t).map (eltRes s x m d0 d1 dst)
    ticks := some none }

def execEltwise (core : Fin 24) (s : State) : Out :=
  .next (tileMacro core.val opEltwise true eltwiseOp s)

def requantOp (x : Core) (m : Nat) : TileOp :=
  let d0 := desc x (mSrc0 m)
  let qd := desc x (mSrc1 m)
  let dst := desc x (mDst m)
  { di := mDst m, dst := dst, tiles := cdiv (dPos dst * dC dst) 4096
    reads := fun _ t => (runOf x d0 dst t).flatMap fun e => rangeIn d0 e ++ [qpRange qd e.c]
    give := fun s t => (runOf x d0 dst t).map fun e =>
      resQp s dst qd e (if dType d0 = 6 then .int (toSigned 32 (eltIn s d0 e))
        else .fp (fpDecode f32 (eltIn s d0 e)))
    ticks := none }

def execRequant (core : Fin 24) (s : State) : Out :=
  .next (tileMacro core.val opRequant false requantOp s)

/-! ## NMS (R155, R270 to R274) -/

/-- A candidate: position, its four elements, box, score and class. -/
structure Cand where
  pos   : Nat
  elts  : List Nat
  box   : Int × Int × Int × Int
  score : Int
  cls   : Nat
deriving DecidableEq, Repr

def candAt (s : State) (d p : Nat) : Cand :=
  let w (c : Nat) : Nat := eltCode s d (posAt d p c)
  { pos := p, elts := [w 0, w 1, w 2, w 3], box := boxAt s d (posAt d p 0)
    score := toSigned 16 (fld (w 2) 15 0), cls := fld (w 2) 31 16 }

/-- Best remaining candidate: highest score, then lowest position. -/
def bestCand : List Cand → Option Cand
  | [] => none
  | c :: cs =>
    match bestCand cs with
    | none => some c
    | some d => if d.score > c.score then some d else some c

/-- Candidate b is suppressed by kept candidate a (R271, R272). -/
def suppressed (iouMax : Nat) (perClass : Bool) (a b : Cand) : Bool :=
  let u := interUnion a.box b.box
  (!perClass || a.cls == b.cls) && u.2 != 0 && u.1 * 65536 > iouMax * u.2

/-- Keep up to `k` candidates. -/
def nmsKeep (iouMax : Nat) (perClass : Bool) : Nat → List Cand → List Cand
  | 0, _ => []
  | k + 1, l =>
    match bestCand l with
    | none => []
    | some a => a :: nmsKeep iouMax perClass k
        (l.filter fun b => b.pos != a.pos && !suppressed iouMax perClass a b)

def nmsMaxOut (m : Nat) : Nat := fld (mP0 m) 42 32 + 1

/-- Candidates that enter: score and mask (R271). -/
def nmsIn (s : State) (x : Core) (m d0 : Nat) : List Cand :=
  ((List.range (dPos d0)).filter fun p => !sampleMasked x d0 (posAt d0 p 0).n).filterMap fun p =>
    let c := candAt s d0 p
    if c.score < toSigned 16 (fld (mP0 m) 31 16) then none else some c

def nmsKept (s : State) (x : Core) (m d0 : Nat) : List Cand :=
  nmsKeep (fld (mP0 m) 15 0) (bitAt (mP0 m) 43) (nmsMaxOut m) (nmsIn s x m d0)

/-- Elements of the terminator (R273). -/
def terminator : List Nat := [0, 0, 0x8000, 0xffffffff]

def nmsOp (s0 : State) (x : Core) (m : Nat) : TileOp :=
  let d0 := desc x (mSrc0 m)
  let dst := desc x (mDst m)
  { di := mDst m, dst := dst, tiles := 1
    reads := fun _ _ => (List.range (dPos d0)).flatMap fun p =>
      if sampleMasked x d0 (posAt d0 p 0).n then []
      else (List.range 4).map fun c => eltRange d0 (posAt d0 p c)
    give := fun s _ =>
      let kept := nmsKept s x m d0
      (List.range (min (nmsMaxOut m) (dPos dst))).flatMap fun p =>
        let w := match kept[p]? with | some c => c.elts | none => terminator
        w.mapIdx fun c v => resCode dst (posAt dst p c) v
    ticks := some (some (cycleTicks s0 (cdiv (dPos d0) 64 * (nmsMaxOut m + 1) + 32))) }

/-- The flag store after an NMS: the candidates that a kept one suppressed; those of masked samples take no
part (R188, R274). -/
def nmsFlagsOf (s : State) (x : Core) (m d0 : Nat) : List Bool :=
  let kept := nmsKept s x m d0
  (List.range (dPos d0)).map fun p =>
    !sampleMasked x d0 (posAt d0 p 0).n && kept.any fun a => a.pos != p && suppressed (fld (mP0 m) 15 0) (bitAt (mP0 m) 43) a (candAt s d0 p)

def execNms (core : Fin 24) (s : State) : Out :=
  .next (
    let n := core.val
    let t := tileMacro n opNms true (nmsOp s) s
    match turn s n opNms with
    | some (mi, m) =>
      if (t.core n).job.any (fun j => decide (j.mi > mi)) then
        t.onCore n fun y =>
          { y with nmsFlags := nmsFlagsOf s (s.core n) m (desc (s.core n) (mSrc0 m)) }
      else t
    | none => t)

/-! ## GATHER, SCATTER, COPY (R156, R157, R175, R190) -/

/-- Index `i` of the index tensor, signed. -/
def indexAt (s : State) (d1 i : Nat) : Int := toSigned 32 (eltCode s d1 (posAt d1 i 0))

/-- The row an index names in a table. -/
def rowNamed (s : State) (d1 table i : Nat) : Option Nat :=
  let k := indexAt s d1 i
  if 0 ≤ k ∧ k < dPos table then some k.toNat else none

/-- Copy a row to a row; what an element of another type leaves is not stated (log entry 70). -/
def copyRow (s : State) (d0 r dst q : Nat) : List Res :=
  (List.range (dC dst)).map fun c => resCode dst (posAt dst q c)
    (if dType d0 = dType dst then eltIn s d0 (posAt d0 r c)
     else Config.noElement (d0 + dst * 2 ^ 512) (eltIn s d0 (posAt d0 r c)) % 2 ^ typeBits (dType dst))

def rowRange (d r : Nat) : List (Nat × Nat) := (List.range (dC d)).map fun c => eltRange d (posAt d r c)

/-- Pad of a row that GATHER fills; the manual states none for a B1 DST with PAD_MODE 1, so it is an unstated
function of PAD_VALUE (log entry 69). -/
def gatherPad (dst : Nat) : Nat :=
  if dType dst = 5 ∧ dPadMode dst then b2n (Config.b1Pad (dPad dst)) else padCode dst

def gatherOp (x : Core) (m : Nat) : TileOp :=
  let d0 := desc x (mSrc0 m)
  let d1 := desc x (mSrc1 m)
  let dst := desc x (mDst m)
  let src (s : State) (i : Nat) : Option Nat :=
    (rowNamed s d1 d0 i).filter fun k => !sampleMasked x d0 (posAt d0 k 0).n
  { di := mDst m, dst := dst, tiles := dPos dst
    reads := fun s i => eltRange d1 (posAt d1 i 0) ::
      match src s i with | some k => rowRange d0 k | none => []
    give := fun s i => match src s i with
      | some k => copyRow s d0 k dst i
      | none => (List.range (dC dst)).map fun c => resCode dst (posAt dst i c) (gatherPad dst)
    oor := fun s i => (rowNamed s d1 d0 i).isNone
    ticks := none }

def execGather (core : Fin 24) (s : State) : Out :=
  .next (tileMacro core.val opGather false gatherOp s)

def scatterOp (x : Core) (m : Nat) : TileOp :=
  let d0 := desc x (mSrc0 m)
  let d1 := desc x (mSrc1 m)
  let dst := desc x (mDst m)
  let masked (i : Nat) : Bool := sampleMasked x d0 (posAt d0 i 0).n
  { di := mDst m, dst := dst, tiles := dPos d0
    reads := fun _ i => if masked i then [] else eltRange d1 (posAt d1 i 0) :: rowRange d0 i
    give := fun s i =>
      if masked i then [] else
      match rowNamed s d1 dst i with
      | some k => copyRow s d0 i dst k
      | none => []
    oor := fun s i => !masked i && (rowNamed s d1 dst i).isNone
    ticks := none }

def execScatter (core : Fin 24) (s : State) : Out :=
  .next (tileMacro core.val opScatter false scatterOp s)

/-- Elements of run `t` of a descriptor, c3 outer, then c2, then c1 (R164, R175). -/
def runElts (d t : Nat) : List Elt :=
  let c := dCounts d
  let c1 := max 1 c.1
  let c2 := max 1 c.2.1
  let i1 := t % c1
  let i2 := t / c1 % c2
  let i3 := t / (c1 * c2)
  match dLayout d with
  | 0 => (List.range (dC d)).map fun k => { n := i3, h := i2, w := i1, c := k }
  | 1 => (List.range (dW d)).map fun k => { n := i3, h := i1, w := k, c := i2 }
  | _ => (List.range (dW d)).flatMap fun w =>
      ((List.range 32).filter fun k => i2 * 32 + k < dC d).map fun k =>
        { n := i3, h := i1, w := w, c := i2 * 32 + k }

def copyOp (x : Core) (m : Nat) : TileOp :=
  let d0 := desc x (mSrc0 m)
  let dst := desc x (mDst m)
  let els (t : Nat) : List Elt := (runElts dst t).filter fun e => !sampleMasked x d0 e.n
  { di := mDst m, dst := dst
    tiles := (dCounts dst).1 * (dCounts dst).2.1 * (dCounts dst).2.2
    reads := fun _ t => (els t).map (eltRange d0)
    give := fun s t => (els t).map fun e => resCode dst e (eltCode s d0 e)
    ticks := none }

def execCopy (core : Fin 24) (s : State) : Out :=
  .next (tileMacro core.val opCopy false copyOp s)

end Sys2Proof.Machine
end

