-- ==== Sys2Proof/Machine/Saucer.lean ====
section
/-! DEFINITION. The Saucers: command ring, checks, direct convolution, done records (chapter 07, R254
to R265). A command's output is computed and written when it ends. -/

namespace Sys2Proof.Machine

def sauSrc (m : Nat) : Src := .saucer (Fin.ofNat 7 m)
def cluPage (m : Nat) : Page := .clu (Fin.ofNat 7 m)
def cluWin (m : Nat) : Nat := clusterBase + m * 0x800000

/-! ## Ring (R259, R265) -/

/-- SAU_DOORBELL: a completed write to the doorbell word delivers PROD, ignored when it overruns. -/
def execSauDoorbell (m : Fin 7) (s : State) : Out :=
  .next (
    let c := s.clu m.val
    match c.dbPend with
    | [] => s
    | v :: rest =>
      let s := s.onClu m.val fun c => { c with dbPend := rest }
      let k := (v + 65536 - c.cons) % 65536
      if !rbit c.ringCfg 31 then s
      else if k > rfld c.ringCfg 24 17 + 1 then raise (cluPage m.val) 1 none m.val s
      else s.onClu m.val fun c =>
        { c with prod := v, ticks := (c.ticks ++ List.replicate (k - c.ticks.length) s.up).take k })

/-- A write of SAU_RING_CFG: base and length are fixed while EN is 1; setting EN zeroes the ring. -/
def sauRingWrite (m : Nat) (v : W32) (s : State) : State :=
  let c := s.clu m
  if rbit c.ringCfg 31 && ((c.ringCfg ^^^ v) &&& 0x01ffffff#32) != 0 then invalidProg (cluPage m) s
  else s.onClu m fun c =>
    let d := { c with ringCfg := v &&& 0x81ffffff#32 }
    if rbit v 31 && !rbit c.ringCfg 31 then { d with cons := 0, prod := 0, pos := 0, ticks := [] } else d

def execSauRingCfgWrite (m : Fin 7) (v : W32) (s : State) : Out := .next (hostWrite (sauRingWrite m.val v) s)

/-! ## Commands (R254, R256, R257) -/

/-- A descriptor follows R161 and the stride and extent rules of R165. -/
def descFormBad (d : Nat) : Bool :=
  let aux := 2 ≤ dType d && dType d ≤ 4
  fld d 55 54 != 0 || fld d 335 331 != 0 || fld d 447 432 != 0 || fld d 511 480 != 0 ||
  dLayout d == 3 || dAlloc d == 0 || dN d == 0 || dH d == 0 || dW d == 0 || dC d == 0 || dType d > 9 ||
  (dType d > 1 && fld d 63 56 != 0) || (!aux && dAux d != 0) || (dAux d == 0 && dAuxLines d != 0) ||
  dBase d % 64 != 0 || dAux d % 64 != 0 || strideBad d || boundsBad d

/-- A range lies in the memory of cluster `m`. -/
def inClu (m a n : Nat) : Bool := n != 0 && cluWin m ≤ a && a + n ≤ cluWin m + 0x800000

/-- A range lies in HBM or in one cluster memory. -/
def inHbmClu (a n : Nat) : Bool := oneMem a n && match memId a with | some (k, _) => k < 2 | none => false

/-- A Saucer command with its descriptors. -/
structure Sau where
  w    : Nat
  src  : Nat
  wgt  : Nat
  qp   : Nat
  dst  : Nat
  init : Nat
deriving DecidableEq, Repr

def sKH (w : Nat) : Nat := fld w 2 0 + 1
def sKW (w : Nat) : Nat := fld w 5 3 + 1
def sSH (w : Nat) : Nat := 2 ^ fld w 7 6
def sSW (w : Nat) : Nat := 2 ^ fld w 9 8
def sStream (w : Nat) : Bool := bitAt w 22
def sInit (w : Nat) : Bool := bitAt w 23
def sDone (w : Nat) : Nat := fld w 431 384

/-- Reserved bits and ranges of the command word (R254, R256). -/
def sauWordBad (w : Nat) : Bool :=
  fld w 63 24 != 0 || fld w 127 112 != 0 || fld w 191 176 != 0 || fld w 255 240 != 0 ||
  fld w 319 304 != 0 || fld w 383 368 != 0 || fld w 447 432 != 0 || fld w 2 0 == 7 || fld w 5 3 == 7 ||
  fld w 7 6 == 3 || fld w 9 8 == 3 || (!sInit w && fld w 367 320 != 0) || sDone w % 16 != 0 ||
  !inHbmClu (sDone w) 16

/-- Addresses of the descriptors that must lie in the Saucer's cluster memory, and of all that a command
names (R257). -/
def sauInner (w : Nat) : List Nat :=
  [fld w 111 64, fld w 175 128, fld w 239 192] ++ (if sInit w then [fld w 367 320] else [])

def sauDescs (w : Nat) : List Nat := fld w 303 256 :: sauInner w

def sauOf (s : State) (w : Nat) : Sau :=
  let d (a : Nat) : Nat := peekNat s a 64
  { w := w, src := d (fld w 111 64), wgt := d (fld w 175 128), qp := d (fld w 239 192)
    dst := d (fld w 303 256), init := if sInit w then d (fld w 367 320) else 0 }

/-- The checks of R254 and R257 on the descriptors. -/
def sauBad (m : Nat) (x : Sau) : Bool :=
  let w := x.w
  let io (d : Nat) : Bool := dType d ≤ 1
  let inside (d : Nat) : Bool := inClu m (dBase d) (dAlloc d * 64)
  descFormBad x.src || descFormBad x.wgt || descFormBad x.qp || descFormBad x.dst ||
  (sInit w && descFormBad x.init) ||
  !io x.src || !io x.wgt || !io x.dst || dType x.qp != 6 || (sInit w && dType x.init != 6) ||
  (if sStream w then dBase x.src != 0 else !inside x.src) || !inside x.wgt || !inside x.qp ||
  (sInit w && !inside x.init) || !(inside x.dst || inHbm (dBase x.dst) (dAlloc x.dst * 64) 64) ||
  dLayout x.qp != 0 || dPos x.qp != 1 || (dC x.qp != 2 && dC x.qp != 2 * dC x.dst) ||
  (sInit w && (dPos x.init != 1 || dC x.init != dC x.dst)) ||
  dC x.src > (if sStream w then 4 else 1024) || dC x.dst > 64 || dH x.wgt != sKH w || dW x.wgt != sKW w ||
  dC x.wgt != dC x.src || dN x.wgt != dC x.dst || dN x.src != dN x.dst ||
  sKH w * sKW w * dC x.src * dC x.dst > 65536 ||
  (sKH w + sSH w) * dW x.src * dC x.src > 131072 ||
  !windowOk (dH x.src) (dH x.dst) (fld w 12 10) (fld w 15 13) 1 (sKH w) (sSH w) ||
  !windowOk (dW x.src) (dW x.dst) (fld w 18 16) (fld w 21 19) 1 (sKW w) (sSW w)

/-- Status with which a command begins: 0 when it runs. -/
def sauCheck (m : Nat) (streamed : Bool) (w : Nat) (s : State) : Nat :=
  if sauWordBad w || sStream w != streamed || !((sauInner w).all fun a => inClu m a 64) then 1
  else if (sauDescs w).any fun a => respRange s (sauSrc m) a 64 != .ok || badAt s a 64 then 4
  else if sauBad m (sauOf s w) then 1 else 0

/-- Address of the ring entry at the ring position (R259). -/
def sauEntry (s : State) (m : Nat) : Nat :=
  cluWin m + (rfld (s.clu m).ringCfg 16 0 + (s.clu m).pos) * 64

/-- A streamed command that waited starts: the scaler that feeds it was held since its first data (R260). -/
def unholdScaler (t : SauStream) (s : State) : State :=
  let late (c : SclCmd) : SclCmd :=
    if fld (c.words.headD 0) 111 64 = t.cmd then { c with held := c.held + (s.up - t.arrived) } else c
  s.onScl fun d => { d with units := d.units.map fun v => { v with cmd := v.cmd.map late } }

/-- SAUCER_CMD_START: the next pending command starts; on the same tick a streamed one goes first
(R258, R260). -/
def execSaucerCmdStart (m : Fin 7) (s : State) : Out :=
  .next (
    let c := s.clu m.val
    let stop := s.mgt.safe || s.mgt.quiesce || haltOn s (cluPage m.val) ||
      (s.mesh.rstBusy && partOfClu s m.val == s.mesh.rstPart)
    if c.cmd.isSome ∨ stop then s
    else
      let ringTick : Option Nat := if rbit c.ringCfg 31 && c.cons != c.prod then c.ticks.head? else none
      let pick : Option (Nat × Bool) :=
        match c.streams.head?.filter (·.arrived ≤ s.up), ringTick with
        | some t, some k => if t.arrived ≤ k then some (t.cmd, true) else some (sauEntry s m.val, false)
        | some t, none => some (t.cmd, true)
        | none, some _ => some (sauEntry s m.val, false)
        | none, none => none
      match pick with
      | none => s
      | some (a, str) =>
        let (r, bs, s) := readMem (sauSrc m.val) a 64 s
        let w := leNat bs
        let st := if r ≠ .ok then 4 else sauCheck m.val str w s
        let s := match c.streams.head?.filter (fun _ => str) with | some t => unholdScaler t s | none => s
        s.onClu m.val fun c =>
          { c with cmd := some { addr := a, streamed := str, started := s.up, status := st
                                 readable := r == .ok } })

/-! ## The convolution (R255, R257, R261) -/

/-- Element code of the input: from memory, or from the H × W × Cin elements of the stream, with pad for what is
missing (R261). -/
def sauIn (s : State) (x : Sau) (data : List Nat) (e : Elt) : Nat :=
  if sStream x.w then
    if e.n = 0 then data.getD ((e.h * dW x.src + e.w) * dC x.src + e.c) (padCode x.src) else padCode x.src
  else eltCode s x.src e

/-- Input position of a tap; none in padding. -/
def sauPos (x : Sau) (n oh ow kh kw c : Nat) : Option Elt :=
  let ih : Int := (oh * sSH x.w + kh : Nat) - (fld x.w 12 10 : Int)
  let iw : Int := (ow * sSW x.w + kw : Nat) - (fld x.w 18 16 : Int)
  if 0 ≤ ih ∧ ih < dH x.src ∧ 0 ≤ iw ∧ iw < dW x.src then
    some { n := n, h := ih.toNat, w := iw.toNat, c := c }
  else none

/-- Output element of the convolution. -/
def sauElt (s : State) (x : Sau) (data : List Nat) (e : Elt) : List EltWrite :=
  let i : Int := if sInit x.w then toSigned 32 (eltCode s x.init { n := 0, h := 0, w := 0, c := e.c }) else 0
  let acc := i + ((kernel (sKH x.w) (sKW x.w)).map fun k =>
    ((List.range (dC x.src)).map fun c =>
      let code := match sauPos x e.n e.h e.w k.1 k.2 c with
        | some p => sauIn s x data p
        | none => padCode x.src
      prime x.src code * prime x.wgt (eltCode s x.wgt { n := e.c, h := k.1, w := k.2, c := c })).sum).sum
  let r := requant1 (dType x.dst) (qpRecord s x.qp e.c) (.int acc)
  eltWrites x.dst e (ofSigned 8 r.1)

/-- Output rows (n, oh). -/
def sauRows (x : Sau) : Nat := dN x.dst * dH x.dst

/-- Elements of output row `k`. -/
def sauRowElts (x : Sau) (k : Nat) : List Elt :=
  (List.range (dW x.dst)).flatMap fun w => (List.range (dC x.dst)).map fun c =>
    { n := k / max 1 (dH x.dst), h := k % max 1 (dH x.dst), w := w, c := c }

/-- Ranges of the input that output row `k` reads. -/
def sauReads (x : Sau) (k : Nat) : List (Nat × Nat) :=
  if sStream x.w then [] else
  (sauRowElts x k).flatMap fun e => (kernel (sKH x.w) (sKW x.w)).flatMap fun t =>
    (List.range (dC x.src)).flatMap fun c => ((sauPos x e.n e.h e.w t.1 t.2 c).toList.map (eltRange x.src))

/-- Write output rows from `k` on, up to `n` of them: rows written and whether an access failed. -/
def sauWrite (m : Nat) (x : Sau) (data : List Nat) : Nat → Nat → State → Nat × Bool × State
  | 0, k, s => (k, false, s)
  | n + 1, k, s =>
    if k ≥ sauRows x then (k, false, s)
    else
      match (sauReads x k).find? fun r => badAt s r.1 r.2 with
      | some r => (k, true, logUncorr (sauSrc m) r.1 s)
      | none =>
        match writeCells (sauSrc m) (mergeWrites s ((sauRowElts x k).flatMap (sauElt s x data))) s with
        | (.ok, s) => sauWrite m x data n (k + 1) s
        | (_, s) => (k, true, s)

/-- Weights, records and initial values hold an uncorrectable error. -/
def sauParamsBad (s : State) (x : Sau) : Bool :=
  badAt s (dBase x.wgt) (dAlloc x.wgt * 64) || badAt s (dBase x.qp) (dAlloc x.qp * 64) ||
  (sInit x.w && badAt s (dBase x.init) (dAlloc x.init * 64))

/-! ## Times (R262) -/

/-- Setup ticks, ticks of an output row (R262). -/
def sauTimes (x : Sau) : Nat × Nat :=
  (64 + cdiv (sKH x.w * sKW x.w * dC x.src * dC x.dst) 64 + cdiv (8 * (dC x.qp / 2)) 64 +
     (if sInit x.w then cdiv (4 * dC x.dst) 64 else 0),
   dW x.dst * cdiv (sKH x.w * sKW x.w * dC x.src) (32 * (64 / max 1 (dC x.dst))))

/-- Input rows, counted over all samples, that output row `k` needs complete. -/
def inNeed (x : Sau) (k : Nat) : Nat :=
  let n := k / max 1 (dH x.dst)
  let last : Int := min ((dH x.src : Int) - 1)
    ((k % max 1 (dH x.dst) * sSH x.w + sKH x.w - 1 : Nat) - (fld x.w 12 10 : Int))
  n * dH x.src + (last + 1).toNat

/-- Tick at which the line-buffer row of input row `i` is free, with the ends of the output rows so far. -/
def rowFree (x : Sau) (ends : List Nat) (i : Nat) : Nat :=
  let h := i % max 1 (dH x.src)
  let oh := min (dH x.dst - 1) ((h + fld x.w 12 10) / sSH x.w)
  if oh * sSH x.w ≤ h + fld x.w 12 10 ∧ h + fld x.w 12 10 < oh * sSH x.w + sKH x.w then
    ends.getD (i / max 1 (dH x.src) * dH x.dst + oh) 0
  else 0

/-- Ticks at which input rows are complete in the line buffer, up to `need` of them, loaded one after another
from `t0` at 64 bytes per tick. -/
def loadRows (x : Sau) (t0 need : Nat) (ends : List Nat) : Nat → List Nat → List Nat
  | 0, l => l
  | fuel + 1, l =>
    if l.length ≥ need then l
    else
      let cap := min 64 (131072 / max 1 (dW x.src * dC x.src))
      let free := if l.length < cap then t0 else rowFree x ends (l.length - cap)
      loadRows x t0 need ends fuel (l ++ [max (l.getLastD t0) free + cdiv (dW x.src * dC x.src) 64])

/-- Earliest ends of the output rows that have their input, in order: `got` is the number of input rows of a
stream that are there, and `last` the tick at which its last one came. DST writes may hold the Saucer longer,
by mesh slots. -/
def sauEnds (x : Sau) (t0 got last : Nat) : List Nat :=
  let step (a : List Nat × List Nat) (k : Nat) : List Nat × List Nat :=
    let need := inNeed x k
    let loads := if sStream x.w then [] else loadRows x t0 need a.1 (need - a.2.length) a.2
    let ready := if sStream x.w then (if need = dH x.src then last else t0)
      else if need = 0 then t0 else loads.getD (need - 1) t0
    (a.1 ++ [max (a.1.getLastD t0) ready + (sauTimes x).2], loads)
  let rows := (List.range (sauRows x)).takeWhile fun k => !sStream x.w || inNeed x k ≤ got || dH x.src ≤ got
  (rows.foldl step ([], [])).1

/-- Data of the stream in progress. -/
def sauData (s : State) (m : Nat) (c : SauCmd) : List Nat :=
  if c.streamed then match (s.clu m).streams.head? with | some t => t.data | none => [] else []

/-- The ends of the output rows of the command in progress, as its input stands. -/
def sauRowEnds (s : State) (m : Nat) (c : SauCmd) (x : Sau) : List Nat :=
  let t := (s.clu m).streams.head?
  let got := if t.any (·.ended) then dH x.src else (sauData s m c).length / max 1 (dW x.src * dC x.src)
  let last := match t with | some t => if t.ended then t.endAt else 0 | none => 0
  sauEnds x (c.started + (sauTimes x).1) got last

/-- Output rows that may be written when the command stops now, the current one among them (R264). -/
def sauMost (s : State) (m : Nat) (c : SauCmd) (x : Sau) : Nat :=
  let l := sauRowEnds s m c x
  min l.length ((l.filter (· ≤ s.up)).length + 1)

/-! ## Ends (R261 to R264) -/

/-- The done record is written, the ring advances, the rest of a stream is discarded. -/
def sauEnd (m : Nat) (c : SauCmd) (status rows : Nat) (s : State) : State :=
  let w := peekNat s c.addr 64
  let s := if c.readable then
      store (sauSrc m) (sDone w) (leBytes 8 (fld w 511 448) ++ leBytes 8 (status + rows * 2 ^ 32)) s
    else s
  s.onClu m fun k =>
    let k := { k with cmd := none }
    if c.streamed then { k with streams := k.streams.tail }
    else { k with cons := (k.cons + 1) % 65536, ticks := k.ticks.tail
                  pos := if k.pos ≥ rfld k.ringCfg 24 17 then 0 else k.pos + 1 }

/-- End a running command after at most `n` rows, with a status unless an access failed. -/
def sauFinish (m : Nat) (c : SauCmd) (n : Nat) (status : Nat) (s : State) : State :=
  let x := sauOf s (peekNat s c.addr 64)
  let (rows, bad, s) :=
    if sauParamsBad s x then (0, true, logUncorr (sauSrc m) (dBase x.wgt) s)
    else sauWrite m x (sauData s m c) n 0 s
  sauEnd m c (if bad then 4 else status) rows s

/-- Status of a command that ran to its end (R261). -/
def sauStatus (s : State) (m : Nat) (c : SauCmd) (x : Sau) : Nat :=
  if c.streamed then
    let k := (sauData s m c).length
    let need := dH x.src * dW x.src * dC x.src
    if k < need then 2 else if k > need then 3 else 0
  else 0

/-- SAUCER_DONE: the command has had its time (R262), and a streamed one all its input. -/
def execSaucerDone (m : Fin 7) (s : State) : Out :=
  .next (match (s.clu m.val).cmd with
    | none => s
    | some c =>
      let streamEnded := !c.streamed || (s.clu m.val).streams.head?.any (·.ended)
      if c.status ≠ 0 then (if streamEnded then sauEnd m.val c c.status 0 s else s)
      else
        let x := sauOf s (peekNat s c.addr 64)
        if (sauRowEnds s m.val c x).getLastD 0 ≤ s.up ∧ streamEnded then
          sauFinish m.val c (sauRows x) (sauStatus s m.val c x) s
        else s)

end Sys2Proof.Machine
end

