-- ==== Sys2Proof/Machine/Pixels.lean ====
section
/-! DEFINITION. The scalers' pixel pipeline: windows, orientation, decimation, resampling, colour
conversion, quantisation (chapter 09, R349 to R357). Samples are 10-bit; a plane is its size and a
function of x and y. -/

namespace Sys2Proof.Machine

/-! ## Header and entry fields (R347, R348) -/

def hKind (w : Nat) : Nat := fld w 1 0
def hSrc (w : Nat) : Nat := fld w 8 2
def hKeep (w : Nat) : Bool := bitAt w 9
def hCount (w : Nat) : Nat := fld w 14 10
def hPriv (w : Nat) : Bool := bitAt w 15
def hPrivIdx (w : Nat) : Nat := fld w 18 16
def hSteer (w : Nat) : Nat := fld w 26 19
def hRing (w : Nat) : Nat := fld w 37 32
def hSaucer (w : Nat) : Nat := fld w 111 64
def hDone (w : Nat) : Nat := fld w 175 128

def eWindow (e : Nat) : Nat := fld e 1 0
def eSteer (e : Nat) : Nat := fld e 5 2
def eOrient (e : Nat) : Nat := fld e 8 6
def eCubic (e : Nat) : Bool := bitAt e 9
def eMatrix (e : Nat) : Nat := fld e 11 10
def eFull (e : Nat) : Bool := bitAt e 12
def eChannels (e : Nat) : Nat := fld e 14 13
def eAspect (e : Nat) : Bool := bitAt e 15
def eKind (e : Nat) : Nat := fld e 17 16
def eDesc (e : Nat) : Nat := fld e 143 96
def eOutW (e : Nat) : Nat := fld e 175 160
def eOutH (e : Nat) : Nat := fld e 191 176
def eBatch (e : Nat) : Nat := fld e 239 192
def eSlot (e : Nat) : Nat := fld e 245 240
def eChan (e c : Nat) : Nat := e / 2 ^ (256 + 64 * c) % 2 ^ 64

/-- Header and entries of a command. -/
def sclHdr (c : SclCmd) : Nat := c.words.headD 0
def sclEntry (c : SclCmd) (e : Nat) : Nat := c.words.getD (e + 1) 0

/-! ## Windows (R350, R351) -/

/-- A factor OUT / window lies outside 1/16 to 4. -/
def factorBad (n o : Nat) : Bool := n == 0 || 16 * o < n || o > 4 * n

/-- Output size seen from the unrotated window. -/
def preOut (e : Nat) : Nat × Nat := if eOrient e ≥ 4 then (eOutH e, eOutW e) else (eOutW e, eOutH e)

/-- The adjustment of a STEER window in a FULL rectangle of `pw` × `ph`. -/
def adjust (e pw ph : Nat) (win : SteerWin) : Nat × Nat × Nat × Nat :=
  let o := preOut e
  let cx2 := 2 * win.x + win.w
  let cy2 := 2 * win.y + win.h
  let wh : Nat × Nat :=
    if eAspect e then
      if win.w * o.2 < win.h * o.1 then (cdiv (win.h * o.1) o.2, win.h) else (win.w, cdiv (win.w * o.2) o.1)
    else (win.w, win.h)
  let w := min (min (max wh.1 (cdiv o.1 4)) (16 * o.1)) pw
  let h := min (min (max wh.2 (cdiv o.2 4)) (16 * o.2)) ph
  let pos (c n p : Nat) : Nat := (min (max (((c : Int) - n) / 2) 0) ((p : Int) - n)).toNat
  (pos cx2 w pw, pos cy2 h ph, w, h)

/-- Window of an entry relative to the FULL rectangle; none when it is absent. -/
def windowOf (e : Nat) (crop : Nat × Nat × Nat × Nat) (set : SteerSet) : Option (Nat × Nat × Nat × Nat) :=
  let pw := crop.2.2.1
  let ph := crop.2.2.2
  match eWindow e with
  | 0 => some (0, 0, pw, ph)
  | 2 => some (fld e 47 32 - crop.1, fld e 63 48 - crop.2.1, fld e 79 64, fld e 95 80)
  | _ =>
    match set.wins[eSteer e]? with
    | none => none
    | some win =>
      if win.w = 0 ∨ win.h = 0 then none
      else
        let r := adjust e pw ph win
        if factorBad r.2.2.1 (preOut e).1 || factorBad r.2.2.2 (preOut e).2 then none else some r

/-- The factors of a FULL or RECT entry break R351; a FULL rectangle that is not known breaks nothing. -/
def factorsBad (e : Nat) (crop : Option (Nat × Nat × Nat × Nat)) : Bool :=
  let bad (w h : Nat) : Bool := factorBad w (preOut e).1 || factorBad h (preOut e).2
  match eWindow e with
  | 0 => crop.any fun r => bad r.2.2.1 r.2.2.2
  | 2 => bad (fld e 79 64) (fld e 95 80)
  | _ => false

/-- A FULL or RECT entry breaks R350 or R351 for a FULL rectangle. -/
def windowBad (e : Nat) (crop : Nat × Nat × Nat × Nat) : Bool :=
  let r : Nat × Nat × Nat × Nat :=
    if eWindow e = 2 then (fld e 47 32, fld e 63 48, fld e 79 64, fld e 95 80) else crop
  eWindow e != 1 &&
  (factorsBad e (some crop) || r.1 < crop.1 || r.2.1 < crop.2.1 || r.1 + r.2.2.1 > crop.1 + crop.2.2.1 ||
   r.2.1 + r.2.2.2 > crop.2.1 + crop.2.2.2)

/-! ## Source samples (R336, R350) -/

/-- A code as a 10-bit sample. -/
def to10 (depth code : Nat) : Nat := if depth = 10 then code else 4 * code

/-- Component `k` of the source at its own plane's coordinates: Y, Cb, Cr or R, G, B. -/
def srcAt (s : State) (c : SclCmd) (f : Fb) (k x y : Nat) : Nat :=
  let row := f.yBase + y * f.pitch
  match c.format with
  | 1 => to10 8 (peekNat s (row + if k = 0 then 2 * x + 1 else 4 * x + 2 * (k - 1)) 1)
  | 2 => to10 8 (peekNat s (row + 3 * x + k) 1)
  | 3 | 4 => to10 c.depth (lumaAt s f x y)
  | _ => to10 c.depth (if k = 0 then lumaAt s f x y else chromaAt s f (k - 1) x y)

/-- Component `k` is half as wide, and half as high, as luma. -/
def halfW (format k : Nat) : Bool := k != 0 && (format == 0 || format == 1 || format == 8)
def halfH (format k : Nat) : Bool := k != 0 && (format == 0 || format == 8)

def halve (b : Bool) (n : Nat) : Nat := if b then cdiv n 2 else n

/-! ## Orientation, decimation, resampling (R351 to R354) -/

/-- Where an oriented sample comes from in a plane of `w` × `h`. -/
def orientXY (o w h x y : Nat) : Nat × Nat :=
  match o with
  | 1 => (w - 1 - x, y)
  | 2 => (x, h - 1 - y)
  | 3 => (w - 1 - x, h - 1 - y)
  | 4 => (y, h - 1 - x)
  | 5 => (w - 1 - y, x)
  | 6 => (y, x)
  | 7 => (w - 1 - y, h - 1 - x)
  | _ => (x, y)

/-- Decimation exponent of an axis (R352). -/
def decK (n o : Nat) : Nat :=
  if 2 * o > n then 0 else ((List.range 4).filter fun k => o * 2 ^ (k + 1) ≤ n).getLastD 0

/-- Box average of a plane of `w` × `h`. -/
def boxed (w h kx ky : Nat) (g : Nat → Nat → Nat) (x y : Nat) : Nat :=
  if kx + ky = 0 then g x y
  else
    (((List.range (2 ^ ky)).map fun j => ((List.range (2 ^ kx)).map fun i =>
      g (min (x * 2 ^ kx + i) (w - 1)) (min (y * 2 ^ ky + j) (h - 1))).sum).sum + 2 ^ (kx + ky - 1))
      / 2 ^ (kx + ky)

/-- Position of output `q` in 1/64 samples (R353). -/
def axisPos (n o q : Nat) : Int := ((2 * q + 1) * n * 64 / (2 * o) : Nat) - 32

/-- Position on an axis where the plane is halved (R354). -/
def halfPos (centred : Bool) (s : Int) : Int := if centred then (s - 32) / 2 else s / 2

/-- 128 × K(m / 64) of the cubic kernel with a = −0.5, rounded half even. -/
def cubicW (m : Nat) : Int :=
  let d : Int := m
  if m ≤ 64 then rhe (192 * d ^ 3 - 20480 * d ^ 2 + 33554432) 262144
  else if m < 128 then rhe (-64 * d ^ 3 + 20480 * d ^ 2 - 2097152 * d + 67108864) 262144
  else 0

/-- Taps and weights at a position on an axis of size `n` (R353). -/
def tapsAt (cubic : Bool) (n : Nat) (p : Int) : List (Nat × Int) :=
  let i : Int := p / 64
  let f := (p - 64 * i).toNat
  let at_ (j : Int) : Nat := (limit 0 (n - 1 : Nat) j).toNat
  if cubic then
    let w := [cubicW (64 + f), cubicW f, cubicW (64 - f), cubicW (128 - f)]
    let rest := 128 - w.sum
    [(at_ (i - 1), w.getD 0 0), (at_ i, w.getD 1 0 + if f < 32 then rest else 0),
     (at_ (i + 1), w.getD 2 0 + if f < 32 then 0 else rest), (at_ (i + 2), w.getD 3 0)]
  else [(at_ i, 128 - 2 * f), (at_ (i + 1), 2 * f)]

/-- A resampled value (R353). -/
def resampled (g : Nat → Nat → Nat) (xs ys : List (Nat × Int)) : Int :=
  let t := (ys.map fun y => y.2 * (xs.map fun x => x.2 * (g x.1 y.1 : Int)).sum).sum
  min (max ((t + 8192) / 16384) 0) 1023

/-- Component `k` of an entry's window at output (qx, qy) of a grid of `ow` × `oh`. -/
def component (s : State) (c : SclCmd) (f : Fb) (e : Nat) (win : Nat × Nat × Nat × Nat)
    (k ow oh qx qy : Nat) : Int :=
  let o := eOrient e
  let hw := halfW c.format k
  let hh := halfH c.format k
  let x0 := (c.crop.1 + win.1) / (if hw then 2 else 1)
  let y0 := (c.crop.2.1 + win.2.1) / (if hh then 2 else 1)
  let pw := halve hw win.2.2.1
  let ph := halve hh win.2.2.2
  let turned : Bool := o ≥ 4
  let lw := if turned then win.2.2.2 else win.2.2.1
  let lh := if turned then win.2.2.1 else win.2.2.2
  let kx := decK lw (eOutW e)
  let ky := decK lh (eOutH e)
  let nx := cdiv lw (2 ^ kx)
  let ny := cdiv lh (2 ^ ky)
  let g (x y : Nat) : Nat :=
    let q := orientXY o pw ph x y
    srcAt s c f k (x0 + q.1) (y0 + q.2)
  let ox := if turned then ph else pw
  let oy := if turned then pw else ph
  let d := boxed ox oy kx ky g
  let hx := if turned then hh else hw
  let hy := if turned then hw else hh
  let sx := axisPos nx ow qx
  let sy := axisPos ny oh qy
  resampled d
    (tapsAt (eCubic e) (cdiv ox (2 ^ kx)) (if hx then halfPos turned sx else sx))
    (tapsAt (eCubic e) (cdiv oy (2 ^ ky)) (if hy then halfPos true sy else sy))

/-! ## Colour (R355) -/

/-- Kr and Kb of a MATRIX in units of 1/10,000. -/
def lumaK (m : Nat) : Int × Int :=
  match m with | 0 => (2990, 1140) | 1 => (2126, 722) | _ => (2627, 593)

/-- Coefficients (cy, then cb and cr of R, G and B) of a MATRIX. -/
def toRgb (m : Nat) (full : Bool) : Int × List (Int × Int) :=
  let kr := (lumaK m).1
  let kb := (lumaK m).2
  let kg := 10000 - kr - kb
  let cy : Int := if full then 4096 else rhe (4096 * 1023) 876
  let ch (num den : Int) : Int :=
    if full then rhe (4096 * num) den.toNat else rhe (4096 * num * 1023) (den * 896).toNat
  (cy, [(0, ch (2 * (10000 - kr)) 10000),
        (ch (-2 * kb * (10000 - kb)) (10000 * kg), ch (-2 * kr * (10000 - kr)) (10000 * kg)),
        (ch (2 * (10000 - kb)) 10000, 0)])

def clamp10 (i : Int) : Int := min (max i 0) 1023

/-- R, G or B of a YCbCr sample. -/
def rgbOf (m : Nat) (full : Bool) (y cb cr : Int) (k : Nat) : Int :=
  let t := toRgb m full
  let c := t.2.getD k (0, 0)
  clamp10 ((t.1 * (y - if full then 0 else 64) + c.1 * (cb - 512) + c.2 * (cr - 512) + 2048) / 4096)

/-- Y, Cb or Cr of an RGB sample by the BT.709 limited-range forward matrix (R357). -/
def ycc709 (r g b : Int) (k : Nat) : Int :=
  let kr := (lumaK 1).1
  let kb := (lumaK 1).2
  let kg := 10000 - kr - kb
  let q (num den : Int) (sc : Int) : Int := rhe (4096 * num * sc) (den * 1023).toNat
  let w : Int × Int × Int := match k with
    | 0 => (q kr 10000 876, q kg 10000 876, q kb 10000 876)
    | 1 => (q (-kr) (2 * (10000 - kb)) 896, q (-kg) (2 * (10000 - kb)) 896, q 1 2 896)
    | _ => (q 1 2 896, q (-kg) (2 * (10000 - kr)) 896, q (-kb) (2 * (10000 - kr)) 896)
  clamp10 ((w.1 * r + w.2.1 * g + w.2.2 * b + 2048) / 4096 + if k = 0 then 64 else 512)

/-- Sample of output channel `ch` of a tensor pixel; luma of an RGB source is left open. -/
def channelAt (s : State) (c : SclCmd) (f : Fb) (e : Nat) (win : Nat × Nat × Nat × Nat) (x y ch : Nat) : Int :=
  let g (k : Nat) : Int := component s c f e win k (eOutW e) (eOutH e) x y
  let rgb := if eChannels e = 1 then 2 - ch else ch
  match c.format with
  | 3 | 4 => g 0
  | 2 =>
    if eChannels e = 2 then ((Config.freeValue (s.free + y * eOutW e + x)).toNat % 1024 : Nat) else g rgb
  | _ =>
    if eChannels e = 2 then g 0
    else if eMatrix e = 3 then g rgb
    else rgbOf (eMatrix e) (eFull e) (g 0) (g 1) (g 2) rgb

/-! ## Elements and frames (R356, R357) -/

/-- Element code of a tensor of type U8, I8 or F16. -/
def quantPixel (t rec : Nat) (v : Int) : Nat :=
  let x := v - fld rec 57 48
  if t = 7 then fpRound f16 .even (fpMul (fpOfInt x) (fpDecode f32 (fld rec 31 0)))
  else
    let zo : Int := if t = 0 then toSigned 8 (fld rec 47 40) else fld rec 47 40
    ofSigned 8 (limit (typeLo t) (typeHi t) (rhe (x * toSigned 32 (fld rec 31 0)) (2 ^ fld rec 37 32) + zo))

/-- Pad of an entry's tensor: +0 for F16 (R357). -/
def sclPad (d : Nat) : Nat := if dType d = 7 then 0 else padCode d

/-- Codes of row `h` of an entry's tensor sample; pad where no image lies. -/
def rowCodes (s : State) (c : SclCmd) (e d h : Nat) (img : Option (Fb × (Nat × Nat × Nat × Nat))) : List Nat :=
  (List.range (dW d)).flatMap fun w => (List.range (dC d)).map fun ch =>
    match img with
    | some (f, win) =>
      if h < eOutH e ∧ w < eOutW e then
        quantPixel (dType d) (eChan e (if eChannels e = 2 then 0 else ch)) (channelAt s c f e win w h ch)
      else sclPad d
    | none => sclPad d

/-- Element `i` of row `h` lies in the resized image. -/
def inImage (e d h : Nat) (img : Bool) (i : Nat) : Bool :=
  img && h < eOutH e && i / max 1 (dC d) < eOutW e

/-- Writes of row `h` of a TENSOR entry, of the elements that `keep` names. -/
def rowWrites (e d h : Nat) (keep : Nat → Bool) (codes : List Nat) : List EltWrite :=
  (codes.zipIdx.filter fun x => keep x.2).flatMap fun x =>
    eltWrites d { n := eSlot e, h := h, w := x.2 / max 1 (dC d), c := x.2 % max 1 (dC d) } x.1

/-- A 10-bit sample in a FRAME's container: whole in 16 bits; in 8 bits v / 4, and where that is no
whole number the manual leaves the rounding open. -/
def frameSample (s : State) (f : Fb) (i : Nat) (v : Int) : Nat :=
  if f.wide then v.toNat
  else min 255 (v.toNat / 4 + if v.toNat % 4 = 0 then 0 else (Config.freeValue (s.free + i)).toNat % 2)

/-- Component of a FRAME output. -/
def frameComp (s : State) (c : SclCmd) (src : Fb) (e : Nat) (win : Nat × Nat × Nat × Nat) (k ow oh x y : Nat) : Int :=
  let g (k : Nat) : Int := component s c src e win k ow oh x y
  match c.format with
  | 2 => ycc709 (g 0) (g 1) (g 2) k
  | 3 | 4 => if k = 0 then g 0 else 512
  | _ => g k

/-- Rows of a FRAME output (R298, R357). -/
def frameRows (s : State) (c : SclCmd) (src : Fb) (e : Nat) (win : Nat × Nat × Nat × Nat) (dst : Fb) :
    List (Nat × List Byte) :=
  let w := eOutW e
  let h := eOutH e
  pictureRows dst w h
    (fun x y => frameSample s dst (y * w + x) (frameComp s c src e win 0 w h x y))
    (fun k x y => frameSample s dst (w * h * (k + 1) + y * w + x)
      (frameComp s c src e win (k + 1) (cdiv w 2) (cdiv h 2) x y))

end Sys2Proof.Machine
end

