-- ==== Sys2Proof/Machine/Scaler.lean ====
section
/-! DEFINITION. The scalers: commands, sources, batches, done records, privileged kicks (chapter 09,
R347, R348, R357 to R370). -/

namespace Sys2Proof.Machine

def sclSrc (u : Nat) : Src := .scaler (Fin.ofNat 4 u)
def sclPage (u : Nat) : Page := .scl (Fin.ofNat 4 u)

def sclOk : Nat := 0
def sclInvalid : Nat := 1
def sclNoFrame : Nat := 2
def sclCorrupt : Nat := 3
def sclMemError : Nat := 4
def sclAborted : Nat := 5

/-! ## Checks (R347 to R349, R357, R358, R365) -/

def hdrBad (w : Nat) : Bool :=
  fld w 31 27 != 0 || fld w 63 38 != 0 || fld w 127 112 != 0 || fld w 191 176 != 0 || fld w 511 256 != 0 ||
  hKind w > 1 || (hKind w == 1 && hSrc w > 15) || hCount w == 0 || hCount w > 17 ||
  (hSaucer w != 0 && (hSaucer w % 64 != 0 || (match regionOf (hSaucer w) with | .cluster _ => false | _ => true))) ||
  hDone w % 16 != 0 || !inHbmClu (hDone w) 16

/-- The batch descriptor and SLOT of an entry are valid (R365). -/
def batchOk (s : State) (e : Nat) : Bool :=
  let a := eBatch e
  let w := peekNat s a 64
  a != 0 && a % 64 == 0 && inHbmClu a 64 && fld w 134 128 != 0 && fld w 134 128 ≤ 64 &&
  fld w 511 135 == 0 && inHbmClu a (64 + 16 * fld w 134 128) && eSlot e < fld w 134 128

def chanBad (r : Nat) (f16Dst : Bool) : Bool :=
  fld r 39 38 != 0 || fld r 63 58 != 0 || (f16Dst && fld r 47 40 != 0)

/-- A tensor descriptor of an entry (R357). -/
def sclDescBad (e d : Nat) : Bool :=
  descFormBad d || !(dType d ≤ 1 || dType d == 7) || dC d != (if eChannels e = 2 then 1 else 3) ||
  dH d < eOutH e || dW d < eOutW e || dN d ≤ eSlot e

def entryBadScl (s : State) (w e : Nat) : Bool :=
  let d := peekNat s (eDesc e) 64
  fld e 31 18 != 0 || fld e 159 144 != 0 || fld e 255 246 != 0 || fld e 511 448 != 0 ||
  eWindow e == 3 || eChannels e == 3 || eKind e == 3 || eOutW e == 0 || eOutW e > 8192 || eOutH e == 0 ||
  eOutH e > 4352 || (eWindow e == 2 && (fld e 79 64 == 0 || fld e 95 80 == 0)) ||
  eDesc e % 64 != 0 || !inHbmClu (eDesc e) 64 || (eBatch e != 0 && !batchOk s e) ||
  ((List.range 3).any fun c => chanBad (eChan e c) (eKind e != 2 && dType d == 7)) ||
  (match eKind e with
   | 0 => sclDescBad e d || !oneMem (dBase d) (dAlloc d * 64) ||
       (eBatch e != 0 && fld (peekNat s (eBatch e) 64) 134 128 != dN d)
   | 1 => sclDescBad e d || hSaucer w == 0
   | _ => fbBad d (eOutW e) (eOutH e) 0 false)

/-- A command breaks R358, but for what its source decides. -/
def sclCmdBad (s : State) (ws : List Nat) : Bool :=
  let w := ws.headD 0
  hdrBad w || ws.tail.any (entryBadScl s w) || 1 < (ws.tail.filter fun e => eKind e == 1).length

/-! ## Sources (R359) -/

/-- What a source supplies. -/
structure SclSrc where
  fb     : Fb
  bufNo  : Nat
  seq    : Nat
  pts    : Nat
  crop   : Nat × Nat × Nat × Nat
  depth  : Nat
  format : Nat
  con    : Bool
  cor    : Bool
  rx     : Bool
  stream : Nat
deriving DecidableEq, Repr

def sclSource (s : State) (w : Nat) : Option SclSrc :=
  if hKind w = 0 then
    let x := s.decCtx (hSrc w)
    if x.enabled then
      x.outq.head?.map fun o =>
        { fb := x.fbs.getD o.buf {}, bufNo := o.buf, seq := o.picCount, pts := o.pts, crop := o.crop
          depth := o.bitDepth, format := 8, con := o.concealed, cor := o.corrupt, rx := false
          stream := x.desc.streamId }
    else none
  else
    let h := s.cap (hSrc w)
    if h.enabled then
      (h.latest.filter fun f => h.sclSeq != some f.seq).bind fun f => f.buf.map fun b =>
        { fb := h.fbs.getD b {}, bufNo := b, seq := f.seq, pts := f.pts
          crop := (0, 0, h.desc.width, h.desc.height), depth := if h.desc.format = 4 then 10 else 8
          format := h.desc.format, con := false, cor := false, rx := f.rxErr, stream := h.desc.streamId }
    else none

/-- An RGB888 source asks for MATRIX 3 (R355). -/
def matrixBad (format e : Nat) : Bool := format == 2 && eMatrix e != 3

/-- A source breaks what R350, R351 and R355 ask of the entries. -/
def sourceBad (ws : List Nat) (x : SclSrc) : Bool :=
  ws.tail.any fun e => windowBad e x.crop || matrixBad x.format e

/-- The entries break what can be told of them without a frame: the factors of RECT entries, and what an
enabled capture channel's descriptor says of its frames (R350, R351, R355, R358). -/
def shapeBad (s : State) (ws : List Nat) : Bool :=
  let w := ws.headD 0
  let h := s.cap (hSrc w)
  if hKind w != 0 && h.enabled then
    ws.tail.any fun e => windowBad e (0, 0, h.desc.width, h.desc.height) || matrixBad h.desc.format e
  else ws.tail.any fun e => factorsBad e none

/-- Take the source: its buffer is held to the command's end, or until RELEASE (R301, R359). -/
def takeSource (w : Nat) (x : SclSrc) (s : State) : State :=
  if hKind w = 0 then
    s.onDecCtx (hSrc w) fun y =>
      { y with outq := y.outq.tail, reading := x.bufNo :: y.reading
               holds := if hKeep w && !y.holds.contains x.bufNo then x.bufNo :: y.holds else y.holds }
  else s.onCap (hSrc w) fun h => { h with sclSeq := some x.seq, readers := x.bufNo :: h.readers }

/-- Give the source back. -/
def giveSource (c : SclCmd) (s : State) : State :=
  if c.buf.isNone then s
  else if c.capSrc then s.onCap c.src fun h => { h with readers := h.readers.erase c.bufNo }
  else s.onDecCtx c.src fun x => { x with reading := x.reading.erase c.bufNo }

/-- The steering set of R364 at the start tick. -/
def steerAt (s : State) (slot : Nat) : SteerSet :=
  let k := s.scl.steer.getD slot {}
  match k.at_ with
  | some t => if t + 8 ≤ s.up then k.front else k.back
  | none => k.front

/-! ## Start (R258, R358, R359) -/

def clusterOfAddr (a : Nat) : Option Nat := match regionOf a with | .cluster m => some m | _ => none

/-- Stream or end data at the Saucer that a command names. -/
def onStream (w : Nat) (f : SauStream → SauStream) (s : State) : State :=
  match clusterOfAddr (hSaucer w) with
  | some m => if hSaucer w = 0 then s else
      s.onClu m fun c => { c with streams := c.streams.map fun t => if t.cmd = hSaucer w && !t.ended then f t else t }
  | none => s

/-- Offer the stream of a command, whose first data come at a tick, to its Saucer (R260). -/
def offerStream (w first : Nat) (s : State) : State :=
  match clusterOfAddr (hSaucer w) with
  | some m => if hSaucer w = 0 then s else
      s.onClu m fun c =>
        { c with streams := c.streams.filter (·.arrived ≤ first) ++
            { cmd := hSaucer w, arrived := first, data := [], ended := false } ::
            c.streams.filter (first < ·.arrived) }
  | none => s

/-- The stream of a command waits for its Saucer, which holds the scaler (R260). -/
def streamWaits (s : State) (w : Nat) : Bool :=
  match clusterOfAddr (hSaucer w) with
  | some m => hSaucer w != 0 && (s.clu m).streams.any (fun t => t.cmd == hSaucer w && !t.ended) &&
      !(s.clu m).cmd.any fun c => c.streamed && c.addr == hSaucer w
  | none => false

/-- The image of an entry: its source and window, absent when it writes only pad. -/
def entryImage (c : SclCmd) (e : Nat) : Option (Fb × (Nat × Nat × Nat × Nat)) :=
  if c.status = sclOk then c.buf.bind fun f => (windowOf e c.crop c.steer).map fun w => (f, w) else none

/-- Bytes that an entry writes or streams: none for a FRAME without an image, for a stream of a command whose
status is not OK, and for such a PRIV command (R359, R360, R370). -/
def entryBytes (s : State) (c : SclCmd) (e : Nat) : Nat :=
  let d := peekNat s (eDesc e) 64
  if c.status ≠ sclOk ∧ (eKind e = 1 ∨ hPriv (sclHdr c) = true) then 0
  else if eKind e = 2 then
    if (entryImage c e).isNone then 0
    else (eOutW e * eOutH e + 2 * (cdiv (eOutW e) 2 * cdiv (eOutH e) 2)) * fbStep (parseFb d)
  else dH d * dW d * dC d * (typeBits (dType d) / 8)

/-- Ticks of an entry (R360). -/
def entryTicks (s : State) (c : SclCmd) (e : Nat) : Nat :=
  let a := match entryImage c e with | some (_, w) => w.2.2.1 * w.2.2.2 | none => 0
  max (cdiv (a * 11) 20) (cdiv (entryBytes s c e) 64)

/-- Index of the SAUCER entry of a command whose stream has data. -/
def sauIndex (c : SclCmd) : Option Nat :=
  if c.status = sclOk then (List.range (hCount (sclHdr c))).find? fun i => eKind (sclEntry c i) == 1 else none

/-- Ticks of the entries before entry `k`, after the command's first 64 (R360). -/
def ticksBefore (s : State) (c : SclCmd) (k : Nat) : Nat :=
  64 + ((List.range k).map fun i => entryTicks s c (sclEntry c i)).sum

/-- Ticks from the start to the end of entry `k`, with what its Saucer held it (R260). -/
def ticksTo (s : State) (c : SclCmd) (k : Nat) : Nat :=
  ticksBefore s c (k + 1) + if (sauIndex c).any (· ≤ k) then c.held else 0

/-- Tick of a command's first data to its Saucer: its SAUCER entry begins, or an empty stream is there at once
(log entry 71). -/
def firstData (s : State) (c : SclCmd) : Nat :=
  match sauIndex c with | some i => c.started + ticksBefore s c i | none => c.started

/-- The scaler starts no source work: halted, in the safe state, or quiesced. -/
def sclStopped (s : State) (u : Nat) : Bool := s.mgt.safe || s.mgt.quiesce || haltOn s (sclPage u)

/-- Set up a command with a status and, where it has one, a source. -/
def sclBegin (u addr status : Nat) (ws : List Nat) (x : Option SclSrc) (s : State) : State :=
  let w := ws.headD 0
  let set := steerAt s (hSteer w)
  let y : SclSrc := x.getD
    { fb := {}, bufNo := 0, seq := 0, pts := 0, crop := (0, 0, 0, 0), depth := 8, format := 8, con := false
      cor := false, rx := false
      stream := if hKind w = 0 then (s.decCtx (hSrc w)).desc.streamId else (s.cap (hSrc w)).desc.streamId }
  let s := match x with | some y => takeSource w y s | none => s
  let s := s.onSclUnit u fun v =>
    { v with
      cmd := some { addr := addr, started := s.up, status := status, capSrc := hKind w != 0, src := hSrc w
                    buf := x.map (·.fb), bufNo := y.bufNo, words := ws, seq := y.seq, pts := y.pts
                    crop := y.crop, depth := y.depth, format := y.format, flagCon := y.con, flagCor := y.cor
                    flagRx := y.rx, stream := y.stream, steer := set, next := 0, doneMsk := 0 }
      lastLo := BitVec.ofNat 32 addr, lastHi := BitVec.ofNat 32 (addr / 2 ^ 32) }
  if ws = [] then s
  else offerStream w (match (s.sclUnit u).cmd with | some c => firstData s c | none => s.up) s

/-- SCALE_START delivered; a scaler in use takes the action when its command has ended. -/
def execScaleStart (u : Fin 4) (s : State) : Out :=
  .next (
    if (s.sclUnit u.val).cmd.isSome then s
    else match takeAction s 8 4 (fun a => a.target == u.val) with
    | none => s
    | some (a, s) =>
      let addr := a.arg64
      let n := u.val
      let (r, bs, s) := readMem (sclSrc n) addr 64 s
      if r ≠ .ok then sclBegin n addr sclMemError [] none s
      else
        let w := leNat bs
        let (r2, _, s) := readMem (sclSrc n) (addr + 64) (64 * min 17 (hCount w)) s
        let ws := w :: (List.range (min 17 (hCount w))).map fun i => peekNat s (addr + 64 * (i + 1)) 64
        if sclStopped s n then sclBegin n addr sclAborted ws none s
        else if r2 ≠ .ok then sclBegin n addr sclMemError ws none s
        else if sclCmdBad s ws || !inHbmClu addr (64 * (hCount w + 1)) || shapeBad s ws then sclBegin n addr sclInvalid ws none s
        else match sclSource s w with
          | none => sclBegin n addr sclNoFrame ws none s
          | some x =>
            if sourceBad ws x then sclBegin n addr sclInvalid ws none s
            else sclBegin n addr (if x.cor || x.rx then sclCorrupt else sclOk) ws (some x) s)

/-! ## Entries (R357, R360, R366) -/


/-- Source ranges of an entry's window, for their error checks: rows of each plane. -/
def windowRanges (c : SclCmd) (f : Fb) (w : Nat × Nat × Nat × Nat) : List (Nat × Nat) :=
  let x0 := c.crop.1 + w.1
  let y0 := c.crop.2.1 + w.2.1
  let bpp := match c.format with | 1 => 2 | 2 => 3 | _ => fbStep f
  ((List.range w.2.2.2).map fun y => (f.yBase + (y0 + y) * f.pitch + x0 * bpp, w.2.2.1 * bpp)) ++
  if c.format = 0 ∨ c.format = 8 then
    (List.range (cdiv w.2.2.2 2)).map fun y =>
      (f.cBase + (y0 / 2 + y) * f.pitch + x0 / 2 * 2 * fbStep f, 2 * cdiv w.2.2.1 2 * fbStep f)
  else []

/-- Set or clear VALID and set FILLED of a sample (R366). -/
def batchBits (u e : Nat) (filled valid : Bool) (s : State) : State :=
  let bit := 2 ^ eSlot e
  let s := if filled then (modify64 (sclSrc u) (eBatch e + 8) false (set64 bit) s).2 else s
  (modify64 (sclSrc u) (eBatch e) false (if valid then set64 bit else clear64 bit) s).2

/-- The sample entry of a batch, then its bits (R365, R366). -/
def batchEnd (u : Nat) (c : SclCmd) (e : Nat) (absent : Bool) (s : State) : State :=
  if eBatch e = 0 then s
  else
    let flags := b2n c.flagCon + 2 * b2n c.flagCor + 4 * b2n c.flagRx + 8 * b2n absent +
      16 * b2n (c.status == sclNoFrame)
    let s := store (sclSrc u) (eBatch e + 0x40 + 16 * eSlot e)
      (leBytes 8 c.pts ++ leBytes 4 c.seq ++ leBytes 2 c.stream ++ leBytes 2 flags) s
    batchBits u e true (c.status == sclOk && !absent) s

/-- Clear the VALID bits of the entries that did not finish (R358, R362). -/
def clearRest (u : Nat) (c : SclCmd) (s : State) : State :=
  if hPriv (sclHdr c) then s
  else c.words.tail.zipIdx.foldl (fun s e =>
    if !c.doneMsk.testBit e.2 && batchOk s e.1 then batchBits u e.1 false false s else s) s

/-- The first `n` rows of a TENSOR entry's sample: the elements of the image, of the pad, or both. -/
def tensorRows (u : Nat) (c : SclCmd) (e n : Nat) (image pad : Bool) (s : State) : Resp × State :=
  let d := peekNat s (eDesc e) 64
  let img := entryImage c e
  (List.range (min n (dH d))).foldl (fun (r : Resp × State) h =>
    if r.1 ≠ .ok then r
    else writeCells (sclSrc u) (mergeWrites r.2 (rowWrites e d h
      (fun i => if inImage e d h img.isSome i then image else pad) (rowCodes s c e d h img))) r.2) (.ok, s)

/-- Element codes of the first `n` rows that a SAUCER entry streams. -/
def streamCodes (s : State) (c : SclCmd) (e n : Nat) : List Nat :=
  let d := peekNat s (eDesc e) 64
  if c.status = sclOk then
    (List.range (min n (dH d))).flatMap fun h => rowCodes s c e d h (entryImage c e)
  else []

/-- Rows of an entry from its first on, `n` of them: written, or streamed to the Saucer. A PRIV command's pad
waits for the command's end (R370). -/
def entryRun (u : Nat) (c : SclCmd) (e n : Nat) (s : State) : Resp × State :=
  let d := peekNat s (eDesc e) 64
  let img := entryImage c e
  let frees := eOutW e * eOutH e * 3
  let after (r : Resp × State) : Resp × State := (r.1, { r.2 with free := r.2.free + frees })
  match eKind e with
  | 0 => after (tensorRows u c e n true (!hPriv (sclHdr c)) s)
  | 1 =>
    let data := streamCodes s c e n
    after (.ok, onStream (sclHdr c) (fun t =>
      { t with data := t.data ++ data, ended := n ≥ dH d, endAt := s.up }) s)
  | _ =>
    match img with
    | some (f, w) =>
      let fb := parseFb d
      let rows := frameRows s c f e w fb
      let h := min n (eOutH e)
      let take := rows.take h ++ (rows.drop (min (eOutH e) fb.fbH)).take (cdiv h 2)
      after (writeAll (sclSrc u) take s)
    | none => (.ok, s)

/-- A FRAME output of a camera channel is complete: encoders may take it, where the channel is not YUV420_8,
whose own frames they read (R346). -/
def frameDone (c : SclCmd) (e : Nat) (s : State) : State :=
  if eKind e = 2 ∧ c.capSrc = true ∧ c.format ≠ 0 ∧ (entryImage c e).isSome = true then
    encAutoStart c.src (s.onCap c.src fun h =>
      { h with frameOut := some (c.seq, parseFb (peekNat s (eDesc e) 64), c.pts) })
  else s

/-- SCALER_ENTRY_DONE: the next entry's bytes are complete. -/
def execScalerEntryDone (u : Fin 4) (s : State) : Out :=
  .next (match (s.sclUnit u.val).cmd with
    | none => s
    | some c =>
      let n := u.val
      let e := sclEntry c c.next
      if c.status = sclInvalid ∨ c.status ≥ sclMemError ∨ c.next ≥ hCount (sclHdr c) ∨
          s.up < c.started + ticksTo s c c.next ∨
          ((sauIndex c).any (· ≤ c.next) && streamWaits s (sclHdr c)) = true then s
      else
        let setC (f : SclCmd → SclCmd) (s : State) : State :=
          s.onSclUnit n fun v => { v with cmd := v.cmd.map f }
        let done (c : SclCmd) : SclCmd := { c with next := c.next + 1, doneMsk := c.doneMsk + 2 ^ c.next }
        if hPriv (sclHdr c) && c.status != sclOk then setC done s
        else
          match (entryImage c e).bind fun i => (windowRanges c i.1 i.2).find? fun r => badAt s r.1 r.2 with
          | some r => setC (fun c => { c with status := sclMemError }) (logUncorr (sclSrc n) r.1 s)
          | none =>
            match entryRun n c e 8192 s with
            | (.ok, s) =>
              let absent := c.status == sclOk && (entryImage c e).isNone
              setC done (frameDone c e (if hPriv (sclHdr c) then s else batchEnd n c e absent s))
            | (_, s) => setC (fun c => { c with status := sclMemError }) s)

/-! ## Ends (R361, R362, R368 to R370) -/

/-- A SAMPLE_DROPPED record (R402). -/
def droppedRec (u : Nat) (c : SclCmd) (now : Nat) : List Byte :=
  let e := ((c.words.tail.find? fun e => eBatch e != 0).getD (sclEntry c 0))
  recHead c.seq 7 0 c.stream 0 c.flagCon false false now ++
  leBytes 8 c.pts ++ leBytes 4 (c.status + u * 256 + b2n c.capSrc * 65536 + c.src * 2 ^ 24) ++ leBytes 4 0 ++
  leBytes 8 (eBatch e) ++ leBytes 8 (eSlot e) ++ List.replicate 16 0

/-- The pad and the batch entries of a PRIV command that ends with OK: with another status it writes none
(R370). -/
def privFinish (u : Nat) (c : SclCmd) (s : State) : Resp × State :=
  c.words.tail.foldl (fun (r : Resp × State) e =>
    if r.1 ≠ .ok then r
    else
      let t := if eKind e = 0 then tensorRows u c e 8192 false true r.2 else r
      if t.1 = .ok then (.ok, batchEnd u c e (entryImage c e).isNone t.2) else t) (.ok, s)

/-- A PRIV command whose binding is disabled at its end fails (R369, R627; log entry 75). -/
def privStatus (s : State) (c : SclCmd) : Nat :=
  if hPriv (sclHdr c) && decide (c.status < sclMemError) && !rbit (s.scl.priv.getD (hPrivIdx (sclHdr c)) 0) 31
  then sclInvalid else c.status

/-- The end of a command: VALID bits, stream, kick, record, done record, account. -/
def sclEnd (u : Nat) (c : SclCmd) (s : State) : State :=
  let w := sclHdr c
  let c := { c with status := privStatus s c }
  let p := if hPriv w && c.status == sclOk then privFinish u c s else (.ok, s)
  let c := if p.1 = .ok then c else { c with status := sclMemError }
  let s := p.2
  let s := if c.status = sclInvalid ∨ c.status ≥ sclMemError then clearRest u c s else s
  let s := onStream w (fun t => { t with ended := true, endAt := s.up }) s
  let kick := hPriv w && c.status == sclOk
  let s := if kick then 
      let b := s.scl.priv.getD (hPrivIdx w) 0
      validateMask (rfld b 7 0) (2 ^ rfld b 13 8) s
    else s
  let s := if !hPriv w && (c.status == sclNoFrame || c.status == sclCorrupt) then
      handOff (whoScl u) (hRing w) false (droppedRec u c s.now) s
    else s
  let s := giveSource c s
  let s := if c.words = [] then s
    else store (sclSrc u) (hDone w)
      (leBytes 8 (fld w 255 192) ++ leBytes 8 (c.status + b2n kick * 256 + c.doneMsk * 65536)) s
  let s := if c.words = [] then s
    else account (sclSrc u) (32 * ((if c.capSrc then 400 else 256) + c.src) + 24) (s.up - c.started) s
  s.onSclUnit u fun v =>
    { v with cmd := none, commands := if c.words = [] then v.commands else (v.commands + 1) % 2 ^ 32 }

/-- SCALER_CMD_DONE: every entry has ended, or the command ended without them. -/
def execScalerCmdDone (u : Fin 4) (s : State) : Out :=
  .next (match (s.sclUnit u.val).cmd with
    | none => s
    | some c =>
      if (c.status = sclInvalid ∧ c.started + 64 ≤ s.up) ∨ c.status ≥ sclMemError ∨
          (c.status ≠ sclInvalid ∧ c.next ≥ hCount (sclHdr c)) then sclEnd u.val c s
      else s)

/-- A command ends at a row of its entry in progress: how many rows that is depends on the tick within
the entry, and the manual fixes no row times. -/
def sclCut (u status : Nat) (s : State) : State :=
  match (s.sclUnit u).cmd with
  | none => s
  | some c =>
    let (v, s) := s.takeFree
    let e := sclEntry c c.next
    let live := (c.status = sclOk ∨ c.status = sclNoFrame ∨ c.status = sclCorrupt) ∧ c.next < hCount (sclHdr c)
    let s := if live ∧ ¬ (hPriv (sclHdr c) = true ∧ c.status ≠ sclOk) then
        (entryRun u c e (v.toNat % (eOutH e + 1)) s).2
      else s
    let c := { c with status := if c.status = sclInvalid ∨ c.status ≥ sclMemError then c.status else status }
    sclEnd u c s

/-- SCALER_MEM_ERROR: an uncorrectable error in a scaler's line memory (R362). -/
def execScalerMemError (u : Fin 4) (s : State) : Out :=
  .next (match (s.sclUnit u.val).cmd with
    | none => s
    | some _ => sclCut u.val sclMemError (raise (sclPage u.val) 3 none u.val s))

/-- HALT, ENABLE = 0 or the safe state ends a scaler's command (R362). -/
def sclStop (u : Nat) (s : State) : State := sclCut u sclAborted s

/-! ## Saucer commands that stop early (R264) -/

/-- The rows that a scaler has streamed so far of an entry in progress, as the Saucer that stops has them: how
many that is no rule fixes. -/
def pullStream (m : Nat) (c : SauCmd) (s : State) : State :=
  match (s.scl.units.filterMap (·.cmd)).find? fun k => hSaucer (sclHdr k) == c.addr && sauIndex k == some k.next with
  | some k =>
    if c.streamed && (s.clu m).streams.head?.any (fun t => t.cmd == c.addr && !t.ended) &&
        k.started + ticksBefore s k k.next + k.held ≤ s.up then
      let (v, s) := s.takeFree
      let e := sclEntry k k.next
      onStream (sclHdr k) (fun t => { t with data := streamCodes s k e (v.toNat % (eOutH e + 1)) }) s
    else s
  | none => s

/-- A running command stops early with a status, after `n` of the rows that may be written. -/
def sauCut (m : Nat) (c : SauCmd) (n : Nat → Nat) (status : Nat) (s : State) : State :=
  if c.status ≠ 0 then sauEnd m c c.status 0 s
  else
    let s := pullStream m c s
    sauFinish m c (n (sauMost s m c (sauOf s (peekNat s c.addr 64)))) status s

/-- SAUCER_MEM_ERROR: an uncorrectable error in a Saucer memory at a row (R264). -/
def execSaucerMemError (m : Fin 7) (row : Nat) (s : State) : Out :=
  .next (match (s.clu m.val).cmd with
    | none => s
    | some c => sauCut m.val c (min row) 4 (raise (cluPage m.val) 3 none m.val s))

/-- HALT, the safe state, QUIESCE or a partition reset ends the command with ABORTED after the current
row; how many rows that is the manual leaves to the mesh's timing (R264). -/
def sauStop (m : Nat) (s : State) : State :=
  match (s.clu m).cmd with
  | none => s
  | some c =>
    let (v, s) := s.takeFree
    sauCut m c (fun most => v.toNat % (most + 1)) 5 s

end Sys2Proof.Machine
end

