-- ==== Sys2Proof/Machine/Caddy.lean ====
section
/-! DEFINITION. The Caddy: partitions, command rings, association, lifecycle, prediction, steering,
records, done records (chapter 10, R371 to R402, R416, R417). A command reads at its start and makes its
changes at the end of its time, with its done record (R379, R392, R394). -/

namespace Sys2Proof.Machine

/-! ## Entries (R371, R373) -/

/-- Replace field [hi:lo] of a number. -/
def putFld (w hi lo v : Nat) : Nat :=
  w - fld w hi lo * 2 ^ lo + v % 2 ^ (hi + 1 - lo) * 2 ^ lo

/-- Coordinate `i` of the box, X0, Y0, X1, Y1. -/
def tBox (e i : Nat) : Int := toSigned 16 (fld e (527 + 16 * i) (512 + 16 * i))
def tVel (e i : Nat) : Int := toSigned 16 (fld e (591 + 16 * i) (576 + 16 * i))
def tRes (e i : Nat) : Int := toSigned 8 (fld e (615 + 8 * i) (608 + 8 * i))
def tState (e : Nat) : Nat := fld e 631 624
def tCov (e i : Nat) : Nat := fld e (655 + 16 * i) (640 + 16 * i)
def tEmb (e j : Nat) : Int := toSigned 8 (fld e (8 * j + 7) (8 * j))
def tStream (e : Nat) : Nat := fld e 719 704
def tClass (e : Nat) : Nat := fld e 735 720
def tId (e : Nat) : Nat := fld e 767 736
def tAge (e : Nat) : Nat := fld e 799 768
def tHits (e : Nat) : Nat := fld e 815 800
def tMiss (e : Nat) : Nat := fld e 831 816
def tScore (e : Nat) : Nat := fld e 847 832

def setBox (e i : Nat) (v : Int) : Nat :=
  putFld e (527 + 16 * i) (512 + 16 * i) (ofSigned 16 (limit (-32768) 32767 v))
def setVel (e i : Nat) (v : Int) : Nat :=
  putFld e (591 + 16 * i) (576 + 16 * i) (ofSigned 16 (limit (-32768) 32767 v))
def setRes (e i : Nat) (v : Int) : Nat := putFld e (615 + 8 * i) (608 + 8 * i) (ofSigned 8 v)
def setState (e v : Nat) : Nat := putFld e 631 624 v
def setCov (e i v : Nat) : Nat := putFld e (655 + 16 * i) (640 + 16 * i) (max 1 (min 32767 v))

def isLive (e : Nat) : Bool := tState e == 1 || tState e == 2 || tState e == 3

/-- Box of an entry as the 8 bytes of R372. -/
def boxBytes (e : Nat) : Nat := fld e 575 512

/-! ## Partitions (R375 to R379) -/

def entryAddr (x : PartDesc) (i : Nat) : Nat := caddyBase + 128 * (x.base + i)

def parsePart (d : Nat) : PartDesc :=
  { base := 32 * fld d 11 0, count := 32 * (fld d 23 12 + 1), steerSlot := fld d 31 24
    recRing := fld d 37 32, steerMax := fld d 44 40, sense := bitAt d 48, emit := fld d 53 49
    nConfirm := fld d 67 64, mTent := fld d 71 68, mDelete := fld d 79 72, alpha := fld d 87 80
    beta := fld d 95 88, rnoise := fld d 111 96, qnoise := fld d 127 112, pInit := fld d 143 128
    newScore := toSigned 16 (fld d 159 144), costMax := toSigned 32 (fld d 191 160)
    mirEmb := fld d 239 192, mirBox := fld d 303 256, firstId := fld d 351 320, margin := fld d 367 352 }

/-- Mirror regions. -/
def mirrors (x : PartDesc) : List (Nat × Nat) := [(x.mirEmb, 64 * x.count), (x.mirBox, 8 * x.count)]

def partBad (d : Nat) : Bool :=
  let x := parsePart d
  fld d 39 38 != 0 || fld d 47 45 != 0 || fld d 63 54 != 0 || fld d 255 240 != 0 || fld d 319 304 != 0 ||
  fld d 383 368 != 0 || fld d 511 384 != 0 || x.base + x.count > 131072 || x.steerMax > 16 ||
  x.nConfirm == 0 || x.mTent == 0 || x.mDelete == 0 || x.rnoise == 0 || x.rnoise > 32767 ||
  x.qnoise > 32767 || x.pInit == 0 || x.pInit > 32767 || x.firstId == 0 ||
  (mirrors x).any fun r => r.1 % 64 != 0 || !inHbmClu r.1 r.2

/-- Write both mirrors from the entries as they stand (R379). -/
def writeMirrors (x : PartDesc) (s : State) : Resp × State :=
  let es := (List.range x.count).map fun i => peek s (entryAddr x i) 128
  let boxes := es.flatMap fun b =>
    if isLive (leNat b) then (b.drop 64).take 8 else List.replicate 8 0
  writeAll .caddy [(x.mirEmb, es.flatMap fun b => b.take 64), (x.mirBox, boxes)] s

/-- ENABLE of a partition (R377). -/
def partEnableOp (p : Nat) (s : State) : Nat × State :=
  let (r, bs, s) := readMem .caddy (pairAddr s.cdy.tableLo s.cdy.tableHi 6 + 64 * p) 64 s
  let d := leNat bs
  let x := parsePart d
  let others := (List.range 256).filter fun q => q != p && (s.cdyPart q).enabled
  if r ≠ .ok ∨ partBad d = true then (badDescriptor, s)
  else if meets (mirrors x) || others.any fun q =>
      let y := (s.cdyPart q).desc
      overlaps x.base x.count y.base y.count || areasMeet (mirrors x) (mirrors y) then (overlapCode, s)
  else if (s.cdyPart p).enabled then (badState, s)
  else
    let s := s.onCdyPart p fun y => { enabled := true, known := true, desc := x, nextId := y.nextId }
    (okCode, (writeMirrors x s).2)

def partDisableOp (p : Nat) (s : State) : Nat × State :=
  if (s.cdyPart p).enabled then (okCode, s.onCdyPart p fun y => { y with enabled := false })
  else (badState, s)

/-- CLEAR: every byte of the entries is 0, the mirrors follow, identities start anew. -/
def partClearOp (p : Nat) (s : State) : Nat × State :=
  let y := s.cdyPart p
  if y.known then
    let s := poke (entryAddr y.desc 0) (List.replicate (128 * y.desc.count) 0) s
    let s := s.onCdyPart p fun z => { z with nextId := some z.desc.firstId }
    (okCode, (writeMirrors y.desc s).2)
  else (badState, s)

/-- A partition command runs at a command boundary (R376). -/
def partRun (v : W32) (s : State) : State :=
  let p := rfld v 7 0
  let r := match rfld v 10 8 with
    | 0 => partEnableOp p s
    | 1 => partDisableOp p s
    | _ => partClearOp p s
  r.2.onCdy fun d => { d with waitCmd := none, cmd := { d.cmd with code := r.1, done := true, ctx := p } }

/-- A write of CDY_PART_CMD: while the Caddy runs a command the operation waits for the boundary. -/
def partCmdWrite (v : W32) (s : State) : State :=
  cmdWrite .cdy 3 s.cdy.cmd v (fun v s =>
    let s := s.onCdy fun d => { d with cmd := { d.cmd with cmd := v &&& 0x001f07ff#32 } }
    if rbit v 31 then
      if s.cdy.now.isSome then
        s.onCdy fun d => { d with waitCmd := some v, cmd := { d.cmd with done := false } }
      else partRun v s
    else s) s

def execCdyPartEnable (p : Fin 256) (s : State) : Out :=
  .next (hostWrite (partCmdWrite (cmdWord 0 p.val)) s)
def execCdyPartDisable (p : Fin 256) (s : State) : Out :=
  .next (hostWrite (partCmdWrite (cmdWord 1 p.val)) s)
def execClear (p : Fin 256) (s : State) : Out :=
  .next (hostWrite (partCmdWrite (cmdWord 2 p.val)) s)

/-! ## Command rings (R380, R382) -/

/-- A write of CDY_CRING_CFGn: LEN_M1 is fixed while EN is 1; setting EN zeroes the ring. -/
def cringCfgWrite (n : Nat) (v : W32) (s : State) : State :=
  let r := s.cdyRing n
  if rbit r.cfg 31 && rfld r.cfg 7 0 != rfld v 7 0 then invalidProg .cdy s
  else s.onCdyRing n fun r =>
    let d := { r with cfg := v &&& 0x800000ff#32 }
    if rbit v 31 && !rbit r.cfg 31 then { d with cons := 0, prod := 0, pos := 0, fallb := [] } else d

def execCdyCringCfgWrite (n : Fin 8) (v : W32) (s : State) : Out :=
  .next (hostWrite (cringCfgWrite n.val v) s)

/-- CDY_DOORBELL: a delivered PROD; what it makes pending takes the delivery's attribute. -/
def execCdyDoorbell (n : Fin 8) (s : State) : Out :=
  .next (
    let r := s.cdyRing n.val
    match r.dbPend with
    | [] => s
    | (v, fb) :: rest =>
      let s := s.onCdyRing n.val fun r => { r with dbPend := rest }
      let k := (v + 65536 - r.cons) % 65536
      if !rbit r.cfg 31 then s
      else if k > rfld r.cfg 7 0 + 1 then raise .cdy 1 none n.val s
      else s.onCdyRing n.val fun r =>
        { r with prod := v, fallb := (r.fallb ++ List.replicate (k - r.fallb.length) fb).take k })

/-! ## Commands (R381, R383, R384) -/

def cOp (w : Nat) : Nat := fld w 7 0
def cPart (w : Nat) : Nat := fld w 15 8
def cD (w : Nat) : Nat := fld w 26 16 + 1
def cK (w : Nat) : Nat := fld w 29 27
def cRing (w : Nat) : Nat := fld w 37 32
def cCtx (w : Nat) : Nat := fld w 47 40
def cCand (w : Nat) : Nat := fld w 111 64
def cEmb (w : Nat) : Nat := fld w 175 128
def cMatch (w : Nat) : Nat := fld w 239 192
def cBatch (w : Nat) : Nat := fld w 303 256
def cSlot (w : Nat) : Nat := fld w 309 304
def cToken (w : Nat) : Nat := fld w 367 320
def cTokBytes (w : Nat) : Nat := fld w 379 368
def cDone (w : Nat) : Nat := fld w 431 384

/-- Bytes between token rows. -/
def tokStep (w : Nat) : Nat := 64 * cdiv (cTokBytes w) 64

def rangeBad (a n : Nat) : Bool := a % 64 != 0 || !inHbmClu a n

/-- R384, but for the batch's SIZE. -/
def cdyWordBad (w : Nat) : Bool :=
  bitAt w 30 || bitAt w 31 || fld w 39 38 != 0 || fld w 63 48 != 0 || fld w 127 112 != 0 ||
  fld w 191 176 != 0 || fld w 255 240 != 0 || fld w 319 310 != 0 || fld w 383 380 != 0 ||
  fld w 447 432 != 0 || (cOp w != 1 && cOp w != 2) || rangeBad (cCand w) (16 * cD w) ||
  (if cOp w = 1 then
     cK w == 0 || cK w > 4 || cRing w != 0 || rangeBad (cEmb w) (64 * cD w) ||
     rangeBad (cMatch w) (8 * cK w * cD w)
   else cPart w != 0 || cK w != 0 || cEmb w != 0 || cMatch w != 0) ||
  rangeBad (cBatch w) 64 ||
  (cToken w != 0 && (cTokBytes w == 0 || cTokBytes w > 4032 || rangeBad (cToken w) (tokStep w * cD w))) ||
  cDone w % 16 != 0 || !inHbmClu (cDone w) 16

/-- SIZE of the batch against SLOT and its range. -/
def cdyBatchBad (s : State) (w : Nat) : Bool :=
  let n := fld (peekNat s (cBatch w + 16) 8) 6 0
  cSlot w ≥ n || !inHbmClu (cBatch w) (64 + 16 * n)

/-- The ring that a command boundary serves (R381). -/
def nextRing (s : State) : Option Nat :=
  ((List.range 8).map fun i => (s.cdy.lastRing + 1 + i) % 8).find? fun n =>
    rbit (s.cdyRing n).cfg 31 && (s.cdyRing n).cons != (s.cdyRing n).prod

/-- Device address of a ring's next command. -/
def ringCmdAddr (s : State) (n : Nat) : Nat :=
  let r := s.cdyRing n
  pairAddr r.baseLo r.baseHi 6 + 64 * r.pos

/-- A command is taken from its ring; its outcome waits for the done record. -/
def beginCmd (ring : Nat) (x : CdyNow) (s : State) : State :=
  s.onCdy fun d => { d with now := some x, lastRing := ring }

/-- What the ring counts after a command (R259, R380). -/
def ringDone (n : Nat) (s : State) : State :=
  s.onCdyRing n fun r =>
    { r with cons := (r.cons + 1) % 65536, pos := if r.pos ≥ rfld r.cfg 7 0 then 0 else r.pos + 1
             fallb := r.fallb.tail }

def cdyInvalid : Nat := 1
def cdyPartDis : Nat := 2
def cdyMem : Nat := 3
def cdySample : Nat := 4
def cdyAborted : Nat := 5

/-! ## Association (R385, R386) -/

/-- The terminator of R273 as a 128-bit number. -/
def candEnd : Nat := 0xffffffff * 2 ^ 96 + 0x8000 * 2 ^ 64

/-- The detections of a command as 128-bit candidates (R270, R273). -/
def detections (s : State) (w : Nat) : List Nat :=
  ((List.range (cD w)).map fun d => peekNat s (cCand w + 16 * d) 16).takeWhile (· != candEnd)

def detBox (z i : Nat) : Int := toSigned 16 (fld z (16 * i + 15) (16 * i))
def detScore (z : Nat) : Int := toSigned 16 (fld z 79 64)
def detClass (z : Nat) : Nat := fld z 95 80
def detIndex (z : Nat) : Nat := fld z 127 96

/-- Admitted pairs (value, entry, detection) (R385). -/
def admitted (s : State) (x : PartDesc) (w nDet : Nat) (es : List Nat) : List (Int × Nat × Nat) :=
  (List.range nDet).flatMap fun d => (List.range (cK w)).filterMap fun k =>
    let p := peekNat s (cMatch w + 8 * (cK w * d + k)) 8
    let v := toSigned 32 (fld p 31 0)
    let t := fld p 63 32
    if t ≠ 0xffffffff ∧ t < x.count ∧ isLive (es.getD t 0) = true ∧
        (if x.sense then v ≥ x.costMax else v ≤ x.costMax) then some (v, t, d) else none

/-- Order of R386. -/
def pairLe (sense : Bool) (a b : Int × Nat × Nat) : Bool :=
  if a.1 ≠ b.1 then (if sense then a.1 > b.1 else a.1 < b.1)
  else if a.2.1 ≠ b.2.1 then a.2.1 < b.2.1 else a.2.2 ≤ b.2.2

/-- The walk of R386: assigned pairs. -/
def assign (l : List (Int × Nat × Nat)) : List (Int × Nat × Nat) :=
  l.foldl (fun acc p => if acc.any fun q => q.2.1 == p.2.1 || q.2.2 == p.2.2 then acc else acc ++ [p]) []

/-! ## Update of entries (R387 to R391) -/

/-- Covariance and gain of R387. -/
def corrected (b : Int) (p rnoise : Nat) (z : Int) : Int × Nat :=
  let k : Nat := p * 65536 / (p + rnoise)
  (limit (-32768) 32767 (b + rhe (k * (z - b)) 65536), max 1 (min 32767 (rheNat (p * rnoise) (p + rnoise))))

/-- A matched entry (R387). -/
def matchEntry (x : PartDesc) (seq z : Nat) (emb : List Byte) (e : Nat) : Nat :=
  let err (i : Nat) : Int := detBox z i - tBox e i
  let e1 := (List.range 4).foldl (fun a i =>
    let c := corrected (tBox e i) (tCov e i) x.rnoise (detBox z i)
    setCov (setBox a i c.1) i c.2) e
  let v (i : Nat) : Int := tVel e i + rhe (x.beta * 8 * (err i + err (i + 2))) 256
  let e2 := setVel (setVel e1 0 (v 0)) 1 (v 1)
  let e3 := (List.range 64).foldl (fun a j =>
    let q := rhe ((256 - x.alpha : Nat) * tEmb e j + x.alpha * toSigned 8 (emb.getD j 0).toNat) 256
    putFld a (8 * j + 7) (8 * j) (ofSigned 8 (limit (-128) 127 q))) e2
  let e4 := putFld (putFld e3 735 720 (detClass z)) 847 832 (fld z 79 64)
  putFld (putFld (putFld e4 895 864 seq) 815 800 (min 65535 (tHits e + 1))) 831 816 0

/-- State after a match, or after a miss; none when the entry is deleted (R388). -/
def lifecycle (x : PartDesc) (isMatch : Bool) (e : Nat) : Option Nat :=
  match tState e, isMatch with
  | 1, true => some (if tHits e ≥ x.nConfirm then 2 else 1)
  | _, true => some 2
  | 1, false => if tMiss e ≥ x.mTent then none else some 1
  | _, false => if tMiss e ≥ x.mDelete then none else some 3

/-- A new track (R389). -/
def newEntry (x : PartDesc) (seq stream id z : Nat) (emb : List Byte) (old : Nat) : Nat :=
  let e := (List.range 4).foldl (fun a i => setCov (setBox a i (detBox z i)) i x.pInit) old
  let e := setRes (setRes (setVel (setVel e 0 0) 1 0) 0 0) 1 0
  let e := putFld e 511 0 (leNat (padTo 64 emb))
  let e := putFld (putFld (putFld e 719 704 stream) 735 720 (detClass z)) 767 736 id
  let e := putFld (putFld (putFld e 799 768 0) 815 800 1) 831 816 0
  setState (putFld (putFld e 847 832 (fld z 79 64)) 895 864 seq) (if x.nConfirm = 1 then 2 else 1)

/-- Prediction along one axis (R390). -/
def predictAxis (i e : Nat) : Nat :=
  let t := tRes e i + tVel e i
  let d := (t + 8) / 16
  setRes (setBox (setBox e i (tBox e i + d)) (i + 2) (tBox e (i + 2) + d)) i (t - 16 * d)

/-- Prediction of a live entry (R390, R391). -/
def predictEntry (x : PartDesc) (ages : Bool) (e : Nat) : Nat :=
  let e := predictAxis 1 (predictAxis 0 e)
  let e := (List.range 4).foldl (fun a i => setCov a i (tCov e i + x.qnoise)) e
  if ages then putFld e 799 768 (min 0xffffffff (tAge e + 1)) else e

/-- What an UPDATE does to the entries of its partition. -/
structure Assoc where
  es      : List Nat := []               -- after matching, deletion and creation
  pairs   : List (Int × Nat × Nat) := []
  dead    : List (Nat × Nat) := []       -- deleted entries as they were, by index
  made    : List (Nat × Nat) := []       -- detection, entry of each creation
  lost    : Nat := 0                     -- NOT_CREATED
  nextId  : Nat := 1
deriving DecidableEq, Repr

/-- One entry after matching (R387, R388): the entry, and as deleted. -/
def ageEntry (x : PartDesc) (seq : Nat) (dets : List Nat) (emb : Nat → List Byte)
    (pairs : List (Int × Nat × Nat)) (i e : Nat) : Nat × Option Nat :=
  if !isLive e then (e, none)
  else
    match pairs.find? fun p => p.2.1 == i with
    | some p =>
      let m := matchEntry x seq (dets.getD p.2.2 0) (emb p.2.2) e
      (setState m ((lifecycle x true m).getD 0), none)
    | none =>
      let m := putFld e 831 816 (min 65535 (tMiss e + 1))
      match lifecycle x false m with
      | some st => (setState m st, none)
      | none => (setState m 0, some m)

/-- Creation of tracks in ascending detection (R389). -/
def createAll (x : PartDesc) (seq stream : Nat) (dets : List Nat) (emb : Nat → List Byte) (a : Assoc) : Assoc :=
  (List.range dets.length).foldl (fun a d =>
    let z := dets.getD d 0
    if (a.pairs.any fun p => p.2.2 == d) || decide (detScore z < x.newScore) then a
    else
      match a.es.findIdx? fun e => !isLive e with
      | none => { a with lost := a.lost + 1 }
      | some i =>
        { a with es := updAt a.es i (newEntry x seq stream a.nextId z (emb d)), made := a.made ++ [(d, i)]
                 nextId := if a.nextId = 0xffffffff then 1 else a.nextId + 1 }) a

/-- Matching, lifecycle and creation of an UPDATE. -/
def associate (s : State) (x : PartDesc) (w seq stream id : Nat) (dets es : List Nat) : Assoc :=
  let emb (d : Nat) : List Byte := peek s (cEmb w + 64 * d) 64
  let pairs := assign ((admitted s x w dets.length es).mergeSort (pairLe x.sense))
  let aged := es.zipIdx.map fun e => ageEntry x seq dets emb pairs e.2 e.1
  let dead := aged.zipIdx.filterMap fun e => e.1.2.map fun m => (e.2, m)
  createAll x seq stream dets emb
    { es := aged.map (·.1), pairs := pairs, dead := dead, nextId := id }

/-! ## Steering (R363, R394) -/

/-- Window of a live entry; none when it vanishes. -/
def steerWin (x : PartDesc) (e : Nat) : Option SteerWin :=
  let side (a b : Int) : Int × Int :=
    let m := (max 0 (b - a)) * x.margin / 256
    let p := a - m
    let n := max 0 (b - a) + 2 * m
    if p < 0 then (0, n + p) else (p, n)
  let h := side (tBox e 0) (tBox e 2)
  let v := side (tBox e 1) (tBox e 3)
  let lim (i : Int) : Nat := (limit 0 65535 i).toNat
  if h.2 ≤ 0 ∨ v.2 ≤ 0 then none else some { x := lim h.1, y := lim v.1, w := lim h.2, h := lim v.2 }

/-- Rank by state, misses, index. -/
def steerKey (i e : Nat) : Nat :=
  ((match tState e with | 2 => 0 | 3 => 1 | _ => 2) * 65536 + tMiss e) * 131072 + i

def steerSetOf (x : PartDesc) (seq : Nat) (es : List Nat) : SteerSet :=
  let live := (es.zipIdx.filter fun e => isLive e.1).mergeSort fun a b => steerKey a.2 a.1 ≤ steerKey b.2 b.1
  { gen := seq % 65536, wins := (live.filterMap fun e => steerWin x e.1).take x.steerMax }

/-- Commit a set: front and back are exchanged. -/
def commitSteer (slot : Nat) (set : SteerSet) (s : State) : State :=
  s.onScl fun c => { c with steer := updAt c.steer slot fun k => { front := set, back := k.front, at_ := some s.up } }

/-! ## Records (R395 to R401) -/

/-- The sample of a command as the batch descriptor gives it. -/
structure Sample where
  valid  : Bool
  pts    : Nat
  seq    : Nat
  stream : Nat
  con    : Bool
deriving DecidableEq, Repr

def sampleOf (s : State) (w : Nat) : Sample :=
  let e := peekNat s (cBatch w + 0x40 + 16 * cSlot w) 16
  { valid := (peekNat s (cBatch w) 8).testBit (cSlot w), pts := fld e 63 0, seq := fld e 95 64
    stream := fld e 111 96, con := bitAt e 112 }

/-- A record without its header: TYPE and body. -/
abbrev Body := Nat × List Byte

/-- OBJECT of candidate `z` with a box: the corrected one of its track, else its own (R398, R399). -/
def objectRec (q : Sample) (z box d id : Nat) (hit made : Bool) (v : Int) : Body :=
  (1, leBytes 8 q.pts ++ leBytes 8 box ++ leBytes 4 (fld z 95 64) ++ leBytes 4 id ++
    leBytes 4 (detIndex z) ++ leBytes 4 (d + 2048 * b2n hit + 4096 * b2n made) ++
    leBytes 4 (ofSigned 32 v) ++ List.replicate 12 0)

def trackRec (type : Nat) (q : Sample) (i e : Nat) : Body :=
  (type, leBytes 8 q.pts ++ leBytes 8 (boxBytes e) ++ leBytes 4 (fld e 607 576) ++ leBytes 4 (tId e) ++
    leBytes 4 (tState e + tClass e * 65536) ++ leBytes 4 (tHits e + tMiss e * 65536) ++ leBytes 4 (tAge e) ++
    leBytes 4 i ++ leBytes 4 (tScore e) ++ List.replicate 4 0)

def tokenRec (s : State) (q : Sample) (w d id : Nat) : Body :=
  let lines := cdiv (64 + cTokBytes w) 64
  (3, leBytes 8 q.pts ++ leBytes 4 id ++ leBytes 4 (d + cTokBytes w * 65536) ++ List.replicate 32 0 ++
    padTo (64 * (lines - 1)) (peek s (cToken w + tokStep w * d) (cTokBytes w)))

/-- Hand off a command's records in order; the last carries LAST. -/
def sendRecords (p : CdyPlan) (s : State) : State :=
  p.recs.zipIdx.foldl (fun s r =>
    handOff whoCaddy p.ring false
      (recHead p.seq r.1.1 ((r.1.2.length + 16) / 64 - 1) p.stream p.ctx p.con p.fb (r.2 + 1 == p.recs.length) s.now
        ++ r.1.2) s) s

/-- What became of a detection: its track's identity and corrected box, whether it was matched or made a
track, the value of its pair. -/
structure DetOutcome where
  id   : Nat
  box  : Option Nat
  hit  : Bool
  made : Bool
  v    : Int
deriving DecidableEq, Repr

def detOutcome (a : Assoc) (d : Nat) : DetOutcome :=
  match a.pairs.find? fun p => p.2.2 == d with
  | some p =>
    let e := a.es.getD p.2.1 0
    { id := tId e, box := some (boxBytes e), hit := true, made := false, v := p.1 }
  | none =>
    match a.made.find? fun m => m.1 == d with
    | some m =>
      let e := a.es.getD m.2 0
      { id := tId e, box := some (boxBytes e), hit := false, made := true, v := 0 }
    | none => { id := 0, box := none, hit := false, made := false, v := 0 }

/-- The records of an UPDATE in the order of R397. -/
def updateRecords (s : State) (x : PartDesc) (q : Sample) (w : Nat) (dets : List Nat) (a : Assoc) : List Body :=
  let emit (b : Nat) : Bool := x.emit.testBit (b - 17)
  (if emit 17 then dets.zipIdx.map fun z =>
      let o := detOutcome a z.2
      objectRec q z.1 (o.box.getD (fld z.1 63 0)) z.2 o.id o.hit o.made o.v
    else []) ++
  (if emit 21 ∧ cToken w ≠ 0 then (List.range dets.length).map fun d => tokenRec s q w d (detOutcome a d).id
    else []) ++
  (if emit 18 then a.es.zipIdx.filterMap fun e =>
      if isLive e.1 && (tState e.1 != 1 || emit 19) then some (trackRec 2 q e.2 e.1) else none
    else []) ++
  (if emit 20 then a.dead.map fun e => trackRec 4 q e.1 e.2 else [])

/-! ## UPDATE and EMIT (R386, R391, R392, R397, R417) -/

/-- Time of an UPDATE (R392). -/
def updateTicks (count d k : Nat) : Nat := 128 + 3 * count + 8 * d + d * k * (Nat.clog 2 (d * k) + 1)

/-- Inputs of a command other than entries: address and bytes. -/
def cdyInputs (x : PartDesc) (w : Nat) (valid : Bool) : List (Nat × Nat) :=
  if cOp w = 2 then
    (cCand w, 16 * cD w) :: if cToken w ≠ 0 then [(cToken w, tokStep w * cD w)] else []
  else if valid then
    [(cCand w, 16 * cD w), (cEmb w, 64 * cD w), (cMatch w, 8 * cK w * cD w)] ++
    if cToken w ≠ 0 ∧ x.emit.testBit 4 = true then [(cToken w, tokStep w * cD w)] else []
  else []

/-- Read ranges, stopping at the first response that is not OK. -/
def readAll (src : Src) : List (Nat × Nat) → State → Resp × State
  | [], s => (.ok, s)
  | (a, n) :: r, s =>
    match readMem src a n s with
    | (.ok, _, t) => readAll src r t
    | (e, _, t) => (e, t)

/-- Time of a command (R392); none for a value of OP that no rule gives one. -/
def cmdTicks (s : State) (w : Nat) : Nat :=
  match cOp w with
  | 1 => updateTicks (s.cdyPart (cPart w)).desc.count (cD w) (cK w)
  | 2 => 64 + 4 * cD w
  | _ => 0

/-- DONE_ADDR is one that a done record can be written to (R383, R384). -/
def doneOk (w : Nat) : Bool := cDone w % 16 == 0 && inHbmClu (cDone w) 16

/-- A command that does nothing but end after some ticks, with a done record where it can have one. -/
def endAfter (ticks ring w status : Nat) (known : Bool) (s : State) : State :=
  beginCmd ring
    { due := s.up + ticks, done := if known && doneOk w then some (cDone w) else none, value := fld w 511 448
      status := status, created := 0, deleted := 0, notCr := 0, ring := ring } s

/-- Entries of a partition that hold an uncorrectable error. -/
def badEntries (s : State) (x : PartDesc) : List Nat :=
  (List.range x.count).filter fun i => badAt s (entryAddr x i) 128

/-- Such entries become EMPTY with fresh check bits (R417). -/
def emptyBad (x : PartDesc) (l : List Nat) (s : State) : State :=
  l.foldl (fun s i =>
    let a := entryAddr x i
    poke a (leBytes 128 (setState (peekNat s a 128) 0)) (logUncorr .caddy a s)) s

/-- UPDATE (R386 to R394, R417): what it reads, and what it will do at its end. -/
def runUpdate (ring w : Nat) (fb : Bool) (s : State) : State :=
  let p := cPart w
  let x := (s.cdyPart p).desc
  if !(s.cdyPart p).enabled then endAfter (cmdTicks s w) ring w cdyPartDis true s
  else
    let (rs, _, s) := readMem .caddy (cBatch w + 0x40 + 16 * cSlot w) 16 s
    let q := sampleOf s w
    let (ri, s) := readAll .caddy (cdyInputs x w q.valid) s
    if rs ≠ .ok ∨ ri ≠ .ok then endAfter 0 ring w cdyMem true s
    else
      let bad := badEntries s x
      let s := emptyBad x bad s
      let es := (List.range x.count).map fun i => peekNat s (entryAddr x i) 128
      let id := (s.cdyPart p).nextId.getD x.firstId
      let dets := if q.valid then detections s w else []
      let a : Assoc := if q.valid then associate s x w q.seq q.stream id dets es else { es := es, nextId := id }
      let fin := a.es.map fun e => if isLive e then predictEntry x q.valid e else e
      beginCmd ring
        { due := s.up + cmdTicks s w, done := some (cDone w), value := fld w 511 448
          status := if bad ≠ [] then cdyMem else if q.valid then 0 else cdySample
          created := a.made.length, deleted := a.dead.length, notCr := a.lost, ring := ring
          plan :=
            { part := some p, entries := fin, nextId := if q.valid then some a.nextId else none
              steer := if x.steerMax > 0 then some (steerSetOf x q.seq fin) else none
              ring := x.recRing, recs := if q.valid then updateRecords s x q w dets a else []
              seq := q.seq, stream := q.stream, ctx := cCtx w, con := q.con, fb := fb } } s

/-- EMIT (R397). -/
def runEmit (ring w : Nat) (fb : Bool) (s : State) : State :=
  let (rb, _, s) := readMem .caddy (cBatch w + 0x40 + 16 * cSlot w) 16 s
  let (ri, s) := readAll .caddy (cdyInputs {} w true) s
  if rb ≠ .ok ∨ ri ≠ .ok then endAfter 0 ring w cdyMem true s
  else
    let q := sampleOf s w
    let dets := detections s w
    let l := (dets.zipIdx.map fun z => objectRec q z.1 (fld z.1 63 0) z.2 0 false false 0) ++
      if cToken w ≠ 0 then (List.range dets.length).map fun d => tokenRec s q w d 0 else []
    beginCmd ring
      { due := s.up + cmdTicks s w, done := some (cDone w), value := fld w 511 448, status := 0
        created := 0, deleted := 0, notCr := 0, ring := ring
        plan := { ring := cRing w, recs := l, seq := q.seq, stream := q.stream, ctx := cCtx w, con := q.con
                  fb := fb } } s

/-- What a command does at its end, in the order of R390 to R394: records, entries, identities, mirrors,
steering set; and whether a mirror write was answered other than OK. -/
def runPlan (p : CdyPlan) (s : State) : Resp × State :=
  let s := sendRecords p s
  match p.part with
  | none => (.ok, s)
  | some k =>
    let x := (s.cdyPart k).desc
    let s := p.entries.zipIdx.foldl (fun s e => poke (entryAddr x e.2) (leBytes 128 e.1) s) s
    let s := s.onCdyPart k fun y => { y with nextId := p.nextId.or y.nextId }
    let (r, s) := writeMirrors x s
    (r, match p.steer with | some set => commitSteer x.steerSlot set s | none => s)

/-- The Caddy is at a command boundary and may start a command (R381, R416). -/
def cdyIdle (s : State) : Bool :=
  s.cdy.now.isNone && s.cdy.waitCmd.isNone && !s.cdy.halted && !haltOn s .cdy && !s.mgt.safe && !s.mgt.quiesce

/-- Start the next command when its OP is, or is not, EMIT. -/
def cdyStart (emit : Bool) (s : State) : State :=
  match nextRing s with
  | none => s
  | some n =>
    if cdyIdle s then
      let fb := ((s.cdyRing n).fallb.headD false)
      let (r, bs, t) := readMem .caddy (ringCmdAddr s n) 64 s
      let w := leNat bs
      if (r = .ok ∧ cOp w = 2) ↔ emit = true then
        if r ≠ .ok then endAfter 0 n 0 cdyMem false t
        else if cdyWordBad w then endAfter (cmdTicks t w) n w cdyInvalid true t
        else
          let (rb, _, t) := readMem .caddy (cBatch w) 64 t
          if rb ≠ .ok then endAfter 0 n w cdyMem true t
          else if cdyBatchBad t w then endAfter (cmdTicks t w) n w cdyInvalid true t
          else if emit then runEmit n w fb t else runUpdate n w fb t
      else s
    else s

/-- UPDATE: the next command, when it is an UPDATE or one that no OP names. -/
def execUpdate (s : State) : Out := .next (cdyStart false s)

/-- EMIT: the next command, when it is an EMIT. -/
def execEmit (s : State) : Out := .next (cdyStart true s)

/-- CADDY_DONE: at the tick of the end of the command's time its changes, its records and then the done
record (R392, R393); a partition command and a HALT that waited for the boundary take effect. -/
def execCaddyDone (s : State) : Out :=
  .next (match s.cdy.now with
    | none => s
    | some x =>
      if s.up ≠ x.due then s
      else
        let sat (n : Nat) : Nat := min 65535 n
        let (r, s) := runPlan x.plan s
        let status := if r = .ok then x.status else cdyMem
        let s := match x.done with
          | some a => store .caddy a (leBytes 8 x.value ++ leBytes 8
              (status + sat x.created * 2 ^ 16 + sat x.deleted * 2 ^ 32 + sat x.notCr * 2 ^ 48)) s
          | none => s
        let s := ringDone x.ring (s.onCdy fun d => { d with now := none })
        let s := match s.cdy.waitCmd with | some v => partRun v s | none => s
        if haltOn s .cdy || s.mgt.safe then s.onCdy fun d => { d with halted := true } else s)

/-- The command in progress ends at once with MEM_ERROR, and does nothing else (R417). -/
def cdyCut (s : State) : State :=
  s.onCdy fun d => { d with now := d.now.map fun x =>
    { x with due := s.up, status := cdyMem, created := 0, deleted := 0, notCr := 0, plan := {} } }

/-- CADDY_MEM_ERROR: the word at an address is uncorrectable, and a Caddy at a command boundary meets it in
the reads of its next command: of an entry, or of the command and its inputs (R417). -/
def execCaddyMemError (addr : BitVec 48) (s : State) : Out :=
  .next (
    let s := spoil addr.toNat s
    match nextRing s with
    | some n => cdyStart (cOp (peekNat s (ringCmdAddr s n) 64) == 2) s
    | none => s)

/-! ## HALT (R416) -/

/-- HALT or the safe state: at once when no command runs, else at its end. -/
def cdyHalt (s : State) : State :=
  if s.cdy.now.isNone then s.onCdy fun d => { d with halted := true } else s

/-- One pending command of a ring ends with ABORTED. -/
def abortOne (n : Nat) (s : State) : State :=
  let (r, bs, s) := readMem .caddy (ringCmdAddr s n) 64 s
  let w := leNat bs
  ringDone n (if r = .ok ∧ doneOk w = true then store .caddy (cDone w) (leBytes 8 (fld w 511 448) ++ leBytes 8 cdyAborted) s else s)

/-- HALT is released: what is pending ends with ABORTED, if the HALT had taken effect. -/
def cdyRelease (s : State) : State :=
  if s.cdy.halted then
    let s := s.onCdy fun d => { d with halted := false }
    (List.range 8).foldl (fun s n =>
      if rbit (s.cdyRing n).cfg 31 then
        (List.range (((s.cdyRing n).prod + 65536 - (s.cdyRing n).cons) % 65536)).foldl (fun s _ => abortOne n s) s
      else s) s
  else s

end Sys2Proof.Machine
end

