-- ==== Sys2Proof/Machine/Decoder.lean ====
section
/-! DEFINITION. The video decoders: contexts, input rings, starts, admission by the Strainer, errors,
reports and output queues (chapter 08, R281 to R317, R330, R332). What the standards read in an access
unit and the samples that they give are functions without a body (log entry 8). -/

namespace Sys2Proof.Machine

/-! ## Descriptors and ENABLE (R281, R283) -/

def parseDec (d : Nat) : DecDesc :=
  { codec := fld d 1 0, auto := bitAt d 2, decOrder := bitAt d 3, span := fld d 5 4
    coreMask := fld d 15 8, binBudget := fld d 23 16, concealPct := fld d 30 24, tenBit := bitAt d 31
    maxW := fld d 47 32, maxH := fld d 63 48, ringBase := fld d 111 64, ringLenM1 := fld d 121 112
    bsBase := fld d 175 128, bsLines := fld d 223 192, statusRing := fld d 229 224
    reportAll := bitAt d 230, outqM1 := fld d 235 232, streamId := fld d 255 240
    fbTable := fld d 303 256, fbCount := fld d 308 304, stateBase := fld d 367 320
    consWb := fld d 431 384, wdogTicks := fld d 479 448 }

/-- A reserved field, a range, an alignment or a place outside HBM (R281, R283). -/
def decDescBad (d : Nat) : Bool :=
  let x := parseDec d
  fld d 7 6 != 0 || fld d 127 122 != 0 || fld d 191 176 != 0 || bitAt d 231 || fld d 239 236 != 0 ||
  fld d 319 309 != 0 || fld d 383 368 != 0 || fld d 447 432 != 0 || fld d 511 480 != 0 ||
  x.codec == 3 || (setBits 8 x.coreMask).length < x.span + 1 || x.binBudget < 8 || x.concealPct > 100 ||
  x.maxW < 16 || x.maxW > 8192 || x.maxW % 8 != 0 || x.maxH < 16 || x.maxH > 4352 || x.maxH % 8 != 0 ||
  !inHbm x.ringBase (32 * (x.ringLenM1 + 1)) 64 || x.bsLines == 0 || !inHbm x.bsBase (x.bsLines * 64) 64 ||
  x.fbCount < 3 || x.fbCount > 24 || !inHbm x.fbTable (64 * x.fbCount) 64 || !inHbm x.stateBase 65536 64 ||
  !inHbm x.consWb 8 8 || (x.wdogTicks != 0 && x.wdogTicks < 110000)

/-- Regions that must not overlap (R283). -/
def decRegions (x : DecDesc) (fbs : List Fb) : List (Nat × Nat) :=
  [(x.ringBase, 32 * (x.ringLenM1 + 1)), (x.bsBase, x.bsLines * 64), (x.stateBase, 65536), (x.consWb, 8)] ++
  fbs.flatMap fbRegions

/-- ENABLE of a decode context. -/
def decEnableOp (c : Nat) (s : State) : Nat × State :=
  let (r, bs, s) := readMem .strainer (pairAddr s.dec.tableLo s.dec.tableHi 6 + 64 * c) 64 s
  let d := leNat bs
  let x := parseDec d
  if r ≠ .ok ∨ decDescBad d = true then (badDescriptor, s)
  else
    let (r2, _, s) := readMem .strainer x.fbTable (64 * x.fbCount) s
    let raw := fbRaw s x.fbTable x.fbCount
    let fbs := raw.map parseFb
    if r2 ≠ .ok ∨ (raw.any fun f => fbBad f x.maxW x.maxH 0 x.tenBit) = true then (badFb, s)
    else if meets (decRegions x fbs) then (overlapCode, s)
    else if (s.decCtx c).enabled then (badState, s)
    else
      let s := s.onDecCtx c fun _ => { enabled := true, desc := x, fbs := fbs, waitRap := true }
      (okCode, s.onDec fun e => { e with
        act := updAt e.act c fun _ => BitVec.ofNat 32 (x.coreMask + x.span * 256) })

/-- A context counter in the state area (R284); one never enabled has no area. -/
def decCount (c off : Nat) (s : State) : State :=
  let x := (s.decCtx c).desc
  if x.fbCount = 0 then s else bump32 .strainer (x.stateBase + off) s

/-! ## DISABLE, DISCONTINUITY, RELEASE (R285, R286) -/

/-- DISABLE at a frame boundary: pending entries go without reports, every buffer is released. -/
def decDisabled (x : DecCtx) : DecCtx :=
  { x with enabled := false, wantDis := false, wantDisc := false, heldStart := none, cons := 0, prod := 0
           pos := 0, outq := [], dpbOut := [], refs := [], holds := [], reading := [], surrogate := none }

/-- DISCONTINUITY at a frame boundary (R285): nothing that came before it bears on a later picture (R330). -/
def decDiscont (x : DecCtx) : DecCtx :=
  { x with wantDisc := false, refs := [], refused := 0, waitRap := true, dropRasl := false
           surrogate := none, tainted := false, recover := [], params := [], units := [], seqInfo := none
           dpbOut := x.dpbOut.map fun o => { o with name := none } }

/-- CORE_MASK and SPAN in force (R295), without ABSENT cores (R564): cores and how many are needed. -/
def decCores (s : State) (c : Nat) : List Nat × Nat :=
  let w := s.dec.act.getD c 0
  let l := (setBits 8 (rfld w 7 0)).filter fun n => decState s n != .absent
  (l, min (rfld w 9 8 + 1) l.length)

/-- The lowest-numbered free cores of a context, as many as it needs, when there are enough (R294). -/
def decTakes (s : State) (c : Nat) : Option (List Nat) :=
  let k := decCores s c
  let free := (k.1.filter (decFree s)).take k.2
  if free.length < k.2 ∨ haltOn s .dec = true then none else some free

/-- The picture of a context takes its cores, or waits for them and counts once in CORE_WAIT (R294). -/
def decClaim (c : Nat) (s : State) : State :=
  match (s.decCtx c).pic with
  | none => s
  | some p =>
    if p.cores ≠ [] ∨ p.admitted = true then s
    else match decTakes s c with
      | some cs => (s.onDecCtx c fun x => { x with pic := some { p with cores := cs } }).onDec fun d =>
          { d with busy := claim c cs d.busy }
      | none =>
        if p.waited then s
        else decCount c 0xc (s.onDecCtx c fun x => { x with pic := some { p with waited := true } })

/-- A picture of the context starts, its start delivered at a tick (R292 to R294); none does in the safe
state or under QUIESCE (R581, R585). -/
def decBegin (c tick : Nat) (s : State) : State :=
  if s.mgt.safe || s.mgt.quiesce then s
  else decClaim c (s.onDecCtx c fun x => { x with pic := some { startAt := tick } })

/-- Pending entries of a context (R288). -/
def decPending (x : DecCtx) : Bool := x.cons != x.prod

/-- A start of a PLANNED context with no picture in progress, delivered at a tick when PROD was `prod`: a
picture starts, or the start is late (R292). -/
def decStartNow (c tick prod : Nat) (s : State) : State :=
  if (s.decCtx c).cons != prod then decBegin c tick s else decCount c 4 s

/-- What is pending takes effect, and a held start runs. -/
def decBoundary (c : Nat) (s : State) : State :=
  let x := s.decCtx c
  let s := s.onDecCtx c fun x =>
    if x.wantDis then decDisabled x else if x.wantDisc then decDiscont x else x
  match x.heldStart with
  | some (tick, prod) =>
    if x.wantDis then s else decStartNow c tick prod (s.onDecCtx c fun x => { x with heldStart := none })
  | none => s

def decDisableOp (c : Nat) (s : State) : Nat × State :=
  let x := s.decCtx c
  if !x.enabled then (badState, s)
  else if x.pic.isSome then (okCode, s.onDecCtx c fun x => { x with wantDis := true })
  else (okCode, s.onDecCtx c decDisabled)

def decDiscontOp (c : Nat) (s : State) : Nat × State :=
  let x := s.decCtx c
  if !x.enabled then (badState, s)
  else if x.pic.isSome then (okCode, s.onDecCtx c fun x => { x with wantDisc := true })
  else (okCode, s.onDecCtx c decDiscont)

def decReleaseOp (c slot : Nat) (s : State) : Nat × State :=
  if (s.decCtx c).holds.contains slot then
    (okCode, s.onDecCtx c fun x => { x with holds := x.holds.filter (· != slot) })
  else (badState, s)

/-- A write of DEC_CTX_CMD (R282). -/
def decCmdWrite (v : W32) (s : State) : State :=
  cmdWrite .dec 4 s.dec.cmd v (fun v s =>
    let s := s.onDec fun d => { d with cmd := { d.cmd with cmd := v &&& 0x001f077f#32 } }
    if rbit v 31 then
      let c := rfld v 6 0
      let r := match rfld v 10 8 with
        | 0 => decEnableOp c s
        | 1 => decDisableOp c s
        | 2 => decDiscontOp c s
        | _ => decReleaseOp c (rfld v 20 16) s
      r.2.onDec fun d => { d with cmd := { d.cmd with code := r.1, done := true, ctx := c } }
    else s) s

def execDecEnable (ctx : Fin 128) (s : State) : Out :=
  .next (hostWrite (decCmdWrite (cmdWord 0 ctx.val)) s)
def execDecDisable (ctx : Fin 128) (s : State) : Out :=
  .next (hostWrite (decCmdWrite (cmdWord 1 ctx.val)) s)
def execDiscontinuity (ctx : Fin 128) (s : State) : Out :=
  .next (hostWrite (decCmdWrite (cmdWord 2 ctx.val)) s)
def execRelease (ctx : Fin 128) (slot : Fin 32) (s : State) : Out :=
  .next (hostWrite (decCmdWrite (cmdWord 3 ctx.val ||| BitVec.ofNat 32 (slot.val * 65536))) s)

/-- DEC_FRAME_BOUNDARY_APPLY: a pending DISABLE or DISCONTINUITY takes effect once no picture of the
context is in progress. -/
def execDecFrameBoundaryApply (ctx : Fin 128) (s : State) : Out :=
  .next (
    let x := s.decCtx ctx.val
    if x.pic.isNone && (x.wantDis || x.wantDisc) then decBoundary ctx.val s else s)

/-! ## Input ring and starts (R288, R292, R293) -/

/-- DEC_DOORBELL: a delivered value becomes PROD, unless it overruns the ring. -/
def execDecDoorbell (ctx : Fin 128) (s : State) : Out :=
  .next (match takeDb (256 + ctx.val) s with
    | none => s
    | some (v, s) =>
      let x := s.decCtx ctx.val
      if s.mgt.safe || !x.enabled then s
      else if (v % 65536 + 65536 - x.cons) % 65536 > x.desc.ringLenM1 + 1 then
        raise .dec 1 none ctx.val s
      else s.onDecCtx ctx.val fun x => { x with prod := v % 65536 })

/-- DECODE_START delivered: ignored, held, dropped, late, or a picture starts (R292). -/
def execDecodeStart (ctx : Fin 128) (s : State) : Out :=
  .next (match takeAction s 8 2 (fun a => a.target == ctx.val) with
    | none => s
    | some (_, s) =>
      let c := ctx.val
      let x := s.decCtx c
      if !x.enabled || x.desc.auto then decCount c 0x18 s
      else if x.pic.isSome || x.wantDis || x.wantDisc then
        if x.heldStart.isSome then decCount c 8 s
        else s.onDecCtx c fun x => { x with heldStart := some (s.up, x.prod) }
      else decStartNow c s.up x.prod s)

/-- An AUTO context can start its next entry (R293). -/
def decAutoReady (s : State) (c : Nat) : Bool :=
  let x := s.decCtx c
  x.enabled && x.desc.auto && x.pic.isNone && !x.wantDis && !x.wantDisc && decPending x &&
  (decTakes s c).isSome && !s.mgt.safe && !s.mgt.quiesce

/-- DEC_AUTO_START: of the AUTO contexts that can start, the one that follows the last started one
most closely (R293). -/
def execDecAutoStart (ctx : Fin 128) (s : State) : Out :=
  .next (
    let first := (List.range 128).find? fun i => decAutoReady s ((s.dec.lastAuto + 1 + i) % 128)
    if first.any fun i => (s.dec.lastAuto + 1 + i) % 128 == ctx.val then
      decBegin ctx.val s.up (s.onDec fun d => { d with lastAuto := ctx.val })
    else s)

/-! ## Admission (R287, R290, R291, R299, R302 to R305, R310) -/

def decEntryInvalid : Nat := 1
def decUnsupported : Nat := 2
def decDimLimit : Nat := 3
def decDpbLimit : Nat := 4
def decParam : Nat := 5
def decSyntax : Nat := 6
def decTruncated : Nat := 7
def decSliceMissing : Nat := 8
def decRefMissing : Nat := 9
def decBudgetCode : Nat := 10
def decWatchdogCode : Nat := 11
def decMemError : Nat := 12
def decNoBuffer : Nat := 13
def decCoreFault : Nat := 14

/-- Frame buffers in use (R299). -/
def fbUsed (x : DecCtx) (b : Nat) : Bool :=
  (x.refs.any fun r => r.2 == b) || (x.surrogate.any fun u => u.buf == b) || (x.dpbOut.any fun o => o.buf == b) ||
  (x.outq.any fun o => o.buf == b) || x.holds.contains b || x.reading.contains b

/-- Lowest-numbered free frame buffer. -/
def fbFree (x : DecCtx) : Option Nat := (List.range x.desc.fbCount).find? fun b => !fbUsed x b

/-- Largest luma picture and sides of level 5.1 by codec, and the device limit (R278). -/
def dimBad (codec w h : Nat) : Bool :=
  w > 8192 || h > 4352 ||
  match codec with
  | 0 => cdiv w 16 * cdiv h 16 > 36864 || w > 8688 || h > 8688
  | 1 => w * h > 8912896 || w > 8444 || h > 8444
  | _ => w * h > 8912896

/-- Profile, chroma format and bit depth outside the support table of a codec (R276). -/
def profileBad (codec : Nat) (q : SeqInfo) : Bool :=
  match codec, q.profile with
  | 0, .avcConstrainedBaseline => q.chroma != .c420 || q.bitDepth != 8
  | 0, .avcMain => q.chroma != .c420 || q.bitDepth != 8
  | 0, .avcHigh => q.chroma == .other || q.bitDepth != 8
  | 1, .hevcMain => q.chroma != .c420 || q.bitDepth != 8
  | 1, .hevcMain10 => q.chroma != .c420 || (q.bitDepth != 8 && q.bitDepth != 10)
  | 2, .av1Main => q.chroma == .other || (q.bitDepth != 8 && q.bitDepth != 10)
  | _, _ => true

/-- Tiles beyond the limits of level 5.1 (R278). -/
def tilesBad (codec : Nat) (q : SeqInfo) : Bool :=
  match codec with
  | 0 => false
  | 1 => q.tileRows > 11 || q.tileCols > 10
  | _ => q.tileRows * q.tileCols > 64 || q.tileCols > 16

/-- The stream's need of reference buffers (R303): max_dec_frame_buffering, from MaxDpbMbs when absent, at
most 16 frames; sps_max_dec_pic_buffering_minus1 plus 1; 8 for AV1. -/
def dpbNeed (codec : Nat) (q : SeqInfo) : Nat :=
  match codec with
  | 0 => q.buffering.getD (min 16 (q.maxDpbMbs / (cdiv q.width 16 * cdiv q.height 16)))
  | 1 => q.buffering.getD 0 + 1
  | _ => 8

/-- R303: 0, or the code of the first check that fails. -/
def seqCode (x : DecDesc) (q : SeqInfo) : Nat :=
  if profileBad x.codec q || q.tools != [] || q.level > 51 || (q.bitDepth == 10 && !x.tenBit) then
    decUnsupported
  else if q.width > x.maxW || q.height > x.maxH || dimBad x.codec q.width q.height || tilesBad x.codec q then
    decDimLimit
  else if x.fbCount < dpbNeed x.codec q + 2 then decDpbLimit else 0

/-- An entry's reserved bits are set or its bytes leave the bitstream window (R287, R291). -/
def entryBad (x : DecDesc) (e : Nat) : Bool :=
  let n := fld e 95 64
  fld e 63 48 != 0 || fld e 127 98 != 0 || fld e 255 192 != 0 || n == 0 || n > 16777216 ||
  fld e 47 0 < x.bsBase || fld e 47 0 + n > x.bsBase + x.bsLines * 64

/-- What admission decides for an entry. -/
inductive Admit where
  | picture (buf : Nat)
  | none_ (code : Nat)
  | skip                                   -- discarded before a random-access point (R310)
deriving DecidableEq, Repr

/-- A parameter set received before. -/
def findSet (l : List ParamSet) (r : SetKind × Nat) : Option ParamSet :=
  l.find? fun p => p.kind == r.1 && p.id == r.2

/-- Parameter sets received: each replaces the one of its kind and number (R284, R305). -/
def receiveSets (l new : List ParamSet) : List ParamSet :=
  new.foldl (fun l p => p :: l.filter fun q => q.kind != p.kind || q.id != p.id) l

/-- The sets that a picture refers to, directly or through others: slices name a picture parameter set, that
one a sequence parameter set, that one a video parameter set. -/
def setsUsed (l : List ParamSet) (uses : List (SetKind × Nat)) : List (SetKind × Nat) :=
  let more (u : List (SetKind × Nat)) : List (SetKind × Nat) :=
    u.flatMap fun r => match findSet l r with | some p => p.uses | none => []
  uses ++ more uses ++ more (more uses)

/-- A set was not received, or failed its own syntax checks (R305). -/
def setsBad (l : List ParamSet) (uses : List (SetKind × Nat)) : Bool :=
  (setsUsed l uses).any fun r => !((findSet l r).any (·.ok))

/-- The sequence header that a picture uses. -/
def seqOf (l : List ParamSet) (uses : List (SetKind × Nat)) : Option ParamSet :=
  (setsUsed l uses).findSome? fun r => (findSet l r).filter fun p => p.seq.isSome

/-- Sequence activation, at a random-access picture's sequence parameter set or at an AV1 sequence header
that differs from the active one (R303); a refusal stands until an entry brings a header that passes
on a random-access point (R304). -/
def activate (au : AuInfo) (x : DecCtx) : DecCtx :=
  match seqOf x.params au.uses with
  | none => x
  | some h =>
    let brings := au.sets.any fun p => p.kind == h.kind && p.id == h.id
    let acts := if x.desc.codec = 2 then brings && h.seq != x.seqInfo else au.rap != .none
    match h.seq with
    | none => x
    | some q =>
      let k := seqCode x.desc q
      if x.refused ≠ 0 then
        if brings && k == 0 && au.rap != .none then { x with refused := 0, seqInfo := some q } else x
      else if !acts then x
      else if k = 0 then { x with seqInfo := some q } else { x with refused := k }

/-- Decoding has started or starts with this entry; the RASL pictures of an IRAP picture that starts it go
(R310). -/
def findRap (au : AuInfo) (x : DecCtx) : DecCtx :=
  { x with
    waitRap := x.waitRap && au.rap == .none
    dropRasl := match au.rap with
      | .irap => x.waitRap
      | .idr | .keyFrame => false
      | _ => x.dropRasl }

/-- Admission of an entry that R291 lets pass. -/
def admitAu (coresLeft : Bool) (au : AuInfo) (x : DecCtx) : Admit × DecCtx :=
  if !coresLeft then (.none_ decCoreFault, x)
  else if x.waitRap && au.rap == .none then (.skip, x)
  else
    let x := activate au (findRap au { x with params := receiveSets x.params au.sets })
    if x.refused ≠ 0 then (.none_ x.refused, x)
    else if x.dropRasl && au.rasl then (.skip, x)
    else if setsBad x.params au.uses || x.seqInfo.isNone then (.none_ decParam, x)
    else match fbFree x with
      | none => (.none_ decNoBuffer, x)
      | some b => (.picture b, x)

/-- Codes that set TAINTED: an entry without a picture other than a refusal (R311). -/
def taints (code : Nat) : Bool := code != decUnsupported && code != decDimLimit && code != decDpbLimit

def taint (x : DecCtx) : DecCtx := { x with tainted := true, recover := [] }

/-! ## Partitions (R306, R316) -/

/-- Coding block address (R316). -/
def blockAddr (b : Nat × Nat) : Nat := b.1 % 65536 + b.2 % 65536 * 65536

def noBlock : Nat := 0xffffffff

/-- Luma samples of a block that lie in the picture. -/
def blockArea (q : SeqInfo) (b : Nat × Nat) : Nat :=
  (min q.width (b.1 + max 1 q.block) - b.1) * (min q.height (b.2 + max 1 q.block) - b.2)

def posOf (b : Block) : Nat × Nat := (b.x, b.y)

/-- Partitions that are decoded, and the block of each one discarded because it covers blocks of an earlier
one (R316). -/
def keepParts (l : List (List Block)) : List (List Block) × List (Nat × Nat) :=
  (l.filter (· != [])).foldl (fun (kept, bad) p =>
    match p.find? fun b => kept.any fun k => k.any fun d => posOf d == posOf b with
    | some b => (kept, bad ++ [posOf b])
    | none => (kept ++ [p], bad)) ([], [])

def partsOf (au : AuInfo) : List (List Block) := (keepParts au.parts).1

/-- Blocks of the picture in bitstream order. -/
def blocksOf (au : AuInfo) : List Block := (partsOf au).flatten

/-- Luma samples of each partition. -/
def partSizes (q : SeqInfo) (au : AuInfo) : List Nat :=
  (partsOf au).map fun p => (p.map fun b => blockArea q (posOf b)).sum

/-- Division of a picture's partitions over the cores it takes (R306). -/
def decOwners (q : SeqInfo) (au : AuInfo) (k : Nat) : List Nat :=
  if au.wavefront then ownersRows k (partSizes q au) else ownersOver k (partSizes q au)

/-- Luma samples S_i of the core at place `k` of a picture (R307). -/
def shareOf (q : SeqInfo) (p : DecPic) (k : Nat) : Nat := (ownedBy k p.owners (partSizes q p.au)).sum

/-- Blocks of the core at place `k`, in its order. -/
def coreBlocks (p : DecPic) (k : Nat) : List Block := (ownedBy k p.owners (partsOf p.au)).flatten

/-- Blocks of a list from a block address on. -/
def blocksFrom (addr : Nat) (l : List Block) : List (Nat × Nat) :=
  (l.dropWhile fun b => blockAddr (posOf b) != addr).map posOf

/-- Take the next entry: PIC_COUNT, ring position (R288, R290), DISCONTINUITY (R287), admission, division.
The PIC_COUNT counter and the parameter sets lie in the state area (R284); a block that an unreadable
word of it concerns is concealed (R316). -/
def takeEntry (c : Nat) (read : Nat → List (List Byte × List (Nat × Nat)) → AuInfo) (p : DecPic) (s : State) :
    State :=
  let x := s.decCtx c
  let (r, bs, s) := readMem .strainer (x.desc.ringBase + 32 * x.pos) 32 s
  let e := leNat bs
  let n := peekNat s x.desc.stateBase 4
  let s := storeNat .strainer x.desc.stateBase 4 ((n + 1) % 2 ^ 32) s
  let s := s.onStr fun t => { t with admitted := (t.admitted + 1) % 2 ^ 32 }
  let x := { x with pos := if x.pos ≥ x.desc.ringLenM1 then 0 else x.pos + 1 }
  let x := if r = .ok ∧ bitAt e 96 = true then decDiscont x else x
  let bad : Bool := r != .ok || entryBad x.desc e
  let x := if bad then x else { x with units := x.units ++ [(peek s (fld e 47 0) (fld e 95 64), [])] }
  let au := if bad then default else read x.desc.codec x.units
  let p := { p with picCount := n, pts := fld e 191 128, admitted := true, data := (fld e 47 0, fld e 95 64)
                    eos := bitAt e 97, au := au, tookAt := s.up }
  let a : Admit × DecCtx :=
    if r ≠ .ok then (.none_ decMemError, x)
    else if bad then (.none_ decEntryInvalid, x)
    else admitAu ((decCores s c).2 != 0) au x
  match a.1 with
  | .picture b =>
    let cs := if (partsOf au).length ≤ 1 then p.cores.take 1 else p.cores
    let own := match a.2.seqInfo with | some q => decOwners q au cs.length | none => []
    let (f, _, s) := readMem .strainer x.desc.stateBase 65536 s
    let (v, s) := s.takeFree
    let hit := ((blocksOf au)[v.toNat % max 1 (blocksOf au).length]?).map posOf
    let cut : DecCut := { code := decMemError, addr := (hit.map blockAddr).getD noBlock, blocks := hit.toList }
    let s := s.onDecCtx c fun _ =>
      { a.2 with pic := some { p with buf := some b, cores := cs, owners := own
                                      errs := if f = .ok then [] else [cut] } }
    s.onDec fun d => { d with busy := claim c cs (freeCores c d.busy) }
  | .none_ k =>
    let s := s.onDecCtx c fun _ =>
      { (if taints k then taint a.2 else a.2) with pic := some { p with code := k } }
    if k ≤ decParam ∨ k = decNoBuffer then s.onStr fun t => { t with refused := satInc 0xffffffff t.refused }
    else s
  | .skip =>
    decCount c 0x14 (s.onDecCtx c fun _ => { taint a.2 with pic := some p })

/-- DEC_PICTURE_START: a picture that waits takes its cores (R294); the Strainer admits the entry of a
picture that has them. -/
def execDecPictureStart (ctx : Fin 128) (s : State) : Out :=
  .next (
    let c := ctx.val
    let s := decClaim c s
    match (s.decCtx c).pic with
    | none => s
    | some p =>
      if p.admitted then s
      else if p.cores = [] ∧ (decCores s c).2 ≠ 0 then s
      else takeEntry c Config.readUnit p s)

/-- Blocks that an unreadable range of the access unit's bytes takes data from: of each partition the first
one, with the rest of that partition (R316). -/
def bytesCut (au : AuInfo) (lo hi : Nat) : List (Nat × Nat) :=
  (partsOf au).flatMap fun p =>
    ((p.zip ((p.drop 1).map (·.off) ++ [hi])).dropWhile fun b => !(b.1.off < hi && lo < max (b.1.off + 1) b.2)).map
      fun b => posOf b.1

/-- The error that unreadable bytes of an access unit are: the first block concerned, in bitstream order. -/
def dataCut (au : AuInfo) (lo hi : Nat) : DecCut :=
  let l := bytesCut au lo hi
  { code := decMemError, addr := (l.head?.map blockAddr).getD noBlock, blocks := l }

/-- Lines of the access unit that cannot be read, as byte ranges of it. -/
def badLines (s : State) (a n : Nat) : List (Nat × Nat) :=
  ((lineStarts a n).filter fun l => badAt s l (min (l / 64 * 64 + 64) (a + n) - l)).map fun l =>
    (l - a, min (l / 64 * 64 + 64) (a + n) - a)

/-- DEC_ENTRY_CONSUMED: the bytes are read, CONS passes the entry and is written back (R289). Each line of
them that cannot be read is a DEC_MEM_ERROR (R316). -/
def execDecEntryConsumed (ctx : Fin 128) (s : State) : Out :=
  .next (
    let c := ctx.val
    let x := s.decCtx c
    match x.pic with
    | none => s
    | some p =>
      if p.admitted && !p.consumed then
        let cuts := if p.buf.isNone then [] else
          (badLines s p.data.1 p.data.2).map fun l => dataCut p.au l.1 l.2
        let s := if p.buf.isNone then s
          else (readMem (decSrc (p.cores.headD 0)) p.data.1 p.data.2 s).2.2
        let k := (x.cons + 1) % 65536
        storeNat .strainer x.desc.consWb 8 k
          (s.onDecCtx c fun x =>
            { x with cons := k, pic := some { p with consumed := true, errs := p.errs ++ cuts } })
      else s)

/-! ## Budget and watchdog (R308, R309) -/

/-- The core's bins that its budget allows (R308). -/
def binLimit (x : DecDesc) (q : SeqInfo) (p : DecPic) (k : Nat) : Nat := cdiv (x.binBudget * shareOf q p k) 8

/-- The block at which a list of blocks reaches a bin count. -/
def blockAtBins (lim : Nat) : Nat → List Block → Option Block
  | _, [] => none
  | n, b :: r => if lim ≤ n + b.bins then some b else blockAtBins lim (n + b.bins) r

/-- The block at which the core at place `k` runs out of its budget. -/
def budgetBlock (x : DecDesc) (q : SeqInfo) (p : DecPic) (k : Nat) : Option Block :=
  blockAtBins (binLimit x q p k) 0 (coreBlocks p k)

/-- Place of a core that decodes for a picture and has not stopped. -/
def workAt (p : DecPic) (core : Nat) : Option Nat :=
  (p.cores.findIdx? (· == core)).filter fun k => p.admitted && p.buf.isSome && !p.stopped.any (·.1 == k)

/-- A core stops: its remaining blocks from an address on are concealed, with a code. -/
def cutCore (code core k bins addr : Nat) (p : DecPic) : DecPic :=
  { p with
    errs := p.errs ++ [{ code := code, addr := addr, core := some core, blocks := blocksFrom addr (coreBlocks p k) }]
    stopped := p.stopped ++ [(k, bins)] }

/-- DEC_BUDGET: a core's bins reach BIN_BUDGET × S_i / 8: it stops parsing at that block. -/
def execDecBudget (ctx : Fin 128) (core : Fin 8) (s : State) : Out :=
  .next (
    let c := ctx.val
    let x := s.decCtx c
    match x.pic, x.seqInfo with
    | some p, some q =>
      match workAt p core.val with
      | some k =>
        match budgetBlock x.desc q p k with
        | some b =>
          let p := cutCore decBudgetCode core.val k (binLimit x.desc q p k) (blockAddr (posOf b)) p
          s.onDecCtx c fun y => { y with pic := some p }
        | none => s
      | none => s
    | _, _ => s)

/-- WDOG_TICKS in force (R281). -/
def wdogOf (x : DecDesc) : Nat := if x.wdogTicks = 0 then 1100000 else x.wdogTicks

/-- DEC_WATCHDOG: a core that completed a number of its blocks, the last one at tick `last`, completes none
for WDOG_TICKS: it is reset, the rest of its partitions is concealed, and its known-answer check
begins (R309, R545). -/
def execDecWatchdog (ctx : Fin 128) (core : Fin 8) (blocks last : Nat) (s : State) : Out :=
  .next (
    let c := ctx.val
    let x := s.decCtx c
    match x.pic with
    | none => s
    | some p =>
      match workAt p core.val with
      | none => s
      | some k =>
        match (coreBlocks p k)[blocks]? with
        | none => s
        | some b =>
          if p.tookAt ≤ last ∧ last + wdogOf x.desc = s.up ∧ (s.dec.kat.getD core.val none).isNone = true then
            let bins := (((coreBlocks p k).take blocks).map (·.bins)).sum
            let s := s.onDecCtx c fun x =>
              { x with pic := some (cutCore decWatchdogCode core.val k bins (blockAddr (posOf b)) p) }
            let s := s.onDec fun d =>
              { d with kat := updAt d.kat core.val fun _ => some (s.up + 2200000) }
            raise .dec 8 none (srcUnit s (decSrc core.val)) s
          else s)

/-! ## Concealment and errors (R313 to R316) -/

/-- Mid-grey of a bit depth (R298, R313). -/
def midGrey (depth : Nat) : Nat := 2 ^ (depth - 1)

/-- The surrogate of R313: the most recent picture when its size and depth are the picture's. -/
def surrogateFb (x : DecCtx) (q : SeqInfo) : Option Fb :=
  match x.surrogate with
  | some u => if u.w = q.width ∧ u.h = q.height ∧ u.depth = q.bitDepth then x.fbs[u.buf]? else none
  | none => none

/-- The frame buffer that holds a named reference (R314). -/
def refFb (x : DecCtx) (name : Nat) : Option Fb :=
  (x.refs.find? fun r => r.1 == name).bind fun r => x.fbs[r.2]?

/-- References that the lists name and the decoder does not hold (R314). -/
def missingRefs (x : DecCtx) (au : AuInfo) : List Nat := au.lists.filter fun n => (refFb x n).isNone

/-- Blocks of the picture's grid that no partition covers (R316). -/
def uncovered (q : SeqInfo) (au : AuInfo) : List (Nat × Nat) :=
  let b := max 1 q.block
  let l := (blocksOf au).map posOf
  ((List.range (cdiv q.height b)).flatMap fun y => (List.range (cdiv q.width b)).map fun x => (x * b, y * b)).filter
    fun p => !l.contains p

/-- A code that parsing found, with what it conceals: the rest of the partition, or every block without
data. -/
def parseCut (au : AuInfo) (e : DecErr) : List DecCut :=
  if e.code = decSyntax then
    [{ code := decSyntax, addr := e.addr
       blocks := ((partsOf au).map (blocksFrom e.addr)).flatten }]
  else if e.code = decTruncated then
    [{ code := decTruncated, addr := e.addr, blocks := blocksFrom e.addr (blocksOf au) }]
  else []

/-- What parsing and coverage conceal (R316). -/
def syntaxCuts (q : SeqInfo) (au : AuInfo) : List DecCut :=
  (au.errs.flatMap (parseCut au)) ++
  ((keepParts au.parts).2.map fun b => { code := decSyntax, addr := blockAddr b }) ++
  match uncovered q au with
  | [] => []
  | b :: r => [{ code := decSliceMissing, addr := blockAddr b, blocks := b :: r }]

/-- Blocks that a list of errors conceals. -/
def cutBlocks (l : List DecCut) : List (Nat × Nat) := (l.flatMap (·.blocks)).eraseDups

/-- Ranges that a block's prediction reads: of the reference, or of the surrogate in its place. -/
def readRanges (x : DecCtx) (q : SeqInfo) (r : RefRead) : List (Nat × Nat) :=
  match refFb x r.name with
  | some f => fbRanges f r.x r.y r.w r.h ++ [(f.mvBase + r.mv.1, r.mv.2)]
  | none => match surrogateFb x q with
    | some f => fbRanges f r.x r.y r.w r.h
    | none => []

/-- Reads of references by the blocks that are decoded: each block with an unreadable word is a
DEC_MEM_ERROR (R316). -/
def refErrors (x : DecCtx) (q : SeqInfo) (src : Src) (rs : List RefRead) (s : State) : List DecCut × State :=
  rs.foldl (fun (l, s) r =>
    let (bad, s) := readsFail src (readRanges x q r) s
    (if bad then l ++ [{ code := decMemError, addr := blockAddr r.block, blocks := [r.block] }] else l, s)) ([], s)

/-- Reads of the surrogate for the blocks that are concealed. -/
def surErrors (x : DecCtx) (q : SeqInfo) (src : Src) (bs : List (Nat × Nat)) (s : State) : List DecCut × State :=
  match surrogateFb x q with
  | none => ([], s)
  | some f => bs.foldl (fun (l, s) b =>
      let (bad, s) := readsFail src (fbRanges f b.1 b.2 (min q.width (b.1 + q.block) - b.1)
        (min q.height (b.2 + q.block) - b.2)) s
      (if bad then l ++ [{ code := decMemError, addr := blockAddr b, blocks := [b] }] else l, s)) ([], s)

/-- Place of a block address in bitstream order; one that no partition holds comes after all. -/
def decodePlace (au : AuInfo) (addr : Nat) : Nat :=
  ((blocksOf au).findIdx? fun b => blockAddr (posOf b) == addr).getD (blocksOf au).length

/-- What became of a picture: its errors in decode order, the blocks copied from the surrogate, those among
them whose copy could not be read, and those decoded from it (R313, R314, R316). -/
structure DecEnd where
  errs      : List DecCut
  copied    : List (Nat × Nat)
  lost      : List (Nat × Nat)
  predicted : List (Nat × Nat)
deriving DecidableEq, Repr

/-- DEC_REF_MISSING: a reference is missing; the first block predicted from the surrogate (R314). -/
def missingCut (x : DecCtx) (au : AuInfo) (predicted : List (Nat × Nat)) : List DecCut :=
  if missingRefs x au = [] then []
  else [{ code := decRefMissing, addr := (predicted.head?.map blockAddr).getD noBlock }]

/-- The errors and the concealment of a picture at its end. -/
def pictureEnd (x : DecCtx) (q : SeqInfo) (p : DecPic) (s : State) : DecEnd × State :=
  let au := p.au
  let src := decSrc (p.cores.headD 0)
  let cuts := syntaxCuts q au ++ p.errs
  let (re, s) := refErrors x q src (au.reads.filter fun r => !(cutBlocks cuts).contains r.block) s
  let copied := cutBlocks (cuts ++ re)
  let predicted := ((au.reads.filter fun r =>
    (missingRefs x au).contains r.name && !copied.contains r.block).map (·.block)).eraseDups
  let (se, s) := surErrors x q src copied s
  let all := cuts ++ re ++ missingCut x au predicted ++ se
  ({ errs := all.insertionSort (fun a b => decodePlace au a.addr ≤ decodePlace au b.addr)
     copied := copied, lost := cutBlocks se, predicted := predicted }, s)

/-! ## The end of a picture (R298, R300, R311 to R317, R330) -/

/-- The block of the grid that holds a luma position. -/
def blockOf (q : SeqInfo) (x y : Nat) : Nat × Nat :=
  (x / max 1 q.block * max 1 q.block, y / max 1 q.block * max 1 q.block)

/-- The samples of the pictures that the reference lists name, a missing one's from the surrogate (R314). -/
def refSamples (s : State) (x : DecCtx) (q : SeqInfo) (au : AuInfo) : List (Nat × List Nat) :=
  au.lists.map fun n =>
    (n, match (refFb x n).orElse fun _ => surrogateFb x q with
      | some f => fbSamples s f q.width q.height
      | none => List.replicate (q.width * q.height + 2 * cdiv q.width 2 * cdiv q.height 2) (midGrey q.bitDepth))

/-- A sample of the picture as stored: the standard's, or copied from the surrogate (R313, R330). -/
def picSample (s : State) (x : DecCtx) (q : SeqInfo) (au : AuInfo) (d : DecEnd) (plane px py : Nat) : Nat :=
  let blk := if plane = 0 then blockOf q px py else blockOf q (2 * px) (2 * py)
  if d.copied.contains blk then
    match surrogateFb x q with
    | some f =>
      if d.lost.contains blk then Config.lostSample (f.yBase + plane * 2 ^ 48 + py * f.pitch + px) % 2 ^ q.bitDepth
      else if plane = 0 then lumaAt s f px py else chromaAt s f (plane - 1) px py
    | none => midGrey q.bitDepth
  else if q.chroma = .mono ∧ plane ≠ 0 then midGrey q.bitDepth
  else Config.decSample x.desc.codec x.units (refSamples s x q au) d.copied plane px py % 2 ^ q.bitDepth

/-- The motion store of a picture: 16 bytes for each 16 × 16 luma samples of the buffer, cleared where a
block is concealed (R296, R313). -/
def picMotion (x : DecCtx) (q : SeqInfo) (f : Fb) (d : DecEnd) : List Byte :=
  let cols := cdiv f.fbW 16
  (List.range (cols * cdiv f.fbH 16)).flatMap fun k =>
    (List.range 16).map fun i =>
      if d.copied.contains (blockOf q (k % max 1 cols * 16) (k / max 1 cols * 16)) then 0
      else Config.decMotion x.desc.codec x.units (16 * k + i)

/-- Luma samples concealed: copied, or decoded from the surrogate (R314, R317). -/
def concealedOf (q : SeqInfo) (d : DecEnd) : Nat :=
  (((d.copied ++ d.predicted).eraseDups).map (blockArea q)).sum

/-- A picture is the recovery point that a target names: the reference picture with that frame_num, the
picture with that order count (R312). -/
def reaches (codec : Nat) (q : SeqInfo) (au : AuInfo) (t : Int) : Bool :=
  match codec with
  | 0 => au.isRef && au.order == t % q.maxFrameNum
  | 1 => au.order == t
  | _ => false

/-- TAINTED after a decoded picture (R311, R312). -/
def taintAfter (q : SeqInfo) (au : AuInfo) (concealed : Nat) (x : DecCtx) : DecCtx :=
  if concealed ≠ 0 then taint x
  else if !x.tainted then x
  else
    match au.rap with
    | .idr | .irap | .keyFrame => { x with tainted := false, recover := [] }
    | _ =>
      let l := x.recover ++ match au.rap with | .recovery n => [au.order + n] | _ => []
      if l.any (reaches x.desc.codec q au) then { x with tainted := false, recover := [] }
      else { x with recover := l }

/-- Put a picture into the output queue; a full one drops its oldest (R300): the queue and whether it
dropped. -/
def outPush (x : DecCtx) (o : OutPic) : DecCtx × Bool :=
  if x.outq.length > x.desc.outqM1 then ({ x with outq := x.outq.tail ++ [o] }, true)
  else ({ x with outq := x.outq ++ [o] }, false)

/-- Output the listed pictures in order. -/
def outputAll (c : Nat) (l : List OutPic) (s : State) : State :=
  l.foldl (fun s o =>
    let r := outPush (s.decCtx c) o
    let s := s.onDecCtx c fun _ => r.1
    if r.2 then decCount c 0x10 s else s) s

/-- Bins decoded for a picture: of a core that stopped, up to there (R308, R317). -/
def binsOf (p : DecPic) : Nat :=
  ((List.range p.cores.length).map fun k =>
    match p.stopped.find? fun r => r.1 == k with
    | some r => r.2
    | none => ((coreBlocks p k).map (·.bins)).sum).sum

/-- The last block decoded from data, in bitstream order (R317). -/
def lastBlock (p : DecPic) (d : DecEnd) : Nat :=
  ((((blocksOf p.au).map posOf).filter fun b => !d.copied.contains b).getLast?.map blockAddr).getD noBlock

/-- The body of a decode report (R317). -/
def decReport (c : Nat) (x : DecCtx) (p : DecPic) (d : DecEnd) (concealed : Nat) (con cor : Bool)
    (cores up : Nat) : List Byte :=
  let first := if p.code ≠ 0 then p.code else (d.errs.head?.map (·.code)).getD 0
  let addr := if p.code ≠ 0 then noBlock else (d.errs.head?.map (·.addr)).getD noBlock
  let mask := ((List.range 16).filter fun k => k != 0 && (k == p.code || d.errs.any fun e => e.code == k)).map (2 ^ ·)
  leBytes 4 p.picCount ++ leBytes 4 (c + first * 256 + mask.sum * 65536) ++ leBytes 8 p.pts ++
  leBytes 4 addr ++ leBytes 4 (if p.buf.isSome then lastBlock p d else noBlock) ++ leBytes 4 concealed ++
  leBytes 4 (p.buf.getD 31 + 32 * b2n con + 64 * b2n cor + cores * 256 + x.desc.streamId * 65536) ++
  leBytes 4 (min 0xffffffff (if p.buf.isSome then binsOf p else 0)) ++
  leBytes 4 (min 0xffffffff (up - p.startAt)) ++ List.replicate 8 0

/-- The report point of an entry: the account (R441), and the report when R317 asks for one. -/
def sendReport (c : Nat) (p : DecPic) (d : DecEnd) (concealed : Nat) (con cor : Bool) (s : State) : State :=
  let x := s.decCtx c
  let s := account .strainer (32 * (256 + c) + 16) ((s.up - p.startAt) * p.cores.length) s
  if x.desc.reportAll || p.code != 0 || d.errs != [] then
    let (v, s) := s.takeFree
    let cores := if p.buf.isNone then v.toNat % 8 else p.cores.length - 1
    handOff whoDec x.desc.statusRing false
      (recHead p.picCount 5 0 x.desc.streamId 0 con false false s.now ++
       decReport c x p d concealed con cor cores s.up) s
  else s

/-- The end of an entry without a picture. -/
def endEmpty (c : Nat) (p : DecPic) (s : State) : State :=
  let s := sendReport c p { errs := [], copied := [], lost := [], predicted := [] } 0 (s.decCtx c).tainted false s
  let waiting := (s.decCtx c).dpbOut
  if p.eos then outputAll c waiting (s.onDecCtx c fun x => { x with dpbOut := [] }) else s

/-- Which pictures are output with one that is decoded, and which go on waiting: those from before a restart
first, then in the order that OUT_ORDER selects (R287, R300). -/
def outputsOf (x : DecCtx) (p : DecPic) (o : OutPic) : List OutPic × List OutPic :=
  let old := x.dpbOut.filter fun o => o.name.isNone
  let all := x.dpbOut ++ [o]
  let pick (l : List Nat) : List OutPic := l.filterMap fun k => all.find? (·.name == some k)
  let later := p.au.waits.filter fun k => !p.au.outs.contains k
  if x.desc.decOrder then
    (old ++ if (p.au.outs ++ p.au.waits).any fun k => o.name == some k then [o] else [], [])
  else if p.eos then (old ++ pick (p.au.outs ++ later), [])
  else (old ++ pick p.au.outs, pick later)

/-- The end of a decoded picture: samples, flags, report, output (R298 to R300, R311 to R317). -/
def endPicture (c b : Nat) (p : DecPic) (q : SeqInfo) (s : State) : State :=
  let x := s.decCtx c
  let (d, s) := pictureEnd x q p s
  let f := x.fbs.getD b {}
  let rows := pictureRows f q.width q.height (picSample s x q p.au d 0) (fun k => picSample s x q p.au d (k + 1)) ++
    [(f.mvBase, (picMotion x q f d).take (f.mvLines * 64))]
  let (r, s) := writeAll (decSrc (p.cores.headD 0)) rows s
  let d := if r = .ok then d
    else { d with errs := d.errs ++ [{ code := decMemError, addr := noBlock }] }
  let concealed := concealedOf q d
  let pct := if x.desc.concealPct = 0 then 25 else x.desc.concealPct
  let cor : Bool := concealed * 100 > pct * (q.width * q.height)
  let name := x.units.length - 1
  let s := s.onDecCtx c fun x =>
    { taintAfter q p.au concealed x with
      surrogate := some { buf := b, w := q.width, h := q.height, depth := q.bitDepth }
      refs := (x.refs ++ [(name, b)]).filter fun r => p.au.keeps.contains r.1
      units := updAt x.units name fun u => (u.1, d.copied) }
  let con := (s.decCtx c).tainted
  let s := sendReport c p d concealed con cor s
  let o : OutPic := { buf := b, picCount := p.picCount, pts := p.pts, width := q.width, height := q.height
                      crop := p.au.crop, bitDepth := q.bitDepth, concealed := con, corrupt := cor
                      name := some name }
  let l := outputsOf (s.decCtx c) p o
  outputAll c l.1 (s.onDecCtx c fun x => { x with dpbOut := l.2 })

/-- Nothing of an admitted entry is left to do but its end: its bytes are read, and each core of its picture
has stopped or stays within its budget, with no known-answer check of it in progress (R308, R332). -/
def decReady (s : State) (x : DecCtx) (p : DecPic) : Bool :=
  p.admitted && p.consumed &&
  match p.buf, x.seqInfo with
  | some _, some q => (List.range p.cores.length).all fun k =>
      (p.stopped.any (·.1 == k) || (budgetBlock x.desc q p k).isNone) &&
      (s.dec.kat.getD (p.cores.getD k 0) none).isNone
  | _, _ => true

/-- DEC_PICTURE_DONE: the last write of an entry's picture is complete. -/
def execDecPictureDone (ctx : Fin 128) (s : State) : Out :=
  .next (
    let c := ctx.val
    let x := s.decCtx c
    match x.pic with
    | none => s
    | some p =>
      if decReady s x p then
        let s := match p.buf, x.seqInfo with
          | some b, some q => endPicture c b p q s
          | _, _ => endEmpty c p s
        let s := s.onDec fun d => { d with busy := freeCores c d.busy }
        let s := s.onDecCtx c fun x => { x with pic := none }
        if x.wantDis || x.wantDisc then s else decBoundary c s
      else s)

end Sys2Proof.Machine
end

