-- ==== Sys2Proof/Machine/HostIf.lean ====
section
/-! DEFINITION. The host interface: BAR0 and BAR2 accesses, translation windows, doorbells, MSI-X
messages (R498 to R512, R520 to R523, R530). -/

namespace Sys2Proof.Machine

/-! ## Pages of BAR0 (R603) -/

/-- The page that a BAR0 offset lies in, with the offset inside the page. -/
def pageOf (off : Nat) : Option (Page × Nat) :=
  let o := off % 4096
  let one (p : Page) : Option (Page × Nat) := some (p, o)
  match off / 4096 with
  | 0 => one .mgt | 1 => one .sec | 2 => one .ktl | 3 => one .hif | 4 => one .mesh | 5 => one .hbm
  | 0x180 => one .dec | 0x1a0 => one .enc | 0x1c0 => one .str
  | 0x200 => one .cdy | 0x210 => one .spt | 0x300 => one .bist | 0x301 => one .fuse
  | k =>
    if 0x100 ≤ k ∧ k < 0x118 then one (.core (Fin.ofNat 24 (k - 0x100)))
    else if 0x140 ≤ k ∧ k < 0x147 then one (.clu (Fin.ofNat 7 (k - 0x140)))
    else if 0x1d0 ≤ k ∧ k < 0x1d4 then one (.scl (Fin.ofNat 4 (k - 0x1d0)))
    else if 0x1e0 ≤ k ∧ k < 0x1e8 then one (.csi (Fin.ofNat 8 (k - 0x1e0)))
    else none

/-- Offsets of the doorbell region (R510). -/
def doorbellBase : Nat := 0x1000000

/-! ## BAR0 accesses that R502 and R503 treat apart -/

/-- Size and alignment that R502 accepts. -/
def sizeOk (off size : Nat) : Bool := (size == 4 && off % 4 == 0) || (size == 8 && off % 8 == 0)

/-- BAR0_ACCESS_INVALID: a wrong size or alignment is discarded, or a read completes with Completer
Abort; at an offset without a page a read gives 0. Both are logged. An access that R502 accepts is none
of these. -/
def execBar0AccessInvalid (write : Bool) (off size : Nat) (s : State) : Out :=
  .next (hostRead (fun s =>
    if !sizeOk off size then
      raiseTlp 8 (if write then s else { s.issue (.cpl .ca []) with resp := [] })
    else if (pageOf off).isNone && off < doorbellBase then
      raiseTlp 8 (if write then s else { s with resp := List.replicate size 0 })
    else s) s)

/-- BAR0_TIMEOUT: a page other than MGT has not answered within 2 µs, or the management controller has not
served a firmware register of MGT within 800 ns (R584); the read completes with 0xFFFF_FFFE. -/
def execBar0Timeout (off : Nat) (s : State) : Out :=
  .next (hostRead (fun s =>
    match pageOf off with
    | some (.mgt, o) => if 0x800 ≤ o then s.answer 0xfffffffe#32 else s
    | some _ => raiseTlp 9 (s.answer 0xfffffffe#32)
    | none => s) s)

/-! ## Translation windows (R505, R506) -/

def winOn (w : Win) : Bool := rbit w.cfg 0
def winWr (w : Win) : Bool := rbit w.cfg 1
def winLog (w : W32) : Nat := rfld w 7 2
def winOff (w : W32) : Nat := rfld w 30 16 * 2 ^ 21
def winTgt (w : Win) : Nat := rfld w.tgtLo 31 21 * 2 ^ 21 + rfld w.tgtHi 15 0 * 2 ^ 32

def State.win (s : State) (w : Nat) : Win := s.hif.wins.getD w {}
def State.onWin (w : Nat) (f : Win → Win) (s : State) : State :=
  s.onHif fun h => { h with wins := updAt h.wins w f }

/-- The checks of a write that sets EN (R506). -/
def winOk (s : State) (w : Nat) (v : W32) : Bool :=
  let n := winLog v
  let o := winOff v
  21 ≤ n && n ≤ 36 && o % 2 ^ n == 0 && winTgt (s.win w) % 2 ^ n == 0 && o + 2 ^ n ≤ 2 ^ 36 &&
  (List.range 64).all fun k => k == w || !winOn (s.win k) ||
    !overlaps o (2 ^ n) (winOff (s.win k).cfg) (2 ^ winLog (s.win k).cfg)

/-- A write of HIF_WIN_CFGw: while EN is 1 only a write of EN = 0 is taken. -/
def winCfgWrite (w : Nat) (v : W32) (s : State) : State :=
  if winOn (s.win w) && rbit v 0 then invalidProg .hif s
  else
    let bad := rbit v 0 && !winOk s w v
    let v := v &&& 0x7fff00ff#32
    let s := s.onWin w fun x => { x with cfg := if bad then v &&& ~~~1#32 else v }
    if bad then invalidProg .hif s else s

def execHifWinCfgWrite (w : Fin 64) (v : W32) (s : State) : Out :=
  .next (hostWrite (winCfgWrite w.val v) s)

/-- A write of HIF_WIN_TGT_LOw or _HIw: discarded while EN is 1. -/
def winTgtWrite (w : Nat) (hi : Bool) (v : W32) (s : State) : State :=
  if winOn (s.win w) then invalidProg .hif s
  else s.onWin w fun x =>
    if hi then { x with tgtHi := v &&& 0xffff#32 } else { x with tgtLo := v &&& 0xffe00000#32 }

/-- The enabled window that covers a range of BAR2 wholly, with the device address it gives. -/
def winFor (s : State) (off len : Nat) : Option (Win × Nat) :=
  (s.hif.wins.find? fun w =>
    winOn w && winOff w.cfg ≤ off && off + len ≤ winOff w.cfg + 2 ^ winLog w.cfg).map
    fun w => (w, winTgt w + (off - winOff w.cfg))

/-! ## Doorbells (R510 to R512) -/

def State.onDb (d : Nat) (f : Doorbell → Doorbell) (s : State) : State :=
  s.onHif fun h => { h with doorbells := updAt h.doorbells d f }

/-- Deliver a value to a doorbell's target. -/
def deliverDb (d v : Nat) (s : State) : State :=
  let s := s.onDb d fun _ => { last := some s.up, pending := none }
  s.onHif fun h => { h with dbOut := h.dbOut ++ [(d, if d < 256 then v else v % 65536)] }

/-- Merge two values of a doorbell (R512). -/
def mergeDb (d old new : Nat) : Nat := if d < 256 then old ||| new else new

/-- A doorbell write takes effect: delivered, or merged within MIN_GAP of the last delivery. -/
def ringDb (d v : Nat) (s : State) : State :=
  let x := s.doorbell d
  let soon : Bool := match x.last with | some t => s.up < t + s.hif.minGap | none => false
  if s.hif.minGap ≠ 0 ∧ (soon = true ∨ x.pending.isSome = true) then
    let first := s.hif.stormBeat != some s.beat
    let s := s.onDb d fun x =>
      { x with pending := some (match x.pending with | some o => mergeDb d o v | none => v) }
    let s := s.onHif fun h =>
      { h with coalesced := satInc 65535 h.coalesced, stormBeat := some s.beat }
    if first then setInt .hif 8 s else s
  else deliverDb d (match x.pending with | some o => mergeDb d o v | none => v) s

/-- The doorbell of an offset in the region; none at a reserved one. -/
def dbOf (o : Nat) : Option Nat :=
  if o < 0x800 then some (o / 8)
  else if o < 0xc00 then some (256 + (o - 0x800) / 8)
  else if o < 0xc40 then some (384 + (o - 0xc00) / 8)
  else none

/-- An earlier BAR2 write is not complete yet. -/
def writeWaits (l : List Reissue) : Bool :=
  l.any fun r => match r.what with | .write _ _ => true | _ => false

/-- A write to the doorbell region: 4 bytes to either half, or 8 bytes as one delivery; it takes effect
after every earlier BAR2 write (R509, R510). -/
def doorbellOp (o : Nat) (size8 : Bool) (v : Nat) (s : State) : State :=
  if !sizeOk o (if size8 then 8 else 4) then raiseTlp 8 s
  else
    match dbOf (o - doorbellBase) with
    | none => raiseTlp 12 s
    | some d =>
      let val := if size8 then v else if o % 8 = 0 then v % 2 ^ 32 else v % 2 ^ 32 * 2 ^ 32
      if writeWaits s.hif.reissue then
        s.onHif fun h => { h with reissue := h.reissue ++ [{ what := .doorbell d val, since := s.up }] }
      else ringDb d val s

/-- DOORBELL_WRITE. -/
def execDoorbellWrite (off : BitVec 26) (size8 : Bool) (v : W64) (s : State) : Out :=
  .next (hostWrite (fun s =>
    if off.toNat < doorbellBase then s else doorbellOp off.toNat size8 v.toNat s) s)

/-- DOORBELL_DELIVERY: a merged value goes out MIN_GAP ticks after the last delivery. -/
def execDoorbellDelivery (db : Fin 392) (s : State) : Out :=
  .next (
    let x := s.doorbell db.val
    match x.pending, x.last with
    | some v, some t => if t + s.hif.minGap ≤ s.up then deliverDb db.val v s else s
    | _, _ => s)

/-! ## BAR2 accesses (R507 to R509) -/

/-- A read completion on the link. -/
def complete2 (st : CplStatus) (data : List Byte) (s : State) : State := s.issue (.cpl st data)

/-- Completion status of a response other than OK, POISON and HBM_BUSY (R507). -/
def bar2Status : Resp → CplStatus
  | .addrUnmapped => .ur
  | _ => .ca

/-- One BAR2 access is sent over the mesh: none when the answer is HBM_BUSY (R507). -/
def bar2Go (x : BusAccess) (s : State) : Option State :=
  match x with
  | .read a n =>
    match respRange s .bar2 a n with
    | .ok => (toQueues a (lineStarts a n).length s).map fun s =>
        let r := readMem .bar2 a n s
        complete2 (if r.1 = .ok then .sc else .poisoned) r.2.1 r.2.2
    | r => some (complete2 (bar2Status r) [] (logResp .bar2 r a s))
  | .write a bs =>
    match respRange s .bar2 a bs.length with
    | .ok => (toQueues a (lineStarts a bs.length).length s).map fun s =>
        (writeCells .bar2 { cells := bs.mapIdx fun i b => (a + i, b) } s).2
    | r => some (logResp .bar2 r a s)
  | .doorbell d v => some (ringDb d v s)

/-- An access that must follow one still waiting: requests of the BAR2 path to HBM complete in the
order issued (R463). -/
def mustWait (s : State) (a : Nat) : Bool := regionOf a == .hbm && s.hif.reissue != []

/-- Send an access, or let it wait for a reissue; an HBM_BUSY response is logged (R496, R507). -/
def bar2Send (a : Nat) (x : BusAccess) (s : State) : State :=
  let wait (s : State) : State :=
    s.onHif fun h => { h with reissue := h.reissue ++ [{ what := x, since := s.up }] }
  if mustWait s a then wait s
  else match bar2Go x s with
    | some t => t
    | none => wait (logResp .bar2 .hbmBusy a s)

/-- BAR2_READ. -/
def execBar2Read (off : BitVec 36) (len : Fin 4097) (s : State) : Out :=
  .next (if barWr s then
      match winFor s off.toNat len.val with
      | some (_, a) => bar2Send a (.read a len.val) s
      | none => raiseTlp 10 (complete2 .ur [] s)
    else if barOpen s then s else unclaimed s)

/-- BAR2_WRITE: discarded outside every window and where WR_EN is 0. -/
def execBar2Write (off : BitVec 36) (data : List Byte) (s : State) : Out :=
  .next (if barWr s then
      match winFor s off.toNat data.length with
      | some (w, a) => if winWr w then bar2Send a (.write a data) s else raiseTlp 10 s
      | none => raiseTlp 10 s
    else s)

/-- Reissue the waiting accesses in order: HBM requests behind one that is still busy wait on, a
doorbell waits for the writes before it, a read gives up after 1 ms (R507, R509). -/
def reissueAll : List Reissue → List Reissue → State → List Reissue × State
  | kept, [], s => (kept, s)
  | kept, r :: rest, s =>
    match r.what with
    | .doorbell d v =>
      if writeWaits kept then reissueAll (kept ++ [r]) rest s else reissueAll kept rest (ringDb d v s)
    | x =>
      let old : Bool := match x with | .read _ _ => r.since + 1100000 ≤ s.up | _ => false
      let behind : Bool := kept.any fun q => match q.what with | .doorbell _ _ => false | _ => true
      match if behind then none else bar2Go x s with
      | some t => reissueAll kept rest t
      | none =>
        let s := if behind then s else logResp .bar2 .hbmBusy 0 s
        if old then reissueAll kept rest (complete2 .ca [] s)
        else reissueAll (kept ++ [r]) rest s

/-- BAR2_REISSUE: at tick 0 of a beat. -/
def execBar2Reissue (s : State) : Out :=
  .next (if s.now % 1100 = 0 then
      let r := reissueAll [] s.hif.reissue s
      r.2.onHif fun h => { h with reissue := r.1 }
    else s)

/-! ## MSI-X (R520 to R523) -/

/-- Pending vectors that are open request their message. -/
def releasePending (s : State) : State :=
  (List.range 256).foldl (fun s v =>
    if (s.vec v).pending && vecOpen s v then
      (s.onVec v fun x => { x with pending := false }).onHif fun h => { h with msixReq := h.msixReq ++ [v] }
    else s) s

/-- The host interface may issue on the link (R525, R528, R533). -/
def linkOpen (s : State) : Bool :=
  s.hif.bme && s.hif.linkUp && !s.hif.linkLost && s.power.reset.isNone && !s.power.perst

/-- MSIX_SEND: the oldest requested message goes out; one whose vector is no longer open is pending. -/
def execMsixSend (s : State) : Out :=
  .next (match s.hif.msixReq with
    | [] => s
    | v :: rest =>
      if vecOpen s v then
        if linkOpen s then
          (s.onHif fun h => { h with msixReq := rest }).issue (.msix v (s.vec v).addr (s.vec v).data)
        else s
      else (s.onHif fun h => { h with msixReq := rest }).onVec v fun x => { x with pending := true })

/-- A write of a vector's control word in BAR4. -/
def vecMask (v : Nat) (m : Bool) (s : State) : State :=
  releasePending (s.onVec v fun x => { x with masked := m })

/-- MSIX_UNMASK: the host clears a vector's mask; a pending message follows. -/
def execMsixUnmask (vec : Fin 256) (s : State) : Out := .next (hostWrite (vecMask vec.val false) s)

/-! ## Accounting base and limits (R440, R512) -/

/-- A write of HIF_DB_LIMIT, direct or in the shadow. -/
def dbLimitWrite (v : W32) (s : State) : State :=
  if (s.hdr .hif).shadowSel then
    shadowWrite .hif (s.hif.shMinGap.getD s.hif.minGap != rfld v 15 0)
      (fun s => s.onHif fun h => { h with shMinGap := some (rfld v 15 0) }) s
  else s.onHif fun h => { h with minGap := rfld v 15 0 }

end Sys2Proof.Machine
end

