-- ==== Sys2Proof/Machine/Spout.lean ====
section
/-! DEFINITION. The Spout: store, rings in host memory, write-backs, interrupts (chapter 10, R403 to
R415). A record enters the store once the tick of its hand-off is over, so that R409's order holds. -/

namespace Sys2Proof.Machine

/-! ## Rings (R403, R404) -/

def ringSize (r : SptRing) : Nat := 2 ^ rfld r.cfg 4 0
def ringOn (r : SptRing) : Bool := rbit r.cfg 31
def ringInt (r : SptRing) : Bool := rbit r.cfg 30
def ringHold (r : SptRing) : Nat := rfld r.cfg 28 16
def ringBase (r : SptRing) : Nat := pairAddr r.baseLo 0 12 + r.baseHi.toNat * 2 ^ 32
def ringWb (r : SptRing) : Nat := pairAddr r.wbLo 0 3 + r.wbHi.toNat * 2 ^ 32
def ringLines (r : Rec) : Nat := r.bytes.length / 64

/-- Lines that PAD covers before a record of `n` lines at a count (R404). -/
def padLines (size prod n : Nat) : Nat :=
  let left := size - prod % size
  if n > left then left else 0

/-- Lines written and not consumed. -/
def ringUsed (prod cons : Nat) : Nat := (prod + 2 ^ 32 - cons) % 2 ^ 32

/-- The Spout may issue on the link (R413, R415, R528, R582). -/
def busOpen (s : State) : Bool :=
  s.hif.bme && s.hif.linkUp && !s.hif.linkLost && !s.spt.stopped && s.power.reset.isNone && !s.power.perst

/-- A record has room at a producer count (R404); no ring has while the bus is closed. -/
def hasRoom (s : State) (r : SptRing) (prod n : Nat) : Bool :=
  busOpen s && ringUsed prod r.cons + padLines (ringSize r) prod n + n ≤ ringSize r

/-- Held lines among the records of a ring, in order (R410): completion records take room but do not
count. -/
def heldFrom (s : State) (r : SptRing) : Nat → Bool → List Rec → Nat
  | _, _, [] => 0
  | prod, wait, q :: rest =>
    let n := ringLines q
    let w := wait || !hasRoom s r prod n
    (if w && !q.cpl then n else 0) +
      heldFrom s r ((prod + padLines (ringSize r) prod n + n) % 2 ^ 32) w rest

/-- Lines of ring `n` that are held, with records that would follow (R410). -/
def heldLines (s : State) (n : Nat) (more : List Rec) : Nat :=
  let r := s.sptRing n
  heldFrom s r r.prod false (s.spt.store.filter (·.ring == n) ++ more)

/-- Lines in the store of records other than completion records, and of completion records. -/
def storeLines (s : State) : Nat := ((s.spt.store.filter (!·.cpl)).map ringLines).sum
def cplLines (s : State) : Nat := (s.spt.store.filter (·.cpl)).length

/-! ## Drops (R410, R412) -/

/-- Discard the records held for a ring, those that still arrive among them; `count` as R412 counts them. -/
def discardRing (n : Nat) (count : Bool) (s : State) : State :=
  let k := ((s.spt.store ++ s.spt.arriving).filter (·.ring == n)).length
  let cur := s.spt.part != 0 && (match s.spt.store with | q :: _ => q.ring == n | [] => false)
  let s := s.onSpt fun p =>
    { p with store := p.store.filter (·.ring != n), arriving := p.arriving.filter (·.ring != n)
             part := if cur then 0 else p.part, partAt := if cur then none else p.partAt }
  if count then (List.range k).foldl (fun s _ => dropRec n s) s else s

/-- SPOUT_HANDOFF: the oldest handed-off record enters the store, is dropped, or waits for a completion
line (R410 to R412). -/
def execSpoutHandoff (s : State) : Out :=
  .next (match s.spt.arriving with
    | [] => s
    | q :: rest =>
      let r := s.sptRing q.ring
      let take (s : State) : State := s.onSpt fun p => { p with arriving := rest }
      let enter (s : State) : State := s.onSpt fun p => { p with arriving := rest, store := p.store ++ [q] }
      if q.tick = s.now then s
      else if !ringOn r then dropRec q.ring (take s)
      else if q.cpl then (if cplLines s < 256 then enter s else s)
      else if storeLines s + ringLines q > 3840 then dropRec q.ring (take s)
      else
        let held := heldLines s q.ring [q]
        if held > ringHold r ∧ held > heldLines s q.ring [] then dropRec q.ring (take s)
        else enter s)

/-! ## Lines (R404, R405, R413) -/

/-- First record that may issue: in hand-off order, each ring's records in order (R409). -/
def nextRec (s : State) : List Nat → List Rec → Option Rec
  | _, [] => none
  | seen, q :: rest =>
    let r := s.sptRing q.ring
    if seen.contains q.ring then nextRec s seen rest
    else if hasRoom s r r.prod (ringLines q) then some q
    else nextRec s (q.ring :: seen) rest

/-- The 64 bytes of a PAD record's first line (R395, R405). -/
def padLine (lines now : Nat) : List Byte :=
  leBytes 4 0 ++ leBytes 4 (16 + (lines - 1) * 65536) ++ leBytes 4 0 ++ leBytes 4 now ++ List.replicate 48 0

/-- A record's last line has been issued: PROD advances, lines wait for a write-back and a message, and a
job that waits for a completion line may have one. -/
def recDone (q : Rec) (adv : Nat) (s : State) : State :=
  let s := s.onSpt fun p => { p with store := p.store.tail, part := 0, partAt := none }
  handWaiting (s.onSptRing q.ring fun r =>
    { r with prod := (r.prod + adv) % 2 ^ 32, unsig := r.unsig + adv, wbAt := r.wbAt.or (some s.up) })

/-- Issue one line of the record at the store's front. -/
def issueLine (q : Rec) (s : State) : State :=
  let r := s.sptRing q.ring
  let size := ringSize r
  let n := ringLines q
  let pad := padLines size r.prod n
  let k := s.spt.part
  let units := n + if pad = 0 then 0 else 1
  let isPad := pad ≠ 0 ∧ k = 0
  let i := if pad = 0 then k else k - 1
  let line := if isPad then r.prod % size else (r.prod + pad + i) % size
  let data := if isPad then padLine pad s.now else (q.bytes.drop (64 * i)).take 64
  let s := s.issue (.memWrite (ringBase r + 64 * line) data false)
  let s := s.onSpt fun p => { p with part := k + 1, partAt := p.partAt.or (some s.up), lastIssue := some s.up }
  let s := s.onSptRing q.ring fun r => { r with unsigAt := r.unsigAt.or (some s.up) }
  if k + 1 = units then recDone q (pad + n) s else s

/-- SPOUT_LINE_ISSUE: one line every 16 ticks. -/
def execSpoutLineIssue (s : State) : Out :=
  .next (
    let paced : Bool := match s.spt.lastIssue with | some t => t + 16 ≤ s.up | none => true
    if !paced || !busOpen s then s
    else if s.spt.part ≠ 0 then
      match s.spt.store with
      | q :: _ => issueLine q s
      | [] => s
    else
      match nextRec s [] s.spt.store with
      | some q => issueLine q (s.onSpt fun p => { p with store := q :: p.store.erase q })
      | none => s)

/-! ## Write-backs and messages (R407, R408) -/

/-- Send a ring's write-back; while the bus is closed it stays owed. -/
def sendWb (n : Nat) (s : State) : State :=
  let r := s.sptRing n
  if busOpen s then
    (s.issue (.memWrite (ringWb r) (leBytes 4 r.prod ++ leBytes 2 r.dropped ++ leBytes 2 0) false)).onSptRing n
      fun r => { r with wbAt := none }
  else s.onSptRing n fun r => { r with wbAt := r.wbAt.or (some s.up) }

/-- Tick of the first line of the record in progress, when it is one of ring `n`. -/
def partLine (s : State) (n : Nat) : Option Nat :=
  match s.spt.store with
  | q :: _ => if q.ring = n then s.spt.partAt else none
  | [] => none

/-- Send a ring's message: the lines up to PROD are signalled, those of a record in progress are not. -/
def sendMsg (n : Nat) (s : State) : State :=
  let v := rfld (s.sptRing n).cfg 15 8
  reqVector v (s.onSptRing n fun r => { r with unsig := 0, unsigAt := partLine s n, flush := false })

/-- A ring's message is due by its lines, or by a flush that waited (R408). -/
def msgDue (r : SptRing) : Bool :=
  ringInt r && (decide (rfld r.coal 15 0 ≤ r.unsig) || (r.flush && r.unsig != 0))

/-- SPOUT_WRITEBACK: the write-back, when one is owed, and the message when it is due. -/
def execSpoutWriteback (ring : Fin 64) (s : State) : Out :=
  .next (
    let n := ring.val
    let r := s.sptRing n
    if ringOn r && busOpen s then
      let s := if r.wbAt.isSome then sendWb n s else s
      if msgDue r then sendMsg n s else s
    else s)

/-- SPOUT_INT_BEATS_EXPIRY: INT_BEATS beats after the first line not yet signalled. -/
def execSpoutIntBeatsExpiry (ring : Fin 64) (s : State) : Out :=
  .next (
    let n := ring.val
    let r := s.sptRing n
    match r.unsigAt with
    | some t =>
      if ringOn r && ringInt r && r.unsig != 0 && rfld r.coal 31 16 != 0 && busOpen s &&
          decide (t + rfld r.coal 31 16 * 1100 ≤ s.up) then sendMsg n (sendWb n s)
      else s
    | none => s)

/-- SPOUT_FLUSH: an immediate write-back, and the message when lines are unsignalled; while the bus is
closed both wait. -/
def execSpoutFlush (target : Fin 256) (s : State) : Out :=
  .next (match takeAction s 8 6 (fun a => a.target == target.val) with
    | none => s
    | some (_, s) =>
      let rings := if target.val = 255 then List.range 64 else [target.val % 64]
      rings.foldl (fun s n =>
        let r := s.sptRing n
        if ringOn r then
          let open_ := busOpen s
          let s := sendWb n s
          if !ringInt r || r.unsig == 0 then s
          else if open_ then sendMsg n s
          else s.onSptRing n fun r => { r with flush := true }
        else s) s)

/-! ## Registers (R403, R406) -/

/-- A write of SPT_RING_CONSn. -/
def sptConsWrite (n : Nat) (v : W32) (s : State) : State :=
  let r := s.sptRing n
  let used := ringUsed r.prod r.cons
  if ringUsed r.prod v.toNat > ringSize r ∨ ringUsed v.toNat r.cons > used then
    s.onSptRing n fun r => { r with consBad := true }
  else s.onSptRing n fun r => { r with cons := v.toNat }

def execSptRingConsWrite (ring : Fin 64) (v : W32) (s : State) : Out :=
  .next (hostWrite (sptConsWrite ring.val v) s)

/-- A write of SPT_RING_CFGn: LOG2_LINES is fixed while EN is 1; values out of range keep the field. -/
def sptCfgWrite (n : Nat) (v : W32) (s : State) : State :=
  let r := s.sptRing n
  let on := ringOn r
  if on && rfld r.cfg 4 0 != rfld v 4 0 then invalidProg .spt s
  else
    let badLog := rfld v 4 0 < 6 || rfld v 4 0 > 16
    let badHold := rfld v 28 16 > 4096
    let m := 0xc000ff00#32 ||| (if badLog then 0#32 else 0x1f#32) ||| (if badHold then 0#32 else 0x1fff0000#32)
    let s := s.onSptRing n fun r => { r with cfg := mergeBits m r.cfg v }
    let s := if badLog || badHold then invalidProg .spt s else s
    if rbit v 31 && !on then
      sendWb n (s.onSptRing n fun r =>
        { r with prod := 0, cons := 0, unsig := 0, unsigAt := none, flush := false, wbAt := none })
    else if on && !rbit v 31 then
      handWaiting (discardRing n true (s.onSptRing n fun r =>
        { r with unsig := 0, unsigAt := none, flush := false, wbAt := none }))
    else s

def execSptRingCfgWrite (ring : Fin 64) (v : W32) (s : State) : Out :=
  .next (hostWrite (sptCfgWrite ring.val v) s)

end Sys2Proof.Machine
end

