-- ==== Sys2Proof/Machine/Hdma.lean ====
section
/-! DEFINITION. The host DMA channels (R513 to R519). A channel starts descriptors in ring order, one after
the requests of another, and completes them in that order: each IN step issues one read, each OUT step one
posted write. -/

namespace Sys2Proof.Machine

def hdmaSrc (ch : Nat) : Src := .hdma (Fin.ofNat 8 ch)

/-! ## Configuration (R513, R519) -/

def dmaOn (c : DmaCh) : Bool := rbit c.cfg 31
def dmaLen (c : DmaCh) : Nat := rfld c.cfg 9 0
def dmaBase (c : DmaCh) : Nat := pairAddr c.ringLo c.ringHi 6
def dmaWb (c : DmaCh) : Nat := pairAddr c.wbLo 0 3 + c.wbHi.toNat * 2 ^ 32

/-- Reads outstanding become reads whose completions are discarded. -/
def dropReads (counts : Bool) (c : DmaCh) : DmaCh :=
  { c with stale := c.stale ++ c.reads.map fun r => { bytes := r.bytes, counts := counts, late := false }
           reads := [], issued := 0, ahead := 0 }

/-- A channel goes on at the descriptor at CONS. -/
def dmaGo (c : DmaCh) : DmaCh := { c with state := if c.cons = c.prod then .idle else .run }

/-- Restart a halted channel (R519). -/
def dmaResume (c : DmaCh) : DmaCh :=
  if c.state = .haltBme ∨ c.state = .haltErr then
    dmaGo { c with err := 0, discarded := 0, issued := 0, ahead := 0 }
  else c

/-- Clearing EN discards every pending descriptor without write-back (R519). -/
def dmaDisable (c : DmaCh) : DmaCh := { dropReads false c with state := .disabled }

/-- Setting EN starts an empty ring (R513). -/
def dmaEnable (c : DmaCh) : DmaCh := { c with cons := 0, prod := 0, pos := 0, issued := 0, ahead := 0, state := .idle }

/-- A write of HIF_DMA_CFGch: LEN_M1 stands while EN is 1 (R513, R659). -/
def dmaCfgWrite (ch : Nat) (v : W32) (s : State) : State :=
  let c := s.dma ch
  if dmaOn c && dmaLen c != rfld v 9 0 then invalidProg .hif s
  else s.onDma ch fun c =>
    let d := { c with cfg := v &&& 0xc0ff03ff#32 }
    let d := if rbit v 31 && !dmaOn c then dmaEnable d
      else if !rbit v 31 && dmaOn c then dmaDisable d else d
    if rbit v 29 && rbit v 31 && !s.mgt.safe then dmaResume d else d

def execHdmaCfgWrite (ch : Fin 8) (v : W32) (s : State) : Out := .next (hostWrite (dmaCfgWrite ch.val v) s)
def execResume (ch : Fin 8) (v : W32) (s : State) : Out :=
  .next (hostWrite (dmaCfgWrite ch.val (v ||| 0x20000000#32)) s)

/-- A write of a ring or write-back address word: it stands while EN is 1 (R513, R659). -/
def dmaAddrWrite (ch : Nat) (old new : W32) (f : DmaCh → DmaCh) (s : State) : State :=
  if dmaOn (s.dma ch) && old != new then invalidProg .hif s else s.onDma ch f

/-- HDMA_DOORBELL: a delivered value becomes PROD, unless it overruns the ring (R513, R288). -/
def execHdmaDoorbell (ch : Fin 8) (s : State) : Out :=
  .next (match takeDb (384 + ch.val) s with
    | none => s
    | some (v, s) =>
      let c := s.dma ch.val
      if s.mgt.safe || !dmaOn c then s
      else if (v % 65536 + 65536 - c.cons) % 65536 > dmaLen c + 1 then raise .hif 1 none ch.val s
      else s.onDma ch.val fun c =>
        let d := { c with prod := v % 65536 }
        if d.state = .idle then dmaGo d else d)

/-! ## Descriptors (R514) -/

def hdOp (d : Nat) : Nat := fld d 3 0
def hdBytes (d : Nat) : Nat := fld d 63 32
def hdBus (d : Nat) : Nat := fld d 127 64
def hdDev (d : Nat) : Nat := fld d 175 128
def hdData (d : Nat) : Nat := fld d 255 192
def hdNoSnoop (d : Nat) : Bool := bitAt d 6

/-- The checks made before any request of a descriptor (R516, R517). -/
def hdBad (d : Nat) : Bool :=
  hdOp d ≥ 4 || bitAt d 7 || fld d 31 23 != 0 || fld d 191 176 != 0 ||
  (match hdOp d with
   | 2 => (hdBytes d != 4 && hdBytes d != 8) || hdDev d != 0
   | 3 => hdBytes d != 0 || hdDev d != 0 || hdData d != 0
   | _ => hdBytes d == 0 || hdBytes d > 16777216 || hdData d != 0 || !oneMem (hdDev d) (hdBytes d))

/-- Pending descriptors of a channel. -/
def hdPending (c : DmaCh) : Nat := (c.prod + 65536 - c.cons) % 65536

/-- Address of the ring entry that holds pending descriptor `i` of a channel. -/
def hdAddr (c : DmaCh) (i : Nat) : Nat := dmaBase c + 32 * ((c.pos + i) % (dmaLen c + 1))

/-! ## Stops (R517, R518) -/

/-- End the job of a slot with JS_ABORTED, by the slot's state (R518). -/
def abortSlot (c k : Nat) (s : State) : State :=
  match (s.slot c k).state with
  | .empty => s
  | .valid =>
    let h := parseHdr (peek s (s.slot c k).image 128)
    completeUnheld c k h.jobId h.cplRing { status := jsAborted, core := 0xff, ticks := 0, who := 0 } s
  | .active =>
    match (List.range 24).find? fun n => (s.core n).job.any fun j => j.ctx == c && j.slot == k with
    | some n => finishJob n jsAborted s
    | none => s
  | .suspended => endSaved jsAborted c k s

/-- Every incomplete descriptor of a stopped channel that names a job ends it. -/
def abortDeps (ch : Nat) (s : State) : State :=
  let c := s.dma ch
  (List.range (hdPending c)).foldl (fun s i =>
    let d := peekNat s (hdAddr c i) 32
    if bitAt d 22 then abortSlot (fld d 15 8) (fld d 21 16) s else s) s

/-- AER uncorrectable status bit of a channel error (R530). -/
def dmaAer : Nat → Nat
  | 2 => 14 | 3 => 20 | 4 => 15 | 5 => 12
  | _ => 32

def setAer (b : Nat) (s : State) : State :=
  s.onHif fun h => { h with aerUncorr := if b < 32 then h.aerUncorr ||| 2 ^ b else h.aerUncorr }

/-- A channel stops in HALT_ERR. -/
def dmaHalt (ch err : Nat) (r : Resp) (s : State) : State :=
  let s := s.onDma ch fun c => { dropReads true c with state := .haltErr, err := err, discarded := 0 }
  let s := setAer (dmaAer err) s
  let s := raiseLog .hif 13 (BitVec.ofNat 32 ch) (BitVec.ofNat 32 (respCode r * 65536))
    (BitVec.ofNat 32 s.now) (BitVec.ofNat 32 ch) s
  abortDeps ch (setInt .hif 9 s)

/-- The channel works and may use the bus; nothing is issued in the safe state or under QUIESCE (R581,
R585). -/
def dmaRuns (s : State) (ch : Nat) : Bool := (s.dma ch).state == .run && linkOpen s && !s.mgt.safe && !s.mgt.quiesce

/-- The descriptor that the channel issues requests of: it is read and checked, or the channel halts. One that
follows descriptors not yet complete starts unless it is fenced or a WRITE (R515), and is judged only once it
is the oldest. -/
def currentDesc (ch : Nat) (s : State) : Option Nat × State :=
  let c := s.dma ch
  if hdPending c ≤ c.ahead then (none, s)
  else
    let r := readMem (hdmaSrc ch) (hdAddr c c.ahead) 32 s
    let d := leNat r.2.1
    if c.ahead = 0 then
      if r.1 ≠ .ok then (none, dmaHalt ch 6 r.1 r.2.2)
      else if hdBad d then (none, dmaHalt ch 1 .ok r.2.2)
      else (some d, r.2.2)
    else if r.1 = .ok ∧ hdBad d = false ∧ (c.issued ≠ 0 ∨ (bitAt d 4 = false ∧ hdOp d ≠ 2)) then (some d, r.2.2)
    else (none, s)

/-- Requests for `n` more bytes of the current descriptor are issued; after its last byte the channel goes on
to the next. -/
def hdIssue (d n : Nat) (c : DmaCh) : DmaCh :=
  if hdBytes d ≤ c.issued + n then { c with ahead := c.ahead + 1, issued := 0 }
  else { c with issued := c.issued + n }

/-- The oldest descriptor is complete: CONS, write-back, message (R515). -/
def dmaComplete (ch : Nat) (s : State) : State :=
  let d := peekNat s (hdAddr (s.dma ch) 0) 32
  let s := s.onDma ch fun c =>
    dmaGo { c with cons := (c.cons + 1) % 65536, pos := (c.pos + 1) % (dmaLen c + 1), ahead := c.ahead - 1
                   reads := c.reads.map fun r => { r with desc := r.desc - 1 } }
  let c := s.dma ch
  let st := match c.state with | .disabled => 0 | .idle => 1 | .run => 2 | .haltBme => 3 | .haltErr => 4
  let s := s.issue (.memWrite (dmaWb c) (leBytes 8 (c.cons + st * 65536 + c.err * 2 ^ 24)) false)
  if bitAt d 5 && rbit c.cfg 30 then reqVector (rfld c.cfg 23 16) s else s

/-- The oldest read fails: the descriptors before its own are complete, and CONS stays at its own (R517). -/
def dmaFail (ch err : Nat) (r : Resp) (j : Nat) (s : State) : State :=
  dmaHalt ch err r ((List.range j).foldl (fun s _ => dmaComplete ch s) s)

/-- The largest request at a bus address: up to a limit, to the end, and to the 4 KiB boundary
(R516). -/
def chunk (limit bus left : Nat) : Nat := min left (min limit (4096 - bus % 4096))

/-! ## IN (R515, R516) -/

/-- IN: one read request. -/
def execHdmaIn (ch : Fin 8) (s : State) : Out :=
  .next (if dmaRuns s ch.val then
      match currentDesc ch.val s with
      | (none, s) => s
      | (some d, s) =>
        let c := s.dma ch.val
        let left := hdBytes d - c.issued
        if hdOp d = 0 ∧ left ≠ 0 ∧ c.reads.length < 64 ∧
            (s.hif.dma.map fun x => x.reads.length + x.stale.length).sum < 512 then
          let n := chunk s.hif.maxRead (hdBus d + c.issued) left
          let s := s.issue (.memRead ch.val (hdBus d + c.issued) n (hdNoSnoop d))
          s.onDma ch.val fun c =>
            hdIssue d n { c with reads := c.reads ++
              [{ dev := hdDev d + c.issued, bytes := n, since := s.up, desc := c.ahead }] }
        else s
    else s)

/-- A completion for a read that is discarded. -/
def staleCompletion (ch n : Nat) (s : State) : State :=
  match (s.dma ch).stale with
  | [] => setAer 16 s
  | x :: rest =>
    let s := if x.late then setAer 16 s else s
    s.onDma ch fun c =>
      { c with stale := if x.bytes ≤ n then rest else { x with bytes := x.bytes - n } :: rest
               discarded := if x.counts then satInc 65535 c.discarded else c.discarded }

/-- HDMA_COMPLETION: data for the oldest outstanding read is written at its device address; a failed
one halts the channel; completions of reads given up are discarded (R517). -/
def execHdmaCompletion (ch : Fin 8) (st : CplStatus) (data : List Byte) (s : State) : Out :=
  .next (if s.power.perst || !s.hif.linkUp then s
    else
      let c := s.dma ch.val
      if c.stale != [] then staleCompletion ch.val (if st = .sc ∨ st = .poisoned then data.length else 4096) s
      else
        match c.reads with
        | [] => staleCompletion ch.val 0 s
        | r :: rest =>
          match st with
          | .ur => dmaFail ch.val 3 .ok r.desc (s.onDma ch.val fun c => { c with reads := rest })
          | .ca => dmaFail ch.val 4 .ok r.desc (s.onDma ch.val fun c => { c with reads := rest })
          | .poisoned => dmaFail ch.val 5 .ok r.desc (s.onDma ch.val fun c => { c with reads := rest })
          | .sc =>
            let bs := data.take r.bytes
            let w := writeMem (hdmaSrc ch.val) r.dev bs false s
            let t := w.2.onDma ch.val fun c =>
              { c with reads := if r.bytes ≤ bs.length then rest
                  else { r with dev := r.dev + bs.length, bytes := r.bytes - bs.length } :: rest }
            if w.1 = .ok then t else dmaFail ch.val 6 w.1 r.desc t)

/-- Shortest Completion Timeout of each range of Device Control 2, in ticks. -/
def cplTicks (range : Nat) : Nat :=
  match range with
  | 1 => 55000 | 2 => 1100000 | 5 => 17600000 | 6 => 71500000 | 9 => 286000000
  | 10 => 1100000000 | 13 => 4400000000 | 14 => 18700000000
  | _ => 55000

/-- CPL_TIMEOUT: the oldest outstanding read was not completed in time (R517). -/
def execCplTimeout (ch : Fin 8) (s : State) : Out :=
  .next (match (s.dma ch.val).reads with
    | r :: rest =>
      if !s.hif.cplOff && decide (r.since + cplTicks s.hif.cplRange ≤ s.up) then
        dmaFail ch.val 2 .ok r.desc (s.onDma ch.val fun c =>
          { c with reads := rest, stale := c.stale ++ [{ bytes := r.bytes, counts := true, late := true }] })
      else s
    | [] => s)

/-! ## OUT, WRITE, NOP (R514 to R516, R520) -/

/-- A Spout line is due on the link (R404, R413). -/
def spoutReady (s : State) : Bool :=
  busOpen s && (match s.spt.lastIssue with | some t => t + 16 ≤ s.up | none => true) &&
  (s.spt.part != 0 || (nextRec s [] s.spt.store).isSome)

/-- Bytes of a range that lie before the first line that an agent cannot read. -/
def goodBytes (s : State) (src : Src) (a n : Nat) : Nat :=
  match (lineStarts a n).find? fun l =>
      respOf s src l != .ok || badAt s l (min (l / 64 * 64 + 64) (a + n) - l) with
  | some l => l - a
  | none => n

/-- The next posted write of an OUT descriptor stops before a line that cannot be read. -/
def outBytes (s : State) (ch d : Nat) : Nat :=
  let c := s.dma ch
  goodBytes s (hdmaSrc ch) (hdDev d + c.issued)
    (chunk s.hif.maxPayload (hdBus d + c.issued) (hdBytes d - c.issued))

/-- A channel has a posted write to issue; an OUT that meets a line it cannot read stops the channel once it
is the oldest. -/
def dmaPosts (s : State) (ch : Nat) : Bool :=
  dmaRuns s ch &&
  match (currentDesc ch s).1 with
  | some d => hdOp d == 2 || (hdOp d == 1 && ((s.dma ch).ahead == 0 || outBytes s ch d != 0))
  | none => false

/-- It is the channel's turn: after the Spout, in round-robin (R520). -/
def dmaTurn (s : State) (ch : Nat) : Bool :=
  !spoutReady s &&
  (((List.range 8).map fun i => (s.hif.lastDma + 1 + i) % 8).find? (dmaPosts s)).all (· == ch)

/-- One posted write of the descriptor in progress. -/
def dmaPost (ch d : Nat) (bs : List Byte) (s : State) : State :=
  let s := s.issue (.memWrite (hdBus d + (s.dma ch).issued) bs (hdNoSnoop d))
  (s.onHif fun h => { h with lastDma := ch }).onDma ch (hdIssue d bs.length)

/-- OUT: one posted write with the device's data; it stops before a line that cannot be read. -/
def execHdmaOut (ch : Fin 8) (s : State) : Out :=
  .next (if dmaRuns s ch.val && dmaTurn s ch.val then
      match currentDesc ch.val s with
      | (none, s) => s
      | (some d, s) =>
        let c := s.dma ch.val
        let g := outBytes s ch.val d
        if hdOp d = 1 ∧ (c.ahead = 0 ∨ g ≠ 0) then
          let n := if g = 0 then chunk s.hif.maxPayload (hdBus d + c.issued) (hdBytes d - c.issued) else g
          let r := readMem (hdmaSrc ch.val) (hdDev d + c.issued) n s
          if r.1 = .ok then dmaPost ch.val d r.2.1 r.2.2 else dmaHalt ch.val 6 r.1 r.2.2
        else s
    else s)

/-- WRITE: the descriptor's own data. -/
def execHdmaWrite (ch : Fin 8) (s : State) : Out :=
  .next (if dmaRuns s ch.val && dmaTurn s ch.val then
      match currentDesc ch.val s with
      | (none, s) => s
      | (some d, s) =>
        let c := s.dma ch.val
        if hdOp d = 2 then
          let n := chunk s.hif.maxPayload (hdBus d + c.issued) (hdBytes d - c.issued)
          dmaPost ch.val d (((leBytes 8 (hdData d)).drop c.issued).take n) s
        else s
    else s)

/-- NOP: nothing to issue; the descriptor is complete, after those before it. -/
def execHdmaNop (ch : Fin 8) (s : State) : Out :=
  .next (if dmaRuns s ch.val then
      match currentDesc ch.val s with
      | (some d, s) =>
        if hdOp d ≠ 3 then s
        else if (s.dma ch.val).ahead = 0 then dmaComplete ch.val s
        else s.onDma ch.val (hdIssue d 0)
      | (none, s) => s
    else s)

/-- HDMA_DESC_COMPLETE: the oldest descriptor, an IN, has written every byte, or an OUT or WRITE has issued
every TLP. -/
def execHdmaDescComplete (ch : Fin 8) (s : State) : Out :=
  .next (
    let c := s.dma ch.val
    if dmaRuns s ch.val && c.ahead != 0 && c.reads.all (·.desc != 0) then dmaComplete ch.val s else s)

/-! ## Bus Master Enable (R528, R529) -/

/-- A running channel halts when the bus closes. -/
def dmaHaltBme (ch : Nat) (s : State) : State :=
  if (s.dma ch).state = .run then
    abortDeps ch (s.onDma ch fun c => { dropReads true c with state := .haltBme, discarded := 0 })
  else s

/-- Bus Master Enable is cleared: nothing more is issued, messages asked for become pending. -/
def bmeClear (s : State) : State :=
  let reqs := s.hif.msixReq
  let s := s.onHif fun h => { h with bme := false, msixReq := [] }
  let s := reqs.foldl (fun s v => s.onVec v fun x => { x with pending := true }) s
  (List.range 8).foldl (fun s ch => dmaHaltBme ch s) s

/-- Bus Master Enable is set: pending messages are sent. -/
def bmeSet (s : State) : State := releasePending (s.onHif fun h => { h with bme := true })

/-- The device takes configuration writes: READY, link active, no reset in progress (R524, R525). -/
def cfgOpen (s : State) : Bool :=
  s.power.booted && !s.power.perst && s.hif.linkUp && s.power.reset.isNone

/-- Bus Master Enable takes a value; only a change acts. -/
def bmeWrite (b : Bool) (s : State) : State :=
  if cfgOpen s then
    if s.hif.bme = b then s else if b then bmeSet s else bmeClear s
  else s

def execBusMasterClear (s : State) : Out := .next (bmeWrite false s)
def execBusMasterSet (s : State) : Out := .next (bmeWrite true s)

end Sys2Proof.Machine
end

