-- ==== Sys2Proof/Machine/Faults.lean ====
section
/-! DEFINITION. Faults: first-error capture, the chip fault log, the safe state, QUIESCE, thermal trip
(R568 to R586). -/

namespace Sys2Proof.Machine

/-! ## ERR_FIRST and the fault log (R574, R578) -/

/-- A write of ERR_FIRST: VALID written 1 clears it and the log words. -/
def errFirstWrite (p : Page) (v : W32) (s : State) : State :=
  if rbit v 31 then s.onHdr p fun h =>
    { h with firstValid := false, firstBit := 0, firstClass := 0, firstMultiple := false
             log0 := 0, log1 := 0, log2 := 0, log3 := 0, capAt := none }
  else s

def execErrFirstClear (p : Page) (s : State) : Out := .next (hostWrite (errFirstWrite p 0x80000000#32) s)

/-- A write of MGT_FAULT_CTRL. -/
def faultCtrlWrite (v : W32) (s : State) : State :=
  if rbit v 8 then s.onMgt fun m => { m with faultLog := m.faultLog.tail } else s

def execPop (s : State) : Out := .next (hostWrite (faultCtrlWrite 0x100#32) s)

/-! ## Stopping work (R525, R533, R581, R585) -/

/-- Every ACTIVE job ends with JS_ABORTED and its progress. -/
def abortAll (s : State) : State := (List.range 24).foldl (fun s n => finishJob n jsAborted s) s

/-- A decode context's picture is abandoned: no output, no report. -/
def decDrop (x : DecCtx) : DecCtx :=
  if x.pic.isSome then
    let y := { x with pic := none, heldStart := none }
    if y.wantDis then decDisabled y else if y.wantDisc then decDiscont y else y
  else x

/-- An encode context's picture is abandoned. -/
def encDrop (x : EncCtx) : EncCtx :=
  if x.pic.isSome then
    let y := { x with pic := none, held := [] }
    if y.wantDis then encDisabled y else y
  else x

/-- Pictures in progress are abandoned, their cores and source frames given back. -/
def abandonPictures (s : State) : State :=
  let srcs := s.enc.ctxs.filterMap fun x => x.pic.bind fun p => p.srcBuf.map fun b => (x.desc.srcStream, b)
  let s := srcs.foldl (fun s r => s.onCap r.1 fun h => { h with readers := h.readers.erase r.2 }) s
  let s := s.onDec fun d =>
    { d with ctxs := d.ctxs.map decDrop, busy := List.replicate 8 none }
  s.onEnc fun e => { e with ctxs := e.ctxs.map encDrop, busy := List.replicate 4 none }

/-- Scalers, Saucers and the Caddy stop (R264, R362, R416). -/
def stopUnits (s : State) : State :=
  let s := (List.range 4).foldl (fun s u => sclStop u s) s
  let s := (List.range 7).foldl (fun s m => sauStop m s) s
  cdyHalt s

/-- An in-service slice ends with a result; its target is released. -/
def endSlice (res : Nat) (s : State) : State :=
  match s.bist.slice with
  | none => s
  | some x =>
    let s := s.onBist fun b => { b with slice := none, result := res }
    if !x.started then s
    else match x.kind with
      | 0 => s.onCore x.index fun c => { c with slice := false }
      | 2 => s.onDec fun d => { d with slice := updAt d.slice x.index fun _ => false }
      | 4 => s.onEnc fun e => { e with slice := updAt e.slice x.index fun _ => false }
      | _ => s

/-- The keys of a physical core's four memories. -/
def inCore (phys k : Nat) : Bool :=
  coreBase + phys * 0x1000000 ≤ k && k < coreBase + (phys + 1) * 0x1000000

/-- Physical core that a compute-core slice tests. -/
def slicePhys (s : State) (x : Slice) : Nat := if x.kind = 0 then physCore s x.index else x.index

/-- In the safe state a slice ends with BUSY (R581); what a memory test left in its core is not stated. -/
def busySlice (s : State) : State :=
  match s.bist.slice with
  | none => s
  | some x =>
    let s := if x.started ∧ x.kind ≤ 1 ∧ x.segment = 16 then loseMem (inCore (slicePhys s x)) s else s
    endSlice 3 s

/-! ## The safe state (R580 to R582) -/

/-- The device is in the safe state with a cause. -/
def enterSafe (cause : Nat) (s : State) : State :=
  let s := resetEpoch (s.onMgt fun m => { m with safe := true, safeCause := cause, safeDue := none })
  let s := s.onSpt fun p => { p with stopped := p.stopped || s.mgt.safeMute }
  let s := stopUnits (abandonPictures (abortAll s))
  let s := s.onCsi fun c => { c with chs := c.chs.map fun h => { h with openF := none } }
  busySlice s

/-- Conditions of R617 that the hardware of a page finds by itself: an error in the page's own memories,
loss of lock, a supply out of its window, parity on the launch network or the epoch lines (R26, R570). The
memories of compute cores, Saucers, scalers and the Caddy have commands of their own for an uncorrectable
error. -/
def hwCond (p : Page) (b : Nat) : Bool :=
  match p with
  | .core _ | .clu _ | .scl _ | .cdy => b == 2
  | .mgt => b == 2 || b == 3 || b == 8 || b == 9
  | .ktl => b == 2 || b == 3 || b == 8
  | _ => b == 2 || b == 3

/-- SAFE_STATE_ENTRY: a condition that the hardware finds by itself is raised, which makes the entry due
where its class is fatal (R570, R580; log entry 53); without one, a due entry takes place. -/
def execSafeStateEntry (cond : Option (Page × Fin 32)) (s : State) : Out :=
  .next (match cond with
    | some (p, b) => if s.power.booted && !s.power.perst && hwCond p b.val then raise p b.val none 0 s else s
    | none =>
      match s.mgt.safeDue with
      | some (_, cause) => enterSafe cause s
      | none => s)

/-- THERMAL_TRIP: a sensor at 115 °C asserts THERM_TRIP_N, latched until fundamental reset, and the safe
state is due with CAUSE 3 (R586). -/
def execThermalTrip (sensor : Fin 32) (temp : BitVec 8) (s : State) : Out :=
  .next (if temp.toInt ≥ 115 ∧ s.power.railsOk = true ∧ s.power.perst = false ∧ s.power.therm = false then
      let s := s.onPower fun p => { p with therm := true }
      let s := s.onMgt fun m => { m with safeDue := if m.safe then none else m.safeDue.or (some (s.up, 3)) }
      raise .mgt 10 none sensor.val s
    else s)

/-! ## QUIESCE (R585) -/

/-- A write of MGT_QUIESCE. -/
def quiesceWrite (v : W32) (s : State) : State :=
  if rbit v 0 && !s.mgt.quiesce then
    let s := s.onMgt fun m => { m with quiesce := true }
    let s := stopUnits (abandonPictures (abortAll s))
    (List.range 8).foldl (fun s ch => dmaHaltBme ch s) s
  else s

def execQuiesce (s : State) : Out := .next (hostWrite (quiesceWrite 1#32) s)

/-- No job, picture, command or host DMA request is in progress. -/
def allIdle (s : State) : Bool :=
  (s.cores.all fun c => c.job.isNone) && (s.dec.ctxs.all fun x => x.pic.isNone) &&
  (s.enc.ctxs.all fun x => x.pic.isNone) && (s.scl.units.all fun u => u.cmd.isNone) &&
  (s.clus.all fun c => c.cmd.isNone) && s.cdy.now.isNone &&
  s.hif.dma.all fun c => c.state != .run && c.reads == []

/-- QUIESCE_DONE. -/
def execQuiesceDone (s : State) : Out :=
  .next (if s.mgt.quiesce && allIdle s then s.onMgt fun m => { m with quiesceDone := true } else s)

end Sys2Proof.Machine
end

