-- ==== Sys2Proof/Machine/Spares.lean ====
section
/-! DEFINITION. Takeovers by spares after detection, and the runtime defect record (R559 to R567, R650).
Detection and the save stand with the units that detect. -/

namespace Sys2Proof.Machine

/-! ## Takeover steps (R560 to R564) -/

def takeoverOf (s : State) (u : Unit') : Option Takeover := s.mgt.takeover.find? (·.target == u)

/-- Change the takeover of a target. -/
def onTakeover (u : Unit') (f : Takeover → Takeover) (s : State) : State :=
  s.onMgt fun m => { m with takeover := m.takeover.map fun t => if t.target = u then f t else t }

/-- SPARE_POWER_GOOD: the spare has power, microcode and patches; its known-answer run of 2,200,000
ticks begins (R544, R545, R560). -/
def execSparePowerGood (u : Unit') (s : State) : Out :=
  .next (match takeoverOf s u with
    | some t =>
      if t.stage = .powering ∧ t.spare.isSome = true then
        onTakeover u (fun t => { t with stage := .testing, goodAt := s.up + 2200000 }) s
      else s
    | none => s)

/-- The spare of a kind that is chosen after one failed, taken out of the spares (R561, R564). -/
def nextSpare (u : Unit') (failed : Nat) (s : State) : Option Nat × State :=
  match u with
  | .core _ =>
    let sp := chooseSpare s failed
    (sp, s.onMgt fun m => { m with coreSpares := m.coreSpares.filter fun p => some p != sp })
  | .dec _ => (s.mgt.decSpares.head?, s.onMgt fun m => { m with decSpares := m.decSpares.tail })
  | .enc _ => (s.mgt.encSpares.head?, s.onMgt fun m => { m with encSpares := m.encSpares.tail })

/-- SPARE_KAT_DONE: a pass leaves the map update to come; a failed spare is recorded and the next one
chosen, or the unit becomes ABSENT (R562, R564). -/
def execSpareKatDone (u : Unit') (pass : Bool) (s : State) : Out :=
  .next (match takeoverOf s u with
    | none => s
    | some t =>
      if t.stage = .testing ∧ t.goodAt ≤ s.up then
        if pass then onTakeover u (fun t => { t with stage := .mapping }) s
        else
          let s := setInt .mgt 10 (noteDefect (unitKind u) (t.spare.getD 0) 4 s)
          let (sp, s) := nextSpare u t.failed s
          let s := onTakeover u (fun t => { t with stage := .powering, spare := sp, goodAt := s.up + 23100 }) s
          match u with
          | .core n => settleLost n.val s
          | _ => if sp.isNone then codecAbsent u s else s
      else s)

/-- The slot whose saved job waits in frame 3 of a core. -/
def savedFor (s : State) (n : Nat) : Option (Nat × Nat) :=
  (slotsWith s fun _ k => k.state == .suspended && k.saved.any fun v => v.core == n && v.frame == 3).head?

/-- The windows open in a core's MSE channels are lost, and new ones start (R244). -/
def mseLost (x : Core) : Core :=
  { x with mse := x.mse.map fun m => { mseStart m with lost := m.lost || m.runEn } }

/-- A map update: the unit is on its spare, unfenced; the event, the count and a fault-log entry, whose
bit and detail no rule gives (R560). -/
def engage (u : Unit') (spare : Nat) (s : State) : State :=
  let s := onMap u (fun _ => { phys := spare, state := .ok }) s
  let s := s.onMgt fun m =>
    { m with takeovers := satInc 255 m.takeovers, takeover := m.takeover.filter (·.target != u) }
  let (b, s) := s.takeFree
  let (d, s) := s.takeFree
  logFault .mgt (b.toNat % 256) 1 (d.setWidth 32) (setInt .mgt 9 s)

/-- The job that waits in frame 3 of a core: a spare has taken over its core (R174, R454). -/
def markSpare (n : Nat) (s : State) : State :=
  match savedFor s n with
  | some (c, k) => s.onSlot c k fun x =>
      { x with saved := x.saved.map fun v => { v with job := { v.job with spareTaken := true } } }
  | none => s

/-- The restore of the job that a takeover saved, unless its context is held (R560, R563). -/
def restoreSaved (n : Nat) (s : State) : State :=
  match savedFor s n with
  | some (c, k) => if ctxHeld s c || coreBusy s n then s else beginRestore n c k s
  | none => s

/-- SPARE_ENGAGED: at tick 0 of the first beat after save and known-answer run, the next one where an
epoch takes that beat (R68, R560). -/
def execSpareEngaged (u : Unit') (s : State) : Out :=
  .next (match takeoverOf s u with
    | none => s
    | some t =>
      let epochNow : Bool := match s.ktl.epoch with
        | some e => e.beat == some s.beat
        | none => s.ktl.epochLast == some s.up
      match t.spare with
      | some sp =>
        if t.stage = .mapping ∧ t.saveDone = true ∧ s.now % 1100 = 0 ∧ epochNow = false then
          let t0 := engage u sp s
          match u with
          | .core n =>
            let moved := sp / 4 != t.failed / 4
            let s := t0.onCore n.val fun x => mseLost { x with mgmtFence := false }
            let s := if moved then s.onMesh fun m => { m with reloc := m.reloc ||| 2 ^ n.val } else s
            if t.hasJob then restoreSaved n.val (markSpare n.val s) else s
          | .dec _ => t0
          | .enc _ => encAssign t0
        else s
      | none => s)

/-- CODEC_KAT_DONE: the check of a decoder core that its watchdog reset ends; a failure starts its
takeover, and a picture still on it carries DEC_CORE_FAULT (R309, R332, R564). -/
def execCodecKatDone (core : Fin 8) (pass : Bool) (s : State) : Out :=
  .next (
    let n := core.val
    match s.dec.kat.getD n none with
    | none => s
    | some e =>
      if e ≤ s.up then
        let s := s.onDec fun d => { d with kat := updAt d.kat n fun _ => none }
        if pass then s
        else
          let s := startCodec (.dec core) 5 (raise .dec 9 none (srcUnit s (decSrc n)) s)
          match s.dec.busy.getD n none with
          | some c => s.onDecCtx c fun x => { x with pic := x.pic.map fun p =>
              let w := (p.errs.find? fun e => e.code == decWatchdogCode && e.core == some n).getD
                { code := 0, addr := noBlock }
              { p with errs := p.errs ++ [{ w with code := decCoreFault }] } }
          | none => s
      else s)

/-! ## The runtime defect record (R565, R566, R649, R650) -/

/-- The record in use: the copy with the higher SEQ among those whose CRC holds (R565). -/
def defectCopy (f : Flash) : Option DefectCopy :=
  match f.copyA.valid, f.copyB.valid with
  | true, true => some (if f.copyA.seq ≥ f.copyB.seq then f.copyA else f.copyB)
  | true, false => some f.copyA
  | false, true => some f.copyB
  | false, false => none

/-- The copy that the next write replaces: the one with the lower SEQ (R565). -/
def writesB (f : Flash) : Bool := decide (f.copyB.seq ≤ f.copyA.seq)

/-- Write a list of entries as the record, with the next SEQ. -/
def putRecord (es : List Defect) (f : Flash) : Flash :=
  let c : DefectCopy := { seq := (max f.copyA.seq f.copyB.seq + 1) % 2 ^ 32, entries := es, valid := true }
  if writesB f then { f with copyB := c } else { f with copyA := c }

/-- A write of the record is due: defects wait, and a write that failed waits for the next one (R650). -/
def recordDue (f : Flash) : Bool := f.unsaved != [] && f.stuck != some f.unsaved.length

/-- DEFECT_RECORD_WRITE: what waits is recorded; a record with 254 entries accepts no more (R566). -/
def execDefectRecordWrite (s : State) : Out :=
  .next (if s.power.booted && recordDue s.flash then
      let old := match defectCopy s.flash with | some c => c.entries | none => []
      let room := 254 - old.length
      let new := s.flash.unsaved.take room
      let lost := decide (room < s.flash.unsaved.length)
      let s := s.onFlash fun f =>
        { (if new = [] then f else putRecord (old ++ new) f) with unsaved := [], stuck := none }
      if lost then setInt .mgt 13 s else s
    else s)

/-- FLASH_TIMEOUT: the copy being written stays as it stands, whether it still is valid is left open;
the entry waits for the unit count to change (R650). -/
def execFlashTimeout (s : State) : Out :=
  .next (if s.power.booted && recordDue s.flash then
      let (v, s) := s.takeFree
      let s := s.onFlash fun f =>
        let f := if writesB f then { f with copyB := { f.copyB with valid := f.copyB.valid && v.getLsbD 0 } }
          else { f with copyA := { f.copyA with valid := f.copyA.valid && v.getLsbD 0 } }
        { f with stuck := some f.unsaved.length }
      setInt .mgt 13 s
    else s)

end Sys2Proof.Machine
end

