-- ==== Sys2Proof/Machine/Bist.lean ====
section
/-! DEFINITION. In-service self-test in slices (R552 to R558, R628). -/

namespace Sys2Proof.Machine

def sliceNone : Nat := 0
def slicePass : Nat := 1
def sliceFail : Nat := 2
def sliceBusy : Nat := 3
def sliceNoSession : Nat := 4
def sliceBadTarget : Nat := 5
def sliceAborted : Nat := 6
def sliceRunning : Nat := 7

/-- First beat, at least 2 beats ahead, whose low 32 bits are those of BIST_SLICE_BEAT. -/
def sliceBeat (s : State) : Nat :=
  let b := s.beat + 2
  b + (s.bist.beat.toNat + 2 ^ 32 - b % 2 ^ 32) % 2 ^ 32

/-- A write of BIST_SLICE_CMD: a reserved KIND stays as it was (R13); a GO during a slice is discarded;
in FIELD a GO needs a session (R552, R554). -/
def sliceCmdWrite (v : W32) (s : State) : State :=
  if rbit v 31 && s.bist.slice.isSome then invalidProg .bist s
  else
    let bad := rfld v 2 0 ≥ 6
    let s := if bad then invalidProg .bist s else s
    let s := s.onBist fun b =>
      { b with cmd := (if bad then mergeBits 0x7ff8#32 b.cmd v else v) &&& 0x7fff#32 }
    if rbit v 31 then
      if isField s && s.sec.session.isNone then s.onBist fun b => { b with result := sliceNoSession }
      else
        let c := s.bist.cmd
        s.onBist fun b =>
          { b with result := sliceRunning
                   slice := some { kind := rfld c 2 0, index := rfld c 7 3, segment := rfld c 12 8
                                   preserve := rbit c 13, started := false, saved := []
                                   due := if rbit c 14 then sliceBeat s * 1100 else 0 } }
    else s

def execGo (v : W32) (s : State) : Out := .next (hostWrite (sliceCmdWrite (v ||| 0x80000000#32)) s)

/-- The target exists, is not ABSENT, and the segment is in the segment table; a PRESERVE memory test
of a compute core needs its save area (R553, R555, R557). -/
def sliceTargetOk (s : State) (x : Slice) : Bool :=
  let codecSeg := x.segment < 8 || x.segment == 16
  match x.kind with
  | 0 => decide (x.index < 24) && !coreAbsent s x.index && decide (x.segment ≤ 16) &&
      (!(x.preserve && x.segment == 16) || rbit (s.core x.index).saveLo 0)
  | 1 => s.mgt.coreSpares.contains x.index && decide (x.segment ≤ 16) && !(x.preserve && x.segment == 16)
  | 2 => decide (x.index < 8) && decState s x.index != .absent && codecSeg
  | 3 => s.mgt.decSpares.contains x.index && codecSeg
  | 4 => decide (x.index < 4) && encState s x.index != .absent && codecSeg
  | _ => s.mgt.encSpares.contains x.index && codecSeg

/-- A condition of R555 other than the target's is not met. -/
def sliceBusyNow (s : State) (x : Slice) : Bool :=
  match x.kind with
  | 0 => (s.core x.index).job.isSome || inTakeover s x.index ||
      (s.mesh.rstBusy && partOfCore s x.index == s.mesh.rstPart)
  | 2 => (s.dec.busy.getD x.index none).isSome || (s.dec.kat.getD x.index none).isSome ||
      decState s x.index != .ok
  | 4 => (s.enc.busy.getD x.index none).isSome || encState s x.index != .ok
  | _ => false

/-- Mark a slice's target as taken (R556). -/
def takeTarget (x : Slice) (s : State) : State :=
  match x.kind with
  | 0 => s.onCore x.index fun c => { c with slice := true }
  | 2 => s.onDec fun d => { d with slice := updAt d.slice x.index fun _ => true }
  | 4 => s.onEnc fun e => { e with slice := updAt e.slice x.index fun _ => true }
  | _ => s

/-- A PRESERVE memory test saves the four memories to frame 3; the frame's layout is left open. -/
def preserveSave (x : Slice) (s : State) : State :=
  if x.kind = 0 ∧ x.preserve = true ∧ x.segment = 16 then
    let (bs, s) := freeBytes (63488 * 64) s
    let s := store (coreSrc x.index) (frameBase s x.index 3) bs s
    s.onBist fun b => { b with slice := b.slice.map fun y =>
      { y with saved := s.mem.filter fun c => inCore (slicePhys s x) c.1 } }
  else s

/-- SLICE_START: at the commanded beat, or as soon as GO (R554 to R557). -/
def execSliceStart (s : State) : Out :=
  .next (match s.bist.slice with
    | none => s
    | some x =>
      if x.started || (x.due != 0 && s.now != x.due) then s
      else if s.mgt.safe || (sliceTargetOk s x && sliceBusyNow s x) then
        s.onBist fun b => { b with slice := none, result := sliceBusy }
      else if !sliceTargetOk s x then s.onBist fun b => { b with slice := none, result := sliceBadTarget }
      else preserveSave x (takeTarget x (s.onBist fun b =>
        { b with slice := some { x with started := true } })))

/-- What a memory test leaves in a compute core's memories: unspecified values with valid check bits, or
what PRESERVE saved (R557). -/
def sliceMemory (x : Slice) (s : State) : State :=
  if x.kind ≤ 1 ∧ x.segment = 16 then
    let p := slicePhys s x
    if x.preserve then
      { s with mem := memPutAll (memDrop (inCore p) s.mem) x.saved
               badWords := s.badWords.filter fun w => !inCore p w }
    else loseMem (inCore p) s
  else s

/-- A failed slice on a logical unit starts its takeover; on a spare it removes the spare (R558). -/
def sliceFailed (x : Slice) (s : State) : State :=
  match x.kind with
  | 0 => startTakeover x.index 3 s
  | 2 => startCodec (.dec (Fin.ofNat 8 x.index)) 3 s
  | 4 => startCodec (.enc (Fin.ofNat 4 x.index)) 3 s
  | 1 => setInt .mgt 10 (noteDefect 1 x.index 3
      (s.onMgt fun m => { m with coreSpares := m.coreSpares.erase x.index }))
  | 3 => setInt .mgt 10 (noteDefect 2 x.index 3
      (s.onMgt fun m => { m with decSpares := m.decSpares.erase x.index }))
  | _ => setInt .mgt 10 (noteDefect 3 x.index 3
      (s.onMgt fun m => { m with encSpares := m.encSpares.erase x.index }))

/-- SLICE_DONE. -/
def execSliceDone (pass : Bool) (s : State) : Out :=
  .next (match s.bist.slice with
    | none => s
    | some x =>
      if x.started then
        let s := endSlice (if pass then slicePass else sliceFail) (sliceMemory x s)
        let s := s.onBist fun b => { b with slices := satInc 65535 b.slices }
        let s := if pass then s else sliceFailed x s
        let s := setInt .bist 8 s
        if x.kind = 4 then encAssign s else s
      else s)

/-- A function-level or hot reset ends a slice with ABORTED after its memories are in order (R557). -/
def abortSlice (s : State) : State :=
  match s.bist.slice with
  | none => s
  | some x => endSlice sliceAborted (if x.started then sliceMemory x s else s)

end Sys2Proof.Machine
end

