-- ==== Sys2Proof/Machine/Boot.lean ====
section
/-! DEFINITION. Fundamental reset, loss of supply, and bring-up to READY or to a boot stop (R524, R527,
R535 to R551, R566, R592, R600, R631, R643, R655). -/

namespace Sys2Proof.Machine

/-! ## Fundamental reset (R524, R527) -/

/-- The machine under fundamental reset: what a reset does not touch is the fuses, the flash, the
memories, the stack's self-refresh, the waiting commands and the outside. -/
def coldState (s : State) : State :=
  { State.reset with
    pending := s.pending, free := s.free, resp := [], link := s.link, mem := s.mem, badWords := s.badWords
    fuse := s.fuse, flash := { s.flash with unsaved := [], stuck := none }
    hbm := { keep := s.hbm.keep, inSr := s.hbm.inSr }
    power := { State.reset.power with perst := s.power.perst, railsOk := s.power.railsOk } }

/-- Data that no reset keeps: everything but the banks that self-refresh retains (R476, R527). -/
def lostAtReset (s : State) (k : Nat) : Bool := !(s.hbm.inSr && k < hbmEnd && !bankLost s.hbm.keep k)

/-- PERST_N_ASSERT: fundamental reset; the trip latch releases (R524, R655). -/
def execPerstNAssert (s : State) : Out :=
  .next (if s.power.perst then s
    else (coldState (loseMem (lostAtReset s) s)).onPower fun p => { p with perst := true })

/-- INPUT_POWER_LOSS: a supply rail is removed: nothing volatile is kept, self-refresh included, and
the trip latch releases when VDDIO falls (R643, R655). -/
def execInputPowerLoss (vddioLost : Bool) (s : State) : Out :=
  .next (
    let therm := s.power.therm && !vddioLost
    let s := coldState (loseMem (fun _ => true) (s.onHbm fun h => { h with inSr := false }))
    s.onPower fun p => { p with railsOk := false, therm := therm })

/-! ## Firmware (R536, R591, R592) -/

/-- The digest that an image's signature covers. -/
def fwMessage (f : FwImage) : List Byte := digest (f.head ++ f.body)

/-- The four checks of an image. -/
def fwOk (s : State) (f : FwImage) : Bool :=
  let h := digest f.pubKey
  f.magic == 0x46574c42 && f.version == 1 && decide (1 ≤ f.bodyBytes) && decide (f.bodyBytes ≤ 1040384) &&
  f.bodyBytes == f.body.length && f.resvZero &&
  ((h == s.fuse.vendorKey0 && !bitAt s.fuse.vendorRev 0) ||
   (h == s.fuse.vendorKey1 && !bitAt s.fuse.vendorRev 1)) &&
  decide (s.fuse.svnFloor ≤ f.svn) && Config.mldsaVerify f.sig (fwMessage f) f.pubKey

/-- The image that runs, with whether it is slot B's. -/
def fwChosen (s : State) (b : BootInfo) : Option (FwImage × Bool) :=
  let a := (b.slotA.filter (fwOk s)).map fun f => (f, false)
  let c := (b.slotB.filter (fwOk s)).map fun f => (f, true)
  if b.bootSel.getLsbD 1 then c.or a else a.or c

/-! ## The window check (R538, R539) -/

/-- A failing quantity: its row, boot code, unit kind and measured value. -/
structure WindowFail where
  row  : Nat
  code : Nat
  kind : Nat
  got  : Int
deriving DecidableEq, Repr

/-- The first quantity outside its window: the monitors against the bandgap, then the rows in order. -/
def windowFail (w : WindowMeas) : Option WindowFail :=
  let out (lo hi x : Int) : Bool := decide (x < lo) || decide (hi < x)
  -- tenths of a millivolt, for the half millivolts of VDD_SRAM and VDD_PHY
  let rows : List (Bool × WindowFail) :=
    [(out (-15) 15 w.bandgap, ⟨7, 4, 17, w.bandgap⟩),
     (out 730 770 w.vddCore, ⟨0, 4, 18, w.vddCore⟩),
     (out 7125 7875 (10 * w.vddSram), ⟨1, 4, 18, w.vddSram⟩),
     (out 7125 7875 (10 * w.vddPhy), ⟨1, 4, 18, w.vddPhy⟩),
     (out 1710 1890 w.vddio, ⟨2, 4, 18, w.vddio⟩),
     (out 1710 1890 w.hbm18, ⟨2, 4, 18, w.hbm18⟩),
     (out 1067 1133 w.hbm11, ⟨3, 4, 18, w.hbm11⟩),
     (out 380 420 w.hbm04, ⟨4, 4, 18, w.hbm04⟩),
     (out 24750 25250 w.sysclk, ⟨5, 5, 18, w.sysclk⟩),
     (decide (w.tempMin < -40), ⟨6, 6, 17, w.tempMin⟩),
     (decide (105 < w.tempMax), ⟨6, 6, 17, w.tempMax⟩)]
  (rows.find? (·.1)).map (·.2)

/-! ## Boot stops (R547, R550) -/

/-- Boot stops in a stage with a code and the unit that failed. -/
def bootStop (stage code kind num : Nat) (s : State) : State :=
  (s.onMgt fun m => { m with bootStage := stage, bootCode := code, bootUnitKind := kind
                             bootUnitNum := num % 128 }).onPower fun p =>
    { p with stopped := true, window := none }

/-- Stop of the window check; the number of the monitor, sensor or supply is left open. -/
def windowStop (f : WindowFail) (s : State) : State :=
  let (v, s) := s.takeFree
  bootStop 5 f.code f.kind v.toNat
    (s.onMgt fun m => { m with unitQuantity := f.row, unitMeasured := f.got })

/-! ## Tests (R543 to R549) -/

/-- A failed test is of a unit with spares: compute, decoder or encoder core. -/
def spared (f : BootFail) : Bool := f.kind == 1 || f.kind == 2 || f.kind == 3

/-- A lane failure that does not stop boot: CSI-2, or PCI Express other than lane 0 (R548). -/
def laneOnly (f : BootFail) : Bool := f.step == 6 && (f.kind == 15 || (f.kind == 13 && f.num != 0))

/-- Boot code of a failure without a spare, by step (R548, R550). -/
def stopCode (f : BootFail) : Nat :=
  match f.step with
  | 6 => if f.kind = 10 then 9 else if f.kind = 13 then 0x0e else 0x0a
  | 7 => 8 | 8 => 9 | 12 => 0x0c | 13 => 0x0d
  | _ => 0x0a

/-- Numbers below `n` that are good: not fused bad, not in the record, not failed in a step up to
`step`. -/
def goodUnits (kind n bad : Nat) (rec_ : List Defect) (fails : List BootFail) (step : Nat) : List Nat :=
  (List.range n).filter fun p =>
    !bitAt bad p && !(rec_.any fun d => d.kind == kind && d.phys == p) &&
    !(fails.any fun f => f.kind == kind && f.num == p && f.step ≤ step)

/-- Map of `n` logical units on the good physical ones (R546, R551). -/
def mapUnits (n : Nat) (good : List Nat) : List MapEntry :=
  (List.range n).map fun i => match good[i]? with
    | some p => { phys := p, state := .ok }
    | none => { phys := 0, state := .absent }

/-- Steps 6 to 14 with the fails that are tested for: boot stops, or the device is in service. -/
def bootTests (b : BootInfo) (fails : List BootFail) (s : State) : State :=
  let rec_ := match defectCopy s.flash with | some c => c.entries | none => []
  let good (kind n bad step : Nat) := goodUnits kind n bad rec_ fails step
  let dead := fails.find? fun f => !spared f && !laneOnly f
  let none_ := (List.range 14).find? fun st => 9 ≤ st &&
    ((good 1 28 s.fuse.badCore st).isEmpty || (good 2 9 s.fuse.badDec st).isEmpty)
  let stop : Option (Nat × Nat × Nat × Nat) :=
    match dead.map (fun f => (f.step, stopCode f, f.kind, f.num)), none_.map fun st => (st, 0x0b, 0, 0) with
    | some x, some y => some (if x.1 ≤ y.1 then x else y)
    | x, y => x.or y
  let ucode : Option (Nat × Nat × Nat × Nat) := if b.ucodeOk then none else some (12, 0x0c, 14, 0)
  let first := match stop, ucode with
    | some x, some y => some (if x.1 ≤ y.1 then x else y)
    | x, y => x.or y
  match first with
  | some (st, code, kind, num) => bootStop st code kind num s
  | none =>
    let cores := good 1 28 s.fuse.badCore 14
    let decs := good 2 9 s.fuse.badDec 14
    let encs := good 3 5 s.fuse.badEnc 14
    let s := s.onMgt fun m =>
      { m with
        bootStage := 14, bootCode := 0
        coreMap := mapUnits 24 cores, decMap := mapUnits 8 decs, encMap := mapUnits 4 encs
        coreSpares := cores.drop 24, decSpares := decs.drop 8, encSpares := encs.drop 4
        div := min 2 s.fuse.variant }
    let s := s.onCsi fun c =>
      { c with portBad := (List.range 8).map fun p =>
          fails.any fun f => laneOnly f && f.kind == 15 && f.num / 4 == p }
    let lanes := (List.range 8).filter fun n => fails.any fun f => laneOnly f && f.kind == 13 && f.num == n
    let s := s.onHif fun h => { h with badLanes := (lanes.map (2 ^ ·)).sum }
    let s := trainAll (s.onHbm fun h => { h with inSr := false, keep := 0x3f })
    let s := { s with hdrs := s.hdrs.map fun h => { h with ready := true } }
    let s := (List.range 24).foldl (fun s n =>
      if coreAbsent s n then s.onHdr (corePage n) fun h => { h with ready := false } else s) s
    let s := s.onPower fun p => { p with booted := true, window := none, vddMv := 750 }
    if (defectCopy s.flash).isNone then setInt .mgt 12 s else s

/-- Failures that the selected self-test finds, in order of the steps: quick self-test runs no logic
BIST (R535). -/
def bootFails (quick : Bool) (b : BootInfo) : List BootFail :=
  (List.range 8).flatMap fun i =>
    b.fails.filter fun f => f.step == 6 + i && !(quick && f.step == 10)

/-! ## The sequence (R535 to R542, R600) -/

/-- Bits set in BAD_CORE. -/
def badCount (n : Nat) : Nat := (setBits 28 n).length

/-- Steps 3 to 5: fuses with the shadows that configuration space reads (R499), PLLs, first window check;
then the tests. -/
def bootFrom3 (b : BootInfo) (s : State) : State :=
  if !b.fuseOk || badCount s.fuse.badCore > 4 || s.fuse.variant == 3 then bootStop 3 3 14 0 s
  else if s.fuse.life = .scrap then bootStop 3 0x0f 0 0 s
  else
    let s := s.onFlash fun f => { f with boots := (f.boots + 1) % 2 ^ 32 }
    let s := s.onHif fun h => { h with subsys := s.fuse.subsys, serial := s.fuse.serial }
    if !b.pllLock then bootStop 4 7 16 0 s
    else match windowFail b.window with
      | some _ => (s.onMgt fun m => { m with bootStage := 5 }).onPower fun p => { p with window := some (0, b) }
      | none => bootTests b (bootFails s.mgt.bootQuick b) s

/-- PERST_N_RELEASE: the rails are in range by then (R640, R641); the life-cycle state burned before
takes effect, and the first boot in RETURN tests in full and leaves self-refresh without retention
(R599, R600). -/
def execPerstNRelease (b : BootInfo) (s : State) : Out :=
  .next (if s.power.perst then
      let now := s.fuse.nextLife.getD s.fuse.life
      let fresh := now == .return_ && s.fuse.life != .return_
      let s := s.onFuse fun f => { f with life := now, nextLife := none }
      let s := if fresh then loseMem (fun k => k < hbmEnd) (s.onHbm fun h => { h with inSr := false }) else s
      let s := s.onPower fun p => { p with perst := false, railsOk := true, booted := false, stopped := false }
      let s := s.onKtl fun k => { k with ppsRef := k.up }
      let quick := b.bootSel.getLsbD 0 && !fresh
      let s := s.onMgt fun m => { m with bootQuick := quick, bootStage := 2 }
      match fwChosen s b with
      | none => bootStop 2 (if b.slotA.isNone && b.slotB.isNone then 2 else 1) 0 0 s
      | some (f, slotB) =>
        bootFrom3 b (s.onMgt fun m =>
          { m with bootSlotB := slotB, fwSvn := f.svn, fwVersion := f.release, fwDigest := fwMessage f })
    else s)

/-- WINDOW_RETRY: the check repeats every 1 ms for up to 100 ms (R539). -/
def execWindowRetry (m : WindowMeas) (s : State) : Out :=
  .next (match s.power.window with
    | none => s
    | some (n, b) =>
      match windowFail m with
      | none => bootTests b (bootFails s.mgt.bootQuick b) s
      | some f =>
        if n + 1 < 100 then s.onPower fun p => { p with window := some (n + 1, b) }
        else windowStop f s)

end Sys2Proof.Machine
end

