-- ==== Sys2Proof/Machine/Mesh.lean ====
section
/-! DEFINITION. The mesh: slot tables and their commit, partitions and the partition reset (R478 to
R495, R621, R625). Flits are in Flits.lean. -/

namespace Sys2Proof.Machine

/-! ## MESH_ST_ADDR and MESH_ST_DATA (R485, R621) -/

/-- A write of MESH_ST_ADDR: a reserved PORT or SLOT leaves its field (R13). -/
def stAddrWrite (v : W32) (s : State) : State :=
  let port := rfld v 7 5
  let slot := rfld v 18 8
  let s := if port > 4 ∨ slot ≥ 1100 then invalidProg .mesh s else s
  s.onMesh fun m =>
    { m with stStop := rfld v 4 0, stPort := if port > 4 then m.stPort else port
             stSlot := if slot ≥ 1100 then m.stSlot else slot, stActive := rbit v 31 }

def stKey (s : State) : Nat := tabKey s.mesh.stStop s.mesh.stPort s.mesh.stSlot

def stAdvance (s : State) : State := s.onMesh fun m => { m with stSlot := (m.stSlot + 1) % 1100 }

/-- A write of a shadow entry: discarded with INVALID_PROG during a commit (R625), discarded while
ACTIVE selects the active bank; the set is no longer committed (R614, R615). -/
def stDataWrite (w : W32) (s : State) : State :=
  if s.mesh.checking then invalidProg .mesh s
  else if s.mesh.stActive then s
  else shadowWrite .mesh (tabGet s.mesh.shadow (stKey s) != w)
    (fun s => s.onMesh fun m => { m with shadow := tabPut m.shadow (stKey s) w, committed := none }) s

def execMeshStDataAccess (w : Option W32) (s : State) : Out :=
  .next (match w with
    | some v => hostWrite (fun s => stAdvance (stDataWrite v s)) s
    | none => hostRead (fun s =>
        stAdvance (s.answer (tabGet (if s.mesh.stActive then s.mesh.active else s.mesh.shadow) (stKey s)))) s)

/-! ## Commit (R485, R625) -/

/-- A write of MESH_ST_CTRL starts a commit; during a commit, or of a locked shadow, it is discarded. -/
def stCtrlWrite (v : W32) (s : State) : State :=
  if s.mesh.checking || locked s .mesh then invalidProg .mesh s
  else s.onMesh fun m => { m with stCtrl := v, checking := true }

def execMeshStCtrlWrite (v : W32) (s : State) : Out := .next (hostWrite (stCtrlWrite v) s)

def stopX (s : Nat) : Nat := s % 8
def stopY (s : Nat) : Nat := s / 8

/-- Output by which a flit for `dest` leaves a stop: x first, then y (R480). -/
def nextOut (stop dest : Nat) : Nat :=
  if stopX stop < stopX dest then 1
  else if stopX stop > stopX dest then 3
  else if stopY stop > stopY dest then 0
  else if stopY stop < stopY dest then 2
  else 4

/-- Stop across a link output of a stop; none at the edge of the grid. -/
def neighbour (stop out : Nat) : Option Nat :=
  match out with
  | 0 => if stopY stop = 0 then none else some (stop - 8)
  | 1 => if stopX stop = 7 then none else some (stop + 1)
  | 2 => if stopY stop = 3 then none else some (stop + 8)
  | 3 => if stopX stop = 0 then none else some (stop - 1)
  | _ => none

/-- The port across a link from a port. -/
def facing (port : Nat) : Nat := (port + 2) % 4

/-- A stop lies on the route from `src` to `dest`. -/
def onRoute (src dest stop : Nat) : Bool :=
  let mid (a b x : Nat) : Bool := min a b ≤ x && x ≤ max a b
  (stopY stop == stopY src && mid (stopX src) (stopX dest) (stopX stop)) ||
  (stopX stop == stopX dest && mid (stopY src) (stopY dest) (stopY stop))

/-- INPUT names a link, which brings flits of an upstream output, or the injection port. -/
def isPlanned (w : W32) : Bool := 1 ≤ seInput w && seInput w ≤ 5

/-- Code of an entry's first failing check (R485), 0 when none fails. -/
def stEntryCode (tab : List (Nat × W32)) (k : Nat) (w : W32) : Nat :=
  let stop := k / 5500
  let port := k / 1100 % 5
  let slot := k % 1100
  let i := seInput w
  let reserved := rfld w 31 22 != 0 || i == 7 ||
    ((i == 0 || i == 6) && (seDest w != 0 || seSrc w != 0)) ||
    (i == 6 && 8 ≤ sePart w && sePart w != 15)
  let upstream : Bool := match neighbour stop (i - 1) with
    | some u =>
      let e := tabGet tab (tabKey u (facing (i - 1)) ((slot + 1097) % 1100))
      isPlanned e && seSrc e == seSrc w && seDest e == seDest w
    | none => false
  let chain := 1 ≤ i && i ≤ 4 &&
    (!upstream || !(onRoute (seSrc w) (seDest w) stop && nextOut stop (seDest w) == port))
  let eject := port == 4 && isPlanned w && seDest w != stop
  let field := (i != 5 && (seRskip w || seAgent w != 0)) || (i != 6 && sePart w != 0)
  if reserved then 1 else if chain then 2 else if eject then 3 else if field then 4 else 0

/-- The first failing entry of the shadow set, in order of stop, port and slot, with its code. -/
def firstFailing (tab : List (Nat × W32)) : Option (Nat × Nat) :=
  (tab.find? fun e => stEntryCode tab e.1 e.2 != 0).map fun e => (e.1, stEntryCode tab e.1 e.2)

/-- COMMIT_DONE: the shadow set is committed, or the first failing entry recorded (R485, R615, R625). -/
def execCommitDone (s : State) : Out :=
  .next (if s.mesh.checking then
      let s := match firstFailing s.mesh.shadow with
        | none =>
          (s.onMesh fun m =>
            { m with checking := false, committed := some m.stCtrl, errCode := 0 }).onHdr .mesh
            fun h => { h with complete := true }
        | some (k, c) =>
          (s.onMesh fun m =>
            { m with checking := false, committed := none, errStop := k / 5500, errPort := k / 1100 % 5
                     errSlot := k % 1100, errCode := c }).onHdr .mesh fun h => { h with complete := false }
      setInt .mesh 9 s
    else s)

/-! ## Partitions (R490) -/

/-- A write of MESH_PARTp, direct or in the shadow (R490, R614). -/
def meshPartWrite (p : Nat) (v : W32) (s : State) : State :=
  let v := v &&& 0x7fffffff#32
  if (s.hdr .mesh).shadowSel then
    shadowWrite .mesh (nextPart s p != v)
      (fun s => s.onMesh fun m => { m with shPart := updAt m.shPart p fun _ => some v }) s
  else s.onMesh fun m => { m with part := updAt m.part p fun _ => v }

/-! ## Partition reset (R492 to R495) -/

/-- Engine state of a core after a partition reset: its memories and registers stay (R492 step 5). -/
def resetEngine (n : Nat) (s : State) : State :=
  let base := coreKey s n 0x400000
  let s := s.onCore n fun x =>
    { clearCore x with sat := List.replicate 1024 0, plane0 := {}, plane1 := {}
                       vregs := List.replicate 8192 0, nmsFlags := [] }
  { s with mem := memDrop (fun a => base ≤ a && a < base + 0xa0000) s.mem
           badWords := s.badWords.filter fun w => !(base ≤ w && w < base + 0xa0000) }

/-- One context of the partition: ACTIVE jobs are aborted, SUSPENDED ones end (R492 step 2, R495). -/
def resetCtx (c : Nat) (s : State) : State :=
  (List.range 64).foldl (fun s k =>
    match (s.slot c k).state with
    | .active =>
      match (List.range 24).find? fun n => (s.core n).job.any fun j => j.ctx == c && j.slot == k with
      | some n => finishJob n jsAborted s
      | none => s
    | .suspended => discardSaved c k s
    | _ => s) s

/-- The reset of a partition (R492). -/
def partReset (p : Nat) (s : State) : State :=
  let s := s.onMesh fun m => { m with rstPart := p, rstBusy := true, rstAt := s.up }
  let s := (List.range 256).foldl (fun s c =>
    if (s.ctx c).enabled && (s.ctx c).part == p then resetCtx c s else s) s
  let s := (List.range 7).foldl (fun s m => if partOfClu s m = p then sauStop m s else s) s
  (List.range 24).foldl (fun s n => if partOfCore s n = p then resetEngine n s else s) s

/-- A write of MESH_PART_RESET: GO is ignored while BUSY. -/
def partResetWrite (v : W32) (s : State) : State :=
  let s := s.onMesh fun m => { m with rstSel := rfld v 2 0 }
  if rbit v 8 && !s.mesh.rstBusy then partReset (rfld v 2 0) s else s

def execMeshPartResetGo (v : W32) (s : State) : Out := .next (hostWrite (partResetWrite (v ||| 0x100#32)) s)

/-- PART_RESET_DONE: 20 µs after GO. -/
def execPartResetDone (s : State) : Out :=
  .next (if s.mesh.rstBusy = true ∧ s.mesh.rstAt + 22000 ≤ s.up then
      setInt .mesh 8 (s.onMesh fun m => { m with rstBusy := false })
    else s)

end Sys2Proof.Machine
end

