-- ==== Sys2Proof/Machine/Requests.lean ====
section
/-! DEFINITION. What a requester does with a response other than OK (R423, R452, R494, R496). -/

namespace Sys2Proof.Machine

/-- The requester belongs to the partition in reset: the response is discarded at its stop and not
logged (R494). -/
def respDropped (s : State) (src : Src) : Bool :=
  s.mesh.rstBusy && match src with
    | .core n => partOfCore s n.val == s.mesh.rstPart
    | .saucer m => partOfClu s m.val == s.mesh.rstPart
    | _ => false

/-- Fallback address of a job. -/
def fbOf (s : State) (j : Job) : Nat := (parseHdr (peek s (s.slot j.ctx j.slot).image 128)).fallback

/-- A line of the fallback header, by number. -/
def fbLine (fb l : Nat) : Bool := fb != 0 && (l == fb / 64 || l == fb / 64 + 1)

/-- Lines that the loader reads of the fallback header and of the dependency word, whose loss rejects
the job when verification ends (R200, R204). -/
def verifyLine (s : State) (j : Job) (a : Nat) : Bool :=
  let k := s.slot j.ctx j.slot
  fbLine (fbOf s j) (a / 64) || (k.depEn && a / 64 == k.depAddr / 64)

/-- Ticks that verification becomes shorter by when the first line of a readable fallback header is answered
other than OK: the fallback then adds 1,100 only (R200). -/
def fbSaved (s : State) (j : Job) (a : Nat) : Nat :=
  let fb := fbOf s j
  if fbLine fb (a / 64) && !j.badReads.any (fbLine fb) then fbTicks s fb - 1100 else 0

/-- A core's job ends with JS_ABORTED (R452, R496); a batch descriptor that could not be read leaves a
mask of 0 (R423), and what R204 checks is left to the end of verification. -/
def coreNeg (n a : Nat) (s : State) : State :=
  let x := s.core n
  match x.job with
  | none => s
  | some j =>
    let k := s.slot j.ctx j.slot
    if x.phase = .verify ∧ verifyLine s j a = true then
      s.onCore n fun x =>
        { x with due := x.due - fbSaved s j a, job := some { j with badReads := a / 64 :: j.badReads } }
    else if x.phase = .run ∧ j.mi = 0 ∧ j.begun = false ∧ k.batch ≠ 0 ∧ a / 64 = k.batch / 64 then
      s.onCore n fun x => { x with mask := some 0, maskAll := true }
    else abortJob n s

/-- The error that a failed request of a decoder core is: of a line of the access unit, the blocks that
take data from it; of a reference, the first block that reads it; of another line, no block (R316). -/
def negCut (x : DecCtx) (p : DecPic) (a : Nat) : DecCut :=
  let l := a / 64 * 64
  if overlaps l 64 p.data.1 p.data.2 then dataCut p.au (l - p.data.1) (l + 64 - p.data.1)
  else
    let hit := match x.seqInfo with
      | some q => p.au.reads.find? fun r => (readRanges x q r).any fun g => overlaps l 64 g.1 g.2
      | none => none
    { code := decMemError, addr := (hit.map fun r => blockAddr r.block).getD noBlock
      blocks := (hit.map (·.block)).toList }

/-- A decoder core records DEC_MEM_ERROR in its picture (R316). -/
def decNeg (n a : Nat) (s : State) : State :=
  match s.dec.busy.getD n none with
  | none => s
  | some c => s.onDecCtx c fun x =>
      { x with pic := x.pic.map fun p => { p with errs := p.errs ++ [negCut x p a] } }

/-- An encoder reports ENC_CORE_FAULT for the picture, without a takeover (R333, R496). -/
def encNeg (n : Nat) (s : State) : State :=
  match s.enc.busy.getD n none with
  | none => s
  | some c =>
    match (s.encCtx c).pic with
    | some p => encFail c p s
    | none => s

/-- A Saucer command ends with MEM_ERROR; how many rows were written before is open (R264). -/
def sauNeg (m : Nat) (s : State) : State :=
  match (s.clu m).cmd with
  | none => s
  | some c =>
    let (v, s) := s.takeFree
    sauCut m c (fun most => v.toNat % (most + 1)) 4 s

/-- The Caddy's command ends with MEM_ERROR (R417): the one in progress, or the next one, whose
reads failed; a command that could not be read itself has no done record. -/
def cdyNeg (a : Nat) (s : State) : State :=
  match s.cdy.now with
  | some _ => cdyCut s
  | none =>
    match nextRing s with
    | some n =>
      let c := ringCmdAddr s n
      if cdyIdle s then endAfter 0 n (peekNat s c 64) cdyMem (a / 64 != c / 64) s else s
    | none => s

/-- The outcome of a response other than OK at its requester, by the requester's kind (R496). -/
def respond (src : Src) (r : Resp) (a : Nat) (s : State) : State :=
  if r = .ok ∨ respDropped s src = true then s
  else
    let s := logResp src r a s
    match src with
    | .core n => coreNeg n.val a s
    | .decoder n => decNeg n.val a s
    | .encoder n => encNeg n.val s
    | .scaler u => sclCut u.val sclMemError s
    | .saucer m => sauNeg m.val s
    | .caddy => cdyNeg a s
    | .hdma ch => if (s.dma ch.val).state = .run then dmaHalt ch.val 6 r s else s
    | .strainer | .spout | .bar2 | .mgmt | .sched | .csi => s

/-- NEG_RESPONSE: a response flit reaches its requester. -/
def execNegResponse (src : Src) (resp : Resp) (addr : BitVec 48) (s : State) : Out :=
  .next (respond src resp addr.toNat s)

end Sys2Proof.Machine
end

