-- ==== Sys2Proof/Machine/Flits.lean ====
section
/-! DEFINITION. Flits in the routers: planned, open and relocated classes, their entries, buffers and
times, and flits that arrive damaged (R478 to R489, R493). -/

namespace Sys2Proof.Machine

/-! ## Where flits go (R478, R480, R483) -/

/-- Stop of an HBM pseudo-channel: channels 0 to 7 in row 0, 8 to 15 in row 3 (R478). -/
def pcStop (pc : Nat) : Nat := if pc / 2 < 8 then pc / 2 else pc / 2 + 16

/-- Stop and agent of the owner of a device address; no agent owns a hole. -/
def ownerStop (s : State) (a : Nat) : Option (Nat × Nat) :=
  match regionOf a with
  | .hbm => some (pcStop (pcOf s.hbm.map a), pcOf s.hbm.map a % 2)
  | .cluster m => some (clusterStop m, 5)
  | .core n _ => some (clusterStop (clusterOf s n), coreAgent s n)
  | .caddy => some (19, 0)
  | .hole => none

/-- Scheduling partition of the owner of an address: core windows and cluster memories have one (R490). -/
def ownerPart (s : State) (a : Nat) : Option Nat :=
  match regionOf a with
  | .cluster m => some (partOfClu s m)
  | .core n _ => some (partOfCore s n)
  | _ => none

/-- Scheduling partition of a requester: logical cores and Saucers have one (R490). -/
def srcPart (s : State) : Src → Option Nat
  | .core n => some (partOfCore s n.val)
  | .saucer m => some (partOfClu s m.val)
  | _ => none

/-- The traffic of a request and its responses is a relocated core's: it asks, or its window is asked for
(R489; log entry 41). -/
def relocates (s : State) (src : Src) (a : Nat) : Bool :=
  (match src with
    | .core n => s.mesh.reloc.testBit n.val
    | _ => false) ||
  match regionOf a with
  | .core n _ => s.mesh.reloc.testBit n
  | _ => false

/-- Class of a flit (R486, R489). -/
def flitClass (s : State) (src : Src) (a : Nat) (opened : Bool) : FlitClass :=
  if relocates s src a then .relocated else if opened then .opened else .planned

/-- A flit as its sender offers it, with the sender's partition: a request goes to the owner of its address,
a response comes back from it (R491). -/
def newFlit (s : State) (src : Src) (kind : FlitKind) (a : Nat) (opened : Bool) : Option Flit :=
  (ownerStop s a).map fun o =>
    let me := srcStop s src
    let f := if kind = .response then o else me
    let t := if kind = .response then me else o
    { cls := flitClass s src a opened, who := src, kind := kind, addr := a, src := f.1, dest := t.1
      agent := f.2, part := if kind = .response then ownerPart s a else srcPart s src, at_ := f.1, inp := 5, due := s.up }

/-! ## Entries (R482, R484, R486, R487) -/

/-- The entry that governs an output of a stop in the present tick. -/
def entryNow (s : State) (stop out : Nat) : W32 :=
  tabGet s.mesh.active (tabKey stop out (s.now % 1100))

/-- Output by which a flit leaves the router that holds it. -/
def flitOut (f : Flit) : Nat := nextOut f.at_ f.dest

/-- Place of an output in `Mesh.served`. -/
def outIdx (stop out : Nat) : Nat := stop * 5 + out

/-- The output still has the present tick free: one flit a tick (R479). -/
def outFree (s : State) (stop out : Nat) : Bool :=
  (s.mesh.served.getD (outIdx stop out) (0, 0)).2 != s.up + 1

/-- A planned flit holds the entry of the present tick: an injection entry of its agent and
destination, not idle under RSKIP, or the entry of its flow for the input it came by (R484). -/
def plannedEntry (s : State) (f : Flit) (w : W32) : Bool :=
  if f.inp = 5 then
    seInput w == 5 && seAgent w == f.agent && seDest w == f.dest && !(seRskip w && refreshes s s.beat)
  else seInput w == f.inp && seSrc w == f.src && seDest w == f.dest

/-- An OPEN entry that serves flits of a partition: of PART or of any, and idle when PART names a
fixed-plan partition (R486). -/
def openEntry (s : State) (p : Option Nat) (w : W32) : Bool :=
  seInput w == 6 && (sePart w == 15 || (p == some (sePart w) && partShare s (sePart w)))

/-- A flit that waits in a buffer and may take the present entry of its output. -/
def waiting (s : State) (stop out : Nat) (w : W32) (f : Flit) : Bool :=
  f.at_ == stop && flitOut f == out && f.due ≤ s.up &&
  match f.cls with
  | .planned => false
  | .opened => openEntry s f.part w
  | .relocated => seInput w == 0

/-- Place of a flit among the inputs in the round after the input served last. -/
def inputRank (last inp : Nat) : Nat := (inp + 4 - last % 5) % 5

/-- Flit `i` is the one its output serves: round-robin over inputs for the open class, the oldest of an
input first; arrival order for the relocated class (R486, R489). -/
def isServed (s : State) (i : Nat) (f : Flit) : Bool :=
  let out := flitOut f
  let w := entryNow s f.at_ out
  let last := (s.mesh.served.getD (outIdx f.at_ out) (0, 0)).1
  let key (k : Nat) (g : Flit) : Nat × Nat × Nat :=
    (if f.cls = .opened then inputRank last g.inp else 0, g.due, k)
  let before (a b : Nat × Nat × Nat) : Bool :=
    a.1 < b.1 || (a.1 == b.1 && (a.2.1 < b.2.1 || (a.2.1 == b.2.1 && a.2.2 < b.2.2)))
  waiting s f.at_ out w f &&
  (s.mesh.flits.zipIdx.all fun g =>
    !(g.1.cls == f.cls && waiting s f.at_ out w g.1) || !before (key g.2 g.1) (key i f))

/-- The buffer of an input has room for one more flit of a class: 8 flits (R486). -/
def bufRoom (s : State) (cls : FlitClass) (stop inp : Nat) : Bool :=
  (s.mesh.flits.filter fun g => g.cls == cls && g.at_ == stop && g.inp == inp).length < 8

/-! ## One hop (R480, R481, R493) -/

/-- The input of the neighbour that an output leads to. -/
def nextInput (out : Nat) : Nat := facing out + 1

/-- The output has sent a flit of an input in the present tick. -/
def markServed (f : Flit) (s : State) : State :=
  s.onMesh fun m => { m with served := updAt m.served (outIdx f.at_ (flitOut f)) fun _ => (f.inp, s.up + 1) }

/-- A flit takes its output: to the next router in 3 ticks, or out by the local port. -/
def sendFlit (f : Flit) (s : State) : State :=
  let t := markServed f s
  match neighbour f.at_ (flitOut f) with
  | none => t
  | some n =>
    t.onMesh fun m =>
      { m with flits := m.flits ++ [{ f with at_ := n, inp := nextInput (flitOut f), due := s.up + 3 }] }

/-- The router at the far side has room for a flit of a buffered class. -/
def creditOk (s : State) (f : Flit) : Bool :=
  f.cls == .planned ||
  match neighbour f.at_ (flitOut f) with
  | none => true
  | some n => bufRoom s f.cls n (nextInput (flitOut f))

/-- A MESH condition with a flit's destination in ERR_LOG0 and its source in ERR_LOG1. -/
def raiseFlit (b : Nat) (f : Flit) (s : State) : State :=
  raiseLog .mesh b (BitVec.ofNat 32 f.dest) (BitVec.ofNat 32 (f.src * 2 ^ 19 + f.agent * 2 ^ 24))
    (BitVec.ofNat 32 s.now) 0 s

/-- What the check of a flit finds: it goes on, corrected or not, or it is dropped and its requester
answered POISON (R479, R481). -/
def checkFlit (ecc : Ecc) (f : Flit) (go : State → State) (s : State) : State :=
  match ecc with
  | .clean => go s
  | .corrected => raiseFlit 9 f (go s)
  | .uncorrectable => respond f.who .poison f.addr (raiseFlit 8 f s)

/-- A flit enters the mesh: a planned one in its injection entry, another in the buffer of its stop,
2 ticks before it may leave it. An agent of a partition that is not in share mode has no open class; one that
belongs to no partition has it (R486, R491). -/
def injectFlit (ecc : Ecc) (f : Flit) (s : State) : State :=
  match f.cls with
  | .planned =>
    if plannedEntry s f (entryNow s f.src (flitOut f)) && outFree s f.src (flitOut f) then
      checkFlit ecc f (sendFlit f) s
    else s
  | .opened =>
    if f.part.all (partShare s) && bufRoom s .opened f.src 5 then
      checkFlit ecc f (fun s => s.onMesh fun m => { m with flits := m.flits ++ [{ f with due := s.up + 2 }] }) s
    else s
  | .relocated =>
    if bufRoom s .relocated f.src 5 then
      checkFlit ecc f (fun s => s.onMesh fun m => { m with flits := m.flits ++ [{ f with due := s.up + 2 }] }) s
    else s

/-- The router forwards flit `i`: a planned one in the tick its entry holds for it, another when its
output serves it. -/
def forwardFlit (ecc : Ecc) (i : Nat) (f : Flit) (s : State) : State :=
  let w := entryNow s f.at_ (flitOut f)
  let turn := match f.cls with
    | .planned => f.due == s.up && plannedEntry s f w
    | _ => isServed s i f && creditOk s f
  if turn && outFree s f.at_ (flitOut f) then
    checkFlit ecc f (sendFlit f) (s.onMesh fun m => { m with flits := m.flits.eraseIdx i })
  else s

/-- MESH_FLIT_HOP. -/
def execMeshFlitHop (flit : FlitRef) (ecc : Ecc) (s : State) : Out :=
  .next (match flit with
    | .inject src kind addr opened =>
      match newFlit s src kind addr.toNat opened with
      | some f => injectFlit ecc f s
      | none => s
    | .transit i =>
      match s.mesh.flits[i]? with
      | some f => forwardFlit ecc i f s
      | none => s)

end Sys2Proof.Machine
end

