-- ==== Sys2Proof/Machine/Header.lean ====
section
/-! DEFINITION. The common page header: BLK_CTRL, SHD_CTRL, interrupts (R608 to R614, R620). -/

namespace Sys2Proof.Machine

/-! ## Work in progress (R608) -/

/-- BLK_STATUS.BUSY: the page's block has work in progress. A picture that waits for cores is not in
progress. -/
def blkBusy (s : State) : Page → Bool
  | .core n => (s.core n.val).job.isSome
  | .clu m => (s.clu m.val).cmd.isSome
  | .dec => s.dec.ctxs.any fun x => x.pic.any fun p => p.admitted
  | .enc => s.enc.ctxs.any fun x => x.pic.any fun p => p.cores != []
  | .scl u => (s.sclUnit u.val).cmd.isSome
  | .csi p => (s.cap (2 * p.val)).openF.isSome || (s.cap (2 * p.val + 1)).openF.isSome
  | .cdy => s.cdy.now.isSome
  | .spt => s.spt.store != [] || s.spt.arriving != []
  | .mesh => s.mesh.checking || s.mesh.rstBusy
  | .hbm => srBusy s
  | .hif => s.hif.dma.any fun c => c.state == .run
  | .ktl => s.ktl.planState != .stopped
  | .bist => s.bist.slice.isSome
  | .mgt => (s.mgt.quiesce && !s.mgt.quiesceDone) || s.mgt.takeover != []
  | .str => s.dec.ctxs.any fun x => x.pic.any fun p => p.admitted && !p.consumed
  | .sec | .fuse => false

/-- BLK_STATUS.HALTED. -/
def halted (s : State) (p : Page) : Bool := haltOn s p && !blkBusy s p

/-! ## SOFT_INIT (R613) -/

/-- A capture channel is disabled without a report. -/
def capOff (c : Nat) (s : State) : State :=
  s.onCap c fun h => { h with enabled := false, openF := none, latest := none, frameOut := none }

/-- The block-specific registers of a page return to their reset values; its contexts, partitions,
channels and rings are disabled. -/
def softInit (p : Page) (s : State) : State :=
  match p with
  | .core n => s.onCore n.val fun x =>
      { x with mse := List.replicate 4 {}, skewInfo := 0, skewBlock := 0, stall := 0, stallHi := 0 }
  | .clu m => s.onClu m.val fun k => { k with
      ringCfg := 0, dbCfg := 0, cons := 0, prod := 0, pos := 0, dbPend := [], ticks := [] }
  | .dec => s.onDec fun d =>
      { d with tableLo := 0, tableHi := 0, cmd := {}, act := List.replicate 128 0
               ctxs := d.ctxs.map fun x => decDisabled { x with pic := none } }
  | .enc => s.onEnc fun e =>
      { e with tableLo := 0, tableHi := 0, cmd := {}, act := List.replicate 16 0
               ctxs := e.ctxs.map fun x => encDisabled { x with pic := none } }
  | .scl u =>
    let s := s.onSclUnit u.val fun x => { x with lastLo := 0, lastHi := 0, commands := 0 }
    if u = 0 then s.onScl fun c => { c with priv := List.replicate 8 0 } else s
  | .csi q =>
    let s := capOff (2 * q.val) (capOff (2 * q.val + 1) s)
    let s := s.onCsi fun c => { c with ports := updAt c.ports q.val fun _ => 0x390#32 }
    if q = 0 then s.onCsi fun c => { c with tableLo := 0, tableHi := 0, cmd := {} } else s
  | .cdy => s.onCdy fun d =>
      { d with tableLo := 0, tableHi := 0, cmd := {}, rings := List.replicate 8 {}, lastRing := 7
               waitCmd := none, parts := d.parts.map fun y => { y with enabled := false } }
  | _ => s

/-! ## BLK_CTRL (R608 to R612) -/

/-- R609: a write that a page without the capability discards. -/
def ctrlBad (s : State) (p : Page) (v : W32) : Bool :=
  let caps := blkCaps p
  (!rbit v 0 && !bitAt caps 2) || (rbit v 1 && !bitAt caps 1) || (rbit v 2 && !bitAt caps 0) ||
  (!rbit v 0 && match p with
    | .csi q => (s.cap (2 * q.val)).enabled || (s.cap (2 * q.val + 1)).enabled
    | _ => false)

/-- A halt takes effect at the block's next boundary (R610). -/
def haltNow (p : Page) (s : State) : State :=
  match p with
  | .core n => finishJob n.val jsAborted s
  | .clu m => sauStop m.val s
  | .scl u => sclStop u.val s
  | .cdy => cdyHalt s
  | _ => s

/-- A halt ends. -/
def haltEnds (p : Page) (s : State) : State :=
  match p with
  | .enc => encAssign s
  | .cdy => cdyRelease s
  | _ => s

/-- The driver fence follows FENCE: it takes effect once the core holds no job, and lifts at once
(R612). -/
def fenceNow (p : Page) (on : Bool) (s : State) : State :=
  match p with
  | .core n => s.onCore n.val fun x => { x with drvFence := on && (x.drvFence || x.job.isNone) }
  | _ => s

/-- A write of BLK_CTRL. -/
def blkCtrlWrite (p : Page) (v : W32) (s : State) : State :=
  if ctrlBad s p v then invalidProg p s
  else
    let was := haltOn s p
    let init := rbit v 3
    let s := if init then (if halted s p then softInit p s else invalidProg p s) else s
    let s := s.onHdr p fun h => { h with enable := rbit v 0, halt := rbit v 1, fence := rbit v 2 }
    let s := fenceNow p (rbit v 2) s
    let on := haltOn s p
    if on && !was then haltNow p s else if was && !on then haltEnds p s else s

/-- BLK_CTRL as it reads. -/
def blkCtrl (s : State) (p : Page) : Nat :=
  let h := s.hdr p
  b2n h.enable + 2 * b2n h.halt + 4 * b2n h.fence

/-- BLK_CTRL as it reads, with bit `i` as given. -/
def ctrlWith (s : State) (p : Page) (i : Nat) (on : Bool) : W32 := setFld (BitVec.ofNat 32 (blkCtrl s p)) i i (b2n on)

def execHalt (p : Page) (on : Bool) (s : State) : Out :=
  .next (hostWrite (fun s => blkCtrlWrite p (ctrlWith s p 1 on) s) s)
def execEnable (p : Page) (on : Bool) (s : State) : Out :=
  .next (hostWrite (fun s => blkCtrlWrite p (ctrlWith s p 0 on) s) s)
def execFenceDriver (core : Fin 24) (on : Bool) (s : State) : Out :=
  .next (hostWrite (fun s => blkCtrlWrite (.core core) (ctrlWith s (.core core) 2 on) s) s)
def execSoftInit (p : Page) (s : State) : Out :=
  .next (hostWrite (fun s => blkCtrlWrite p (ctrlWith s p 3 true) s) s)

/-! ## SHD_CTRL (R614, R615) -/

/-- A write of SHD_CTRL; the register is reserved in pages without EPOCH_TARGET (R607). -/
def shdCtrlWrite (p : Page) (v : W32) (s : State) : State :=
  if bitAt (blkCaps p) 3 then
    let s := s.onHdr p fun h => { h with shadowSel := rbit v 0 }
    if rbit v 3 || rbit v 4 then
      if locked s p then invalidProg p s
      else
        let s := if rbit v 4 then emptyShadow p s else s
        if rbit v 3 && p != .mesh then s.onHdr p fun h => { h with complete := true } else s
    else s
  else s

/-- SHD_CTRL as it reads. -/
def shdCtrl (s : State) (p : Page) : Nat :=
  if bitAt (blkCaps p) 3 then
    b2n (s.hdr p).shadowSel + 2 * b2n (s.hdr p).complete + 4 * b2n (locked s p)
  else 0

/-- SHADOW_SEL as it stands, with a command bit set. -/
def shdWith (s : State) (p : Page) (bit : Nat) : W32 := BitVec.ofNat 32 (b2n (s.hdr p).shadowSel + 2 ^ bit)

def execMarkComplete (p : Page) (s : State) : Out :=
  .next (hostWrite (fun s => shdCtrlWrite p (shdWith s p 3) s) s)
def execDiscard (p : Page) (s : State) : Out :=
  .next (hostWrite (fun s => shdCtrlWrite p (shdWith s p 4) s) s)

/-! ## Interrupts (R620) -/

/-- A write of INT_FORCE. -/
def intForceWrite (p : Page) (v : W32) (s : State) : State :=
  onIrq p (fun h => { h with intStatus := h.intStatus ||| (v &&& intBits p) }) s

def execIntForce (p : Page) (v : W32) (s : State) : Out := .next (hostWrite (intForceWrite p v) s)

end Sys2Proof.Machine
end

