-- ==== Sys2Proof/Machine/Inputs.lean ====
section
/-! DEFINITION. Sync inputs, their filters and timestamps, PPS_IN and PPS_OUT (R46, R73 to R81, R623,
R631). Durations are measured in ticks since reset. -/

namespace Sys2Proof.Machine

/-- INPUT_EDGE: the level at the ball changes. Under PERST_N or with a supply outside its range what the
device detects is not defined (R631): the level it holds is a free value. -/
def execInputEdge (inp : Fin 5) (level : Bool) (s : State) : Out :=
  .next (if s.power.perst || !s.power.railsOk then
      let (v, s) := s.takeFree
      s.onInput inp.val fun f => { f with level := v.getLsbD 0 }
    else if (s.input inp.val).level = level then s
    else s.onInput inp.val fun f =>
      let f := { f with level := level }
      edgeTo (inputActive f) s.up s.now f)

/-- NARROW: an active level ended before MIN_WIDTH (R74). -/
def execNarrow (inp : Fin 5) (s : State) : Out :=
  .next (
    let f := s.input inp.val
    match f.lead, f.ended with
    | some l, some e =>
      if !f.stuck && !f.judged && e - l < f.minWidth then
        s.onInput inp.val fun f => { f with judged := true, narrow := satInc 65535 f.narrow }
      else s
    | _, _ => s)

/-- The tick at which a level that began at `l` has lasted MIN_WIDTH, the width in force (R75, R624). -/
def qualifyAt (f : InFilter) (l : Nat) : Nat := max (l + f.minWidth) f.since

/-- The level that began at `l` reaches MIN_WIDTH at the present tick (R75): a level that lasts exactly
MIN_WIDTH does. -/
def qualifies (f : InFilter) (up l : Nat) : Bool :=
  up == qualifyAt f l && match f.ended with
    | some e => l + f.minWidth ≤ e && up ≤ e
    | none => true

/-- An accepted PPS_IN edge (R79): the interval from the edge before it. -/
def ppsEdge (interval : Option Nat) (ts : Nat) (s : State) : State :=
  s.onKtl fun k =>
    let k := { k with ppsLast := some ts, ppsRef := k.up
                      ppsEcho := if k.ppsMode = 2 then some (k.up + 4) else none }
    match interval with
    | none => k
    | some i =>
      if 1098900000 ≤ i ∧ i ≤ 1101100000 then
        { k with ppsLock := true, ppsMeasured := i, ppsLostSent := false }
      else { k with ppsLock := false, ppsOutlier := satInc 65535 k.ppsOutlier }

/-- An accepted FSYNC_IN pulse: its timestamp enters the FIFO of 16 (R78). -/
def fsinPush (n ts : Nat) (s : State) : State :=
  s.onFifo n fun f =>
    if f.ts.length < 16 then { f with ts := f.ts ++ [ts] }
    else { f with overflow := satInc 65535 f.overflow }

/-- INPUT_QUALIFY: a level reaches MIN_WIDTH; it is accepted with the count of its leading edge, or
dropped as too fast (R46, R75, R76). -/
def execInputQualify (inp : Fin 5) (s : State) : Out :=
  .next (
    let f := s.input inp.val
    match f.lead with
    | some l =>
      if !f.stuck && !f.judged && qualifies f s.up l then
        let fast : Bool := match f.lastAcc with | some a => l < a + f.minPeriod | none => false
        if fast then
          let t := s.onInput inp.val fun f =>
            { f with judged := true, dropped := satInc 65535 f.dropped, fastBeat := some s.beat }
          if f.fastBeat = some s.beat then t else setInt .ktl (12 + inp.val) t
        else
          let t := s.onInput inp.val fun f => { f with judged := true, lastAcc := some l }
          if inp.val = 4 then ppsEdge (f.lastAcc.map fun a => l - a) f.leadTs t
          else fsinPush inp.val f.leadTs t
      else s
    | none => s)

/-- STUCK: an active level lasted MAX_ACTIVE ticks (R77). -/
def execStuck (inp : Fin 5) (s : State) : Out :=
  .next (
    let f := s.input inp.val
    match f.lead, f.ended with
    | some l, none =>
      if !f.stuck && l + f.maxActive ≤ s.up then
        setInt .ktl (17 + inp.val) (s.onInput inp.val fun f =>
          { f with stuck := true, idleFrom := none, lead := none })
      else s
    | _, _ => s)

/-- INPUT_RELEASE: RELEASE ticks of continuous inactivity unmask a STUCK input (R77). -/
def execInputRelease (inp : Fin 5) (s : State) : Out :=
  .next (
    let f := s.input inp.val
    match f.idleFrom with
    | some t =>
      if f.stuck && t + f.release ≤ s.up then
        s.onInput inp.val fun f => { f with stuck := false, idleFrom := none, lead := none }
      else s
    | none => s)

/-- PPS_LOST: no accepted PPS_IN edge for 2,200,000,000 ticks (R79, R84). -/
def execPpsLost (s : State) : Out :=
  .next (if s.power.booted ∧ s.ktl.ppsRef + 2200000000 ≤ s.up ∧ !s.ktl.ppsLostSent then
      setInt .ktl 22 (s.onKtl fun k => { k with ppsLock := false, ppsLostSent := true })
    else s)

/-- A read of KTL_FSIN_TSn_LO removes the oldest timestamp and latches its high half (R623). -/
def fsinPop (n : Nat) (s : State) : State :=
  s.onFifo n fun f => { f with ts := f.ts.tail, hi := BitVec.ofNat 32 (f.ts.headD 0 / 2 ^ 32) }

/-- KTL_FSIN_TS_READ: LO answers the oldest timestamp, HI the latch (R623). -/
def execKtlFsinTsRead (n : Fin 4) (hi : Bool) (s : State) : Out :=
  .next (hostRead (fun s =>
    let f := s.fifo n.val
    if hi then s.answer f.hi
    else fsinPop n.val (s.answer (BitVec.ofNat 32 (f.ts.headD 0)))) s)

/-- PPS_OUT_PULSE: at the phase tick in FREE mode, or 4 ticks after an accepted PPS_IN pulse in ECHO
mode (R81). -/
def execPpsOutPulse (s : State) : Out :=
  .next (
    let k := s.ktl
    let go := s.power.booted && (
      (k.ppsMode == 1 && (s.now + 4400000000 - k.ppsPhase) % 1100000000 == 0) ||
      (k.ppsMode == 2 && (match k.ppsEcho with | some e => e == k.up | none => false)))
    if go then s.onKtl fun k => { k with ppsOutEnd := some (k.up + k.ppsWidth), ppsEcho := none }
    else s)

/-- Level of the PPS_OUT ball: absent while it is high-impedance, with MODE off and until READY (R81, R621,
R631, R633). -/
def ppsOutLevel (s : State) : Option Bool :=
  let k := s.ktl
  if s.power.booted && !s.power.perst && s.power.railsOk && k.ppsMode != 0 then
    some ((match k.ppsOutEnd with | some e => decide (k.up < e) | none => false) != k.ppsPolarity)
  else none

/-- PPS_OUT_PULSE_END: PPS_OUT_WIDTH ticks have passed. -/
def execPpsOutPulseEnd (s : State) : Out :=
  .next (match s.ktl.ppsOutEnd with
    | some e => if e ≤ s.up then s.onKtl fun k => { k with ppsOutEnd := none } else s
    | none => s)

end Sys2Proof.Machine
end

