-- ==== Sys2Proof/Machine/Power.lean ====
section
/-! DEFINITION. Power capping and the VDD_CORE set point (R587, R588, R638, R639). -/

namespace Sys2Proof.Machine

/-! ## Capping steps (R587, R588, R654) -/

/-- The variant's own divider, in the encoding of MGT_CAP_CFG.DIV (R6). -/
def ownDiv (s : State) : Nat := min 2 s.fuse.variant

/-- Package power limit of the variant, in units of 10 mW. -/
def powerLimit (s : State) : Nat := [9500, 7000, 5000].getD s.fuse.variant 5000

/-- Launch bank that MGT_CAP_CFG registers for a divider. -/
def capBank (s : State) (div : Nat) : Option Nat :=
  let m := s.mgt
  match div with
  | 0 => if m.bank6En then some m.bank6 else none
  | 1 => if m.bank7En then some m.bank7 else none
  | 2 => if m.bank9En then some m.bank9 else none
  | _ => if m.bank12En then some m.bank12 else none

/-- First multiple of 3 at least 3 beats ahead. -/
def capBeat (s : State) : Nat := (s.beat + 5) / 3 * 3

/-- The shadow of a page is declared complete. -/
def setComplete (p : Page) (s : State) : State := s.onHdr p fun h => { h with complete := true }

/-- The controller stages a divider, with its bank, and arms an epoch of its own. -/
def capArm (div : Nat) (s : State) : State :=
  let s := s.onMgt fun m => { m with shDiv := some div, capWait := some (div, s.up) }
  let s := setComplete .mgt s
  match capBank s div with
  | some b =>
    armEpoch (capBeat s) (2 ^ 33 + 2 ^ 32) false true
      (setComplete .ktl (s.onKtl fun k => { k with shBank := some b }))
  | none => armEpoch (capBeat s) (2 ^ 33) false true s

/-- A step to a divider: it waits for an armed epoch to resolve, and for VDD_CORE before a faster
clock (R588, R639). -/
def capGo (div : Nat) (s : State) : State :=
  let raise_ := decide (div < s.mgt.div) && s.mgt.vddRaise != 3
  let s := s.onMgt fun m =>
    { m with capWait := some (div, s.up)
             vddRaise := if raise_ && m.vddRaise == 0 then 1 else m.vddRaise }
  if raise_ || s.ktl.epoch.isSome then s else capArm div s

/-- CAP_STEP: the evaluation of the hottest sensor and the averaged power. -/
def execCapStep (sensor : Fin 32) (temp : BitVec 8) (power : BitVec 16) (s : State) : Out :=
  .next (if s.power.booted then
      let hot : Bool := decide (temp.toInt ≥ s.mgt.capC) || decide (powerLimit s ≤ power.toNat)
      let cool : Bool := decide (temp.toInt ≤ s.mgt.capC - s.mgt.hystC) &&
        decide (10 * power.toNat ≤ 9 * powerLimit s)
      let s := s.onMgt fun m =>
        { m with tempMax := temp.toNat, tempSensor := sensor.val, pkgPower := power.toNat
                 coolSince := if cool then m.coolSince.or (some s.up) else none }
      let since : Bool := match s.mgt.coolSince with | some t => t + 110000000 ≤ s.up | none => false
      let ownEpoch := s.ktl.epoch.any (·.byCap)
      if !s.mgt.capEn || ownEpoch then s
      else if hot && decide (s.mgt.div < 3) then capGo (s.mgt.div + 1) s
      else if s.mgt.capWait.isSome then s
      else if since && decide (ownDiv s < s.mgt.div) then capGo (s.mgt.div - 1) s
      else s
    else s)

/-- CAP_RETRY: a step that waits is tried again, 1 ms after its epoch was cancelled. -/
def execCapRetry (s : State) : Out :=
  .next (match s.mgt.capWait with
    | some (div, t) =>
      if s.power.booted && s.mgt.capEn && decide (t ≤ s.up) && s.ktl.epoch.isNone then capGo div s else s
    | none => s)

/-! ## VDD_CORE (R638, R639) -/

/-- PMBUS_POLL: READ_VOUT and READ_IOUT; without an answer the command is retried. A reading within
10 mV confirms a raised set point. -/
def execPmbusPoll (answer : Option (Nat × Nat)) (s : State) : Out :=
  .next (if s.power.booted then
      match answer with
      | none => s.onPower fun p => { p with pmRetry := true }
      | some (v, i) =>
        let near := decide (v ≤ s.power.vddMv + 10) && decide (s.power.vddMv ≤ v + 10)
        (s.onPower fun p => { p with vout := v, iout := i, pmRetry := false }).onMgt fun m =>
          { m with vddRaise := if m.vddRaise == 2 && near then 3 else m.vddRaise }
    else s)

/-- VDD_SET_POINT_STEP: inside 0.60 to 0.80 V, by at most 10 mV, at most once in 100 µs; upward before
a faster clock, downward after a slower one. -/
def execVddSetPointStep (mv : Nat) (s : State) : Out :=
  .next (
    let p := s.power
    if s.power.booted && !p.pmRetry && decide (600 ≤ mv) && decide (mv ≤ 800) && decide (mv ≤ p.vddMv + 10) &&
        decide (p.vddMv ≤ mv + 10) && decide (p.vddAt + 110000 ≤ s.up) &&
        !(s.mgt.vddRaise == 1 && decide (mv < p.vddMv)) && !(s.mgt.vddLower && decide (p.vddMv < mv)) then
      (s.onPower fun p => { p with vddMv := mv, vddAt := s.up }).onMgt fun m =>
        { m with vddRaise := if m.vddRaise == 1 then 2 else m.vddRaise, vddLower := false }
    else s)

end Sys2Proof.Machine
end

