-- ==== Sys2Proof/Machine/Pins.lean ====
section
/-! DEFINITION. The alert and trip balls, the test access port's IDCODE and received link errors (R530, R531,
R586, R588, R633, R653). -/

namespace Sys2Proof.Machine

/-- ALERT_N is asserted (pulled low): on a boot stop, and in service while an enabled MGT interrupt bit is set,
while capped, or in the safe state; released under R631 (R633). -/
def alertAsserted (s : State) : Bool :=
  let h := s.hdr .mgt
  s.power.railsOk && !s.power.perst &&
  if s.power.booted then
    h.intStatus &&& h.intEnable != 0 || s.mgt.safe || decide (ownDiv s < s.mgt.div)
  else s.power.stopped

/-- THERM_TRIP_N is asserted: its latch lies in the VDDIO domain (R586, R655). -/
def tripAsserted (s : State) : Bool := s.power.therm

/-- The identification value (R653). -/
def idcode : W32 := BitVec.ofNat 32 (2 ^ 28 + 0x7264 * 2 ^ 12 + Config.jedecCode.toNat * 2 + 1)

/-- IDCODE: answered in every life-cycle state but SCRAP; the port drives nothing under R631. -/
def execIdcode (s : State) : Out :=
  .next (if s.power.railsOk && !s.power.perst && s.fuse.life != .scrap then s.answer idcode
    else { s with resp := [] })

/-- AER status bit of a received error: correctable, or not. -/
def aerBit : TlpErr → Bool × Option Nat
  | .receiver => (true, some 0)
  | .badTlp => (true, some 6)
  | .badDllp => (true, some 7)
  | .replay => (true, some 8)
  | .malformed => (false, some 18)
  | .flowControl => (false, some 13)
  | .dataLink => (false, some 4)
  | .overflow => (false, some 17)
  | .ecrc => (false, some 19)
  | .buffer => (false, none)

/-- BAD_TLP: the AER status and the first header; an uncorrectable error in a host-interface buffer is
a fatal condition of the HIF page. -/
def execBadTlp (e : TlpErr) (hdr : List W32) (s : State) : Out :=
  .next (if s.hif.linkUp && !s.power.perst then
      match aerBit e with
      | (true, some b) => s.onHif fun h => { h with aerCorr := h.aerCorr ||| 2 ^ b }
      | (false, some b) => s.onHif fun h =>
          { h with aerUncorr := h.aerUncorr ||| 2 ^ b
                   hdrLog := if h.hdrLog = [] then hdr.take 4 else h.hdrLog }
      | (_, none) => raise .hif 3 none 0 s
    else s)

end Sys2Proof.Machine
end

