-- ==== Sys2Proof/Machine/Resets.lean ====
section
/-! DEFINITION. Function-level and hot reset, loss and training of the link (R415, R525 to R527, R532,
R533, R664). -/

namespace Sys2Proof.Machine

/-! ## What stops, without records (R525) -/

/-- A scaler's command stops at a row of its entry in progress; how many rows that is depends on the
tick within the entry. -/
def sclQuiet (u : Nat) (s : State) : State :=
  match (s.sclUnit u).cmd with
  | none => s
  | some c =>
    let (v, s) := s.takeFree
    let e := sclEntry c c.next
    let live := (c.status = sclOk ∨ c.status = sclNoFrame ∨ c.status = sclCorrupt) ∧ c.next < hCount (sclHdr c)
    let s := if live ∧ ¬ (hPriv (sclHdr c) = true ∧ c.status ≠ sclOk) then
        (entryRun u c e (v.toNat % (eOutH e + 1)) s).2
      else s
    s.onSclUnit u fun x => { x with cmd := none }

/-- A Saucer's command stops at a row boundary: its done record is not written. -/
def sauQuiet (m : Nat) (s : State) : State :=
  sauStop m (s.onClu m fun k => { k with cmd := k.cmd.map fun c => { c with readable := false } })

/-- The jobs go, and every takeover goes on without one (R563). -/
def dropJobs (s : State) : State :=
  let s := { s with cores := s.cores.map fun x =>
    { clearCore x with frames := List.replicate 4 false, drvFence := false } }
  let s := s.onSched fun _ => {}
  let s := s.onMgt fun m => { m with takeover := m.takeover.map fun t => { t with saveDone := true, hasJob := false } }
  (List.range 24).foldl (fun s n => settleLost n s) s

/-! ## What returns to its reset value (R527, R664) -/

/-- Header fields that a function-level or hot reset returns to their reset values. -/
def resetHdr (h : Hdr) : Hdr :=
  { h with enable := true, halt := false, fence := false, intStatus := 0, intEnable := 0, shadowSel := false }

/-- The host interface: channels, windows, doorbell limit, interrupt map, MSI-X table and the
configuration registers that are not sticky; PCI Express keeps Max_Payload_Size through a function-level
reset. Reads outstanding are completed in silence. -/
def resetHif (hot : Bool) (h : Hif) : Hif :=
  { h with
    minGap := 0x6e, doorbells := List.replicate 392 {}, dbOut := [], wins := List.replicate 64 {}
    irqMap := List.replicate 64 0, msix := List.replicate 256 {}, msixReq := [], msixEnable := false
    msixFnMask := false, bme := false, mse := false
    maxPayload := if hot then 128 else h.maxPayload, maxRead := 512, cplRange := 0
    cplOff := false, reissue := []
    dma := h.dma.map fun c =>
      { stale := c.stale.map (fun x => { x with counts := false, late := false }) ++
          c.reads.map fun r => { bytes := r.bytes, counts := false, late := false } } }

/-- Every shadow is emptied. -/
def emptyAll (s : State) : State := ((List.range 46).flatMap targetPages).foldl (fun s p => emptyShadow p s) s

/-- Shadows are emptied once no epoch is past its sampling tick (R664). -/
def emptyIfDone (s : State) : State := if s.ktl.epoch.isSome then s else emptyAll s

/-- A function-level or hot reset. -/
def warmReset (hot : Bool) (s : State) : State :=
  let s := (List.range 4).foldl (fun s u => sclQuiet u s) s
  let s := (List.range 7).foldl (fun s m => sauQuiet m s) s
  let s := abortSlice s
  let s := resetEpoch (dropJobs s)
  let s := s.onDec fun d =>
    { d with ctxs := List.replicate 128 {}, busy := List.replicate 8 none }
  let s := s.onEnc fun e => { e with ctxs := List.replicate 16 {}, busy := List.replicate 4 none }
  let s := s.onCsi fun c => { c with chs := List.replicate 16 {} }
  let s := s.onScl fun c => { c with priv := List.replicate 8 0 }
  let s := s.onCdy fun d =>
    { d with parts := List.replicate 256 {}, rings := List.replicate 8 {}, lastRing := 7, now := none
             waitCmd := none, halted := false, cmd := { d.cmd with done := true } }
  let s := { s with clus := List.replicate 7 {}, hdrs := s.hdrs.map resetHdr }
  let s := s.onSpt fun p =>
    { p with rings := List.replicate 64 {}, arriving := [], store := [], part := 0, partAt := none
             waitCpl := [] }
  let s := s.onSec fun c => { c with session := none }
  let s := s.onMgt fun m => { m with quiesce := false, quiesceDone := false }
  let s := s.onHif (resetHif hot)
  let s := if hot then s.onHif fun h => { h with linkUp := false, linkWidth := 0 } else s
  let s := s.onPower fun p => { p with reset := some hot, resetAt := s.up }
  emptyIfDone s

/-- FUNCTION_LEVEL_RESET: a configuration write sets Initiate Function Level Reset. -/
def execFunctionLevelReset (s : State) : Out := .next (if cfgOpen s then warmReset false s else s)

/-- HOT_RESET: received through the link, also during a function-level reset. -/
def execHotReset (s : State) : Out :=
  .next (if s.power.booted && !s.power.perst && s.hif.linkUp then warmReset true s else s)

/-- RESET_DONE: the reset has finished, after any epoch that it had to wait for. -/
def execResetDone (s : State) : Out :=
  .next (if s.power.reset.isSome && s.ktl.epoch.isNone then
      (emptyAll s).onPower fun p => { p with reset := none }
    else s)

/-! ## The link (R524, R532, R533, R547) -/

/-- LINK_LOSS: channels and jobs stop, and the safe state is due with CAUSE 2. -/
def execLinkLoss (s : State) : Out :=
  .next (if s.hif.linkUp then
      let s := s.onHif fun h => { h with linkUp := false, linkWidth := 0, linkLost := h.linkLost || s.power.booted }
      if s.power.booted then
        let s := (List.range 8).foldl (fun s ch =>
          (if (s.dma ch).state = .run then abortDeps ch s else s).onDma ch (dropReads false)) s
        (abortAll s).onMgt fun m =>
          { m with safeDue := if m.safe then m.safeDue else m.safeDue.or (some (s.up, 2)) }
      else s
    else s)

/-- The widest link that the good lanes from lane 0 on support (R548). -/
def widestLink (bad : Nat) : Nat :=
  (([8, 4, 2, 1] : List Nat).find? fun n => bad % 2 ^ n == 0).getD 0

/-- LINK_TRAINED: out of fundamental reset the link becomes active; in SCRAP it does not train (R542). -/
def execLinkTrained (s : State) : Out :=
  .next (if s.power.perst || s.fuse.life == .scrap then s
    else s.onHif fun h => { h with linkUp := true, linkWidth := widestLink h.badLanes })

end Sys2Proof.Machine
end

