-- ==== Sys2Proof/Machine/Security.lean ====
section
/-! DEFINITION. The security engine: sessions, identity, attestation, fuses, life cycle (R593 to R600).
A command completes at once (log entry 18). -/

namespace Sys2Proof.Machine

def secOk : Nat := 0
def secNoSession : Nat := 1
def secBadState : Nat := 2
def secBadArg : Nat := 3
def secLocked : Nat := 4
def secAuthFail : Nat := 5
def secNotProvisioned : Nat := 7

/-! ## The mailbox (R598) -/

/-- First `n` bytes of the mailbox. -/
def mboxBytes (s : State) (n : Nat) : List Byte := (s.sec.mbox.flatMap fun w => leBytes 4 w.toNat).take n

/-- The bytes of a command. -/
def secArg (s : State) : List Byte := mboxBytes s s.sec.mboxLen

/-- Put an answer into the mailbox with its length. -/
def secAnswer (bs : List Byte) (s : State) : State :=
  let all := bs ++ (mboxBytes s 8192).drop bs.length
  s.onSec fun c =>
    { c with mbox := (wordsOf 4 2048 all).map (BitVec.ofNat 32), mboxLen := bs.length }

/-- SEC_MBOX_DATA is written or read; the index advances by 1 at each access. -/
def mboxData (w : Option W32) (s : State) : State :=
  let i := s.sec.mboxAddr
  let s := match w with
    | some v => s.onSec fun c => { c with mbox := updAt c.mbox i fun _ => v }
    | none => s.answer (s.sec.mbox.getD i 0)
  s.onSec fun c => { c with mboxAddr := (i + 1) % 2048 }

def execSecMboxDataAccess (w : Option W32) (s : State) : Out :=
  .next (match w with
    | some v => hostWrite (mboxData (some v)) s
    | none => hostRead (mboxData none) s)

/-! ## Access (R596, R598, R652) -/

/-- A management command reaches the device over its port: over SMBus only in service. -/
def portOpen (s : State) : Port → Bool
  | .bar0 => barWr s
  | .smbus => smbOpen s && s.power.booted

/-- The command ends: its result, and CMD_DONE. -/
def secEnd (res : Nat) (s : State) : State := setInt .sec 8 (s.onSec fun c => { c with result := res })

/-- A command that needs the session of its port. -/
def inSession (port : Port) (f : State → State) (s : State) : State :=
  if s.sec.session = some port then f s else secEnd secNoSession s

/-- A command that some life-cycle states do not allow. -/
def inStates (l : List Life) (f : State → State) (s : State) : State :=
  if l.contains s.fuse.life then f s else secEnd secBadState s

/-! ## Identity and attestation (R594, R595) -/

/-- Owner slot in force: the highest one written and not revoked (R596). -/
def ownerSlot (s : State) : Option Nat :=
  ((List.range 4).filter fun n => (s.fuse.owner.getD n none).isSome && !bitAt s.fuse.ownerRev n).getLast?

def getIdentityOp (s : State) : State :=
  inStates [.test, .field, .return_] (fun s =>
    if s.fuse.seedLock then
      secEnd secOk (secAnswer ((List.range 2592).map (Config.mldsaPublic s.fuse.seed)) s)
    else secEnd secNotProvisioned s) s

/-- MGT_BOOT_STATUS (R550). -/
def bootStatus (s : State) : Nat :=
  let m := s.mgt
  m.bootStage + m.bootCode * 2 ^ 8 + m.bootUnitNum * 2 ^ 16 + m.bootUnitKind * 2 ^ 23 +
    b2n m.bootQuick * 2 ^ 28 + b2n m.bootSlotB * 2 ^ 29

/-- MGT_SPARE_STATUS (R551). -/
def spareStatus (s : State) : Nat :=
  let m := s.mgt
  min 4 m.coreSpares.length + b2n (m.decSpares != []) * 2 ^ 3 + b2n (m.encSpares != []) * 2 ^ 4 +
    m.takeovers * 2 ^ 8

/-- MGT_DEVICE.LIFE_CYCLE (R595, R621). -/
def lifeCode : Life → Nat
  | .test => 0 | .field => 1 | .return_ => 2 | .scrap => 3

/-- The first 0x100 bytes of the report; how the fuse shadow is laid out under its digest is left open. -/
def reportHead (s : State) (nonce fuses : List Byte) : List Byte :=
  leBytes 4 0x41544c42 ++ leBytes 2 1 ++ leBytes 1 (lifeCode s.fuse.life) ++ leBytes 1 s.fuse.variant ++
  leBytes 8 s.fuse.serial.toNat ++ leBytes 8 s.now ++ leBytes 4 s.mgt.fwSvn ++ leBytes 1 s.fuse.svnFloor ++
  leBytes 1 ((ownerSlot s).getD 0xff) ++ leBytes 2 0 ++ nonce ++ padTo 64 s.mgt.fwDigest ++ fuses ++
  leBytes 4 (bootStatus s) ++ leBytes 4 (spareStatus s) ++ List.replicate 24 0

def attestOp (s : State) : State :=
  inStates [.field, .return_] (fun s =>
    if s.sec.mboxLen ≠ 64 then secEnd secBadArg s
    else
      let (fuses, s) := freeBytes 64 s
      let head := reportHead s (secArg s) fuses
      let sig := (List.range 4627).map (Config.mldsaSign s.fuse.seed (digest head))
      secEnd secOk (secAnswer (head ++ sig) s)) s

/-! ## Sessions (R596, R597) -/

/-- Ticks for which openings stay refused after failure number `n`. -/
def lockTicks (n : Nat) : Nat := min 1024 (2 ^ (n - 1)) * 1100000000

def openSessionOp (port : Port) (s : State) : State :=
  if s.sec.session.isSome then secEnd secBadState s
  else if s.up < s.sec.lockUntil then secEnd secLocked s
  else if s.sec.mboxLen < 32 ∨ 256 < s.sec.mboxLen then secEnd secBadArg s
  else
    let good : Bool := match ownerSlot s with
      | some n => s.fuse.owner.getD n none == some (digest (secArg s))
      | none => false
    if good then secEnd secOk (s.onSec fun c => { c with session := some port, fails := 0 })
    else secEnd secAuthFail (s.onSec fun c =>
      let k := satInc 255 c.fails
      { c with fails := k, lockUntil := s.up + lockTicks k })

def closeSessionOp (port : Port) (s : State) : State :=
  inSession port (fun s => secEnd secOk (s.onSec fun c => { c with session := none })) s

/-! ## Fuses (R593, R598, R599) -/

/-- PROVISION_OWNER: the result is left open when no slot is unwritten. -/
def provisionBurn (s : State) : State :=
  if s.sec.mboxLen ≠ 64 then secEnd secBadArg s
  else
    match (List.range 4).find? fun n => (s.fuse.owner.getD n none).isNone with
    | none => let (v, s) := s.takeFree; secEnd (v.toNat % 7 + 1) s
    | some n =>
      let d := secArg s
      secEnd secOk (s.onFuse fun f =>
        { f with owner := updAt f.owner n fun _ => some d
                 ownerRev := if n = 0 then f.ownerRev else f.ownerRev ||| 2 ^ (n - 1) })

def provisionOp (port : Port) (s : State) : State :=
  if s.fuse.owner.all (·.isNone) && s.fuse.life != .field then provisionBurn s
  else inSession port provisionBurn s

def advanceSvnOp (port : Port) (s : State) : State :=
  inSession port (fun s => secEnd secOk (s.onFuse fun f => { f with svnFloor := max f.svnFloor s.mgt.fwSvn })) s

/-- Burn a fuse field. -/
def burnField (w : FuseWrite) (f : Fuse) : Fuse :=
  match w with
  | .seed v => { f with seed := padTo 32 v, seedLock := true }
  | .subsys v => { f with subsys := v }
  | .serial v => { f with serial := v }

def fuseWriteOp (port : Port) (w : Option FuseWrite) (s : State) : State :=
  inSession port (inStates [.test] fun s => match w with
    | some w => secEnd secOk (s.onFuse (burnField w))
    | none => secEnd secBadArg s) s

/-- Permitted transitions (R599). -/
def lifeOk (s : State) (new : Life) : Bool :=
  match s.fuse.nextLife.getD s.fuse.life, new with
  | _, .scrap => true
  | .test, .field => s.fuse.seedLock && s.fuse.owner.any (·.isSome)
  | .field, .return_ => true
  | _, _ => false

def setLifeOp (port : Port) (l : Option Life) (s : State) : State :=
  inSession port (fun s => match l with
    | some l =>
      if lifeOk s l then secEnd secOk (s.onFuse fun f => { f with nextLife := some l }) else secEnd secBadState s
    | none => secEnd secBadArg s) s

/-- DEBUG_UNLOCK: in TEST the port is open already, and the result is left open. -/
def debugUnlockOp (port : Port) (s : State) : State :=
  inSession port (fun s =>
    match s.fuse.life with
    | .test => let (v, s) := s.takeFree; secEnd (v.toNat % 8) s
    | .scrap => secEnd secBadState s
    | _ => secEnd secOk (s.onSec fun c => { c with debugOpen := true })) s

def clearDefectOp (port : Port) (s : State) : State :=
  inSession port (inStates [.test, .return_] fun s =>
    secEnd secOk (s.onFlash fun f => { putRecord [] f with boots := 0 })) s

/-! ## SEC_CMD (R598) -/

/-- Run the command of an OP, with the arguments of FUSE_WRITE and SET_LIFE_CYCLE. -/
def secRun (port : Port) (op : Nat) (w : Option FuseWrite) (l : Option Life) (s : State) : State :=
  match op with
  | 0x01 => getIdentityOp s
  | 0x02 => attestOp s
  | 0x10 => openSessionOp port s
  | 0x11 => closeSessionOp port s
  | 0x20 => provisionOp port s
  | 0x21 => advanceSvnOp port s
  | 0x22 => fuseWriteOp port w s
  | 0x30 => setLifeOp port l s
  | 0x31 => debugUnlockOp port s
  | 0x41 => clearDefectOp port s
  | _ => s

def secOps : List Nat := [0x01, 0x02, 0x10, 0x11, 0x20, 0x21, 0x22, 0x30, 0x31, 0x41]

/-- A write of SEC_CMD: an OP that is no command leaves the field as it was (R13). -/
def secCmdWrite (port : Port) (v : W32) (w : Option FuseWrite) (l : Option Life) (s : State) : State :=
  let bad : Bool := rfld v 7 0 != 0 && !secOps.contains (rfld v 7 0)
  let s := if bad then invalidProg .sec s else s.onSec fun c => { c with op := rfld v 7 0 }
  if rbit v 31 then secRun port s.sec.op w l s else s

/-- GO with an OP, over a port. -/
def secGo (port : Port) (op : Nat) (w : Option FuseWrite) (l : Option Life) (s : State) : State :=
  if portOpen s port then secCmdWrite port (BitVec.ofNat 32 (2 ^ 31 + op)) w l s else s

def execGetIdentity (port : Port) (s : State) : Out := .next (secGo port 0x01 none none s)
def execAttest (port : Port) (s : State) : Out := .next (secGo port 0x02 none none s)
def execOpenSession (port : Port) (s : State) : Out := .next (secGo port 0x10 none none s)
def execCloseSession (port : Port) (s : State) : Out := .next (secGo port 0x11 none none s)
def execProvisionOwner (port : Port) (s : State) : Out := .next (secGo port 0x20 none none s)
def execAdvanceSvn (port : Port) (s : State) : Out := .next (secGo port 0x21 none none s)
def execFuseWrite (port : Port) (w : FuseWrite) (s : State) : Out := .next (secGo port 0x22 (some w) none s)
def execSetLifeCycle (port : Port) (l : Life) (s : State) : Out := .next (secGo port 0x30 none (some l) s)
def execDebugUnlock (port : Port) (s : State) : Out := .next (secGo port 0x31 none none s)
def execClearDefectRecord (port : Port) (s : State) : Out := .next (secGo port 0x41 none none s)

end Sys2Proof.Machine
end

