-- ==== Sys2Proof/Machine/Registers.lean ====
section
/-! DEFINITION. Writes of every register by its BAR0 offset, of the MSI-X table and of configuration
registers (R12 to R14, R603 to R607, R615 to R621, R628, R629, R659). An offset that no rule names, and
a register of type RO, is not changed by a write. -/

namespace Sys2Proof.Machine

/-- Instance and place within it of an offset in a table of `n` instances, each `step` bytes. -/
def inst (o base step n : Nat) : Option (Nat × Nat) :=
  if base ≤ o ∧ o < base + step * n then some ((o - base) / step, (o - base) % step) else none

/-- A write of a value out of its field's range leaves the field (R13). -/
def ranged (p : Page) (ok : Bool) (f : State → State) (s : State) : State := if ok then f s else invalidProg p s

/-! ## The header (R569, R571, R574, R607, R620) -/

/-- A write of 1 clears. -/
def w1c (old v : W32) : W32 := old &&& ~~~v

/-- A write at an offset below 0x100. -/
def wrHeader (p : Page) (o : Nat) (v : W32) (s : State) : State :=
  match o with
  | 0x008 => blkCtrlWrite p v s
  | 0x010 => onIrq p (fun h => { h with intStatus := w1c h.intStatus v }) s
  | 0x014 => onIrq p (fun h => { h with intEnable := v &&& intBits p }) s
  | 0x018 => intForceWrite p v s
  | 0x020 => s.onHdr p fun h => { h with errStatus := w1c h.errStatus v }
  | 0x024 => s.onHdr p fun h => { h with errMask := mergeBits (maskMask s p) h.errMask v }
  | 0x028 => s.onHdr p fun h => { h with errSeverity := mergeBits (severityMask p) h.errSeverity v }
  | 0x02c => errFirstWrite p v s
  | 0x080 => shdCtrlWrite p v s
  | _ => s

/-! ## MGT, SEC, BIST (R588, R598, R616, R621, R628) -/

/-- A write of MGT_CAP_CFG: CAP_C 85 to 105, HYST_C 2 to 15; EN is ignored in FIELD. -/
def capCfgWrite (v : W32) (s : State) : State :=
  let cap := rfld v 6 0
  let hyst := rfld v 11 8
  let badCap := cap < 85 || 105 < cap
  let badHyst := hyst < 2
  let s := if badCap || badHyst then invalidProg .mgt s else s
  s.onMgt fun m =>
    { m with
      capC := if badCap then m.capC else cap, hystC := if badHyst then m.hystC else hyst
      bank6 := rfld v 14 12, bank6En := rbit v 15, bank7 := rfld v 18 16, bank7En := rbit v 19
      bank9 := rfld v 22 20, bank9En := rbit v 23, bank12 := rfld v 26 24, bank12En := rbit v 27
      capEn := if isField s then m.capEn else rbit v 31 }

/-- A write of MGT_DIV: in the shadow only, not while capping is automatic; a divider faster than the
variant's is reserved (R616, R621). -/
def divWrite (v : W32) (s : State) : State :=
  if !(s.hdr .mgt).shadowSel || s.mgt.capEn || rfld v 1 0 < ownDiv s then invalidProg .mgt s
  else shadowWrite .mgt (s.mgt.shDiv.getD s.mgt.div != rfld v 1 0)
    (fun s => s.onMgt fun m => { m with shDiv := some (rfld v 1 0) }) s

def wrMgt (o : Nat) (v : W32) (s : State) : State :=
  match o with
  | 0x114 => quiesceWrite v s
  | 0x118 => capCfgWrite v s
  | 0x11c => divWrite v s
  | 0x120 => faultCtrlWrite v s
  | _ => s

def wrSec (port : Port) (o : Nat) (v : W32) (s : State) : State :=
  match o with
  | 0x100 => secCmdWrite port v (Config.fuseArg (secArg s)) (Config.lifeArg (secArg s)) s
  | 0x108 => s.onSec fun c => { c with mboxAddr := rfld v 12 2 }
  | 0x10c => mboxData (some v) s
  | 0x110 => s.onSec fun c => { c with mboxLen := rfld v 12 0 }
  | _ => s

/-- BIST page: the direct controls are written in TEST and RETURN (R552, R628). -/
def wrBist (o : Nat) (v : W32) (s : State) : State :=
  match o with
  | 0x100 => sliceCmdWrite v s
  | 0x104 => s.onBist fun b => { b with beat := v }
  | _ => if 0x200 ≤ o ∧ isField s = false then s.onBist fun b => { b with direct := tabPut b.direct o v } else s

/-! ## KTL (R50, R58, R60, R73, R80 to R82, R616, R621, R624, R629) -/

/-- A write of KTL_PLAN_LEN (R50, R616, R659). -/
def planLenWrite (v : W32) (s : State) : State :=
  let n := v.toNat
  if n < 3 || 3000000 < n || n % 3 != 0 then invalidProg .ktl s
  else if (s.hdr .ktl).shadowSel then
    shadowWrite .ktl (n != nextLen s) (fun s => s.onKtl fun k => { k with shPlanLen := some n }) s
  else if n ≠ s.ktl.planLen ∧ s.ktl.planState ≠ .stopped then invalidProg .ktl s
  else s.onKtl fun k => { k with planLen := n }

/-- A write of KTL_REFRESH: in the shadow only (R616). -/
def refreshWrite (v : W32) (s : State) : State :=
  if (s.hdr .ktl).shadowSel then
    shadowWrite .ktl (rbit v 0 != s.ktl.shPlan.getD s.ktl.hot)
      (fun s => s.onKtl fun k => { k with shPlan := some (rbit v 0) }) s
  else invalidProg .ktl s

/-- A write of a filter's polarity judges the level in progress anew from the next tick (R73, R624); where
it makes the level active, that tick is taken as its leading edge (log entry 66). -/
def polarityWrite (n : Nat) (v : Bool) (s : State) : State :=
  s.onInput n fun f =>
    if f.polarity = v then f
    else
      let f := { f with polarity := v }
      edgeTo (inputActive f) (s.up + 1) ((s.now + 1) % 2 ^ 64) f

/-- A write of a filter parameter (R73, R624): registers at 0x04 to 0x10 of an input. -/
def filterWrite (n reg : Nat) (v : W32) (s : State) : State :=
  let x := v.toNat
  let f := s.input n
  match reg with
  | 0x00 => polarityWrite n (rbit v 0) s
  | 0x04 => ranged .ktl (decide (22 ≤ x) && decide (x ≤ 11000)) (fun s => s.onInput n fun f => { f with minWidth := x, since := s.up + 1 }) s
  | 0x08 => ranged .ktl (decide (110 ≤ x)) (fun s => s.onInput n fun f => { f with minPeriod := x }) s
  | 0x0c => ranged .ktl (decide (1100 ≤ x) && decide (f.minWidth < x)) (fun s => s.onInput n fun f => { f with maxActive := x }) s
  | 0x10 => ranged .ktl (decide (1100 ≤ x)) (fun s => s.onInput n fun f => { f with release := x }) s
  | _ => s

/-- A write of KTL_DISC_CFG: DISC_MAX_STEPS stands while the plan is not STOPPED (R54, R621, R659). -/
def discCfgWrite (v : W32) (s : State) : State :=
  let steps := rfld v 3 1
  let cyc := rfld v 13 4
  if steps ≠ s.ktl.discMaxSteps ∧ s.ktl.planState ≠ .stopped then invalidProg .ktl s
  else
    let badS := 4 < steps
    let badC := cyc == 0 || 1000 < cyc
    let s := if badS || badC then invalidProg .ktl s else s
    s.onKtl fun k =>
      { k with discEn := rbit v 0, discMaxSteps := if badS then k.discMaxSteps else steps
               discCycles := if badC then k.discCycles else cyc }

/-- A write of KTL_PPS_OUT_CFG: MODE 3 is reserved, WIDTH is 1 to 1,048,575 (R81, R621). -/
def ppsCfgWrite (v : W32) (s : State) : State :=
  let mode := rfld v 1 0
  let width := rfld v 23 4
  let s := if mode = 3 ∨ width = 0 then invalidProg .ktl s else s
  s.onKtl fun k =>
    { k with ppsMode := if mode = 3 then k.ppsMode else mode, ppsPolarity := rbit v 2
             ppsWidth := if width = 0 then k.ppsWidth else width
             ppsEcho := if mode = 2 ∨ (mode = 3 ∧ k.ppsMode = 2) then k.ppsEcho else none
             ppsOutEnd := if mode = 0 then none else k.ppsOutEnd }

def wrKtl (o : Nat) (v : W32) (s : State) : State :=
  match o with
  | 0x108 => s.onKtl fun k => { k with countLoadLo := v }
  | 0x10c => s.onKtl fun k => { k with countLoadHi := v }
  | 0x110 => planCtrlWrite v s
  | 0x114 => s.onKtl fun k => { k with planStartLo := v }
  | 0x118 => s.onKtl fun k => { k with planStartHi := v &&& 0x3fffff#32 }
  | 0x11c => planLenWrite v s
  | 0x120 => refreshWrite v s
  | 0x124 => ranged .ktl (decide (60 ≤ rfld v 6 0) && decide (rfld v 6 0 ≤ 85))
      (fun s => s.onKtl fun k => { k with hotWarnC := rfld v 6 0 }) s
  | 0x128 => bankCtrlWrite v s
  | 0x130 => s.onKtl fun k => { k with ltAddr := rfld v 15 2 * 4 }
  | 0x134 => ltAdvance (ltWrite v s)
  | 0x140 => epochCtrlWrite v s
  | 0x148 => s.onKtl fun k => { k with epochBeatLo := v }
  | 0x14c => s.onKtl fun k => { k with epochBeatHi := v }
  | 0x150 => s.onKtl fun k => { k with epochTgtLo := v }
  | 0x154 => s.onKtl fun k => { k with epochTgtHi := v }
  | 0x340 => discCfgWrite v s
  | 0x344 => ranged .ktl (decide (v.toNat < 1100000000)) (fun s => s.onKtl fun k => { k with discPhase := v.toNat }) s
  | 0x350 => ppsCfgWrite v s
  | 0x354 => s.onKtl fun k => { k with ppsPhase := v.toNat }
  | _ =>
    match inst o 0x180 8 16, inst o 0x200 0x40 5 with
    | some (n, 0), _ => fsyncCfg n v s
    | _, some (n, r) => filterWrite n r v s
    | _, _ => s

/-! ## HIF (R418, R428, R440, R505, R512, R513, R521, R629) -/

/-- Some job of a partition's contexts is ACTIVE or SUSPENDED (R428). -/
def partBusy (s : State) (p : Nat) : Bool :=
  s.sched.ctxs.any fun c => c.part == p && c.slots.any fun k => k.state == .active || k.state == .suspended

/-- A write of HIF_PART_SCHEDp: YIELD_BEATS 0 and QUANTUM 0 are reserved; a direct write needs an idle
partition. -/
def partSchedWrite (p : Nat) (v : W32) (s : State) : State :=
  let sel := (s.hdr .hif).shadowSel
  let old := if sel then (s.hif.shPartSched.getD p none).getD (partReg s p) else partReg s p
  let mask : W32 := 0xf#32 ||| (if rfld v 15 8 = 0 then 0#32 else 0xff00#32) |||
    (if rfld v 31 16 = 0 then 0#32 else 0xffff0000#32)
  let new := mergeBits mask old v
  if !sel && partBusy s p && old != new then invalidProg .hif s
  else
    let s := if rfld v 15 8 = 0 ∨ rfld v 31 16 = 0 then invalidProg .hif s else s
    if sel then
      shadowWrite .hif (old != new)
        (fun s => s.onHif fun h => { h with shPartSched := updAt h.shPartSched p fun _ => some new }) s
    else s.onHif fun h => { h with partSched := updAt h.partSched p fun _ => new }

/-- A write of a host DMA channel's registers. -/
def wrDma (ch r : Nat) (v : W32) (s : State) : State :=
  let c := s.dma ch
  match r with
  | 0x00 => dmaCfgWrite ch v s
  | 0x0c => dmaAddrWrite ch c.ringLo (v &&& 0xffffffc0#32) (fun c => { c with ringLo := v &&& 0xffffffc0#32 }) s
  | 0x10 => dmaAddrWrite ch c.ringHi (v &&& 0xffff#32) (fun c => { c with ringHi := v &&& 0xffff#32 }) s
  | 0x14 => dmaAddrWrite ch c.wbLo (v &&& 0xfffffff8#32) (fun c => { c with wbLo := v &&& 0xfffffff8#32 }) s
  | 0x18 => dmaAddrWrite ch c.wbHi v (fun c => { c with wbHi := v }) s
  | _ => s

/-- A write of a translation window's registers. -/
def wrWin (w r : Nat) (v : W32) (s : State) : State :=
  match r with
  | 0x0 => winCfgWrite w v s
  | 0x4 => winTgtWrite w false v s
  | 0x8 => winTgtWrite w true v s
  | _ => s

def wrHif (o : Nat) (v : W32) (s : State) : State :=
  match o with
  | 0x100 => s.onHif fun h => { h with ctxTableLo := v &&& 0xffffffc0#32 }
  | 0x104 => s.onHif fun h => { h with ctxTableHi := v &&& 0xffff#32 }
  | 0x108 => ctxCmdWrite v s
  | 0x110 => s.onHif fun h => { h with acctLo := v &&& 0xffffffc1#32 }
  | 0x114 => s.onHif fun h => { h with acctHi := v &&& 0xffff#32 }
  | 0x118 => dbLimitWrite v s
  | _ =>
    match inst o 0x120 4 8, inst o 0x140 0x20 8, inst o 0x300 4 64, inst o 0x400 0x10 64 with
    | some (p, _), _, _, _ => partSchedWrite p v s
    | _, some (ch, r), _, _ => wrDma ch r v s
    | _, _, some (k, _), _ => s.onHif fun h => { h with irqMap := updAt h.irqMap k fun _ => v &&& 0x800000ff#32 }
    | _, _, _, some (w, r) => wrWin w r v s
    | _, _, _, _ => s

/-! ## MESH, HBM, CORE, CLU -/

def wrMesh (o : Nat) (v : W32) (s : State) : State :=
  match o with
  | 0x110 => stAddrWrite v s
  | 0x114 => stAdvance (stDataWrite v s)
  | 0x118 => stCtrlWrite v s
  | 0x140 => partResetWrite v s
  | _ =>
    match inst o 0x120 4 8 with
    | some (p, _) => meshPartWrite p v s
    | none => s

def wrHbm (o : Nat) (v : W32) (s : State) : State :=
  match o with
  | 0x100 => hbmCfgOp v s
  | 0x108 => retrainCfgWrite v s
  | 0x110 => srCtrlWrite v s
  | _ => s

def wrCore (n o : Nat) (v : W32) (s : State) : State :=
  match o with
  | 0x110 => s.onCore n fun x => { x with skewInfo := w1c x.skewInfo (v &&& 0x800#32) }
  | 0x118 => s.onCore n fun x => { x with saveLo := v &&& 0xff800001#32 }
  | 0x11c => s.onCore n fun x => { x with saveHi := v &&& 0xffff#32 }
  | _ =>
    match inst o 0x140 0x10 4 with
    | some (ch, 0) => mseCtrlWrite n ch v s
    | _ => s

def wrClu (m o : Nat) (v : W32) (s : State) : State :=
  match o with
  | 0x100 => sauRingWrite m v s
  | 0x104 => s.onClu m fun c => { c with dbCfg := v &&& 0xfffff#32 }
  | _ => s

/-! ## DEC, ENC, SCL, CSI (R281, R295, R318, R338, R369, R616, R629) -/

/-- A write of DEC_CTX_SHDn: in the shadow only. -/
def decShdWrite (n : Nat) (v : W32) (s : State) : State :=
  let v := v &&& 0x3ff#32
  if (s.hdr .dec).shadowSel then
    shadowWrite .dec ((s.dec.shd.getD n none).getD (s.dec.act.getD n 0) != v)
      (fun s => s.onDec fun d => { d with shd := updAt d.shd n fun _ => some v }) s
  else invalidProg .dec s

def wrDec (o : Nat) (v : W32) (s : State) : State :=
  match o with
  | 0x100 => s.onDec fun d => { d with tableLo := v &&& 0xffffffc0#32 }
  | 0x104 => s.onDec fun d => { d with tableHi := v &&& 0xffff#32 }
  | 0x108 => decCmdWrite v s
  | _ =>
    match inst o 0x400 4 128 with
    | some (n, _) => decShdWrite n v s
    | none => s

/-- A write of ENC_CTX_SHDn: in the shadow only. -/
def encShdWrite (n : Nat) (v : W32) (s : State) : State :=
  let v := v &&& 0x3f#32
  if (s.hdr .enc).shadowSel then
    shadowWrite .enc ((s.enc.shd.getD n none).getD (s.enc.act.getD n 0) != v)
      (fun s => s.onEnc fun d => { d with shd := updAt d.shd n fun _ => some v }) s
  else invalidProg .enc s

def wrEnc (o : Nat) (v : W32) (s : State) : State :=
  match o with
  | 0x100 => s.onEnc fun d => { d with tableLo := v &&& 0xffffffc0#32 }
  | 0x104 => s.onEnc fun d => { d with tableHi := v &&& 0xffff#32 }
  | 0x108 => encCmdWrite v s
  | _ =>
    match inst o 0x400 4 16 with
    | some (n, _) => encShdWrite n v s
    | none => s

/-- A write of SCL_PRIVk, direct or in the shadow. -/
def privWrite (k : Nat) (v : W32) (s : State) : State :=
  let v := v &&& 0x80003fff#32
  if (s.hdr (.scl 0)).shadowSel then
    shadowWrite (.scl 0) ((s.scl.shPriv.getD k none).getD (s.scl.priv.getD k 0) != v)
      (fun s => s.onScl fun c => { c with shPriv := updAt c.shPriv k fun _ => some v }) s
  else s.onScl fun c => { c with priv := updAt c.priv k fun _ => v }

def wrScl (u o : Nat) (v : W32) (s : State) : State :=
  match inst o 0x180 4 8 with
  | some (k, _) => if u = 0 then privWrite k v s else s
  | none => s

def wrCsi (p o : Nat) (v : W32) (s : State) : State :=
  if o = 0x100 then csiPortWrite p v s
  else if p = 0 then
    match o with
    | 0x180 => s.onCsi fun c => { c with tableLo := v &&& 0xffffffc0#32 }
    | 0x184 => s.onCsi fun c => { c with tableHi := v &&& 0xffff#32 }
    | 0x188 => csiCmdWrite v s
    | _ => s
  else s

/-! ## CDY, SPT (R375, R380, R403, R406, R629) -/

/-- A write of a Caddy ring's base or doorbell word address: it stands while EN is 1. -/
def cringAddrWrite (n : Nat) (old new : W32) (f : CdyRing → CdyRing) (s : State) : State :=
  if rbit (s.cdyRing n).cfg 31 && old != new then invalidProg .cdy s else s.onCdyRing n f

def wrCring (n r : Nat) (v : W32) (s : State) : State :=
  let c := s.cdyRing n
  match r with
  | 0x00 => cringCfgWrite n v s
  | 0x08 => cringAddrWrite n c.baseLo (v &&& 0xffffffc0#32) (fun c => { c with baseLo := v &&& 0xffffffc0#32 }) s
  | 0x0c => cringAddrWrite n c.baseHi (v &&& 0xffff#32) (fun c => { c with baseHi := v &&& 0xffff#32 }) s
  | 0x10 => cringAddrWrite n c.dbLo (v &&& 0xfffffff8#32) (fun c => { c with dbLo := v &&& 0xfffffff8#32 }) s
  | 0x14 => cringAddrWrite n c.dbHi (v &&& 0xffff#32) (fun c => { c with dbHi := v &&& 0xffff#32 }) s
  | _ => s

def wrCdy (o : Nat) (v : W32) (s : State) : State :=
  match o with
  | 0x100 => s.onCdy fun d => { d with tableLo := v &&& 0xffffffc0#32 }
  | 0x104 => s.onCdy fun d => { d with tableHi := v &&& 0xffff#32 }
  | 0x108 => partCmdWrite v s
  | _ =>
    match inst o 0x200 0x20 8 with
    | some (n, r) => wrCring n r v s
    | none => s

/-- A write of a Spout ring's base or write-back address: it stands while EN is 1. -/
def sptAddrWrite (n : Nat) (old new : W32) (f : SptRing → SptRing) (s : State) : State :=
  if ringOn (s.sptRing n) && old != new then invalidProg .spt s else s.onSptRing n f

/-- A write of SPT_RING_COALn, direct or in the shadow; INT_LINES 0 is reserved. -/
def coalWrite (n : Nat) (v : W32) (s : State) : State :=
  let r := s.sptRing n
  let sel := (s.hdr .spt).shadowSel
  let old := if sel then r.shCoal.getD r.coal else r.coal
  let bad := rfld v 15 0 = 0
  let new := if bad then mergeBits 0xffff0000#32 old v else v
  let s := if bad then invalidProg .spt s else s
  if sel then
    shadowWrite .spt (old != new) (fun s => s.onSptRing n fun r => { r with shCoal := some new }) s
  else s.onSptRing n fun r => { r with coal := new }

def wrSptRing (n r : Nat) (v : W32) (s : State) : State :=
  let c := s.sptRing n
  match r with
  | 0x00 => sptCfgWrite n v s
  | 0x04 => coalWrite n v s
  | 0x08 => if rbit v 29 then s.onSptRing n fun r => { r with consBad := false } else s
  | 0x0c => sptConsWrite n v s
  | 0x10 => sptAddrWrite n c.baseLo (v &&& 0xfffff000#32) (fun c => { c with baseLo := v &&& 0xfffff000#32 }) s
  | 0x14 => sptAddrWrite n c.baseHi v (fun c => { c with baseHi := v }) s
  | 0x18 => sptAddrWrite n c.wbLo (v &&& 0xfffffff8#32) (fun c => { c with wbLo := v &&& 0xfffffff8#32 }) s
  | _ => sptAddrWrite n c.wbHi v (fun c => { c with wbHi := v }) s

def wrSpt (o : Nat) (v : W32) (s : State) : State :=
  match o with
  | 0x108 => s.onSpt fun p => { p with dropPend := p.dropPend &&& ~~~(v.setWidth 64) }
  | 0x10c => s.onSpt fun p => { p with dropPend := p.dropPend &&& ~~~(v.setWidth 64 <<< 32) }
  | _ =>
    match inst o 0x400 0x20 64 with
    | some (n, r) => wrSptRing n r v s
    | none => s

/-! ## The pages -/

/-- A write of an offset of a page, through a port. -/
def wrPage (port : Port) (p : Page) (o : Nat) (v : W32) (s : State) : State :=
  if o < 0x100 then wrHeader p o v s
  else match p with
    | .mgt => wrMgt o v s
    | .sec => wrSec port o v s
    | .ktl => wrKtl o v s
    | .hif => wrHif o v s
    | .mesh => wrMesh o v s
    | .hbm => wrHbm o v s
    | .core n => wrCore n.val o v s
    | .clu m => wrClu m.val o v s
    | .dec => wrDec o v s
    | .enc => wrEnc o v s
    | .scl u => wrScl u.val o v s
    | .csi q => wrCsi q.val o v s
    | .cdy => wrCdy o v s
    | .spt => wrSpt o v s
    | .bist => wrBist o v s
    | .str | .fuse => s

/-- A 4-byte write of the host to a BAR0 offset (R502, R510). -/
def bar0Write (off : Nat) (v : W32) (s : State) : State :=
  if off % 4 ≠ 0 then raiseTlp 8 s
  else if doorbellBase ≤ off then (if off < 0x4000000 then doorbellOp off false v.toNat s else s)
  else match pageOf off with
    | some (p, o) => wrPage .bar0 p o v s
    | none => raiseTlp 8 s

/-! ## BAR4 and configuration space (R504, R516, R517, R521, R525) -/

/-- A write to the MSI-X table; the pending-bit array is read-only. -/
def bar4Write (off : Nat) (v : W32) (s : State) : State :=
  let n := off / 16
  if off < 4096 then
    match off % 16 with
    | 0 => s.onVec n fun x => { x with addr := (x.addr &&& 0xffffffff00000000#64) ||| (v &&& 0xfffffffc#32).setWidth 64 }
    | 4 => s.onVec n fun x => { x with addr := (x.addr &&& 0xffffffff#64) ||| (v.setWidth 64 <<< 32) }
    | 8 => s.onVec n fun x => { x with data := v }
    | 12 => vecMask n (rbit v 0) s
    | _ => s
  else s

/-- The Command register: Memory Space Enable and Bus Master Enable. -/
def commandWrite (v : W32) (s : State) : State := bmeWrite (rbit v 2) (s.onHif fun h => { h with mse := rbit v 1 })

/-- MSI-X Message Control: enable and function mask. -/
def msixCtlWrite (v : W32) (s : State) : State :=
  releasePending (s.onHif fun h => { h with msixEnable := rbit v 15, msixFnMask := rbit v 14 })

/-- Device Control: Max_Payload_Size to 512, Max_Read_Request_Size to 4,096, Initiate Function Level
Reset. -/
def devCtlWrite (v : W32) (s : State) : State :=
  let s := s.onHif fun h =>
    { h with maxPayload := if rfld v 7 5 ≤ 2 then 128 * 2 ^ rfld v 7 5 else h.maxPayload
             maxRead := if rfld v 14 12 ≤ 5 then 128 * 2 ^ rfld v 14 12 else h.maxRead }
  if rbit v 15 then warmReset false s else s

/-- Device Control 2: Completion Timeout value and disable. -/
def devCtl2Write (v : W32) (s : State) : State :=
  s.onHif fun h => { h with cplRange := rfld v 3 0, cplOff := rbit v 4 }

/-- A configuration request acts once the device takes one; until then it is answered with Configuration
Request Retry Status (R524, R525). -/
def cfgWrite (f : State → State) (s : State) : State :=
  if cfgOpen s then f s else if s.hif.linkUp && !s.power.perst then s.issue .cfgRetry else s

end Sys2Proof.Machine
end

