-- ==== Sys2Proof/Machine/Reads.lean ====
section
/-! DEFINITION. What every register reads, and what a read changes (R12, R14, R604 to R608, R614, R621
to R629), and the host's register accesses. -/

namespace Sys2Proof.Machine

/-- Fields of a register: value and lowest bit. -/
def fields (l : List (Nat × Nat)) : Nat := (l.map fun f => f.1 * 2 ^ f.2).sum

/-- A set of flags, bit 0 first. -/
def flags (l : List Bool) : Nat := (l.zipIdx.map fun f => b2n f.1 * 2 ^ f.2).sum

/-- Low or high word of a 64-bit number. -/
def half (hi : Bool) (n : Nat) : Nat := if hi then n / 2 ^ 32 % 2 ^ 32 else n % 2 ^ 32

/-! ## The header (R607, R608, R619) -/

/-- BLK_STATUS (R608). -/
def blkStatus (s : State) (p : Page) : Nat :=
  let core : Bool × Bool := match p with
    | .core n => (coreFenced s n.val, coreAbsent s n.val)
    | _ => (false, false)
  flags [(s.hdr p).ready, blkBusy s p, halted s p, core.1, s.mgt.safe, core.2]

/-- ERR_FIRST (R574). -/
def errFirst (h : Hdr) : Nat :=
  fields [(h.firstBit, 0), (h.firstClass, 8), (b2n h.firstMultiple, 10), (b2n h.firstValid, 31)]

def rdHeader (s : State) (p : Page) (o : Nat) : Nat :=
  let h := s.hdr p
  match o with
  | 0x000 => blkId p
  | 0x004 => blkCaps p
  | 0x008 => blkCtrl s p
  | 0x00c => blkStatus s p
  | 0x010 => h.intStatus.toNat
  | 0x014 => h.intEnable.toNat
  | 0x020 => h.errStatus.toNat
  | 0x024 => h.errMask.toNat
  | 0x028 => h.errSeverity.toNat
  | 0x02c => errFirst h
  | 0x030 => h.log0.toNat
  | 0x034 => h.log1.toNat
  | 0x038 => h.log2.toNat
  | 0x03c => h.log3.toNat
  | 0x040 => h.cntCorr
  | 0x044 => h.cntUncorr
  | 0x080 => shdCtrl s p
  | _ => 0

/-! ## MGT, SEC, FUSE, BIST -/

def stateCode : UnitState → Nat
  | .ok => 0 | .fenced => 1 | .absent => 2

/-- MGT_CORE_MAPn and its kin (R551). -/
def mapWord (core : Bool) (e : MapEntry) : Nat :=
  fields [(e.phys, 0), (if core then e.phys / 4 else 0, 8), (stateCode e.state, 16)]

/-- A fault-log entry as a 128-bit number (R576). -/
def faultBits (e : FaultEntry) : Nat :=
  fields [(e.tick % 2 ^ 64, 0), (e.blk, 64), (e.bit, 96), (e.cls, 104), (e.detail, 112)]

/-- MGT_CAP_CFG (R588). -/
def capCfg (s : State) : Nat :=
  let m := s.mgt
  fields [(m.capC, 0), (m.hystC, 8), (m.bank6, 12), (b2n m.bank6En, 15), (m.bank7, 16), (b2n m.bank7En, 19),
    (m.bank9, 20), (b2n m.bank9En, 23), (m.bank12, 24), (b2n m.bank12En, 27), (m.div, 28),
    (b2n (decide (ownDiv s < m.div)), 30), (b2n m.capEn, 31)]

def rdMgt (s : State) (o : Nat) : Nat :=
  let m := s.mgt
  match o with
  | 0x100 => fields [(s.fuse.variant, 0), (lifeCode s.fuse.life, 2),
      ((m.coreMap.filter fun e => e.state != .absent).length, 8)]
  | 0x104 => bootStatus s
  | 0x108 => fields [(m.unitQuantity, 0), (ofSigned 16 m.unitMeasured, 16)]
  | 0x10c => spareStatus s
  | 0x110 => fields [(b2n m.safe, 0), (m.safeCause, 1)]
  | 0x114 => fields [(b2n m.quiesce, 1), (b2n m.quiesceDone, 2)]
  | 0x118 => capCfg s
  | 0x11c => if (s.hdr .mgt).shadowSel then m.shDiv.getD m.div else m.div
  | 0x120 => fields [(m.faultLog.length, 0), (m.faultOver, 16)]
  | 0x140 => fields [(m.tempMax, 0), (m.tempSensor, 8)]
  | 0x144 => m.pkgPower
  | 0x800 => m.fwVersion.toNat
  | 0x804 => m.fwSvn
  | _ =>
    match inst o 0x130 4 4, inst o 0x200 4 24, inst o 0x260 4 8, inst o 0x280 4 4 with
    | some (i, _), _, _, _ => match m.faultLog with | e :: _ => fld (faultBits e) (32 * i + 31) (32 * i) | [] => 0
    | _, some (n, _), _, _ => mapWord true (m.coreMap.getD n {})
    | _, _, some (n, _), _ => mapWord false (m.decMap.getD n {})
    | _, _, _, some (n, _) => mapWord false (m.encMap.getD n {})
    | _, _, _, _ => 0

/-- SEC_STATUS (R598). -/
def secStatus (s : State) : Nat :=
  fields [(s.sec.result, 0), (b2n s.sec.session.isSome, 9), (b2n (s.sec.session == some .smbus), 10), (s.sec.fails, 16)]

def rdSec (s : State) (o : Nat) : Nat :=
  match o with
  | 0x100 => s.sec.op
  | 0x104 => secStatus s
  | 0x108 => s.sec.mboxAddr * 4
  | 0x10c => (s.sec.mbox.getD s.sec.mboxAddr 0).toNat
  | 0x110 => s.sec.mboxLen
  | _ => 0

def rdFuse (s : State) (o : Nat) : Nat :=
  let f := s.fuse
  match o with
  | 0x100 => f.badCore
  | 0x104 => fields [(f.badDec, 0), (f.badEnc, 16)]
  | 0x108 => fields [(f.accFence, 0), (f.variant, 8), ((Config.lifeRaw (f.nextLife.getD f.life)).toNat, 16)]
  | 0x10c => f.svnFloor
  | 0x110 => f.subsys.toNat
  | 0x114 => half false f.serial.toNat
  | 0x118 => half true f.serial.toNat
  | 0x11c => fields [(b2n f.seedLock, 0), (f.vendorRev, 1), (f.ownerRev, 3), (flags (f.owner.map (·.isSome)), 7)]
  | _ => 0

def rdBist (s : State) (o : Nat) : Nat :=
  match o with
  | 0x100 => s.bist.cmd.toNat
  | 0x104 => s.bist.beat.toNat
  | 0x108 => fields [(s.bist.result, 0), (s.bist.slices, 16)]
  | _ => if 0x200 ≤ o ∧ isField s = false then (tabGet s.bist.direct o).toNat else 0

/-! ## KTL (R69, R621) -/

def planCode : PlanState → Nat
  | .stopped => 0 | .running => 1 | .stopping => 2 | .startPending => 3

def rdInput (s : State) (n r : Nat) : Nat :=
  let f := s.input n
  match r with
  | 0x00 => flags [f.polarity, f.stuck, f.level]
  | 0x04 => f.minWidth
  | 0x08 => f.minPeriod
  | 0x0c => f.maxActive
  | 0x10 => f.release
  | 0x14 => fields [(f.narrow, 0), (f.dropped, 16)]
  | 0x18 => if n < 4 then half false ((s.fifo n).ts.headD 0) else 0
  | 0x1c => if n < 4 then (s.fifo n).hi.toNat else 0
  | 0x20 => if n < 4 then fields [((s.fifo n).ts.length, 0), ((s.fifo n).overflow, 16)] else 0
  | _ => 0

def rdKtl (s : State) (o : Nat) : Nat :=
  let k := s.ktl
  let sh := (s.hdr .ktl).shadowSel
  match o with
  | 0x100 => half false k.count.toNat
  | 0x104 => k.countHi.toNat
  | 0x108 => k.countLoadLo.toNat
  | 0x10c => k.countLoadHi.toNat
  | 0x110 => fields [(if sh then nextBank s else k.planBank, 0), (planCode k.planState, 8), (k.activeBank, 12)]
  | 0x114 => k.planStartLo.toNat
  | 0x118 => k.planStartHi.toNat
  | 0x11c => if sh then nextLen s else k.planLen
  | 0x120 => flags [if sh then k.shPlan.getD k.hot else k.hot, k.forced]
  | 0x124 => k.hotWarnC
  | 0x128 => fields [(k.bankCtl, 0), (flags (k.banks.map (·.valid)), 8)]
  | 0x12c => fields [(k.errIndex, 0), (k.errBank, 9), (k.errCode, 12)]
  | 0x130 => k.ltAddr
  | 0x134 => ((s.bank (k.ltAddr / 8192)).words.getD (k.ltAddr % 8192 / 4) 0).toNat
  | 0x140 => b2n k.epochPlanned * 4
  | 0x144 => fields [(k.epochResult, 0), (b2n (k.epoch.any fun e => e.planned && e.beat.isNone), 3), (k.epochSeq, 16)]
  | 0x148 => k.epochBeatLo.toNat
  | 0x14c => k.epochBeatHi.toNat
  | 0x150 => k.epochTgtLo.toNat
  | 0x154 => k.epochTgtHi.toNat
  | 0x158 => half false k.epochLag
  | 0x15c => half true k.epochLag
  | 0x160 => k.suppressed
  | 0x340 => fields [(b2n k.discEn, 0), (k.discMaxSteps, 1), (k.discCycles, 4), (b2n k.ppsLock, 31)]
  | 0x344 => k.discPhase
  | 0x348 => k.ppsMeasured
  | 0x34c => k.ppsOutlier
  | 0x350 => fields [(k.ppsMode, 0), (b2n k.ppsPolarity, 2), (k.ppsWidth, 4)]
  | 0x354 => k.ppsPhase
  | _ =>
    match inst o 0x180 8 16, inst o 0x200 0x40 5 with
    | some (n, 0), _ => (s.line n).cfg.toNat
    | some (n, _), _ => (s.line n).overlap
    | _, some (n, r) => rdInput s n r
    | _, _ => 0

/-! ## HIF (R282, R419, R512, R513, R519) -/

/-- A result register (R282). -/
def cmdResult (c : CmdReg) : Nat := fields [(c.code, 0), (b2n c.done, 8), (c.ctx, 16)]

def dmaCode : DmaState → Nat
  | .disabled => 0 | .idle => 1 | .run => 2 | .haltBme => 3 | .haltErr => 4

def rdDma (s : State) (ch r : Nat) : Nat :=
  let c := s.dma ch
  match r with
  | 0x00 => c.cfg.toNat
  | 0x04 => fields [(dmaCode c.state, 0), (c.err, 8), (c.discarded, 16)]
  | 0x08 => fields [(c.cons, 0), (c.prod, 16)]
  | 0x0c => c.ringLo.toNat
  | 0x10 => c.ringHi.toNat
  | 0x14 => c.wbLo.toNat
  | 0x18 => c.wbHi.toNat
  | _ => 0

def rdWin (s : State) (w r : Nat) : Nat :=
  match r with
  | 0x0 => (s.win w).cfg.toNat
  | 0x4 => (s.win w).tgtLo.toNat
  | 0x8 => (s.win w).tgtHi.toNat
  | _ => 0

def rdHif (s : State) (o : Nat) : Nat :=
  let h := s.hif
  let sh := (s.hdr .hif).shadowSel
  match o with
  | 0x100 => h.ctxTableLo.toNat
  | 0x104 => h.ctxTableHi.toNat
  | 0x108 => h.ctxCmd.cmd.toNat
  | 0x10c => cmdResult h.ctxCmd
  | 0x110 => h.acctLo.toNat
  | 0x114 => h.acctHi.toNat
  | 0x118 => if sh then h.shMinGap.getD h.minGap else h.minGap
  | 0x11c => h.coalesced
  | _ =>
    match inst o 0x120 4 8, inst o 0x140 0x20 8, inst o 0x300 4 64, inst o 0x400 0x10 64 with
    | some (p, _), _, _, _ =>
      (if sh then (h.shPartSched.getD p none).getD (partReg s p) else partReg s p).toNat
    | _, some (ch, r), _, _ => rdDma s ch r
    | _, _, some (k, _), _ => (h.irqMap.getD k 0).toNat
    | _, _, _, some (w, r) => rdWin s w r
    | _, _, _, _ => 0

/-! ## MESH, HBM, CORE, CLU -/

def rdMesh (s : State) (o : Nat) : Nat :=
  let m := s.mesh
  match o with
  | 0x100 => flags [m.reloc != 0, m.checking]
  | 0x104 => m.reloc
  | 0x108 => m.planId.toNat
  | 0x110 => fields [(m.stStop, 0), (m.stPort, 5), (m.stSlot, 8), (b2n m.stActive, 31)]
  | 0x114 => (tabGet (if m.stActive then m.active else m.shadow) (stKey s)).toNat
  | 0x118 => m.stCtrl.toNat
  | 0x11c => fields [(m.errStop, 0), (m.errPort, 5), (m.errSlot, 8), (m.errCode, 19)]
  | 0x140 => fields [(m.rstSel, 0), (b2n m.rstBusy, 9)]
  | _ =>
    match inst o 0x120 4 8 with
    | some (p, _) => (if (s.hdr .mesh).shadowSel then nextPart s p else m.part.getD p 0).toNat
    | none => 0

def rdHbm (s : State) (o : Nat) : Nat :=
  let h := s.hbm
  match o with
  | 0x100 => fields [(h.map, 0), (b2n h.lock, 31)]
  | 0x104 => fields [(h.temp, 0), (b2n h.tempValid, 8), (h.tempSeq, 16)]
  | 0x108 => (if (s.hdr .hbm).shadowSel then h.shRetrain.getD h.retrain else h.retrain).toNat
  | 0x10c => fields [(h.nextPc, 0), (b2n h.lastFail, 5), (h.fails, 16)]
  | 0x110 => fields [(h.keep, 0), (b2n h.inSr, 10), (b2n (srBusy s), 11)]
  | _ => 0

def phaseCode : Phase → Nat
  | .idle => 0 | .verify => 1 | .run => 2 | .save => 3 | .restore => 4 | .fallbackLoad => 5

/-- CORE_JOB (R621). -/
def coreJob (x : Core) : Nat :=
  fields [(phaseCode x.phase, 0), (b2n (x.job.any (·.inFallback)), 3), ((x.job.map (·.ctx)).getD 0, 8),
    ((x.job.map (·.slot)).getD 0, 16)]

def rdCore (s : State) (n o : Nat) : Nat :=
  let x := s.core n
  match o with
  | 0x100 => coreJob x
  | 0x104 => s.fuse.accFence
  | 0x108 => half false x.stall.toNat
  | 0x10c => x.stallHi.toNat
  | 0x110 => x.skewInfo.toNat
  | 0x114 => x.skewBlock.toNat
  | 0x118 => x.saveLo.toNat
  | 0x11c => x.saveHi.toNat
  | _ =>
    match inst o 0x140 0x10 4 with
    | some (ch, 0x0) => (mseOf s n ch).ctrl.toNat
    | some (ch, 0x4) => half false (mseOf s n ch).cSum
    | some (ch, 0x8) => (mseOf s n ch).rHi.toNat
    | some (ch, _) => (mseOf s n ch).rCnt.toNat
    | none => 0

def rdClu (s : State) (m o : Nat) : Nat :=
  let c := s.clu m
  match o with
  | 0x100 => c.ringCfg.toNat
  | 0x104 => c.dbCfg.toNat
  | 0x108 => fields [(c.cons, 0), (c.prod, 16)]
  | _ => 0

/-! ## DEC, ENC, STR, SCL, CSI, CDY, SPT -/

def rdDec (s : State) (o : Nat) : Nat :=
  let d := s.dec
  match o with
  | 0x100 => d.tableLo.toNat
  | 0x104 => d.tableHi.toNat
  | 0x108 => d.cmd.cmd.toNat
  | 0x10c => cmdResult d.cmd
  | 0x110 => fields [(flags (d.busy.map (·.isSome)), 0), (flags (s.mgt.decMap.map fun e => e.state == .fenced), 8),
      (flags (s.mgt.decMap.map fun e => e.state == .absent), 16)]
  | _ =>
    match inst o 0x400 4 128 with
    | some (n, _) =>
      (if (s.hdr .dec).shadowSel then (d.shd.getD n none).getD (d.act.getD n 0) else d.act.getD n 0).toNat
    | none => 0

def rdEnc (s : State) (o : Nat) : Nat :=
  let d := s.enc
  match o with
  | 0x100 => d.tableLo.toNat
  | 0x104 => d.tableHi.toNat
  | 0x108 => d.cmd.cmd.toNat
  | 0x10c => cmdResult d.cmd
  | 0x110 => fields [(flags (d.busy.map (·.isSome)), 0), (flags (s.mgt.encMap.map fun e => e.state == .fenced), 8),
      (flags (s.mgt.encMap.map fun e => e.state == .absent), 16)]
  | _ =>
    match inst o 0x400 4 16 with
    | some (n, _) =>
      (if (s.hdr .enc).shadowSel then (d.shd.getD n none).getD (d.act.getD n 0) else d.act.getD n 0).toNat
    | none => 0

def rdScl (s : State) (u o : Nat) : Nat :=
  let x := s.sclUnit u
  match o with
  | 0x100 => x.lastLo.toNat
  | 0x104 => x.lastHi.toNat
  | 0x108 => x.commands
  | _ =>
    match inst o 0x180 4 8 with
    | some (k, _) =>
      if u = 0 then
        (if (s.hdr (.scl 0)).shadowSel then (s.scl.shPriv.getD k none).getD (s.scl.priv.getD k 0)
         else s.scl.priv.getD k 0).toNat
      else 0
    | none => 0

def rdCsi (s : State) (p o : Nat) : Nat :=
  if o = 0x100 then (s.csi.ports.getD p 0).toNat
  else if p = 0 then
    match o with
    | 0x180 => s.csi.tableLo.toNat
    | 0x184 => s.csi.tableHi.toNat
    | 0x188 => s.csi.cmd.cmd.toNat
    | 0x18c => cmdResult s.csi.cmd
    | _ => 0
  else 0

def rdCring (c : CdyRing) (r : Nat) : Nat :=
  match r with
  | 0x00 => c.cfg.toNat
  | 0x04 => fields [(c.cons, 0), (c.prod, 16)]
  | 0x08 => c.baseLo.toNat
  | 0x0c => c.baseHi.toNat
  | 0x10 => c.dbLo.toNat
  | 0x14 => c.dbHi.toNat
  | _ => 0

def rdCdy (s : State) (o : Nat) : Nat :=
  match o with
  | 0x100 => s.cdy.tableLo.toNat
  | 0x104 => s.cdy.tableHi.toNat
  | 0x108 => s.cdy.cmd.cmd.toNat
  | 0x10c => cmdResult s.cdy.cmd
  | _ =>
    match inst o 0x200 0x20 8 with
    | some (n, r) => rdCring (s.cdyRing n) r
    | none => 0

def rdSptRing (s : State) (n r : Nat) : Nat :=
  let c := s.sptRing n
  match r with
  | 0x00 => c.cfg.toNat
  | 0x04 => (if (s.hdr .spt).shadowSel then c.shCoal.getD c.coal else c.coal).toNat
  | 0x08 => fields [(c.dropped, 0), (heldLines s n [], 16), (b2n c.consBad, 29)]
  | 0x0c => c.cons
  | 0x10 => c.baseLo.toNat
  | 0x14 => c.baseHi.toNat
  | 0x18 => c.wbLo.toNat
  | _ => c.wbHi.toNat

def rdSpt (s : State) (o : Nat) : Nat :=
  match o with
  | 0x100 => fields [(storeLines s, 0), (cplLines s, 16)]
  | 0x108 => half false s.spt.dropPend.toNat
  | 0x10c => half true s.spt.dropPend.toNat
  | _ =>
    match inst o 0x400 0x20 64 with
    | some (n, r) => rdSptRing s n r
    | none => 0

/-! ## The pages -/

/-- What a register of a page reads. -/
def regValue (s : State) (p : Page) (o : Nat) : W32 :=
  BitVec.ofNat 32 (
    if o < 0x100 then rdHeader s p o
    else match p with
      | .mgt => rdMgt s o
      | .sec => rdSec s o
      | .ktl => rdKtl s o
      | .hif => rdHif s o
      | .mesh => rdMesh s o
      | .hbm => rdHbm s o
      | .core n => rdCore s n.val o
      | .clu m => rdClu s m.val o
      | .dec => rdDec s o
      | .enc => rdEnc s o
      | .str => match o with | 0x100 => s.str.admitted | 0x104 => s.str.refused | _ => 0
      | .scl u => rdScl s u.val o
      | .csi q => rdCsi s q.val o
      | .cdy => rdCdy s o
      | .spt => rdSpt s o
      | .bist => rdBist s o
      | .fuse => rdFuse s o)

/-! ## What a read changes (R14, R45, R242, R243, R598, R606, R621, R623) -/

/-- A read of a Kettle register: counters of type RC clear, latches and indirect ports move. -/
def readKtl (o : Nat) (s : State) : State :=
  match o with
  | 0x100 => countLatch s
  | 0x134 => ltAdvance s
  | 0x160 => s.onKtl fun k => { k with suppressed := 0 }
  | 0x34c => s.onKtl fun k => { k with ppsOutlier := 0 }
  | _ =>
    match inst o 0x180 8 16, inst o 0x200 0x40 5 with
    | some (n, 4), _ => s.onLine n fun l => { l with overlap := 0 }
    | _, some (n, 0x14) => s.onInput n fun f => { f with narrow := 0, dropped := 0 }
    | _, some (n, 0x18) => fsinPop n s
    | _, some (n, 0x20) => s.onFifo n fun f => { f with overflow := 0 }
    | _, _ => s

/-- A read of a core's register: the high half of the stall count, the statistics channels. -/
def readCore (n o : Nat) (s : State) : State :=
  if o = 0x108 then s.onCore n fun x => { x with stallHi := (x.stall >>> 32).setWidth 32 }
  else match inst o 0x140 0x10 4 with
    | some (ch, 0x4) => mseReadLo n ch s
    | some (ch, 0x8) => mseReadHi n ch s
    | _ => s

/-- What a read of a register changes: a counter of type RC returns its value and clears. -/
def readEffect (p : Page) (o : Nat) (s : State) : State :=
  match p, o with
  | p, 0x040 => s.onHdr p fun h => { h with cntCorr := 0 }
  | p, 0x044 => s.onHdr p fun h => { h with cntUncorr := 0 }
  | .mgt, 0x120 => s.onMgt fun m => { m with faultOver := 0 }
  | .sec, 0x10c => s.onSec fun c => { c with mboxAddr := (c.mboxAddr + 1) % 2048 }
  | .ktl, o => readKtl o s
  | .hif, 0x11c => s.onHif fun h => { h with coalesced := 0 }
  | .mesh, 0x114 => stAdvance s
  | .core n, o => readCore n.val o s
  | .spt, o =>
    match inst o 0x400 0x20 64 with
    | some (n, 0x08) => s.onSptRing n fun r => { r with dropped := 0 }
    | _ => s
  | _, _ => s

/-- A read of a register of a page: the value, then what the read changes. -/
def regRead (p : Page) (o : Nat) (s : State) : State := readEffect p o (s.answer (regValue s p o))

/-! ## Reads of the host (R499, R502, R510, R521) -/

/-- A 4-byte read of a BAR0 offset: the doorbell region reads 0, an offset without a page reads 0 and is
logged, one that is not aligned completes with Completer Abort. -/
def bar0Read (off : Nat) (s : State) : State :=
  if off % 4 ≠ 0 then raiseTlp 8 { s.issue (.cpl .ca []) with resp := [] }
  else if doorbellBase ≤ off then s.answer 0
  else match pageOf off with
    | some (p, o) => regRead p o s
    | none => raiseTlp 8 (s.answer 0)

/-- What the MSI-X table and the pending-bit array read. -/
def bar4Value (s : State) (off : Nat) : W32 :=
  if off < 4096 then
    let x := s.vec (off / 16)
    match off % 16 with
    | 0 => x.addr.setWidth 32
    | 4 => (x.addr >>> 32).setWidth 32
    | 8 => x.data
    | 12 => BitVec.ofNat 32 (b2n x.masked)
    | _ => 0
  else if off < 4096 + 32 ∧ off % 4 = 0 then
    BitVec.ofNat 32 (flags ((List.range 32).map fun i => (s.vec (8 * (off - 4096) + i)).pending))
  else 0

/-- The configuration header (R499): Device and Vendor ID, class code and Revision ID, Subsystem IDs, and
Memory Space and Bus Master Enable,
Interrupt Pin 0 (R498), the Device Serial Number in its capability; the rest is the PCI Express specification's. -/
def configValue (s : State) (off : Nat) : W32 :=
  if off = 0x00 then BitVec.ofNat 32 (0x7264 * 2 ^ 16 + Config.vendorId.toNat)
  else if off = 0x04 then
    setFld (setFld (Config.configWord s.up off) 1 1 (b2n s.hif.mse)) 2 2 (b2n s.hif.bme)
  else if off = 0x3c then setFld (Config.configWord s.up off) 15 8 0
  else if off = 0x08 then BitVec.ofNat 32 (0x120000 * 2 ^ 8 + blkId .mgt % 256)
  else if off = 0x2c then s.hif.subsys
  else if off = Config.serialOffset + 4 then s.hif.serial.setWidth 32
  else if off = Config.serialOffset + 8 then (s.hif.serial >>> 32).setWidth 32
  else Config.configWord s.up off

/-- REGISTER_WRITE: a register of BAR0, of the MSI-X table or of configuration space is written or read.
The table of operations has no row of its own for a host's register read (log entry 61). -/
def execRegisterWrite (space : RegSpace) (off : Nat) (v : W32) (s : State) : Out :=
  .next (match space with
    | .bar0 => hostWrite (bar0Write off v) s
    | .bar4 => hostWrite (bar4Write off v) s
    | .pciCommand => cfgWrite (commandWrite v) s
    | .msixControl => cfgWrite (msixCtlWrite v) s
    | .deviceControl => cfgWrite (devCtlWrite v) s
    | .deviceControl2 => cfgWrite (devCtl2Write v) s
    | .bar0Read => hostRead (bar0Read off) s
    | .bar4Read => hostRead (fun s => s.answer (bar4Value s off)) s
    | .configRead => cfgWrite (fun s => s.answer (configValue s off)) s)

end Sys2Proof.Machine
end

