-- ==== Sys2Proof/Machine/Smb.lean ====
section
/-! DEFINITION. The SMBus management port (R542, R547, R651, R652). -/

namespace Sys2Proof.Machine

/-- Pages that the port reaches. -/
def smbPage : Page → Bool
  | .mgt | .sec | .fuse => true
  | _ => false

/-- SMB_REGISTER_WRITE: discarded outside the three pages, before READY and after a boot stop. -/
def execSmbRegisterWrite (off : BitVec 24) (v : W32) (s : State) : Out :=
  .next (if smbOpen s && s.power.booted && off.toNat % 4 == 0 then
      match pageOf off.toNat with
      | some (p, o) => if smbPage p then wrPage .smbus p o v s else s
      | none => s
    else s)

/-- SMB_SET_READ_ADDRESS. -/
def execSmbSetReadAddress (off : BitVec 24) (s : State) : Out :=
  .next (if smbOpen s then s.onMgt fun m => { m with readAddr := off.toNat } else s)

/-- The page and offset that the port serves: before READY only MGT reads. -/
def smbTarget (s : State) : Option (Page × Nat) :=
  match pageOf s.mgt.readAddr with
  | some (p, o) => if smbPage p && (s.power.booted || p == .mgt) then some (p, o) else none
  | none => none

/-- SMB_REGISTER_READ: the data at the set address; what an unaligned one reads is left open. -/
def execSmbRegisterRead (s : State) : Out :=
  .next (if smbOpen s then
      match smbTarget s with
      | some (p, o) =>
        if o % 4 = 0 then regRead p o s
        else
          let (v, s) := s.takeFree
          s.answer (v.setWidth 32)
      | none => s.answer 0xffffffff#32
    else s)

end Sys2Proof.Machine
end

