-- ==== Sys2Proof/Machine/Dispatch.lean ====
section
/-! DEFINITION. The effect of a command: one arm for each row of the table of operations. -/

namespace Sys2Proof.Machine

def exec (i : Instr) (s : State) : Host.Outcome State Fault Refusal :=
  match i with
  | .ktlCountRead hi => Sys2Proof.Machine.execKtlCountRead hi s
  | .launchIssue => Sys2Proof.Machine.execLaunchIssue s
  | .planCycleEnd => Sys2Proof.Machine.execPlanCycleEnd s
  | .start v => Sys2Proof.Machine.execStart v s
  | .stop v => Sys2Proof.Machine.execStop v s
  | .planStartBeat => Sys2Proof.Machine.execPlanStartBeat s
  | .load v => Sys2Proof.Machine.execLoad v s
  | .countLoaded => Sys2Proof.Machine.execCountLoaded s
  | .commit v => Sys2Proof.Machine.execCommit v s
  | .invalidate v => Sys2Proof.Machine.execInvalidate v s
  | .ktlLtDataAccess w => Sys2Proof.Machine.execKtlLtDataAccess w s
  | .refreshWindow => Sys2Proof.Machine.execRefreshWindow s
  | .hbmTempReading temp => Sys2Proof.Machine.execHbmTempReading temp s
  | .arm v => Sys2Proof.Machine.execArm v s
  | .disarm v => Sys2Proof.Machine.execDisarm v s
  | .modeSwitch => Sys2Proof.Machine.execModeSwitch s
  | .epochSample => Sys2Proof.Machine.execEpochSample s
  | .epochDone => Sys2Proof.Machine.execEpochDone s
  | .fsyncPulse line => Sys2Proof.Machine.execFsyncPulse line s
  | .fsyncPulseEnd line => Sys2Proof.Machine.execFsyncPulseEnd line s
  | .fsyncCfgWrite line v => Sys2Proof.Machine.execFsyncCfgWrite line v s
  | .narrow inp => Sys2Proof.Machine.execNarrow inp s
  | .inputQualify inp => Sys2Proof.Machine.execInputQualify inp s
  | .stuck inp => Sys2Proof.Machine.execStuck inp s
  | .inputRelease inp => Sys2Proof.Machine.execInputRelease inp s
  | .ppsLost => Sys2Proof.Machine.execPpsLost s
  | .ktlFsinTsRead n hi => Sys2Proof.Machine.execKtlFsinTsRead n hi s
  | .ppsOutPulse => Sys2Proof.Machine.execPpsOutPulse s
  | .ppsOutPulseEnd => Sys2Proof.Machine.execPpsOutPulseEnd s
  | .jobStart ctx slot => Sys2Proof.Machine.execJobStart ctx slot s
  | .verifyDone core => Sys2Proof.Machine.execVerifyDone core s
  | .planeLoad core => Sys2Proof.Machine.execPlaneLoad core s
  | .rowEntry core parity => Sys2Proof.Machine.execRowEntry core parity s
  | .drain core => Sys2Proof.Machine.execDrain core s
  | .coreMemUncorr core addr => Sys2Proof.Machine.execCoreMemUncorr core addr s
  | .matmul core => Sys2Proof.Machine.execMatmul core s
  | .conv2d core => Sys2Proof.Machine.execConv2d core s
  | .dwconv core => Sys2Proof.Machine.execDwconv core s
  | .dist core => Sys2Proof.Machine.execDist core s
  | .eltwise core => Sys2Proof.Machine.execEltwise core s
  | .pool core => Sys2Proof.Machine.execPool core s
  | .requant core => Sys2Proof.Machine.execRequant core s
  | .nms core => Sys2Proof.Machine.execNms core s
  | .gather core => Sys2Proof.Machine.execGather core s
  | .scatter core => Sys2Proof.Machine.execScatter core s
  | .copy core => Sys2Proof.Machine.execCopy core s
  | .waitBeat core => Sys2Proof.Machine.execWaitBeat core s
  | .waitBeatResume core => Sys2Proof.Machine.execWaitBeatResume core s
  | .signal core => Sys2Proof.Machine.execSignal core s
  | .fence core => Sys2Proof.Machine.execFence core s
  | .jobEnd core => Sys2Proof.Machine.execJobEnd core s
  | .coreMseSumLoRead core ch => Sys2Proof.Machine.execCoreMseSumLoRead core ch s
  | .restart core ch v => Sys2Proof.Machine.execRestart core ch v s
  | .fallbackStart core => Sys2Proof.Machine.execFallbackStart core s
  | .sauDoorbell m => Sys2Proof.Machine.execSauDoorbell m s
  | .sauRingCfgWrite m v => Sys2Proof.Machine.execSauRingCfgWrite m v s
  | .saucerCmdStart m => Sys2Proof.Machine.execSaucerCmdStart m s
  | .saucerDone m => Sys2Proof.Machine.execSaucerDone m s
  | .saucerMemError m row => Sys2Proof.Machine.execSaucerMemError m row s
  | .decEnable ctx => Sys2Proof.Machine.execDecEnable ctx s
  | .decDisable ctx => Sys2Proof.Machine.execDecDisable ctx s
  | .discontinuity ctx => Sys2Proof.Machine.execDiscontinuity ctx s
  | .decFrameBoundaryApply ctx => Sys2Proof.Machine.execDecFrameBoundaryApply ctx s
  | .release ctx slot => Sys2Proof.Machine.execRelease ctx slot s
  | .decDoorbell ctx => Sys2Proof.Machine.execDecDoorbell ctx s
  | .decodeStart ctx => Sys2Proof.Machine.execDecodeStart ctx s
  | .decAutoStart ctx => Sys2Proof.Machine.execDecAutoStart ctx s
  | .decPictureStart ctx => Sys2Proof.Machine.execDecPictureStart ctx s
  | .decEntryConsumed ctx => Sys2Proof.Machine.execDecEntryConsumed ctx s
  | .decBudget ctx core => Sys2Proof.Machine.execDecBudget ctx core s
  | .decWatchdog ctx core blocks last => Sys2Proof.Machine.execDecWatchdog ctx core blocks last s
  | .decPictureDone ctx => Sys2Proof.Machine.execDecPictureDone ctx s
  | .encEnable ctx => Sys2Proof.Machine.execEncEnable ctx s
  | .encDisable ctx => Sys2Proof.Machine.execEncDisable ctx s
  | .refreshNow ctx => Sys2Proof.Machine.execRefreshNow ctx s
  | .encodeStart ctx => Sys2Proof.Machine.execEncodeStart ctx s
  | .encPictureDone ctx => Sys2Proof.Machine.execEncPictureDone ctx s
  | .encCoreFault core => Sys2Proof.Machine.execEncCoreFault core s
  | .csiEnable ch => Sys2Proof.Machine.execCsiEnable ch s
  | .csiDisable ch => Sys2Proof.Machine.execCsiDisable ch s
  | .csiFrameStart ch vc hdr => Sys2Proof.Machine.execCsiFrameStart ch vc hdr s
  | .csiLine ch vc dt hdr crcOk overflow payload => Sys2Proof.Machine.execCsiLine ch vc dt hdr crcOk overflow payload s
  | .csiFrameEnd ch vc hdr => Sys2Proof.Machine.execCsiFrameEnd ch vc hdr s
  | .csiFrameTimeout ch => Sys2Proof.Machine.execCsiFrameTimeout ch s
  | .scaleStart u => Sys2Proof.Machine.execScaleStart u s
  | .scalerEntryDone u => Sys2Proof.Machine.execScalerEntryDone u s
  | .scalerCmdDone u => Sys2Proof.Machine.execScalerCmdDone u s
  | .scalerMemError u => Sys2Proof.Machine.execScalerMemError u s
  | .cdyPartEnable p => Sys2Proof.Machine.execCdyPartEnable p s
  | .cdyPartDisable p => Sys2Proof.Machine.execCdyPartDisable p s
  | .clear p => Sys2Proof.Machine.execClear p s
  | .cdyDoorbell n => Sys2Proof.Machine.execCdyDoorbell n s
  | .cdyCringCfgWrite n v => Sys2Proof.Machine.execCdyCringCfgWrite n v s
  | .update => Sys2Proof.Machine.execUpdate s
  | .emit => Sys2Proof.Machine.execEmit s
  | .caddyDone => Sys2Proof.Machine.execCaddyDone s
  | .caddyMemError addr => Sys2Proof.Machine.execCaddyMemError addr s
  | .spoutHandoff => Sys2Proof.Machine.execSpoutHandoff s
  | .spoutLineIssue => Sys2Proof.Machine.execSpoutLineIssue s
  | .spoutWriteback ring => Sys2Proof.Machine.execSpoutWriteback ring s
  | .spoutIntBeatsExpiry ring => Sys2Proof.Machine.execSpoutIntBeatsExpiry ring s
  | .spoutFlush target => Sys2Proof.Machine.execSpoutFlush target s
  | .sptRingConsWrite ring v => Sys2Proof.Machine.execSptRingConsWrite ring v s
  | .sptRingCfgWrite ring v => Sys2Proof.Machine.execSptRingCfgWrite ring v s
  | .ctxEnable ctx => Sys2Proof.Machine.execCtxEnable ctx s
  | .ctxDisable ctx => Sys2Proof.Machine.execCtxDisable ctx s
  | .hold ctx => Sys2Proof.Machine.execHold ctx s
  | .unhold ctx => Sys2Proof.Machine.execUnhold ctx s
  | .ctxDoorbell ctx => Sys2Proof.Machine.execCtxDoorbell ctx s
  | .coreFreeSelect core => Sys2Proof.Machine.execCoreFreeSelect core s
  | .shareArbitrate part => Sys2Proof.Machine.execShareArbitrate part s
  | .preemptRequest core => Sys2Proof.Machine.execPreemptRequest core s
  | .saveComplete core => Sys2Proof.Machine.execSaveComplete core s
  | .restoreComplete core => Sys2Proof.Machine.execRestoreComplete core s
  | .hbmCfgWrite v => Sys2Proof.Machine.execHbmCfgWrite v s
  | .memRead src addr lines ecc => Sys2Proof.Machine.execMemRead src addr lines ecc s
  | .memWrite src addr mask data ecc => Sys2Proof.Machine.execMemWrite src addr mask data ecc s
  | .memAdd src addr v ecc => Sys2Proof.Machine.execMemAdd src addr v ecc s
  | .memBitSet src addr v ecc => Sys2Proof.Machine.execMemBitSet src addr v ecc s
  | .memBitClear src addr v ecc => Sys2Proof.Machine.execMemBitClear src addr v ecc s
  | .negResponse src resp addr => Sys2Proof.Machine.execNegResponse src resp addr s
  | .meshFlitHop flit ecc => Sys2Proof.Machine.execMeshFlitHop flit ecc s
  | .hbmRetrainWindow => Sys2Proof.Machine.execHbmRetrainWindow s
  | .enter v => Sys2Proof.Machine.execEnter v s
  | .srEntry => Sys2Proof.Machine.execSrEntry s
  | .exit v => Sys2Proof.Machine.execExit v s
  | .srDone => Sys2Proof.Machine.execSrDone s
  | .meshStDataAccess w => Sys2Proof.Machine.execMeshStDataAccess w s
  | .meshStCtrlWrite v => Sys2Proof.Machine.execMeshStCtrlWrite v s
  | .commitDone => Sys2Proof.Machine.execCommitDone s
  | .meshPartResetGo v => Sys2Proof.Machine.execMeshPartResetGo v s
  | .partResetDone => Sys2Proof.Machine.execPartResetDone s
  | .bar0AccessInvalid write off size => Sys2Proof.Machine.execBar0AccessInvalid write off size s
  | .bar0Timeout off => Sys2Proof.Machine.execBar0Timeout off s
  | .bar2Read off len => Sys2Proof.Machine.execBar2Read off len s
  | .bar2Write off data => Sys2Proof.Machine.execBar2Write off data s
  | .hifWinCfgWrite w v => Sys2Proof.Machine.execHifWinCfgWrite w v s
  | .doorbellWrite off size8 v => Sys2Proof.Machine.execDoorbellWrite off size8 v s
  | .doorbellDelivery db => Sys2Proof.Machine.execDoorbellDelivery db s
  | .hdmaDoorbell ch => Sys2Proof.Machine.execHdmaDoorbell ch s
  | .hdmaIn ch => Sys2Proof.Machine.execHdmaIn ch s
  | .hdmaOut ch => Sys2Proof.Machine.execHdmaOut ch s
  | .hdmaWrite ch => Sys2Proof.Machine.execHdmaWrite ch s
  | .hdmaNop ch => Sys2Proof.Machine.execHdmaNop ch s
  | .hdmaDescComplete ch => Sys2Proof.Machine.execHdmaDescComplete ch s
  | .hdmaCompletion ch st data => Sys2Proof.Machine.execHdmaCompletion ch st data s
  | .cplTimeout ch => Sys2Proof.Machine.execCplTimeout ch s
  | .resume ch v => Sys2Proof.Machine.execResume ch v s
  | .hdmaCfgWrite ch v => Sys2Proof.Machine.execHdmaCfgWrite ch v s
  | .msixSend => Sys2Proof.Machine.execMsixSend s
  | .msixUnmask vec => Sys2Proof.Machine.execMsixUnmask vec s
  | .perstNAssert => Sys2Proof.Machine.execPerstNAssert s
  | .perstNRelease b => Sys2Proof.Machine.execPerstNRelease b s
  | .windowRetry m => Sys2Proof.Machine.execWindowRetry m s
  | .functionLevelReset => Sys2Proof.Machine.execFunctionLevelReset s
  | .hotReset => Sys2Proof.Machine.execHotReset s
  | .resetDone => Sys2Proof.Machine.execResetDone s
  | .busMasterClear => Sys2Proof.Machine.execBusMasterClear s
  | .busMasterSet => Sys2Proof.Machine.execBusMasterSet s
  | .linkLoss => Sys2Proof.Machine.execLinkLoss s
  | .go v => Sys2Proof.Machine.execGo v s
  | .sliceStart => Sys2Proof.Machine.execSliceStart s
  | .sliceDone pass => Sys2Proof.Machine.execSliceDone pass s
  | .sparePowerGood u => Sys2Proof.Machine.execSparePowerGood u s
  | .spareKatDone u pass => Sys2Proof.Machine.execSpareKatDone u pass s
  | .spareEngaged u => Sys2Proof.Machine.execSpareEngaged u s
  | .codecKatDone core pass => Sys2Proof.Machine.execCodecKatDone core pass s
  | .defectRecordWrite => Sys2Proof.Machine.execDefectRecordWrite s
  | .flashTimeout => Sys2Proof.Machine.execFlashTimeout s
  | .errFirstClear p => Sys2Proof.Machine.execErrFirstClear p s
  | .pop => Sys2Proof.Machine.execPop s
  | .safeStateEntry cond => Sys2Proof.Machine.execSafeStateEntry cond s
  | .thermalTrip sensor temp => Sys2Proof.Machine.execThermalTrip sensor temp s
  | .quiesce => Sys2Proof.Machine.execQuiesce s
  | .quiesceDone => Sys2Proof.Machine.execQuiesceDone s
  | .capStep sensor temp power => Sys2Proof.Machine.execCapStep sensor temp power s
  | .capRetry => Sys2Proof.Machine.execCapRetry s
  | .pmbusPoll answer => Sys2Proof.Machine.execPmbusPoll answer s
  | .vddSetPointStep mv => Sys2Proof.Machine.execVddSetPointStep mv s
  | .getIdentity port => Sys2Proof.Machine.execGetIdentity port s
  | .attest port => Sys2Proof.Machine.execAttest port s
  | .openSession port => Sys2Proof.Machine.execOpenSession port s
  | .closeSession port => Sys2Proof.Machine.execCloseSession port s
  | .provisionOwner port => Sys2Proof.Machine.execProvisionOwner port s
  | .advanceSvn port => Sys2Proof.Machine.execAdvanceSvn port s
  | .fuseWrite port w => Sys2Proof.Machine.execFuseWrite port w s
  | .setLifeCycle port l => Sys2Proof.Machine.execSetLifeCycle port l s
  | .debugUnlock port => Sys2Proof.Machine.execDebugUnlock port s
  | .clearDefectRecord port => Sys2Proof.Machine.execClearDefectRecord port s
  | .secMboxDataAccess w => Sys2Proof.Machine.execSecMboxDataAccess w s
  | .halt p on => Sys2Proof.Machine.execHalt p on s
  | .enable p on => Sys2Proof.Machine.execEnable p on s
  | .fenceDriver core on => Sys2Proof.Machine.execFenceDriver core on s
  | .softInit p => Sys2Proof.Machine.execSoftInit p s
  | .markComplete p => Sys2Proof.Machine.execMarkComplete p s
  | .discard p => Sys2Proof.Machine.execDiscard p s
  | .intForce p v => Sys2Proof.Machine.execIntForce p v s
  | .registerWrite space off v => Sys2Proof.Machine.execRegisterWrite space off v s
  | .smbRegisterWrite off v => Sys2Proof.Machine.execSmbRegisterWrite off v s
  | .smbSetReadAddress off => Sys2Proof.Machine.execSmbSetReadAddress off s
  | .smbRegisterRead => Sys2Proof.Machine.execSmbRegisterRead s
  | .idcode => Sys2Proof.Machine.execIdcode s
  | .linkTrained => Sys2Proof.Machine.execLinkTrained s
  | .bar2Reissue => Sys2Proof.Machine.execBar2Reissue s
  | .hbmRetrainDone pass latency => Sys2Proof.Machine.execHbmRetrainDone pass latency s
  | .inputEdge inp level => Sys2Proof.Machine.execInputEdge inp level s
  | .badTlp e hdr => Sys2Proof.Machine.execBadTlp e hdr s
  | .inputPowerLoss vddioLost => Sys2Proof.Machine.execInputPowerLoss vddioLost s

end Sys2Proof.Machine
end

