-- ==== Sys2Proof/Machine/Tick.lean ====
section
/-! DEFINITION. One Kettle tick, what the part does when no command waits (log entry 1): the count
advances and the deficits of running contexts fall. -/

namespace Sys2Proof.Machine

/-- The count and the ticks since reset advance by one (R44); the count stands under reset. The FSYNC_OUT
balls follow their enables from the next tick (R70). -/
def countTick (s : State) : State :=
  s.onKtl fun k =>
    { k with up := k.up + 1, count := if s.power.perst then k.count else k.count + 1
             fsync := k.fsync.map fun l => { l with driven := rbit l.cfg 0 } }

/-- One tick: the count, the deficits, and the failures of core memories that other agents met (R112). -/
def tick (s : State) : State := coreMemFailures (deficitTick (countTick s))

end Sys2Proof.Machine
end

