-- ==== Sys2Proof/Safety.lean ====
section
/-! DEFINITION. The terms in which claims are made: safe runs, status bits, what logging and raising an
interrupt may touch, memory outside a set of bytes. -/

namespace Sys2Proof

open Machine

/-- `k` steps from a state all answer next states. -/
def safeFor : Nat → State → Bool
  | 0, _ => true
  | k + 1, s =>
    match step s with
    | .next t => safeFor k t
    | _ => false

/-- Bit `b` of a page's ERR_STATUS. -/
def errBit (s : State) (p : Page) (b : Nat) : Bool := (s.hdr p).errStatus.getLsbD b

/-- Bit `b` of a page's INT_STATUS. -/
def intBit (s : State) (p : Page) (b : Nat) : Bool := (s.hdr p).intStatus.getLsbD b

/-- `t` with the header pages and the host interface of `s`: what setting an interrupt bit may touch
put back. -/
def sansInt (s t : State) : State := { t with hdrs := s.hdrs, hif := s.hif }

/-- `t` with what logging a condition may touch put back to what `s` holds. -/
def sansLog (s t : State) : State :=
  { t with hdrs := s.hdrs, hif := s.hif, mgt := s.mgt, free := s.free }

/-- The numbered parts of the machine are all there: pages, cores, clusters, banks, lines, inputs,
contexts, channels, vectors, rings, units. -/
def sized (s : State) : Bool :=
  s.hdrs.length == 56 && s.cores.length == 24 && s.clus.length == 7 &&
  s.ktl.banks.length == 8 && s.ktl.fsync.length == 16 && s.ktl.inputs.length == 5 &&
  s.ktl.fifos.length == 4 && s.sched.ctxs.length == 256 && s.sched.held.length == 24 &&
  s.sched.after.length == 24 && (s.sched.ctxs.all fun c => c.slots.length == 64) && s.hif.dma.length == 8 &&
  s.hif.msix.length == 256 && s.dec.ctxs.length == 128 && s.enc.ctxs.length == 16 &&
  s.csi.chs.length == 16 && s.scl.units.length == 4 && s.cdy.parts.length == 256 &&
  s.cdy.rings.length == 8 && s.spt.rings.length == 64

/-- A range of device addresses answers an agent's read with its data. -/
def readable (s : State) (src : Src) (a n : Nat) : Bool := respRange s src a n == .ok && !badAt s a n

/-- The macro-instruction a job is at may begin: its boundary was passed, or it is a member of a fusion
chain behind the first, or neither the deadline monitor nor the yield rule acts at it (R438, R442). -/
def passes (s : State) (n : Nat) (j : Job) : Bool :=
  j.begun || mFuseIn (macroOf (s.core n) j) || (!missPredicted s (s.core n) j && !yields s n j)

/-- A job after the oldest macro-instruction that was in progress (R176, R198). -/
def afterMacro (up : Nat) (j : Job) : Job := { j with acctTick := up }.next (j.ahead.length + 1)

/-- Beat that a WAIT_BEAT word names: counted from the job's START_TICK with BASE 1, with BASE 0 from the
start of the plan cycle that runs (R158). -/
def waitsFor (s : State) (j : Job) (m b : Nat) : Bool :=
  if bitAt (mP0 m) 32 then b == j.startTick / 1100 + fld (mP0 m) 31 0
  else (s.ktl.planState == .running || s.ktl.planState == .stopping) &&
    b == s.ktl.cycleStart / 1100 + fld (mP0 m) 31 0

/-- A completion record of a ring waits to enter the Spout, with fields given by offset, bytes, value
(R170). -/
def handed (s : State) (ring : Nat) (fs : List (Nat × Nat × Nat)) : Bool :=
  s.spt.arriving.any fun r => r.cpl && r.ring == ring &&
    fs.all fun f => leNat ((r.bytes.drop f.1).take f.2.1) == f.2.2

/-- A producer's record for a ring waits to enter the Spout, with fields given by offset, bytes, value (R317,
R328, R396). -/
def reported (s : State) (ring : Nat) (fs : List (Nat × Nat × Nat)) : Bool :=
  s.spt.arriving.any fun r => !r.cpl && r.ring == ring && r.tick == s.now &&
    fs.all fun f => leNat ((r.bytes.drop f.1).take f.2.1) == f.2.2

/-- A decode context and its picture after the Strainer's decision on the entry (R299, R305, R306, R310,
R311). -/
def afterAdmit (a : Admit × DecCtx) (p : DecPic) : DecCtx :=
  let cores := if (partsOf p.au).length ≤ 1 then p.cores.take 1 else p.cores
  match a.1 with
  | .picture b => { a.2 with pic := some { p with
      buf := some b, cores := cores
      owners := match a.2.seqInfo with | some q => decOwners q p.au cores.length | none => [] } }
  | .none_ k => { (if taints k then taint a.2 else a.2) with pic := some { p with code := k } }
  | .skip => { taint a.2 with pic := some p }

/-- The code with which an entry was refused. -/
def admitCode : Admit → Option Nat
  | .none_ k => some k
  | _ => none

/-- A ring takes a completion record now: it is enabled and a completion line is free (R411, R412). -/
def takesCpl (s : State) (ring : Nat) : Bool := rbit (s.sptRing ring).cfg 31 && cplRoom s ring

/-- The tiled macro-instruction of an opcode: what it reads and gives. -/
def tileOp (op : Nat) (s : State) (x : Core) (m : Nat) : TileOp :=
  if op = opDwconv then dwconvOp s x m
  else if op = opPool then poolOp s x m
  else if op = opEltwise then eltwiseOp x m
  else if op = opRequant then requantOp x m
  else if op = opNms then nmsOp s x m
  else if op = opGather then gatherOp x m
  else if op = opScatter then scatterOp x m
  else copyOp x m

/-- The state in which a tile is read: the opcodes of the vector engine use its registers. -/
def tileRegs (op n : Nat) (s : State) : State :=
  if op = opPool ∨ op = opEltwise ∨ op = opNms then scratchRegs n s else s

/-- Every byte outside a set of keys reads in `t` as in `s`. -/
def memKept (s t : State) (p : Nat → Prop) : Prop := ∀ k, ¬ p k → memGet t.mem k = memGet s.mem k

/-- `t` with what the service of a memory request may touch put back to what `s` holds: memory, the answer,
the lock of the HBM map, and the counts delivered to command rings whose doorbell words were written. -/
def sansMem (s t : State) : State :=
  { t with
    mem := s.mem, resp := s.resp, hbm := { t.hbm with lock := s.hbm.lock }
    clus := t.clus.mapIdx fun m c => { c with dbPend := (s.clu m).dbPend }
    cdy := { t.cdy with rings := t.cdy.rings.mapIdx fun n r => { r with dbPend := (s.cdyRing n).dbPend } } }

end Sys2Proof
end

