-- ==== Sys2Proof/Certificates/Slice0/Obligations.lean ====
section
/-! DEFINITION. The statements for the provers. A command that the part's clock or a process times has
its effect on its tick; `barWr` and `barOpen` say that the host's writes and reads arrive. -/

open Sys2Proof Sys2Proof.Machine

/-! ## The Kettle (chapter 02) -/

/-- A read of KTL_COUNT_LO and then one of KTL_COUNT_HI answer the two halves of one count (R45); the
reads change the answer and the latched half only. -/
def Obligations.CountReadGivesWholeCount : Prop :=
  ∀ s : State, barOpen s = true →
    ∃ t u, exec (.ktlCountRead false) s = .next t ∧ exec (.ktlCountRead true) t = .next u ∧
      leNat t.resp + leNat u.resp * 2 ^ 32 = s.ktl.count.toNat ∧
      t = { s with resp := t.resp, ktl := { s.ktl with countHi := t.ktl.countHi } } ∧
      u = { t with resp := u.resp }

/-- A LOAD while the plan is not STOPPED is discarded and sets the invalid-programming bit (R83). One while
it is STOPPED waits; at the next tick whose old count is a multiple of 3,300 the count takes the value
rounded down to one, COUNT_LOADED is raised, PPS_LOCK clears and the FSYNC_IN FIFOs empty (R82). What
the beats of the old count mark is forgotten with it (the model's reading of R84). -/
def Obligations.HostTimeLoad : Prop :=
  (∀ (s : State) (v : W32), sized s = true → barWr s = true → s.ktl.planState ≠ .stopped →
    (s.hdr .ktl).shadowSel = false →
    ∃ t, exec (.load v) s = .next t ∧ errBit t .ktl 0 = true ∧ t.ktl.count = s.ktl.count ∧
      t.ktl.loadPending = s.ktl.loadPending ∧ (rbit v 4 = false → sansLog s t = s)) ∧
  (∀ (s : State) (v : W32), barWr s = true → s.ktl.planState = .stopped → (s.hdr .ktl).shadowSel = false →
    rbit v 3 = false →
    exec (.load v) s = .next { s with ktl := { s.ktl with
      planBank := rfld v 2 0
      loadPending := some (s.ktl.countLoadLo.toNat + s.ktl.countLoadHi.toNat * 2 ^ 32, s.ktl.up) } }) ∧
  (∀ (s : State) (v : W32), rbit v 3 = true → exec (.load v) s = exec (.start (v ||| 0x20#32)) s) ∧
  (∀ (s : State) (v at_ : Nat), sized s = true → s.ktl.loadPending = some (v, at_) → at_ < s.up →
    s.now % 3300 = 0 → v < 2 ^ 64 →
    ∃ t, exec .countLoaded s = .next t ∧ t.now = v / 3300 * 3300 ∧ intBit t .ktl 23 = true ∧
      t.hif.stormBeat = none ∧
      sansInt s t = { s with
        ktl := { s.ktl with
          count := t.ktl.count, loadPending := none, ppsLock := false, ppsLast := none
          refreshed := if s.ktl.refreshed = some s.beat then some (v / 3300 * 3) else none
          resumeBeat := 0, forcedFrom := 0
          fifos := s.ktl.fifos.map fun f => { f with ts := [] }
          inputs := s.ktl.inputs.map fun f => { f with fastBeat := none } }
        spt := { s.spt with rings := s.spt.rings.map fun r => { r with dropBeat := none } } }) ∧
  (∀ s : State, s.now % 3300 ≠ 0 → exec .countLoaded s = .next s)

/-- START of a bank that fits, for a beat that is a multiple of 3 at least 2 beats ahead, pends until that
beat, where a cycle begins; another beat, or a bank that does not fit, sets the invalid-programming bit
and leaves the plan STOPPED; a START with STOP, while not STOPPED, or of a bank that is not VALID is
discarded (R51, R54, R622). STOP ends the plan at the end of its cycle (R51); it changes no bank (R616).
A running plan goes on with a cycle of KTL_PLAN_LEN beats, or under the discipline with the one its
procedure gives (R50, R80). With SHADOW_SEL the writes stage BANK (R614). That the first cycle is of
KTL_PLAN_LEN beats and has number 0 is the model's choice, log entry 65. -/
def Obligations.PlanRuns : Prop :=
  (∀ (s : State) (v : W32), barWr s = true → s.ktl.planState = .stopped → (s.hdr .ktl).shadowSel = false →
    rbit v 4 = false → bankFits s (rfld v 2 0) s.ktl.planLen = true →
    planStartBeatOf s % 3 = 0 → s.beat + 2 ≤ planStartBeatOf s →
    exec (.start v) s = .next { s with ktl := { s.ktl with
      planBank := rfld v 2 0, activeBank := rfld v 2 0, planState := .startPending
      pendingStart := planStartBeatOf s
      loadPending := if rbit v 5 then
          some (s.ktl.countLoadLo.toNat + s.ktl.countLoadHi.toNat * 2 ^ 32, s.ktl.up)
        else s.ktl.loadPending } }) ∧
  (∀ (s : State) (v : W32), sized s = true → barWr s = true → s.ktl.planState = .stopped →
    (s.hdr .ktl).shadowSel = false → rbit v 4 = false → rbit v 5 = false → (s.bank (rfld v 2 0)).valid = true →
    (bankFits s (rfld v 2 0) s.ktl.planLen = false ∨ planStartBeatOf s % 3 ≠ 0 ∨
      planStartBeatOf s < s.beat + 2) →
    ∃ t, exec (.start v) s = .next t ∧ errBit t .ktl 0 = true ∧
      sansLog s t = { s with ktl := { s.ktl with planBank := rfld v 2 0 } }) ∧
  (∀ (s : State) (v : W32), sized s = true → barWr s = true → (s.hdr .ktl).shadowSel = false →
    (rbit v 4 = true ∨ s.ktl.planState ≠ .stopped ∨ (s.bank (rfld v 2 0)).valid = false) →
    ∃ t, exec (.start v) s = .next t ∧ errBit t .ktl 0 = true ∧ sansLog s t = s) ∧
  (∀ (s : State), s.ktl.planState = .startPending → s.now = s.ktl.pendingStart * 1100 →
    exec .planStartBeat s = .next { s with ktl := { s.ktl with
      planState := .running, cycleStart := s.now, cycleLen := s.ktl.planLen, cycleNo := 0, nextEntry := 0 } }) ∧
  (∀ (s : State) (v : W32), barWr s = true → (s.hdr .ktl).shadowSel = false →
    rfld v 2 0 = s.ktl.planBank → rbit v 3 = false → rbit v 5 = false →
    exec (.stop v) s = .next { s with ktl := { s.ktl with
      planState := if s.ktl.planState = .running then .stopping
        else if s.ktl.planState = .startPending then .stopped else s.ktl.planState } }) ∧
  (∀ (s : State) (v : W32), sized s = true → barWr s = true → (s.hdr .ktl).shadowSel = false →
    ((rfld v 2 0 ≠ s.ktl.planBank ∧ s.ktl.planState ≠ .stopped) ∨ rbit v 3 = true) →
    ∃ t, exec (.stop v) s = .next t ∧ errBit t .ktl 0 = true ∧ sansLog s t = s) ∧
  (∀ (s : State) (v : W32) (i : Instr), i ∈ [Instr.start v, .stop v, .load v] → sized s = true →
    barWr s = true → (s.hdr .ktl).shadowSel = true → locked s .ktl = false →
    ∃ t, exec i s = .next t ∧ t.ktl = { s.ktl with shBank := some (rfld v 2 0) } ∧
      (t.hdr .ktl).complete = false ∧ t = { s with ktl := t.ktl, hdrs := t.hdrs }) ∧
  (∀ (s : State), s.now + 1 = s.ktl.cycleStart + s.ktl.cycleLen * 1100 → s.ktl.planState = .stopping →
    exec .planCycleEnd s = .next { s with ktl := { s.ktl with planState := .stopped } }) ∧
  (∀ (s : State), s.now + 1 = s.ktl.cycleStart + s.ktl.cycleLen * 1100 → s.ktl.planState = .running →
    (s.ktl.discEn && s.ktl.ppsLock) = false →
    exec .planCycleEnd s = .next { s with ktl := { s.ktl with
      cycleStart := s.now + 1, cycleLen := s.ktl.planLen, cycleNo := s.ktl.cycleNo + 1, nextEntry := 0 } }) ∧
  (∀ (s : State) (r : Nat) (anchor target m err : Int),
    s.now + 1 = s.ktl.cycleStart + s.ktl.cycleLen * 1100 → s.ktl.planState = .running →
    s.ktl.discEn = true → s.ktl.ppsLock = true → 1 ≤ s.ktl.ppsMeasured →
    r = s.ktl.discCycles - (s.ktl.cycleNo + 1) % s.ktl.discCycles →
    anchor = s.now + 1 + r * s.ktl.planLen * 1100 →
    target = s.ktl.ppsLast.getD 0 + s.ktl.discPhase + m * s.ktl.ppsMeasured →
    err = anchor - target → 2 * err < s.ktl.ppsMeasured → -s.ktl.ppsMeasured < 2 * err →
    exec .planCycleEnd s = .next { s with ktl := { s.ktl with
      cycleStart := s.now + 1, cycleNo := s.ktl.cycleNo + 1, nextEntry := 0
      cycleLen := ((s.ktl.planLen : Int) -
        3 * max (-(s.ktl.discMaxSteps : Int)) (min (s.ktl.discMaxSteps : Int) (err.tdiv 3300))).toNat } }) ∧
  (∀ s : State, s.now + 1 = s.ktl.cycleStart + s.ktl.cycleLen * 1100 → s.ktl.planState = .running →
    3 * s.ktl.discMaxSteps ≤ s.ktl.planLen →
    ∃ t, exec .planCycleEnd s = .next t ∧ t.ktl.cycleLen % 3 = s.ktl.planLen % 3 ∧
      s.ktl.planLen ≤ t.ktl.cycleLen + 3 * s.ktl.discMaxSteps ∧
      t.ktl.cycleLen ≤ s.ktl.planLen + 3 * s.ktl.discMaxSteps ∧
      t = { s with free := t.free, ktl := { s.ktl with
        cycleStart := s.now + 1, cycleLen := t.ktl.cycleLen, cycleNo := s.ktl.cycleNo + 1, nextEntry := 0 } })

/-- The entry due at a tick leaves on the launch network, in the safe state only an FSYNC_PULSE and another
is counted; an action is delivered the given number of ticks after its issue and leaves the network
(R48, R49, R72). COMMIT checks a bank and records the outcome with its bank and index and the two values
of R54; INVALIDATE makes it unusable; KTL_LT_DATA writes and reads its words one after the other (R52,
R621). That a written word makes its bank unusable is the model's choice, log entry 15. -/
def Obligations.LaunchBanks : Prop :=
  (∀ (s : State) (i e : Nat), entryDue s = some (i, e) → (entAction e = 5 ∨ suppressing s = false) →
    exec .launchIssue s = .next { s with ktl := { s.ktl with
      nextEntry := i + 1
      net := s.ktl.net ++ [{ issued := s.up, code := entAction e, target := entTarget e
                             arg16 := entArg16 e, arg64 := entArg64 e }] } }) ∧
  (∀ (s : State) (i e : Nat), entryDue s = some (i, e) → entAction e ≠ 5 → s.mgt.safe = true →
    exec .launchIssue s = .next { s with ktl := { s.ktl with
      nextEntry := i + 1, suppressed := satInc 0xffffffff s.ktl.suppressed } }) ∧
  (∀ (s u : State) (lat code : Nat) (p : Action → Bool) (a : Action), takeAction s lat code p = some (a, u) →
    ∃ i, s.ktl.net[i]? = some a ∧ a.code = code ∧ a.issued + lat = s.up ∧ p a = true ∧
      u = { s with ktl := { s.ktl with net := s.ktl.net.eraseIdx i } }) ∧
  (∀ (s : State) (v : W32), barWr s = true → bankBusy s (rfld v 2 0) = false →
    exec (.commit v) s = .next { s with ktl := { s.ktl with
      bankCtl := rfld v 2 0, errBank := rfld v 2 0
      errIndex := ((bankCheck s (rfld v 2 0)).getD (0, 0)).1
      errCode := ((bankCheck s (rfld v 2 0)).getD (0, 0)).2
      banks := updAt s.ktl.banks (rfld v 2 0) fun x => { x with
        valid := (bankCheck s (rfld v 2 0)).isNone && !rbit v 4
        recLen := if (bankCheck s (rfld v 2 0)).isNone then nextLen s else x.recLen
        recSteps := if (bankCheck s (rfld v 2 0)).isNone then s.ktl.discMaxSteps else x.recSteps } } }) ∧
  (∀ (s : State) (v : W32), barWr s = true → rbit v 3 = false → bankBusy s (rfld v 2 0) = false →
    exec (.invalidate v) s = .next { s with ktl := { s.ktl with
      bankCtl := rfld v 2 0, banks := updAt s.ktl.banks (rfld v 2 0) fun x => { x with valid := false } } }) ∧
  (∀ (s : State) (v : W32), rbit v 3 = true → exec (.invalidate v) s = exec (.commit (v ||| 0x10#32)) s) ∧
  (∀ (s : State) (w : W32), barWr s = true → bankBusy s (s.ktl.ltAddr / 8192) = false →
    exec (.ktlLtDataAccess (some w)) s = .next { s with ktl := { s.ktl with
      ltAddr := (s.ktl.ltAddr + 4) % 65536
      banks := updAt s.ktl.banks (s.ktl.ltAddr / 8192) fun b =>
        { b with words := updAt b.words (s.ktl.ltAddr % 8192 / 4) fun _ => w, valid := false } } }) ∧
  (∀ (s : State), barOpen s = true →
    exec (.ktlLtDataAccess none) s = .next { s with
      resp := leBytes 4 ((s.bank (s.ktl.ltAddr / 8192)).words.getD (s.ktl.ltAddr % 8192 / 4) 0).toNat
      ktl := { s.ktl with ltAddr := (s.ktl.ltAddr + 4) % 65536 } })

/-- A write to a bank that is active, or that an armed epoch names as the next bank, changes no bank and
sets the invalid-programming bit: COMMIT, INVALIDATE, and KTL_LT_DATA where it would change a word (R53,
R659). -/
def Obligations.BusyBankKeepsItsContents : Prop :=
  (∀ (s : State) (w : W32), sized s = true → barWr s = true → bankBusy s (s.ktl.ltAddr / 8192) = true →
    ∃ t, exec (.ktlLtDataAccess (some w)) s = .next t ∧
      ((s.bank (s.ktl.ltAddr / 8192)).words.getD (s.ktl.ltAddr % 8192 / 4) 0 ≠ w → errBit t .ktl 0 = true) ∧
      ((s.bank (s.ktl.ltAddr / 8192)).words.getD (s.ktl.ltAddr % 8192 / 4) 0 = w → t.hdrs = s.hdrs) ∧
      sansLog s t = { s with ktl := { s.ktl with ltAddr := (s.ktl.ltAddr + 4) % 65536 } }) ∧
  (∀ (s : State) (v : W32) (i : Instr), i ∈ [Instr.commit v, .invalidate v] → sized s = true →
    barWr s = true → bankBusy s (rfld v 2 0) = true →
    ∃ t, exec i s = .next t ∧ errBit t .ktl 0 = true ∧
      sansLog s t = { s with ktl := { s.ktl with bankCtl := rfld v 2 0 } })

/-- The refresh of a beat is commanded at its first tick, not under self-refresh: every beat under the hot
plan, every beat from the forced one on, every third under the cool plan (R55 to R57, R59). A reading of
the stack temperature, taken inside a refresh window, is posted; under the cool plan one that reaches
KTL_HOT_WARN_C raises REFRESH_WARN, and one above 85 °C forces refresh from the next beat and raises
REFRESH_FORCED, unless it was forced (R58, R59, R468). One reading for each block of 1,000 beats is the
model's choice, log entry 83. -/
def Obligations.RefreshAndTemperature : Prop :=
  (∀ s : State, s.power.booted = true → s.now % 1100 = 0 → s.hbm.inSr = false → s.ktl.resumeBeat ≤ s.beat →
    (s.ktl.hot = true ∨ (s.ktl.forced = true ∧ s.ktl.forcedFrom ≤ s.beat) ∨ s.beat % 3 = 0) →
    exec .refreshWindow s = .next { s with ktl := { s.ktl with refreshed := some s.beat } }) ∧
  (∀ s : State, (s.now % 1100 ≠ 0 ∨ s.hbm.inSr = true ∨
      (s.ktl.hot = false ∧ s.ktl.forced = false ∧ s.beat % 3 ≠ 0)) →
    exec .refreshWindow s = .next s) ∧
  (∀ (s : State) (c : BitVec 8), s.power.booted = true → refreshes s s.beat = true → s.now % 1100 < 484 →
    s.hbm.tempBlock ≠ some (s.beat / 1000) →
    (s.ktl.hot = true ∨ (c.toInt < s.ktl.hotWarnC ∧ (c.toInt ≤ 85 ∨ s.ktl.forced = true))) →
    exec (.hbmTempReading c) s = .next { s with hbm := { s.hbm with
      temp := c.toNat, tempValid := true, tempSeq := (s.hbm.tempSeq + 1) % 65536
      tempBlock := some (s.beat / 1000) } }) ∧
  (∀ (s : State) (c : BitVec 8), sized s = true → s.power.booted = true → refreshes s s.beat = true →
    s.now % 1100 < 484 → s.hbm.tempBlock ≠ some (s.beat / 1000) → s.ktl.hot = false →
    ((s.ktl.hotWarnC : Int) ≤ c.toInt ∨ (85 < c.toInt ∧ s.ktl.forced = false)) →
    ∃ t, exec (.hbmTempReading c) s = .next t ∧
      ((s.ktl.hotWarnC : Int) ≤ c.toInt → intBit t .ktl 10 = true) ∧
      (85 < c.toInt → s.ktl.forced = false → intBit t .ktl 11 = true) ∧
      sansInt s t = { s with
        ktl := if 85 < c.toInt ∧ s.ktl.forced = false then
            { s.ktl with forced := true, forcedFrom := s.beat + 1 } else s.ktl
        hbm := { s.hbm with
          temp := c.toNat, tempValid := true, tempSeq := (s.hbm.tempSeq + 1) % 65536
          tempBlock := some (s.beat / 1000) } }) ∧
  (∀ (s : State) (c : BitVec 8), (484 ≤ s.now % 1100 ∨ s.hbm.inSr = true) →
    exec (.hbmTempReading c) s = .next s)

/-- An arm that meets the checks of R60 arms an epoch, with PLANNED one whose beat is fixed later; another
is rejected. DISARM before the sampling tick resolves it, later it has no effect (R65). MODE_SWITCH fixes
the beat of a planned epoch three beats ahead, once (R66). At tick 1,092 of the beat before, the Kettle
decides by the ready signals and lists the targets that lag (R64). A cancelled epoch ends on its beat and
every shadow stays (R64, R65); a switch of the HBM applies its staged retraining and empties it, and one
of the Kettle the new bank, plan length and refresh plan with a new cycle (R65, R67). That a rejected arm
raises nothing, DISARM's recorded result and the cleared list of lagging units are the model's choices,
log entries 15 and 65. -/
def Obligations.Epochs : Prop :=
  (∀ (s : State) (v : W32), barWr s = true → s.ktl.epoch = none → rbit v 1 = false → epochTgtOf s < 2 ^ 46 →
    (rbit v 2 = true ∨ (s.beat + 2 ≤ epochBeatOf s ∧
      ((epochTgtOf s).testBit 32 = true → epochBeatOf s % 3 = 0))) →
    exec (.arm v) s = .next { s with ktl := { s.ktl with
      epochPlanned := rbit v 2, epochResult := 1, epochLag := 0
      epoch := some { target := epochTgtOf s, beat := if rbit v 2 then none else some (epochBeatOf s)
                      planned := rbit v 2, byCap := false, decision := none } } }) ∧
  (∀ (s : State) (v : W32), barWr s = true → rbit v 1 = false →
    (s.ktl.epoch.isSome = true ∨ 2 ^ 46 ≤ epochTgtOf s ∨ (rbit v 2 = false ∧
      (epochBeatOf s < s.beat + 2 ∨ ((epochTgtOf s).testBit 32 = true ∧ epochBeatOf s % 3 ≠ 0)))) →
    exec (.arm v) s = .next { s with ktl := { s.ktl with epochPlanned := rbit v 2, epochResult := 4 } }) ∧
  (∀ (s : State) (v : W32) (e : Epoch), sized s = true → barWr s = true → s.ktl.epoch = some e →
    sampled s e = false → rbit v 0 = false →
    ∃ t, exec (.disarm v) s = .next t ∧ intBit t .ktl 9 = true ∧
      sansInt s t = { s with ktl := { s.ktl with
        epochPlanned := rbit v 2, epoch := none, epochResult := 0, epochSeq := (s.ktl.epochSeq + 1) % 65536
        epochBeatLo := if e.beat.isSome then BitVec.ofNat 32 (e.beat.getD 0) else s.ktl.epochBeatLo
        epochBeatHi := if e.beat.isSome then BitVec.ofNat 32 (e.beat.getD 0 / 2 ^ 32)
          else s.ktl.epochBeatHi } }) ∧
  (∀ (s : State) (v : W32), barWr s = true → (∀ e ∈ s.ktl.epoch, sampled s e = true) → rbit v 0 = false →
    exec (.disarm v) s = .next { s with ktl := { s.ktl with epochPlanned := rbit v 2 } }) ∧
  (∀ (s : State) (v : W32), rbit v 0 = true → exec (.disarm v) s = exec (.arm (v ||| 2#32)) s) ∧
  (∀ (s : State) (e : Epoch) (b : Nat), s.ktl.epoch = some e → e.beat = some b → e.decision = none →
    s.now + 8 = b * 1100 →
    exec .epochSample s = .next { s with ktl := { s.ktl with
      epochLag := (((setBits 46 e.target).filter fun i => !ready s i).map (2 ^ ·)).sum
      epoch := some { e with decision := some ((setBits 46 e.target).all (ready s)) } } }) ∧
  (∀ (s u : State) (e : Epoch) (a : Action), takeAction s 0 7 (fun _ => true) = some (a, u) →
    s.ktl.epoch = some e →
    exec .modeSwitch s = .next (if e.planned = true ∧ e.beat = none then
        { u with ktl := { u.ktl with
          epochBeatLo := BitVec.ofNat 32 (s.beat + 3), epochBeatHi := BitVec.ofNat 32 ((s.beat + 3) / 2 ^ 32)
          epoch := some { e with beat := some (s.beat + 3) } } }
      else u)) ∧
  (∀ (s u : State) (a : Action), takeAction s 0 7 (fun _ => true) = some (a, u) → s.ktl.epoch = none →
    exec .modeSwitch s = .next u) ∧
  (∀ (s : State) (e : Epoch) (b : Nat), sized s = true → s.ktl.epoch = some e → e.beat = some b →
    e.decision = some false → e.byCap = false → s.now = b * 1100 →
    ∃ t, exec .epochDone s = .next t ∧ intBit t .ktl 9 = true ∧
      sansInt s t = { s with ktl := { s.ktl with
        epoch := none, epochResult := 3, epochSeq := (s.ktl.epochSeq + 1) % 65536
        epochLast := some s.up, epochBeatLo := BitVec.ofNat 32 b
        epochBeatHi := BitVec.ofNat 32 (b / 2 ^ 32) } }) ∧
  (∀ (s : State) (e : Epoch) (b : Nat), sized s = true → s.ktl.epoch = some e → e.beat = some b →
    e.decision = some true → e.byCap = false → e.target = 2 ^ 44 → s.now = b * 1100 →
    ∃ t, exec .epochDone s = .next t ∧ intBit t .ktl 8 = true ∧ (t.hdr .hbm).complete = false ∧
      sansInt s t = { s with
        ktl := { s.ktl with
          epoch := none, epochResult := 2, epochSeq := (s.ktl.epochSeq + 1) % 65536
          epochLast := some s.up, epochBeatLo := BitVec.ofNat 32 b
          epochBeatHi := BitVec.ofNat 32 (b / 2 ^ 32) }
        hbm := { s.hbm with retrain := s.hbm.shRetrain.getD s.hbm.retrain, shRetrain := none } }) ∧
  (∀ (s : State) (e : Epoch) (b : Nat), sized s = true → s.ktl.epoch = some e → e.beat = some b →
    e.decision = some true → e.byCap = false → e.target = 2 ^ 32 → s.now = b * 1100 →
    s.ktl.planState = .running → (s.ktl.discEn && s.ktl.ppsLock) = false →
    ∃ t, exec .epochDone s = .next t ∧ intBit t .ktl 8 = true ∧ (t.hdr .ktl).complete = false ∧
      sansInt s t = { s with ktl := { s.ktl with
        epoch := none, epochResult := 2, epochSeq := (s.ktl.epochSeq + 1) % 65536
        epochLast := some s.up, epochBeatLo := BitVec.ofNat 32 b
        epochBeatHi := BitVec.ofNat 32 (b / 2 ^ 32)
        planBank := nextBank s, activeBank := nextBank s, planLen := nextLen s
        hot := s.ktl.shPlan.getD s.ktl.hot, forced := false
        shBank := none, shPlanLen := none, shPlan := none
        cycleStart := s.now, cycleLen := nextLen s, nextEntry := 0
        cycleNo := if s.ktl.cycleStart = s.now then s.ktl.cycleNo else s.ktl.cycleNo + 1 } })

/-- An FSYNC_PULSE holds its line from its issue tick; one on a line still active restarts the width and
counts an overlap; on a disabled line it does nothing. The ball is active from the 6th tick after the
issue until the width after the last one has passed; clearing EN ends the pulse; a WIDTH of 0 is
refused (R13, R70, R71). -/
def Obligations.FsyncLines : Prop :=
  (∀ (s u : State) (n : Fin 16) (a : Action) (l : FsyncLine), l = s.line n.val →
    takeAction s 0 5 (fun x => x.target == n.val) = some (a, u) → rbit l.cfg 0 = true →
    (∀ i ∈ l.issued, i + lineWidth l + 1 ≤ a.issued) →
    exec (.fsyncPulse n) s = .next { u with ktl := { u.ktl with
      fsync := updAt u.ktl.fsync n.val fun l => { l with issued := some a.issued, first := a.issued } } }) ∧
  (∀ (s u : State) (n : Fin 16) (a : Action) (l : FsyncLine) (i : Nat), l = s.line n.val →
    takeAction s 0 5 (fun x => x.target == n.val) = some (a, u) → rbit l.cfg 0 = true →
    l.issued = some i → a.issued < i + lineWidth l + 1 →
    exec (.fsyncPulse n) s = .next { u with ktl := { u.ktl with
      fsync := updAt u.ktl.fsync n.val fun l =>
        { l with issued := some a.issued, overlap := satInc 65535 l.overlap } } }) ∧
  (∀ (s u : State) (n : Fin 16) (a : Action),
    takeAction s 0 5 (fun x => x.target == n.val) = some (a, u) → rbit (s.line n.val).cfg 0 = false →
    exec (.fsyncPulse n) s = .next u) ∧
  (∀ (s : State) (n : Fin 16) (i : Nat), (s.line n.val).issued = some i →
    i + 6 + lineWidth (s.line n.val) ≤ s.up →
    exec (.fsyncPulseEnd n) s = .next { s with ktl := { s.ktl with
      fsync := updAt s.ktl.fsync n.val fun l => { l with issued := none } } }) ∧
  (∀ (s : State) (n : Fin 16) (i : Nat), s.power.booted = true → s.power.perst = false →
    s.power.railsOk = true → (s.line n.val).driven = true → (s.line n.val).issued = some i →
    fsyncLevel s n.val = some ((decide ((s.line n.val).first + 6 ≤ s.up) &&
      decide (s.up < i + 6 + lineWidth (s.line n.val))) != rbit (s.line n.val).cfg 1)) ∧
  (∀ (s : State) (n : Fin 16) (v : W32), barWr s = true → rfld v 21 2 ≠ 0 →
    exec (.fsyncCfgWrite n v) s = .next { s with ktl := { s.ktl with
      fsync := updAt s.ktl.fsync n.val fun l =>
        { l with cfg := v &&& 0x003fffff#32, issued := if rbit v 0 then l.issued else none } } }) ∧
  (∀ (s : State) (n : Fin 16) (v : W32), sized s = true → barWr s = true → rfld v 21 2 = 0 →
    ∃ t, exec (.fsyncCfgWrite n v) s = .next t ∧ errBit t .ktl 0 = true ∧
      lineWidth (t.line n.val) = lineWidth (s.line n.val) ∧ rbit (t.line n.val).cfg 0 = rbit v 0 ∧
      sansLog s t = { s with ktl := { s.ktl with
        fsync := updAt s.ktl.fsync n.val fun l =>
          { l with cfg := (t.line n.val).cfg, issued := if rbit v 0 then l.issued else none } } })

/-- An active level shorter than MIN_WIDTH is ignored, counted in NARROW up to 65,535, and is no edge for
MIN_PERIOD: the last accepted edge stays (R74). -/
def Obligations.NarrowLevelsAreIgnored : Prop :=
  ∀ (s : State) (n : Fin 5) (l e : Nat), (s.input n.val).lead = some l → (s.input n.val).ended = some e →
    (s.input n.val).stuck = false → (s.input n.val).judged = false → e - l < (s.input n.val).minWidth →
    exec (.narrow n) s = .next { s with ktl := { s.ktl with
      inputs := updAt s.ktl.inputs n.val fun f =>
        { f with judged := true, narrow := satInc 65535 f.narrow } } }

/-- A level that reaches MIN_WIDTH is accepted at that tick with the count of its leading edge, unless that
edge came within MIN_PERIOD of the last accepted one: then it is dropped, counted in DROPPED, and
TOO_FAST is raised at most once a beat (R75, R76). A full FIFO drops the newest timestamp (R78); an edge
is followed under the input's polarity; a level of MAX_ACTIVE latches STUCK and raises it, a STUCK input
accepts and counts nothing, and RELEASE ticks of inactivity unmask it (R77). -/
def Obligations.InputPulses : Prop :=
  (∀ (s : State) (n : Fin 5) (l : Nat) (f : InFilter), f = s.input n.val → n.val < 4 →
    f.lead = some l → f.stuck = false → f.judged = false →
    s.up = qualifyAt f l → (∀ e ∈ f.ended, l + f.minWidth ≤ e ∧ s.up ≤ e) →
    (∀ a ∈ f.lastAcc, a + f.minPeriod ≤ l) →
    exec (.inputQualify n) s = .next { s with ktl := { s.ktl with
      inputs := updAt s.ktl.inputs n.val fun f => { f with judged := true, lastAcc := some l }
      fifos := updAt s.ktl.fifos n.val fun q =>
        if q.ts.length < 16 then { q with ts := q.ts ++ [f.leadTs] }
        else { q with overflow := satInc 65535 q.overflow } } }) ∧
  (∀ (s : State) (n : Fin 5) (l a : Nat) (f : InFilter), sized s = true → f = s.input n.val →
    f.lead = some l → f.stuck = false → f.judged = false →
    s.up = qualifyAt f l → (∀ e ∈ f.ended, l + f.minWidth ≤ e ∧ s.up ≤ e) →
    f.lastAcc = some a → l < a + f.minPeriod →
    ∃ t, exec (.inputQualify n) s = .next t ∧
      (f.fastBeat ≠ some s.beat → intBit t .ktl (12 + n.val) = true) ∧
      (f.fastBeat = some s.beat → t.hdrs = s.hdrs ∧ t.hif = s.hif) ∧
      sansInt s t = { s with ktl := { s.ktl with
        inputs := updAt s.ktl.inputs n.val fun f => { f with
          judged := true, dropped := satInc 65535 f.dropped, fastBeat := some s.beat } } }) ∧
  (∀ (s : State) (n : Fin 5) (b : Bool), s.power.perst = false → s.power.railsOk = true →
    (s.input n.val).level = !b → (s.input n.val).stuck = false → n.val < s.ktl.inputs.length →
    exec (.inputEdge n b) s = .next { s with ktl := { s.ktl with
      inputs := updAt s.ktl.inputs n.val fun f =>
        if b != f.polarity then { f with
          level := b, lead := some s.up, leadTs := s.now, ended := none, judged := false }
        else { f with level := b, ended := some s.up } } }) ∧
  (∀ (s : State) (n : Fin 5) (l : Nat), sized s = true → (s.input n.val).lead = some l →
    (s.input n.val).ended = none → (s.input n.val).stuck = false →
    l + (s.input n.val).maxActive ≤ s.up →
    ∃ t, exec (.stuck n) s = .next t ∧ intBit t .ktl (17 + n.val) = true ∧
      sansInt s t = { s with ktl := { s.ktl with
        inputs := updAt s.ktl.inputs n.val fun f =>
          { f with stuck := true, idleFrom := none, lead := none } } }) ∧
  (∀ (s : State) (n : Fin 5) (b : Bool), s.power.perst = false → s.power.railsOk = true →
    (s.input n.val).level = !b → (s.input n.val).stuck = true → n.val < s.ktl.inputs.length →
    exec (.inputEdge n b) s = .next { s with ktl := { s.ktl with
      inputs := updAt s.ktl.inputs n.val fun f =>
        { f with level := b, idleFrom := if b != f.polarity then none else some s.up } } }) ∧
  (∀ (s : State) (n : Fin 5) (i : Nat), (s.input n.val).stuck = true →
    (s.input n.val).idleFrom = some i → i + (s.input n.val).release ≤ s.up →
    exec (.inputRelease n) s = .next { s with ktl := { s.ktl with
      inputs := updAt s.ktl.inputs n.val fun f =>
        { f with stuck := false, idleFrom := none, lead := none } } }) ∧
  (∀ (s : State) (n : Fin 5) (i : Instr), i ∈ [Instr.inputQualify n, .narrow n, .stuck n] →
    (s.input n.val).stuck = true → exec i s = .next s)

/-- A read of a timestamp removes the oldest of the FIFO and latches its high half (R623). An accepted
PPS_IN edge sets PPS_LOCK where the interval from the one before lies in its range, and otherwise clears
it and counts an outlier; PPS_LOST is raised after 2,200,000,000 ticks without one (R79). PPS_OUT goes
active at the phase tick in FREE mode, 4 ticks after an accepted edge in ECHO mode, and ends after its
width (R81). -/
def Obligations.TimestampsAndPps : Prop :=
  (∀ (s : State) (n : Fin 4), sized s = true → barOpen s = true →
    ∃ t u, exec (.ktlFsinTsRead n false) s = .next t ∧ exec (.ktlFsinTsRead n true) t = .next u ∧
      ((s.fifo n.val).ts.headD 0 < 2 ^ 64 →
        leNat t.resp + leNat u.resp * 2 ^ 32 = (s.fifo n.val).ts.headD 0) ∧
      t = { s with resp := t.resp, ktl := { s.ktl with
        fifos := updAt s.ktl.fifos n.val fun f => { f with ts := f.ts.tail, hi := (t.fifo n.val).hi } } } ∧
      u = { t with resp := u.resp }) ∧
  (∀ (s : State) (l : Nat) (f : InFilter) (k : Ktl), f = s.input 4 →
    f.lead = some l → f.stuck = false → f.judged = false →
    s.up = qualifyAt f l → (∀ e ∈ f.ended, l + f.minWidth ≤ e ∧ s.up ≤ e) →
    (∀ a ∈ f.lastAcc, a + f.minPeriod ≤ l) →
    k = { s.ktl with
      inputs := updAt s.ktl.inputs 4 fun f => { f with judged := true, lastAcc := some l }
      ppsLast := some f.leadTs, ppsRef := s.up
      ppsEcho := if s.ktl.ppsMode = 2 then some (s.up + 4) else none } →
    exec (.inputQualify 4) s = .next { s with ktl :=
      match f.lastAcc with
      | none => k
      | some a =>
        if 1098900000 ≤ l - a ∧ l - a ≤ 1101100000 then
          { k with ppsLock := true, ppsMeasured := l - a, ppsLostSent := false }
        else { k with ppsLock := false, ppsOutlier := satInc 65535 s.ktl.ppsOutlier } }) ∧
  (∀ s : State, sized s = true → s.power.booted = true → s.ktl.ppsRef + 2200000000 ≤ s.up →
    s.ktl.ppsLostSent = false →
    ∃ t, exec .ppsLost s = .next t ∧ intBit t .ktl 22 = true ∧
      sansInt s t = { s with ktl := { s.ktl with ppsLock := false, ppsLostSent := true } }) ∧
  (∀ s : State, s.power.booted = true → s.ktl.ppsMode = 1 → s.ktl.ppsPhase < 2 ^ 32 →
    ((s.now : Int) - s.ktl.ppsPhase) % 1100000000 = 0 →
    exec .ppsOutPulse s = .next { s with ktl := { s.ktl with
      ppsOutEnd := some (s.up + s.ktl.ppsWidth), ppsEcho := none } }) ∧
  (∀ s : State, s.power.booted = true → s.ktl.ppsMode = 2 → s.ktl.ppsEcho = some s.up →
    exec .ppsOutPulse s = .next { s with ktl := { s.ktl with
      ppsOutEnd := some (s.up + s.ktl.ppsWidth), ppsEcho := none } }) ∧
  (∀ (s : State) (e : Nat), s.ktl.ppsOutEnd = some e → e ≤ s.up →
    exec .ppsOutPulseEnd s = .next { s with ktl := { s.ktl with ppsOutEnd := none } })

/-! ## Jobs on a core (chapters 03, 04, 05, 06, 11) -/

/-- A JOB_START for a free core gives it the job, with START_TICK, verification and cleared planes, vector
registers, reduction store and NMS flags; for a busy core it waits in the core's queue of 8, or is
dropped and counted; a context that is held, not enabled, in share mode or ON_VALID only counts it, as
does a slot that is not VALID (R200, R205, R424, R429, R601). A job that passes every check runs from
its store, with the sample mask its slot names read once (R186, R423); one that fails leaves with a
JS_REJECTED record that gives the code, or JS_ABORTED where an image line cannot be read (R170, R171,
R496). -/
def Obligations.FixedPlanJobs : Prop :=
  (∀ (s u : State) (c : Fin 256) (k : Fin 64) (a : Action) (n : Nat) (h : JobHdr), sized s = true →
    takeAction s 8 1 (fun a => a.target == c.val && a.arg16 == k.val) = some (a, u) →
    (s.ctx c.val).enabled = true → ctxHeld s c.val = false → ctxShare s c.val = false →
    (s.ctx c.val).onValid = false → (s.slot c.val k.val).state = .valid →
    n = maskCore (s.slot c.val k.val).coreMask → coreFree s n = true →
    h = parseHdr (peek s (s.slot c.val k.val).image 128) →
    ∃ t, exec (.jobStart c k) s = .next t ∧
      (t.core n).job = some { ctx := c.val, slot := k.val, startTick := s.now, heldFrom := s.up
                              acctTick := s.up, jobId := h.jobId, cplRing := h.cplRing
                              priDeadline := h.deadline, div := divider s
                              planId := s.mesh.planId.toNat } ∧
      (t.core n).phase = .verify ∧ (t.core n).due = s.up + verifyTime s (s.slot c.val k.val).image ∧
      (t.core n).plane0 = {} ∧ (t.core n).plane1 = {} ∧ (t.core n).vregs = List.replicate 8192 0 ∧
      (t.core n).redStore = [] ∧ (t.core n).nmsFlags = [] ∧ (t.core n).sat = List.replicate 1024 0 ∧
      (t.core n).walk = none ∧ (t.core n).drains = [] ∧ (t.core n).chain = none ∧ (t.core n).ring = 0 ∧
      (t.core n).mse = (s.core n).mse ∧ (t.core n).frames = (s.core n).frames ∧
      (t.core n).skewInfo = (s.core n).skewInfo ∧ (t.core n).stall = (s.core n).stall ∧
      (∀ m, m ≠ n → t.core m = s.core m) ∧
      t = { s with
        ktl := u.ktl, cores := t.cores
        sched := { s.sched with ctxs := updAt s.sched.ctxs c.val fun x =>
          { x with slots := updAt x.slots k.val fun y => { y with state := .active, saved := none } } } }) ∧
  (∀ (s u : State) (c : Fin 256) (k : Fin 64) (a : Action) (n : Nat),
    takeAction s 8 1 (fun a => a.target == c.val && a.arg16 == k.val) = some (a, u) →
    (s.ctx c.val).enabled = true → ctxHeld s c.val = false → ctxShare s c.val = false →
    (s.ctx c.val).onValid = false → (s.slot c.val k.val).state = .valid →
    n = maskCore (s.slot c.val k.val).coreMask → coreFree s n = false → (s.ctx c.val).urgent = false →
    exec (.jobStart c k) s = .next (
      if (s.sched.held.getD n []).length < 8 then
        ctxCount c.val 4 { u with sched := { u.sched with
          held := updAt u.sched.held n fun q => q ++ [(c.val, k.val)] } }
      else ctxCount c.val 8 u)) ∧
  (∀ (s u : State) (c : Fin 256) (k : Fin 64) (a : Action),
    takeAction s 8 1 (fun a => a.target == c.val && a.arg16 == k.val) = some (a, u) →
    ((s.ctx c.val).enabled = false ∨ ctxHeld s c.val = true ∨ ctxShare s c.val = true ∨
      (s.ctx c.val).onValid = true) →
    exec (.jobStart c k) s = .next (ctxCount c.val 0xc u)) ∧
  (∀ (s u : State) (c : Fin 256) (k : Fin 64) (a : Action),
    takeAction s 8 1 (fun a => a.target == c.val && a.arg16 == k.val) = some (a, u) →
    (s.ctx c.val).enabled = true → ctxHeld s c.val = false → ctxShare s c.val = false →
    (s.ctx c.val).onValid = false → (s.slot c.val k.val).state ≠ .valid →
    exec (.jobStart c k) s = .next (ctxCount c.val 0 u)) ∧
  (∀ (s : State) (n : Fin 24) (j : Job) (k : Slot), (s.core n.val).job = some j →
    (s.core n.val).phase = .verify → (s.core n.val).due ≤ s.up → k = s.slot j.ctx j.slot →
    jobFail s { core := n.val, fixed := !ctxShare s j.ctx, part := (s.ctx j.ctx).part, bad := j.badReads }
      k j.div j.planId = none →
    k.batch = 0 →
    exec (.verifyDone n) s = .next { s with cores := updAt s.cores n.val fun x =>
      { x with phase := .run, store := loadStore s k.image } }) ∧
  (∀ (s : State) (n : Fin 24) (j : Job) (k : Slot), (s.core n.val).job = some j →
    (s.core n.val).phase = .verify → (s.core n.val).due ≤ s.up → k = s.slot j.ctx j.slot →
    jobFail s { core := n.val, fixed := !ctxShare s j.ctx, part := (s.ctx j.ctx).part, bad := j.badReads }
      k j.div j.planId = none →
    k.batch ≠ 0 → readable s (coreSrc n.val) k.batch 64 = true →
    ∃ t, exec (.verifyDone n) s = .next t ∧
      t = { s with
        hbm := t.hbm
        cores := updAt s.cores n.val fun x => { x with
          phase := .run, store := loadStore s k.image, mask := some (peekNat s k.batch 8)
          batchSize := fld (peekNat s (k.batch + 16) 48) 6 0 } }) ∧
  (∀ (s : State) (n : Fin 24) (j : Job) (r : Reject), (s.core n.val).job = some j →
    (s.core n.val).phase = .verify → (s.core n.val).due ≤ s.up →
    jobFail s { core := n.val, fixed := !ctxShare s j.ctx, part := (s.ctx j.ctx).part, bad := j.badReads }
      (s.slot j.ctx j.slot) j.div j.planId = some r →
    s.sched.after.getD n.val none = none → takesCpl s j.cplRing = true →
    ∃ t, exec (.verifyDone n) s = .next t ∧ (t.core n.val).job = none ∧ (t.core n.val).phase = .idle ∧
      (t.slot j.ctx j.slot).state = .empty ∧
      (r.unread = none → handed t j.cplRing
        [(0, 4, j.jobId % 2 ^ 32), (4, 1, jsRejected), (5, 1, r.code % 256), (24, 8, s.now)] = true) ∧
      (r.unread ≠ none → handed t j.cplRing [(0, 4, j.jobId % 2 ^ 32), (4, 1, jsAborted), (24, 8, s.now)] = true))

/-- WAIT_BEAT before its tick waits for it; at its tick or later the job goes on, with LATE_BEAT set when
the tick has passed, and also where BASE is 0 and no plan cycle runs; either way it ends the plane
chain. The resume lets the job go on at the tick and not before (R103, R158). -/
def Obligations.WaitBeatWaits : Prop :=
  (∀ (s : State) (n : Fin 24) (j : Job) (m b : Nat), atMacro s n.val opWait = some (j, m) →
    passes s n.val j = true → waitsFor s j m b = true → s.now < b * 1100 →
    exec (.waitBeat n) s = .next { s with cores := updAt s.cores n.val fun x => { x with
      chain := none, codebook := none, ring := 0, wait := some (b * 1100)
      job := some { j with begun := true } } }) ∧
  (∀ (s : State) (n : Fin 24) (j : Job) (m b : Nat), rbit s.hif.acctLo 0 = false →
    atMacro s n.val opWait = some (j, m) → passes s n.val j = true → waitsFor s j m b = true →
    b * 1100 ≤ s.now →
    exec (.waitBeat n) s = .next { s with cores := updAt s.cores n.val fun x => { x with
      chain := none, codebook := none, ring := 0
      job := some (afterMacro s.up { j with lateBeat := j.lateBeat || decide (b * 1100 < s.now) }) } }) ∧
  (∀ (s : State) (n : Fin 24) (j : Job) (m : Nat), rbit s.hif.acctLo 0 = false →
    atMacro s n.val opWait = some (j, m) → passes s n.val j = true → bitAt (mP0 m) 32 = false →
    s.ktl.planState ≠ .running → s.ktl.planState ≠ .stopping →
    exec (.waitBeat n) s = .next { s with cores := updAt s.cores n.val fun x => { x with
      chain := none, codebook := none, ring := 0, job := some (afterMacro s.up { j with lateBeat := true }) } }) ∧
  (∀ (s : State) (n : Fin 24) (j : Job) (b : Nat), rbit s.hif.acctLo 0 = false →
    (s.core n.val).job = some j → (s.core n.val).phase = .run → (s.core n.val).stopWhy = .none →
    (s.core n.val).wait = some b → b ≤ s.now →
    exec (.waitBeatResume n) s = .next { s with cores := updAt s.cores n.val fun x => { x with
      wait := none, job := some (afterMacro s.up j) } }) ∧
  (∀ (s : State) (n : Fin 24) (b : Nat), (s.core n.val).wait = some b → s.now < b →
    exec (.waitBeatResume n) s = .next s) ∧
  (∀ (up : Nat) (j : Job), (∀ a ∈ j.ahead, a.mi ≠ j.mi + 1) →
    afterMacro up j = { j with
      acctTick := up, mi := j.mi + 1, progress := 0, tile := 0, begun := false })

/-- SIGNAL writes or adds its operand before the job goes on (R159). FENCE starts a new plane chain (R103);
with accounting enabled the end of a macro-instruction adds the ticks since the last one to the
context's ARRAY total (R441). END frees the core and its slot and hands off a completion record whose
status tells skipped tiles and the fallback (R160, R171, R424); it waits while the Spout has no room for
one (R411). A predicted miss before a macro-instruction of a primary with a fallback is counted once and
abandons the primary (R442, R443). -/
def Obligations.SignalFenceEnd : Prop :=
  (∀ (s v u : State) (n : Fin 24) (j : Job) (m : Nat), rbit s.hif.acctLo 0 = false →
    atMacro s n.val opSignal = some (j, m) → passes s n.val j = true →
    v = { s with cores := updAt s.cores n.val fun x => { x with job := some { j with begun := true } } } →
    (if fld (mP0 m) 49 48 = 0 then
        writeMem (coreSrc n.val) (fld (mP0 m) 47 0) (leBytes 8 (mP1 m)) j.inFallback v
      else modify64 (coreSrc n.val) (fld (mP0 m) 47 0) j.inFallback (add64 (mP1 m)) v) = (.ok, u) →
    exec (.signal n) s = .next { u with cores := updAt u.cores n.val fun x =>
      { x with job := some (afterMacro s.up j) } }) ∧
  (∀ (s : State) (n : Fin 24) (j : Job) (m : Nat), rbit s.hif.acctLo 0 = false →
    atMacro s n.val opFence = some (j, m) → passes s n.val j = true →
    exec (.fence n) s = .next { s with cores := updAt s.cores n.val fun x => { x with
      chain := none, codebook := none, ring := 0, job := some (afterMacro s.up j) } }) ∧
  (∀ (s : State) (n : Fin 24) (j : Job) (m a : Nat), rbit s.hif.acctLo 0 = true →
    atMacro s n.val opFence = some (j, m) → passes s n.val j = true →
    a = pairAddr s.hif.acctLo s.hif.acctHi 6 + 32 * j.ctx → a + 8 ≤ hbmEnd →
    readable s .sched a 8 = true →
    ∃ t, exec (.fence n) s = .next t ∧
      peekNat t a 8 = (peekNat s a 8 + (s.up - j.acctTick)) % 2 ^ 64 ∧
      memKept s t (fun k => ∃ i : Fin 8, k = physKey s (a + i.val)) ∧
      t = { s with
        mem := t.mem, hbm := { s.hbm with lock := true }, cdy := t.cdy
        cores := updAt s.cores n.val fun x => { x with
          chain := none, codebook := none, ring := 0, job := some (afterMacro s.up j) } }) ∧
  (∀ (s : State) (n : Fin 24) (j : Job) (m : Nat), atMacro s n.val opEnd = some (j, m) →
    passes s n.val j = true → cplRoom s j.cplRing = true → s.sched.after.getD n.val none = none →
    ∃ t, exec (.jobEnd n) s = .next t ∧ (t.core n.val).job = none ∧ (t.core n.val).phase = .idle ∧
      (t.core n.val).walk = none ∧ (t.core n.val).drains = [] ∧
      (t.slot j.ctx j.slot).state = .empty ∧
      (∀ k, k ≠ n.val → (t.core k).job = (s.core k).job ∧ (t.core k).phase = (s.core k).phase) ∧
      (rbit (s.sptRing j.cplRing).cfg 31 = true → handed t j.cplRing
        [(0, 4, j.jobId % 2 ^ 32), (4, 1, if j.skipped > 0 then 1 else if j.inFallback then 2 else 0),
         (5, 1, 0), (16, 8, j.startTick % 2 ^ 64), (24, 8, s.now)] = true)) ∧
  (∀ (s : State) (n : Fin 24) (j : Job) (m : Nat), atMacro s n.val opEnd = some (j, m) →
    passes s n.val j = true → cplRoom s j.cplRing = false →
    exec (.jobEnd n) s = .next { s with cores := updAt s.cores n.val fun x =>
      { x with job := some { j with begun := true } } }) ∧
  (∀ (s : State) (n : Fin 24) (i : Instr) (op : Nat) (j : Job) (m : Nat) (h : JobHdr),
    (i, op) ∈ [(Instr.waitBeat n, opWait), (.signal n, opSignal), (.fence n, opFence), (.jobEnd n, opEnd)] →
    atMacro s n.val op = some (j, m) → j.begun = false → mFuseIn m = false →
    missPredicted s (s.core n.val) j = true → (s.core n.val).store.hdr.fallback ≠ 0 → j.missed = true →
    h = parseHdr (peek s (s.core n.val).store.hdr.fallback 128) →
    exec i s = .next { s with cores := updAt s.cores n.val fun x => { x with
      phase := .fallbackLoad, due := s.up + 64 + cdiv h.imageBytes 64, sat := List.replicate 1024 0
      walk := none, drains := [], chain := none, codebook := none, ring := 0
      job := some { j with
        inFallback := true, fbStarted := true, fbId := h.jobId, fbAt := j.mi, skipped := 0
        firstSkip := none, mi := 0, progress := 0, tile := 0, ahead := [] } } }) ∧
  (∀ (s : State) (n : Fin 24) (i : Instr) (op : Nat) (j : Job) (m : Nat),
    (i, op) ∈ [(Instr.waitBeat n, opWait), (.signal n, opSignal), (.fence n, opFence), (.jobEnd n, opEnd)] →
    atMacro s n.val op = some (j, m) → j.begun = false → mFuseIn m = false →
    missPredicted s (s.core n.val) j = true → (s.core n.val).store.hdr.fallback ≠ 0 → j.missed = false →
    readable s .sched ((s.ctx j.ctx).stateBase + 0x18) 4 = true →
    exec i s = exec i (onJob n.val (fun j => { j with missed := true }) (ctxCount j.ctx 0x18 s)))

/-- The fallback's first micro-step loads its image; an image whose CRC does not match ends the job with
JS_ABORTED (R127, R443). A preemption takes effect with the lowest free frame, counts in PREEMPTS, and is
refused without one or without save memory; a takeover saves in frame 3 (R446, R448, R450). The end of
a save suspends the job and frees the core; the end of a restore lets it go on from its saved state,
unless its image no longer matches its CRC (R127, R449, R450). -/
def Obligations.JobsChangeState : Prop :=
  (∀ (s : State) (n : Fin 24) (b : Nat), (s.core n.val).phase = .fallbackLoad →
    (s.core n.val).due ≤ s.up → b = (s.core n.val).store.hdr.fallback →
    readable s (coreSrc n.val) b 128 = true →
    readable s (coreSrc n.val) b (parseHdr (peek s b 128)).imageBytes = true →
    crcOk s b (parseHdr (peek s b 128)) = true →
    ∃ t, exec (.fallbackStart n) s = .next t ∧
      t = { s with
        hbm := t.hbm
        cores := updAt s.cores n.val fun x => { x with phase := .run, store := loadStore s b } }) ∧
  (∀ (s : State) (n : Fin 24) (j : Job) (b : Nat), (s.core n.val).job = some j →
    (s.core n.val).phase = .fallbackLoad →
    (s.core n.val).due ≤ s.up → b = (s.core n.val).store.hdr.fallback →
    readable s (coreSrc n.val) b 128 = true →
    readable s (coreSrc n.val) b (parseHdr (peek s b 128)).imageBytes = true →
    crcOk s b (parseHdr (peek s b 128)) = false → takesCpl s j.cplRing = true →
    s.sched.after.getD n.val none = none →
    ∃ t, exec (.fallbackStart n) s = .next t ∧ (t.core n.val).job = none ∧
      (t.slot j.ctx j.slot).state = .empty ∧ handed t j.cplRing [(4, 1, jsAborted), (24, 8, s.now)] = true) ∧
  (∀ (s : State) (n : Fin 24) (j : Job) (f : Nat), (s.core n.val).job = some j →
    (s.core n.val).phase = .run → rbit (s.core n.val).saveLo 0 = true →
    ((s.core n.val).stopWhy = .preempt ∧ freeFrameOf s n.val = some f ∨
      (s.core n.val).stopWhy = .takeover ∧ f = 3) →
    exec (.preemptRequest n) s = .next { s with cores := updAt s.cores n.val fun x => { x with
      phase := .save, saveFrame := f, frames := updAt x.frames f fun _ => true
      due := s.up + moveTicks s n.val (11648 + saveLines x.store)
      job := some { j with
        preempts := if (s.core n.val).stopWhy = .preempt then min 255 (j.preempts + 1) else j.preempts } } }) ∧
  (∀ (s : State) (n : Fin 24), (s.core n.val).phase = .run → (s.core n.val).stopWhy = .preempt →
    (freeFrameOf s n.val = none ∨ rbit (s.core n.val).saveLo 0 = false) →
    s.sched.after.getD n.val none = none →
    exec (.preemptRequest n) s = .next { s with cores := updAt s.cores n.val fun x =>
      { x with stopWhy := .none } }) ∧
  (∀ (s : State) (n : Fin 24) (j : Job), (s.core n.val).job = some j → (s.core n.val).phase = .run →
    (s.core n.val).stopWhy = .takeover → rbit (s.core n.val).saveLo 0 = false →
    takesCpl s j.cplRing = true → s.sched.after.getD n.val none = none →
    ∃ t, exec (.preemptRequest n) s = .next t ∧ (t.core n.val).job = none ∧
      (t.slot j.ctx j.slot).state = .empty ∧ handed t j.cplRing [(4, 1, jsAborted), (24, 8, s.now)] = true) ∧
  (∀ (s v u : State) (n : Fin 24) (j : Job) (x : Core) (fr : List (Nat × List Byte)),
    rbit s.hif.acctLo 0 = false → x = s.core n.val →
    x.job = some j → x.phase = .save → x.due ≤ s.up → sized s = true → j.ctx < 256 → j.slot < 64 →
    (∀ r ∈ saveNeeds s n.val, badAt s r.1 r.2 = false) → frameBytes n.val s = (fr, v) →
    writeAll (coreSrc n.val) (fr.map fun r => (frameBase s n.val x.saveFrame + r.1, r.2)) v = (.ok, u) →
    inTakeover s n.val = false → s.sched.after.getD n.val none = none →
    ∃ t, exec (.saveComplete n) s = .next t ∧ (t.core n.val).job = none ∧ (t.core n.val).phase = .idle ∧
      t.mem = u.mem ∧
      t.slot j.ctx j.slot = { s.slot j.ctx j.slot with
        state := .suspended, order := s.sched.order + 1
        saved := some
          { job := { j with ticks := heldTicks j s.up, acctTick := s.up }
            store := x.store, mask := x.mask, maskAll := x.maskAll, batch := x.batchSize, sat := x.sat
            plane0 := x.plane0, plane1 := x.plane1, walk := x.walk, drains := x.drains, ring := x.ring
            chain := x.chain, red := x.redStore, core := n.val, frame := x.saveFrame } }) ∧
  (∀ (s : State) (n : Fin 24) (j : Job) (v : Saved) (h : JobHdr) (b : Nat) (img : List Byte),
    sized s = true → (s.core n.val).job = some j →
    (s.core n.val).phase = .restore → (s.core n.val).due ≤ s.up →
    (s.slot j.ctx j.slot).saved = some v → h = parseHdr (peek s v.store.base 128) →
    128 ≤ h.imageBytes → h.imageBytes ≤ 2 ^ 20 →
    readable s (coreSrc n.val) v.store.base h.imageBytes = true → crcOk s v.store.base h = true →
    b = frameBase s v.core v.frame → readable s (coreSrc n.val) b 0xb6000 = true → img = peek s b 0xb6000 →
    saveLines (loadStore s v.store.base) = 0 → (loadStore s v.store.base).save = [] →
    ∃ t, exec (.restoreComplete n) s = .next t ∧
      (t.core n.val).phase = .run ∧ (t.core n.val).store = loadStore s v.store.base ∧
      (t.core n.val).job = some { j with restored := j.restored || v.frame != 3 } ∧
      (t.core n.val).mask = v.mask ∧ (t.core n.val).batchSize = v.batch ∧
      (t.core n.val).walk = v.walk ∧ (t.core n.val).drains = v.drains ∧ (t.core n.val).ring = v.ring ∧
      (t.core n.val).chain = v.chain ∧ (t.core n.val).redStore = v.red ∧
      (t.core n.val).plane0.w = v.plane0.w ∧ (t.core n.val).plane1.w = v.plane1.w ∧
      (t.core n.val).vregs = (img.drop 0x2000).take 8192 ∧
      (t.core n.val).sat = wordsOf 4 1024 (img.drop 0x1000) ∧
      (t.slot j.ctx j.slot).saved = none ∧ (t.core v.core).frames.getD v.frame false = false ∧
      t.mem = (((accPlaces s n.val).mapIdx fun i p => (p, (img.drop (0x16000 + i * 160)).take 160)).foldl
        (fun s w => poke w.1 w.2 s) s).mem) ∧
  (∀ (s : State) (n : Fin 24) (j : Job) (v : Saved) (h : JobHdr),
    (s.core n.val).job = some j → (s.core n.val).phase = .restore → (s.core n.val).due ≤ s.up →
    (s.slot j.ctx j.slot).saved = some v → h = parseHdr (peek s v.store.base 128) →
    128 ≤ h.imageBytes → h.imageBytes ≤ 2 ^ 20 →
    readable s (coreSrc n.val) v.store.base h.imageBytes = true → crcOk s v.store.base h = false →
    takesCpl s j.cplRing = true → s.sched.after.getD n.val none = none →
    ∃ t, exec (.restoreComplete n) s = .next t ∧ (t.core n.val).job = none ∧
      (t.slot j.ctx j.slot).state = .empty ∧ handed t j.cplRing [(4, 1, jsAborted), (24, 8, s.now)] = true)

/-- The read of CORE_MSE_SUM_LO answers the closed window's low word and latches the others with OVERRUN
and LOST; RESTART opens an empty window with the new settings (R241, R243, R244). An uncorrectable error
in a core's memory marks the word, logs MEM_UNCORR in the core's page, fences the logical core, skips
the tiles its job had begun and starts its takeover by a spare (R112, R559 to R561). A row that meets a
weight without parity logs it and does the same (R113). -/
def Obligations.MseAndCoreFailure : Prop :=
  (∀ (s : State) (n : Fin 24) (c : Fin 4) (m : MseCh), barOpen s = true →
    m = (s.core n.val).mse.getD c.val {} →
    ∃ t, exec (.coreMseSumLoRead n c) s = .next t ∧ leNat t.resp = m.cSum % 2 ^ 32 ∧
      t = { s with
        resp := t.resp
        cores := updAt s.cores n.val fun x => { x with mse := updAt x.mse c.val fun m => { m with
          rHi := mseHiWord m ||| (m.rHi &&& 0x60000#32), rCnt := BitVec.ofNat 32 m.cCnt
          overrun := false, lost := false, unread := false } } }) ∧
  (∀ (s : State) (n : Fin 24) (c : Fin 4) (v : W32), barWr s = true →
    exec (.restart n c v) s = .next { s with cores := updAt s.cores n.val fun x => { x with
      mse := updAt x.mse c.val fun m => { m with
        ctrl := v &&& 0xfffdffff#32, runTag := rfld v 15 0, runEn := rbit v 16
        runWin := rfld v 31 18, sum := 0, cnt := 0, runs := 0 } } }) ∧
  (∀ (s : State) (n : Fin 24) (a : BitVec 48) (off : Nat), sized s = true →
    regionOf a.toNat = .core n.val off → coreAbsent s n.val = false → inTakeover s n.val = false →
    s.mgt.coreMap.length = 24 → (chooseSpare s (physCore s n.val)).isSome = true →
    ∃ t, exec (.coreMemUncorr n a) s = .next t ∧ errBit t (.core n) 3 = true ∧
      (t.core n.val).mgmtFence = true ∧ (t.mgt.coreMap.getD n.val {}).state = .fenced ∧
      t.mgt.takeover = s.mgt.takeover ++
        [{ target := .core n, cause := 1, detected := s.up, failed := physCore s n.val
           spare := chooseSpare s (physCore s n.val), stage := .powering, goodAt := s.up + 23100
           saveDone := (s.core n.val).job.isNone, hasJob := false, mapBeat := none }] ∧
      t.flash.unsaved = s.flash.unsaved ++
        [{ kind := 1, phys := physCore s n.val, cause := 1, boots := s.flash.boots, tick := s.now }] ∧
      (∀ k, k ≠ n.val → t.core k = s.core k) ∧
      ((s.core n.val).job = none → t.core n.val = { s.core n.val with mgmtFence := true }) ∧
      sansLog s t = { s with
        badWords := insNat (physKey s a.toNat / 8 * 8) s.badWords
        cores := t.cores, flash := t.flash }) ∧
  (∀ (s : State) (n : Fin 24) (a : BitVec 48) (off : Nat) (j : Job), sized s = true →
    regionOf a.toNat = .core n.val off → coreAbsent s n.val = false → inTakeover s n.val = false →
    (chooseSpare s (physCore s n.val)).isSome = true →
    (s.core n.val).job = some j → (s.core n.val).phase = .run →
    ∃ t, exec (.coreMemUncorr n a) s = .next t ∧ (t.core n.val).stopWhy = .takeover ∧
      (t.core n.val).walk = none ∧ (t.core n.val).drains = [] ∧
      ((t.core n.val).job.map (·.skipped)) = some (j.skipped + (begunTiles (s.core n.val)).length) ∧
      (t.core n.val).ring = (s.core n.val).ring ∧ (t.core n.val).chain = (s.core n.val).chain) ∧
  (∀ (s : State) (n : Fin 24) (k : Fin 32) (a : Arr) (mi i : Nat) (w : Walk), sized s = true →
    unitTurn (s.core n.val) 0 = some mi → a = arrOf n.val (s.core n.val) mi →
    (s.core n.val).walk = some w → w.loaded = true → nextRow a (s.core n.val) w.g w.row = some i →
    slotsHeld a (s.core n.val) w s = false → (a.blk w.kr w.cb).empty = false →
    k.val < (planeOf (s.core n.val) w.plane).parity.length →
    rangesFail n.val s (a.rowReads s (s.core n.val) w i) = none →
    (a.rowScale s (a.blk w.kr w.cb) (a.firstRow w.g + i)).all (fun k => k.2.2 == k.1 % 256) = true →
    coreAbsent s n.val = false → inTakeover s n.val = false →
    (chooseSpare s (physCore s n.val)).isSome = true →
    s.badWords = [] →
    ∃ t, exec (.rowEntry n (some k)) s = .next t ∧ errBit t (.core n) 8 = true ∧
      t.mem = memPutAll s.mem (a.rowCells s (s.core n.val) w i) ∧
      (t.core n.val).mgmtFence = true ∧ (t.core n.val).stopWhy = .takeover ∧ (t.core n.val).walk = none)

/-! ## Arrays and units (chapters 03 to 07) -/

/-- PLANE_LOAD puts the block of the open pass into plane 0 at the start of a chain, and otherwise into the
other plane than the last pass's; a block that is not ready when the pass before has entered stalls the
arrays; a pass of the same block needs no load (R98, R100 to R103, R211). ROW_ENTRY adds the products of
the row and the plane's columns to the row's accumulators and writes nothing else (R90 to R96); a row of
an empty pass writes nothing (R660). After the last row the next pass opens, and after the last pass the
tile waits for its drain (R180). -/
def Obligations.ArrayPasses : Prop :=
  (∀ (s : State) (n : Fin 24) (mi : Nat) (a : Arr) (w : Walk) (x : Core), x = s.core n.val →
    unitTurn x 0 = some mi → a = arrOf n.val x mi → x.walk = some w → w.loaded = false → x.chain = none →
    rangesFail n.val s (a.loadRanges x (a.blk w.kr w.cb) w.cb) = none →
    a.loadSkew s (a.blk w.kr w.cb) w.cb = none →
    exec (.planeLoad n) s = .next { s with cores := updAt s.cores n.val fun x => { x with
      plane0 := a.plane s x (a.blk w.kr w.cb) w.cb
      codebook := a.cbAfter s x (a.blk w.kr w.cb) w.cb
      chain := some { per := a.perArray x (a.blk w.kr w.cb) w.g, six := a.six s
                      blk := a.blkId w.kr w.cb, mi := mi, plane := 0 }
      walk := some { w with loaded := true, row := 0, plane := 0 } } }) ∧
  (∀ (s : State) (n : Fin 24) (mi : Nat) (a : Arr) (w : Walk) (x : Core) (c : Chain), x = s.core n.val →
    unitTurn x 0 = some mi → a = arrOf n.val x mi → x.walk = some w → w.loaded = false →
    x.chain = some c → c.blk ≠ a.blkId w.kr w.cb →
    rangesFail n.val s (a.loadRanges x (a.blk w.kr w.cb) w.cb) = none →
    a.loadSkew s (a.blk w.kr w.cb) w.cb = none →
    ∃ t, exec (.planeLoad n) s = .next t ∧
      planeOf (t.core n.val) (1 - c.plane) = a.plane s x (a.blk w.kr w.cb) w.cb ∧
      (c.plane ≤ 1 → planeOf (t.core n.val) c.plane = planeOf x c.plane) ∧
      (t.core n.val).stall =
        x.stall + BitVec.ofNat 64 (a.spacing s x (a.blk w.kr w.cb) w.cb - c.rows) ∧
      (t.core n.val).walk = some { w with loaded := true, row := 0, plane := 1 - c.plane } ∧
      (t.core n.val).job = x.job ∧ (t.core n.val).ring = x.ring ∧
      (∀ k, k ≠ n.val → t.core k = s.core k) ∧ t = { s with cores := t.cores }) ∧
  (∀ (s : State) (n : Fin 24) (mi : Nat) (a : Arr) (w : Walk) (x : Core) (c : Chain), x = s.core n.val →
    unitTurn x 0 = some mi → a = arrOf n.val x mi → x.walk = some w → w.loaded = false →
    x.chain = some c → c.blk = a.blkId w.kr w.cb → mi ≤ c.mi + 1 →
    exec (.planeLoad n) s = .next { s with cores := updAt s.cores n.val fun x => { x with
      chain := some (c.extend (a.perArray x (a.blk w.kr w.cb) w.g) (a.six s) mi)
      walk := some { w with loaded := true, row := 0, plane := c.plane } } }) ∧
  (∀ (s : State) (n : Fin 24) (mi i k : Nat) (a : Arr) (w : Walk) (x : Core), x = s.core n.val →
    unitTurn x 0 = some mi → a = arrOf n.val x mi → s.badWords = [] → x.walk = some w →
    w.loaded = true → slotsHeld a x w s = false → (planeOf x w.plane).parity.all id = true →
    nextRow a x w.g w.row = some i → nextRow a x w.g (i + 1) = some k → (a.blk w.kr w.cb).empty = false →
    rangesFail n.val s (a.rowReads s x w i) = none →
    (a.rowScale s (a.blk w.kr w.cb) (a.firstRow w.g + i)).all (fun k => k.2.2 == k.1 % 256) = true →
    exec (.rowEntry n none) s = .next { s with
      mem := memPutAll s.mem (a.rowCells s x w i)
      cores := updAt s.cores n.val fun x => { x with walk := some { w with row := k } } }) ∧
  (∀ (s : State) (n : Fin 24) (mi i : Nat) (a : Arr) (w : Walk) (x : Core), x = s.core n.val →
    unitTurn x 0 = some mi → a = arrOf n.val x mi → s.badWords = [] → x.walk = some w →
    w.loaded = true → slotsHeld a x w s = false → (planeOf x w.plane).parity.all id = true →
    nextRow a x w.g w.row = some i → nextRow a x w.g (i + 1) = none → (a.blk w.kr w.cb).empty = false →
    rangesFail n.val s (a.rowReads s x w i) = none →
    (a.rowScale s (a.blk w.kr w.cb) (a.firstRow w.g + i)).all (fun k => k.2.2 == k.1 % 256) = true →
    ∃ t, exec (.rowEntry n none) s = .next t ∧ t.mem = memPutAll s.mem (a.rowCells s x w i) ∧
      (w.kr + 1 < a.geo.kb → t.core n.val = { x with
        walk := some { w with kr := w.kr + 1, loaded := false, row := 0 } }) ∧
      (a.geo.kb ≤ w.kr + 1 → (t.core n.val).drains = x.drains ++ [{ w with row := 0 }]) ∧
      (a.geo.kb ≤ w.kr + 1 → a.reduces = false → (t.core n.val).walk = none) ∧
      (∀ k, k ≠ n.val → t.core k = s.core k) ∧ t = { s with mem := t.mem, cores := t.cores }) ∧
  (∀ (s : State) (n : Fin 24) (mi i k : Nat) (a : Arr) (w : Walk) (x : Core), x = s.core n.val →
    unitTurn x 0 = some mi → a = arrOf n.val x mi → x.walk = some w → w.loaded = true →
    slotsHeld a x w s = false → (planeOf x w.plane).parity.all id = true →
    nextRow a x w.g w.row = some i → nextRow a x w.g (i + 1) = some k → (a.blk w.kr w.cb).empty = true →
    exec (.rowEntry n none) s = .next { s with
      cores := updAt s.cores n.val fun x => { x with walk := some { w with row := k } } })

/-- DRAIN writes the results of one slot row of the oldest tile that drains, or merges them into the
reduction store, which the last column block writes (R97, R182, R183). A MATMUL, CONV2D or DIST whose
last row enters drains and ends; a macro-instruction of another unit writes its last tile and ends; the
next one is at its start (R114, R176, R177). A tile of a fused consumer waits for its producer (R199). -/
def Obligations.MacrosEnd : Prop :=
  (∀ (s u : State) (n : Fin 24) (x : Core) (a : Arr) (w : Walk) (ds : List Walk) (rs : List Res),
    x = s.core n.val → issuing x = true → x.drains = w :: ds → a = arrOf n.val x w.mi →
    a.reduces = false → w.row + 1 < trgOf a.geo w.g →
    rangesFail n.val s (a.drainReads s x w) = none → rs = a.drainResults s x w →
    writeCells (coreSrc n.val) (mergeWrites s (rs.flatMap (·.writes))) s = (.ok, u) →
    ∃ t, exec (.drain n) s = .next t ∧ t.mem = u.mem ∧
      (t.core n.val).drains = { w with row := w.row + 1 } :: ds ∧ (t.core n.val).walk = x.walk ∧
      (t.core n.val).job.map (fun j => (j.mi, j.tile, j.progress, j.skipped)) =
        x.job.map (fun j => (j.mi, j.tile, j.progress, j.skipped)) ∧
      (∀ k, k ≠ n.val → t.core k = s.core k) ∧
      t = { u with cores := t.cores, free := t.free }) ∧
  (∀ (s : State) (n : Fin 24) (x : Core) (a : Arr) (w : Walk) (ds : List Walk),
    x = s.core n.val → issuing x = true → x.drains = w :: ds → a = arrOf n.val x w.mi →
    a.reduces = true → (w.row + 1 < trgOf a.geo w.g ∨ w.cb + 1 < a.geo.ncb) →
    rangesFail n.val s (a.drainReads s x w) = none →
    exec (.drain n) s = .next { s with cores := updAt s.cores n.val fun x => { x with
      redStore := a.merged s x w
      drains := if w.row + 1 < trgOf a.geo w.g then { w with row := w.row + 1 } :: ds else ds } }) ∧
  (∀ (s v u : State) (n : Fin 24) (i : Instr) (op m k : Nat) (j : Job) (x : Core) (a : Arr) (w : Walk),
    (i, op) ∈ [(Instr.matmul n, opMatmul), (.conv2d n, opConv2d), (.dist n, opDist)] →
    rbit s.hif.acctLo 0 = false → x = s.core n.val → x.job = some j → j.ahead = [] →
    turn s n.val op = some (j.mi, m) → a = arrOf n.val x j.mi → a.reduces = false →
    (op = opDist → distGate a.m = 0) → s.badWords = [] → x.walk = some w → w.mi = j.mi →
    x.drains = [] → w.loaded = true → w.kr + 1 = a.geo.kb → trgOf a.geo w.g ≤ 1 →
    a.tiles ≤ a.liveFrom x (w.t + 1) → (planeOf x w.plane).parity.all id = true →
    nextRow a x w.g w.row = some k → nextRow a x w.g (k + 1) = none → (a.blk w.kr w.cb).empty = false →
    rangesFail n.val s (a.rowReads s x w k) = none →
    (a.rowScale s (a.blk w.kr w.cb) (a.firstRow w.g + k)).all (fun k => k.2.2 == k.1 % 256) = true →
    v = { s with mem := memPutAll s.mem (a.rowCells s x w k), cores := updAt s.cores n.val fun x => { x with
      walk := none, drains := [{ w with row := 0 }]
      job := some { j with tile := a.liveFrom x (w.t + 1) } } } →
    rangesFail n.val v (a.drainReads v (v.core n.val) { w with row := 0 }) = none →
    writeCells (coreSrc n.val)
      (mergeWrites v ((a.drainResults v (v.core n.val) { w with row := 0 }).flatMap (·.writes))) v =
        (.ok, u) →
    ∃ t, exec i s = .next t ∧ t.mem = u.mem ∧ (t.core n.val).walk = none ∧ (t.core n.val).drains = [] ∧
      (t.core n.val).job.map (fun j => (j.mi, j.tile, j.progress, j.begun, j.skipped)) =
        some (j.mi + 1, 0, 0, false, j.skipped) ∧
      (∀ k, k ≠ n.val → t.core k = s.core k) ∧
      t = { u with cores := t.cores, free := t.free }) ∧
  (∀ (s v u : State) (n : Fin 24) (i : Instr) (op m : Nat) (j : Job) (o : TileOp),
    (i, op) ∈ [(Instr.dwconv n, opDwconv), (.pool n, opPool), (.eltwise n, opEltwise),
      (.requant n, opRequant), (.nms n, opNms), (.gather n, opGather), (.scatter n, opScatter),
      (.copy n, opCopy)] →
    rbit s.hif.acctLo 0 = false → (s.core n.val).job = some j → turn s n.val op = some (j.mi, m) →
    j.begun = true → j.ahead = [] → o = tileOp op s (s.core n.val) m → o.tiles = j.tile + 1 →
    covered (s.core n.val) j.mi j.tile = true →
    rangesFail n.val (tileRegs op n.val s) (wholeLines (o.reads (tileRegs op n.val s) j.tile)) = none →
    v = touchAll n.val (wholeLines (o.reads (tileRegs op n.val s) j.tile))
      (noteOor n.val j.tile o (tileRegs op n.val s)) →
    writeCells (coreSrc n.val) (mergeWrites v ((o.give v j.tile).flatMap (·.writes))) v = (.ok, u) →
    ∃ t, exec i s = .next t ∧ t.mem = u.mem ∧
      (t.core n.val).job.map (fun j => (j.mi, j.tile, j.progress, j.begun, j.skipped, j.indexOor)) =
        some (j.mi + 1, 0, 0, false, j.skipped, j.indexOor || o.oor (tileRegs op n.val s) j.tile) ∧
      (∀ k, k ≠ n.val → t.core k = s.core k) ∧
      t = { u with cores := t.cores, free := t.free }) ∧
  (∀ (s : State) (n : Fin 24) (i : Instr) (op mi m : Nat) (j : Job),
    (i, op) ∈ [(Instr.dwconv n, opDwconv), (.requant n, opRequant)] →
    (s.core n.val).job = some j → turn s n.val op = some (mi, m) → mi ≠ j.mi → mFuseIn m = true →
    (j.act mi).tile < (tileOp op s (s.core n.val) m).tiles →
    covered (s.core n.val) mi (j.act mi).tile = false →
    exec i s = .next s)

/-! ## Scheduling (chapter 11) -/

/-- ENABLE checks the descriptor, then the areas, then the state, and gives the code of the first check
that fails; a context that passes all takes the fields of its descriptor. DISABLE ends every job of
the context and leaves all its slots EMPTY; HOLD holds the context and asks for the preemption of its
jobs; UNHOLD lets it go on; each is BAD_STATE for a context that is not enabled (R282, R419, R425,
R426). A command while DONE is 0 is discarded as an invalid programming (R282). That the commands
complete at once is a reading of the model, log entry 18. -/
def Obligations.ContextCommands : Prop :=
  (∀ (s : State) (c : Fin 256) (d : Nat), sized s = true → barWr s = true → s.hif.ctxCmd.done = true →
    readable s .sched (pairAddr s.hif.ctxTableLo s.hif.ctxTableHi 6 + 64 * c.val) 64 = true →
    d = peekNat s (pairAddr s.hif.ctxTableLo s.hif.ctxTableHi 6 + 64 * c.val) 64 →
    ∃ t, exec (.ctxEnable c) s = .next t ∧
      t.hif.ctxCmd.code =
        (if ctxDescBad d then 1
         else if overlaps (fld d 111 64) 2048 (fld d 175 128) 64 ∨ (∃ k : Fin 256, k ≠ c ∧
            (s.ctx k.val).enabled = true ∧ areasMeet (ctxAreas (fld d 111 64) (fld d 175 128))
              (ctxAreas (s.ctx k.val).queueBase (s.ctx k.val).stateBase) = true) then 3
         else if (s.ctx c.val).enabled then 4 else 0) ∧
      (t.hif.ctxCmd.code ≠ 0 → t.sched = s.sched) ∧
      (t.hif.ctxCmd.code = 0 → t.sched = { s.sched with ctxs := updAt s.sched.ctxs c.val fun _ =>
        { enabled := true, held := false, part := fld d 2 0, urgent := bitAt d 3, preempt := bitAt d 4
          onValid := bitAt d 5, maxRun := fld d 10 6 + 1, weight := fld d 31 16
          queueBase := fld d 111 64, stateBase := fld d 175 128 } }) ∧
      t = { s with
        hif := { s.hif with ctxCmd :=
          { cmd := BitVec.ofNat 32 c.val, code := t.hif.ctxCmd.code, done := true, ctx := c.val } }
        sched := t.sched, hbm := t.hbm }) ∧
  (∀ (s : State) (c : Fin 256), sized s = true → barWr s = true → s.hif.ctxCmd.done = true →
    (s.ctx c.val).enabled = true → (s.sched.after.all (·.isNone)) = true → s.spt.waitCpl = [] →
    ((s.spt.arriving ++ s.spt.store).filter (·.cpl)).length ≤ 192 →
    (∀ k < 64, (s.slot c.val k).state = .active →
      ∃ n < 24, ∃ j ∈ (s.core n).job, j.ctx = c.val ∧ j.slot = k) →
    (∀ k < 64, (s.slot c.val k).state = .suspended → (s.slot c.val k).saved.isSome = true) →
    (∀ k < 64, ∀ v ∈ (s.slot c.val k).saved, v.job.ctx = c.val ∧ v.job.slot = k) →
    ∃ t, exec (.ctxDisable c) s = .next t ∧ t.hif.ctxCmd.code = 0 ∧ (t.ctx c.val).enabled = false ∧
      (∀ k < 64, (t.slot c.val k).state = .empty) ∧
      (∀ d < 256, d ≠ c.val → t.ctx d = s.ctx d)) ∧
  (∀ (s : State) (c : Fin 256), sized s = true → barWr s = true → s.hif.ctxCmd.done = true →
    (s.ctx c.val).enabled = true → (s.ctx c.val).held = false →
    ∃ t, exec (.hold c) s = .next t ∧
      (∀ n < 24, t.core n =
        if (s.core n).job.any (fun j => j.ctx == c.val) = true ∧ (s.core n).stopWhy = .none ∧
            (s.core n).phase ≠ .save then { s.core n with stopWhy := .preempt } else s.core n) ∧
      t = { s with
        hif := { s.hif with ctxCmd :=
          { cmd := BitVec.ofNat 32 (512 + c.val), code := 0, done := true, ctx := c.val } }
        sched := { s.sched with ctxs := updAt s.sched.ctxs c.val fun x => { x with held := true } }
        cores := t.cores }) ∧
  (∀ (s : State) (c : Fin 256), barWr s = true → s.hif.ctxCmd.done = true →
    (s.ctx c.val).enabled = true →
    exec (.unhold c) s = .next { s with
      hif := { s.hif with ctxCmd :=
        { cmd := BitVec.ofNat 32 (768 + c.val), code := 0, done := true, ctx := c.val } }
      sched := { s.sched with ctxs := updAt s.sched.ctxs c.val fun x => { x with held := false } } }) ∧
  (∀ (s : State) (c : Fin 256) (i : Instr) (op : Nat),
    (i, op) ∈ [(Instr.ctxDisable c, 1), (.hold c, 2), (.unhold c, 3)] →
    barWr s = true → s.hif.ctxCmd.done = true → (s.ctx c.val).enabled = false →
    exec i s = .next { s with hif := { s.hif with ctxCmd :=
      { cmd := BitVec.ofNat 32 (op * 256 + c.val), code := 4, done := true, ctx := c.val } } }) ∧
  (∀ (s : State) (c : Fin 256) (i : Instr), i ∈ [Instr.ctxEnable c, .ctxDisable c, .hold c, .unhold c] →
    sized s = true → barWr s = true → s.hif.ctxCmd.done = false →
    ∃ t, exec i s = .next t ∧ errBit t .hif 0 = true ∧ sansLog s t = s)

/-- A delivered doorbell value makes the EMPTY slot it names VALID with its queue entry; a slot that is
not EMPTY only counts, and in the safe state the value is discarded (R420, R421, R581). An URGENT start
for a core with a PREEMPTIBLE job of a NORMAL context asks for its preemption (R429). A free fixed-plan
core restores the job suspended last on it, else takes the oldest start of its queue (R431, R451); a
share partition's arbiter serves URGENT contexts first, and among those of a class the largest deficit,
on the lowest core its job may use (R435, R436). -/
def Obligations.JobsReachCores : Prop :=
  (∀ (s u : State) (c : Fin 256) (k : Fin 64) (e : Nat) (h : JobHdr),
    takeDb c.val s = some (2 ^ k.val, u) → s.mgt.safe = false → (s.ctx c.val).enabled = true →
    (s.slot c.val k.val).state = .empty → (s.ctx c.val).onValid = false →
    readable s .sched ((s.ctx c.val).queueBase + 32 * k.val) 32 = true →
    e = peekNat s ((s.ctx c.val).queueBase + 32 * k.val) 32 → fld e 47 0 % 64 = 0 →
    fld e 47 0 + 128 ≤ hbmEnd → readable s .sched (fld e 47 0) 128 = true →
    h = parseHdr (peek s (fld e 47 0) 128) →
    coreMaskBad (!partShare s (s.ctx c.val).part) h.dlb h.coreMask = false →
    maskAbsent s (s.ctx c.val).part h.coreMask = false →
    ∃ t, exec (.ctxDoorbell c) s = .next t ∧
      t = { s with
        hif := u.hif, hbm := t.hbm
        sched := { s.sched with
          order := s.sched.order + 1
          ctxs := updAt s.sched.ctxs c.val fun x => { x with slots := updAt x.slots k.val fun _ =>
            { state := .valid, image := fld e 47 0, batch := fld e 111 64, depAddr := fld e 159 112
              depEn := bitAt e 160, depMin := fld e 255 192, coreMask := h.coreMask, dlb := h.dlb
              order := s.sched.order + 1 } } } }) ∧
  (∀ (s u : State) (c : Fin 256) (k : Fin 64), takeDb c.val s = some (2 ^ k.val, u) →
    s.mgt.safe = false → (s.ctx c.val).enabled = true → (s.slot c.val k.val).state ≠ .empty →
    exec (.ctxDoorbell c) s = .next (ctxCount c.val 0x10 u)) ∧
  (∀ (s u : State) (c : Fin 256) (v : Nat), takeDb c.val s = some (v, u) → s.mgt.safe = true →
    exec (.ctxDoorbell c) s = .next u) ∧
  (∀ (s u : State) (d v : Nat), takeDb d s = some (v, u) →
    (d, v) ∈ s.hif.dbOut ∧ u = { s with hif := { s.hif with dbOut := s.hif.dbOut.erase (d, v) } }) ∧
  (∀ (s u : State) (c : Fin 256) (k : Fin 64) (a : Action) (n : Nat),
    takeAction s 8 1 (fun a => a.target == c.val && a.arg16 == k.val) = some (a, u) →
    (s.ctx c.val).enabled = true → ctxHeld s c.val = false → ctxShare s c.val = false →
    (s.ctx c.val).onValid = false → (s.slot c.val k.val).state = .valid →
    n = maskCore (s.slot c.val k.val).coreMask → (s.ctx c.val).urgent = true → isVictim s n = true →
    (s.core n).phase = .run → (s.core n).stopWhy = .none → canSave s n = true →
    exec (.jobStart c k) s = .next { u with
      sched := { s.sched with after := updAt s.sched.after n fun _ => some (c.val, k.val) }
      cores := updAt s.cores n fun x => { x with stopWhy := .preempt } }) ∧
  (∀ (s : State) (n : Fin 24) (c k : Nat) (v : Saved),
    coreFree s n.val = true → partShare s (partOfCore s n.val) = false → c < 256 → k < 64 →
    (s.slot c k).state = .suspended → (s.ctx c).enabled = true → ctxHeld s c = false →
    ctxShare s c = false → (s.slot c k).saved = some v → v.core = n.val →
    (∀ d < 256, ∀ i < 64, (s.slot d i).state = .suspended → (d, i) ≠ (c, k) →
      (s.slot d i).order < (s.slot c k).order) →
    exec (.coreFreeSelect n) s = .next { s with
      sched := { s.sched with ctxs := updAt s.sched.ctxs c fun x => { x with
        slots := updAt x.slots k fun y => { y with state := .active } } }
      cores := updAt s.cores n.val fun x => { x with
        job := some { v.job with heldFrom := s.up, acctTick := s.up }
        phase := .restore, store := v.store, sat := v.sat, wait := none, stopWhy := .none
        due := s.up + moveTicks s n.val (cdiv v.store.hdr.imageBytes 64 + 11648 + saveLines v.store) } }) ∧
  (∀ (s : State) (n : Fin 24) (c k : Nat) (q : List (Nat × Nat)),
    coreFree s n.val = true → partShare s (partOfCore s n.val) = false →
    (∀ x ∈ s.sched.ctxs, ∀ y ∈ x.slots, y.state ≠ .suspended) → s.sched.held.getD n.val [] = (c, k) :: q →
    (s.ctx c).enabled = true → (s.slot c k).state = .valid → ctxHeld s c = false →
    exec (.coreFreeSelect n) s = .next (launch n.val c k { s with
      sched := { s.sched with held := updAt s.sched.held n.val fun _ => q.filter (fun x => !startGone s x) } })) ∧
  (∀ (s : State) (p : Fin 8) (urgent : Bool) (free l : List Nat) (c k n : Nat),
    partShare s p.val = true →
    free = (List.range 24).filter (fun n => coreFree s n && partOfCore s n == p.val) →
    (urgent = false → choices s p.val true free = []) → l = choices s p.val urgent free →
    c ∈ l → (∀ d ∈ l, d ≠ c → (s.ctx d).deficit < (s.ctx c).deficit ∨
      ((s.ctx d).deficit = (s.ctx c).deficit ∧ c < d)) → 0 < (s.ctx c).deficit →
    eligible s c = some k → free.find? (fun n => mayUse s p.val c k n) = some n →
    (s.slot c k).state = .valid →
    exec (.shareArbitrate p) s = .next (launch n c k s))

/-! ## Saucers (chapter 07) -/

/-- Setting EN of a command ring zeroes CONS, PROD and the position (R259). While EN is 1 a write that would
move the ring changes nothing and sets the invalid-programming bit; one that leaves base and length takes
effect in EN (R265). A delivered producer count becomes PROD; one that overruns the ring is ignored and
sets the ring-overrun bit, and while EN is 0 it is ignored (R259, R265). -/
def Obligations.SaucerRings : Prop :=
  (∀ (s : State) (m : Fin 7) (v : W32), barWr s = true → rbit (s.clu m.val).ringCfg 31 = false →
    rbit v 31 = true →
    exec (.sauRingCfgWrite m v) s = .next { s with clus := updAt s.clus m.val fun c => { c with
      ringCfg := v &&& 0x81ffffff#32, cons := 0, prod := 0, pos := 0, ticks := [] } }) ∧
  (∀ (s : State) (m : Fin 7) (v : W32), barWr s = true →
    (rbit v 31 = false ∨ rbit (s.clu m.val).ringCfg 31 = true) →
    (rbit (s.clu m.val).ringCfg 31 = false ∨ ((s.clu m.val).ringCfg ^^^ v) &&& 0x01ffffff#32 = 0#32) →
    exec (.sauRingCfgWrite m v) s = .next { s with clus := updAt s.clus m.val fun c => { c with
      ringCfg := v &&& 0x81ffffff#32 } }) ∧
  (∀ (s : State) (m : Fin 7) (v : W32), sized s = true → barWr s = true →
    rbit (s.clu m.val).ringCfg 31 = true → ((s.clu m.val).ringCfg ^^^ v) &&& 0x01ffffff#32 ≠ 0#32 →
    ∃ t, exec (.sauRingCfgWrite m v) s = .next t ∧ errBit t (.clu m) 0 = true ∧ sansLog s t = s) ∧
  (∀ (s : State) (m : Fin 7) (v k : Nat) (q : List Nat), (s.clu m.val).dbPend = v :: q →
    rbit (s.clu m.val).ringCfg 31 = true → k = (v + 65536 - (s.clu m.val).cons) % 65536 →
    k ≤ rfld (s.clu m.val).ringCfg 24 17 + 1 →
    exec (.sauDoorbell m) s = .next { s with clus := updAt s.clus m.val fun c => { c with
      dbPend := q, prod := v, ticks := (c.ticks ++ List.replicate (k - c.ticks.length) s.up).take k } }) ∧
  (∀ (s : State) (m : Fin 7) (v : Nat) (q : List Nat), sized s = true → (s.clu m.val).dbPend = v :: q →
    rbit (s.clu m.val).ringCfg 31 = true →
    rfld (s.clu m.val).ringCfg 24 17 + 1 < (v + 65536 - (s.clu m.val).cons) % 65536 →
    ∃ t, exec (.sauDoorbell m) s = .next t ∧ errBit t (.clu m) 1 = true ∧
      sansLog s t = { s with clus := updAt s.clus m.val fun c => { c with dbPend := q } }) ∧
  (∀ (s : State) (m : Fin 7) (v : Nat) (q : List Nat), (s.clu m.val).dbPend = v :: q →
    rbit (s.clu m.val).ringCfg 31 = false →
    exec (.sauDoorbell m) s = .next { s with clus := updAt s.clus m.val fun c => { c with dbPend := q } })

/-- A free Saucer takes the streamed command whose first data came no later than the doorbell of the next
ring entry, and otherwise that entry, with the status of its checks; a command in progress keeps it from
both (R257 to R260). A command that passed its checks ends when its output rows have had their time, a
streamed one when its stream has ended too, with the rows written: ROWS and the status go to the done
record, STREAM_SHORT or STREAM_LONG when the stream's length is not H × W × Cin, and the ring or the
stream moves on (R259, R261 to R263). One that failed its checks writes no row. An uncorrectable error in
a Saucer memory ends it with MEM_ERROR after at most the rows before it (R264). -/
def Obligations.SaucerCommands : Prop :=
  (∀ (s : State) (m : Fin 7) (k : Nat), (s.clu m.val).cmd = none → s.mgt.safe = false →
    s.mgt.quiesce = false → haltOn s (.clu m) = false →
    (s.mesh.rstBusy = false ∨ partOfClu s m.val ≠ s.mesh.rstPart) →
    (∀ x ∈ (s.clu m.val).streams.head?, k < x.arrived) → rbit (s.clu m.val).ringCfg 31 = true →
    (s.clu m.val).cons ≠ (s.clu m.val).prod → (s.clu m.val).ticks.head? = some k → k ≤ s.up →
    readable s (.saucer m) (sauEntry s m.val) 64 = true →
    exec (.saucerCmdStart m) s = .next { s with clus := updAt s.clus m.val fun c => { c with
      cmd := some { addr := sauEntry s m.val, streamed := false, started := s.up, readable := true
                    status := sauCheck m.val false (peekNat s (sauEntry s m.val) 64) s } } }) ∧
  (∀ (s : State) (m : Fin 7) (x : SauStream), (s.clu m.val).cmd = none → s.mgt.safe = false →
    s.mgt.quiesce = false → haltOn s (.clu m) = false →
    (s.mesh.rstBusy = false ∨ partOfClu s m.val ≠ s.mesh.rstPart) →
    (s.clu m.val).streams.head? = some x → x.arrived ≤ s.up →
    (rbit (s.clu m.val).ringCfg 31 = true → (s.clu m.val).cons ≠ (s.clu m.val).prod →
      ∀ k ∈ (s.clu m.val).ticks.head?, x.arrived ≤ k) → readable s (.saucer m) x.cmd 64 = true →
    ∃ t, exec (.saucerCmdStart m) s = .next t ∧
      t.clus = updAt s.clus m.val (fun c => { c with
        cmd := some { addr := x.cmd, streamed := true, started := s.up, readable := true
                      status := sauCheck m.val true (peekNat s x.cmd 64) s } }) ∧
      t = { s with clus := t.clus, scl := t.scl }) ∧
  (∀ (s : State) (m : Fin 7), ((s.clu m.val).cmd.isSome = true ∨ s.mgt.safe = true ∨ s.mgt.quiesce = true) →
    exec (.saucerCmdStart m) s = .next s) ∧
  (∀ (s u v : State) (m : Fin 7) (c : SauCmd) (x : Sau) (w rows : Nat), (s.clu m.val).cmd = some c →
    c.status = 0 → c.streamed = false → c.readable = true → x = sauOf s (peekNat s c.addr 64) →
    s.badWords = [] → (sauRowEnds s m.val c x).getLastD 0 ≤ s.up →
    sauWrite m.val x [] (sauRows x) 0 s = (rows, false, u) → w = peekNat u c.addr 64 →
    v = store (.saucer m) (sDone w) (leBytes 8 (fld w 511 448) ++ leBytes 8 (rows * 2 ^ 32)) u →
    exec (.saucerDone m) s = .next { v with clus := updAt v.clus m.val fun k => { k with
      cmd := none, cons := (k.cons + 1) % 65536, ticks := k.ticks.tail
      pos := if k.pos ≥ rfld k.ringCfg 24 17 then 0 else k.pos + 1 } }) ∧
  (∀ (s u v : State) (m : Fin 7) (c : SauCmd) (x : Sau) (y : SauStream) (w rows n status : Nat),
    (s.clu m.val).cmd = some c → c.status = 0 → c.streamed = true → c.readable = true →
    (s.clu m.val).streams.head? = some y → y.ended = true → x = sauOf s (peekNat s c.addr 64) →
    s.badWords = [] → (sauRowEnds s m.val c x).getLastD 0 ≤ s.up → n = dH x.src * dW x.src * dC x.src →
    status = (if y.data.length < n then 2 else if n < y.data.length then 3 else 0) →
    sauWrite m.val x y.data (sauRows x) 0 s = (rows, false, u) → w = peekNat u c.addr 64 →
    v = store (.saucer m) (sDone w) (leBytes 8 (fld w 511 448) ++ leBytes 8 (status + rows * 2 ^ 32)) u →
    exec (.saucerDone m) s = .next { v with clus := updAt v.clus m.val fun k => { k with
      cmd := none, streams := k.streams.tail } }) ∧
  (∀ (s v : State) (m : Fin 7) (c : SauCmd) (w : Nat), (s.clu m.val).cmd = some c → c.status ≠ 0 →
    c.streamed = false → c.readable = true → w = peekNat s c.addr 64 →
    v = store (.saucer m) (sDone w) (leBytes 8 (fld w 511 448) ++ leBytes 8 c.status) s →
    exec (.saucerDone m) s = .next { v with clus := updAt v.clus m.val fun k => { k with
      cmd := none, cons := (k.cons + 1) % 65536, ticks := k.ticks.tail
      pos := if k.pos ≥ rfld k.ringCfg 24 17 then 0 else k.pos + 1 } }) ∧
  (∀ (s r u v : State) (m : Fin 7) (c : SauCmd) (x : Sau) (w row rows : Nat), sized s = true →
    (s.clu m.val).cmd = some c → c.status = 0 → c.streamed = false → c.readable = true →
    r = raise (.clu m) 3 none m.val s → x = sauOf r (peekNat r c.addr 64) → s.badWords = [] →
    sauWrite m.val x [] (min row (sauMost r m.val c x)) 0 r = (rows, false, u) →
    w = peekNat u c.addr 64 →
    v = store (.saucer m) (sDone w) (leBytes 8 (fld w 511 448) ++ leBytes 8 (4 + rows * 2 ^ 32)) u →
    errBit r (.clu m) 3 = true ∧ sansLog s r = s ∧
    exec (.saucerMemError m row) s = .next { v with clus := updAt v.clus m.val fun k => { k with
      cmd := none, cons := (k.cons + 1) % 65536, ticks := k.ticks.tail
      pos := if k.pos ≥ rfld k.ringCfg 24 17 then 0 else k.pos + 1 } })

/-! ## Decoders and encoders (chapter 08) -/

/-- ENABLE of a decode context gives the code of the first check that fails: descriptor, frame buffers,
overlap, state; a context that passes waits for its first random-access point, with CORE_MASK and SPAN of
its descriptor in force (R282, R283, R295, R310). DISABLE and DISCONTINUITY act at once on a context
without a picture in progress and are kept for the frame boundary otherwise; RELEASE gives a held buffer
back (R285, R286). On a context that is not enabled, or for a buffer that is not held, they are BAD_STATE.
While DONE is 0 a command is discarded and sets the invalid-programming bit (R282). -/
def Obligations.DecodeContexts : Prop :=
  (∀ (s : State) (c : Fin 128) (d : Nat) (x : DecDesc) (raw : List Nat), sized s = true → barWr s = true →
    s.dec.cmd.done = true →
    readable s .strainer (pairAddr s.dec.tableLo s.dec.tableHi 6 + 64 * c.val) 64 = true →
    d = peekNat s (pairAddr s.dec.tableLo s.dec.tableHi 6 + 64 * c.val) 64 → x = parseDec d →
    readable s .strainer x.fbTable (64 * x.fbCount) = true → raw = fbRaw s x.fbTable x.fbCount →
    ∃ t, exec (.decEnable c) s = .next t ∧
      t.dec.cmd.code =
        (if decDescBad d then 1
         else if raw.any (fun f => fbBad f x.maxW x.maxH 0 x.tenBit) then 2
         else if meets (decRegions x (raw.map parseFb)) then 3
         else if (s.decCtx c.val).enabled then 4 else 0) ∧
      t.dec.cmd = { cmd := BitVec.ofNat 32 c.val, code := t.dec.cmd.code, done := true, ctx := c.val } ∧
      t = { s with hbm := t.hbm, dec := if t.dec.cmd.code = 0 then { s.dec with
          cmd := t.dec.cmd
          act := updAt s.dec.act c.val fun _ => BitVec.ofNat 32 (x.coreMask + x.span * 256)
          ctxs := updAt s.dec.ctxs c.val fun _ =>
            { enabled := true, desc := x, fbs := raw.map parseFb, waitRap := true } }
        else { s.dec with cmd := t.dec.cmd } }) ∧
  (∀ (s : State) (c : Fin 128), barWr s = true → s.dec.cmd.done = true → (s.decCtx c.val).enabled = true →
    (s.decCtx c.val).pic = none →
    exec (.decDisable c) s = .next { s with dec := { s.dec with
      cmd := { cmd := BitVec.ofNat 32 (256 + c.val), code := 0, done := true, ctx := c.val }
      ctxs := updAt s.dec.ctxs c.val fun x => { x with
        enabled := false, wantDis := false, wantDisc := false, heldStart := none, cons := 0, prod := 0, pos := 0
        outq := [], dpbOut := [], refs := [], holds := [], reading := [], surrogate := none } } }) ∧
  (∀ (s : State) (c : Fin 128), barWr s = true → s.dec.cmd.done = true → (s.decCtx c.val).enabled = true →
    (s.decCtx c.val).pic.isSome = true →
    exec (.decDisable c) s = .next { s with dec := { s.dec with
      cmd := { cmd := BitVec.ofNat 32 (256 + c.val), code := 0, done := true, ctx := c.val }
      ctxs := updAt s.dec.ctxs c.val fun x => { x with wantDis := true } } }) ∧
  (∀ (s : State) (c : Fin 128), barWr s = true → s.dec.cmd.done = true → (s.decCtx c.val).enabled = true →
    exec (.discontinuity c) s = .next { s with dec := { s.dec with
      cmd := { cmd := BitVec.ofNat 32 (512 + c.val), code := 0, done := true, ctx := c.val }
      ctxs := updAt s.dec.ctxs c.val fun x =>
        if x.pic.isSome then { x with wantDisc := true } else decDiscont x } }) ∧
  (∀ x : DecCtx, decDiscont x = { x with
    wantDisc := false, refs := [], refused := 0, waitRap := true, dropRasl := false, surrogate := none
    tainted := false, recover := [], params := [], units := [], seqInfo := none
    dpbOut := x.dpbOut.map fun o => { o with name := none } }) ∧
  (∀ (s : State) (c : Fin 128) (b : Fin 32), barWr s = true → s.dec.cmd.done = true →
    b.val ∈ (s.decCtx c.val).holds →
    exec (.release c b) s = .next { s with dec := { s.dec with
      cmd := { cmd := BitVec.ofNat 32 (b.val * 65536 + 768 + c.val), code := 0, done := true, ctx := c.val }
      ctxs := updAt s.dec.ctxs c.val fun x => { x with holds := x.holds.filter (· ≠ b.val) } } }) ∧
  (∀ (s : State) (c : Fin 128) (b : Fin 32) (i : Instr) (op : Nat), (i, op) ∈ [(Instr.decDisable c, 256),
      (.discontinuity c, 512), (.release c b, b.val * 65536 + 768)] →
    barWr s = true → s.dec.cmd.done = true → (s.decCtx c.val).enabled = false →
    (s.decCtx c.val).holds = [] →
    exec i s = .next { s with dec := { s.dec with
      cmd := { cmd := BitVec.ofNat 32 (op + c.val), code := 4, done := true, ctx := c.val } } }) ∧
  (∀ (s : State) (c : Fin 128) (b : Fin 32) (i : Instr),
    i ∈ [Instr.decEnable c, .decDisable c, .discontinuity c, .release c b] → sized s = true →
    barWr s = true → s.dec.cmd.done = false →
    ∃ t, exec i s = .next t ∧ errBit t .dec 0 = true ∧ sansLog s t = s) ∧
  (∀ (s : State) (c : Fin 128), (s.decCtx c.val).pic = none →
    ((s.decCtx c.val).wantDis = true ∨ (s.decCtx c.val).wantDisc = true) →
    (s.decCtx c.val).heldStart = none →
    exec (.decFrameBoundaryApply c) s = .next { s with dec := { s.dec with
      ctxs := updAt s.dec.ctxs c.val fun x => if x.wantDis then decDisabled x else decDiscont x } })

/-- A doorbell moves PROD unless it overruns the ring (R288). DECODE_START of a PLANNED context starts a
picture with the lowest-numbered free cores, or with none when too few are free, which counts once in
CORE_WAIT; while a picture is in progress or a command waits for the frame boundary it is kept with its
tick, and a second one counts in START_OVERLAP; without a pending entry it counts in LATE, and of a
context in AUTO mode or not enabled in START_IGNORED (R292, R294). Of the AUTO contexts that can start,
the one whose number follows the last started one most closely starts (R293). In the safe state a
doorbell value is discarded (R581). -/
def Obligations.DecodeStarts : Prop :=
  (∀ (s u : State) (c : Fin 128) (v : Nat), takeDb (256 + c.val) s = some (v, u) → s.mgt.safe = false →
    (s.decCtx c.val).enabled = true →
    (v % 65536 + 65536 - (s.decCtx c.val).cons) % 65536 ≤ (s.decCtx c.val).desc.ringLenM1 + 1 →
    exec (.decDoorbell c) s = .next { u with dec := { s.dec with
      ctxs := updAt s.dec.ctxs c.val fun x => { x with prod := v % 65536 } } }) ∧
  (∀ (s u : State) (c : Fin 128) (v : Nat), sized s = true → takeDb (256 + c.val) s = some (v, u) →
    s.mgt.safe = false → (s.decCtx c.val).enabled = true →
    (s.decCtx c.val).desc.ringLenM1 + 1 < (v % 65536 + 65536 - (s.decCtx c.val).cons) % 65536 →
    ∃ t, exec (.decDoorbell c) s = .next t ∧ errBit t .dec 1 = true ∧ sansLog u t = u) ∧
  (∀ (s u : State) (c : Fin 128) (v : Nat), takeDb (256 + c.val) s = some (v, u) →
    (s.mgt.safe = true ∨ (s.decCtx c.val).enabled = false) → exec (.decDoorbell c) s = .next u) ∧
  (∀ (s u : State) (c : Fin 128) (a : Action) (x : DecCtx), x = s.decCtx c.val →
    takeAction s 8 2 (fun a => a.target == c.val) = some (a, u) → x.enabled = true → x.desc.auto = false →
    (x.pic.isSome = true ∨ x.wantDis = true ∨ x.wantDisc = true) → x.heldStart = none →
    exec (.decodeStart c) s = .next { u with dec := { s.dec with
      ctxs := updAt s.dec.ctxs c.val fun x => { x with heldStart := some (s.up, x.prod) } } }) ∧
  (∀ (s u : State) (c : Fin 128) (a : Action) (x : DecCtx) (cs : List Nat), x = s.decCtx c.val →
    takeAction s 8 2 (fun a => a.target == c.val) = some (a, u) → x.enabled = true → x.desc.auto = false →
    x.pic = none → x.wantDis = false → x.wantDisc = false → s.mgt.safe = false → s.mgt.quiesce = false →
    x.cons ≠ x.prod → decTakes s c.val = some cs →
    exec (.decodeStart c) s = .next { u with dec := { s.dec with
      ctxs := updAt s.dec.ctxs c.val fun x => { x with pic := some { startAt := s.up, cores := cs } }
      busy := claim c.val cs s.dec.busy } }) ∧
  (∀ (s u : State) (c : Fin 128) (a : Action) (x : DecCtx), x = s.decCtx c.val →
    takeAction s 8 2 (fun a => a.target == c.val) = some (a, u) → x.enabled = true → x.desc.auto = false →
    x.pic = none → x.wantDis = false → x.wantDisc = false → s.mgt.safe = false → s.mgt.quiesce = false →
    x.cons ≠ x.prod → decTakes s c.val = none → x.desc.fbCount ≠ 0 →
    exec (.decodeStart c) s = .next (bump32 .strainer (x.desc.stateBase + 0xc) { u with dec := { s.dec with
      ctxs := updAt s.dec.ctxs c.val fun x => { x with pic := some { startAt := s.up, waited := true } } } })) ∧
  (∀ (s u : State) (c : Fin 128) (a : Action) (x : DecCtx) (off : Nat), x = s.decCtx c.val →
    takeAction s 8 2 (fun a => a.target == c.val) = some (a, u) → x.desc.fbCount ≠ 0 →
    ((x.enabled = false ∨ x.desc.auto = true) ∧ off = 0x18 ∨
      x.enabled = true ∧ x.desc.auto = false ∧ x.pic.isSome = true ∧ x.heldStart.isSome = true ∧ off = 8 ∨
      x.enabled = true ∧ x.desc.auto = false ∧ x.pic = none ∧ x.wantDis = false ∧ x.wantDisc = false ∧
        x.cons = x.prod ∧ off = 4) →
    exec (.decodeStart c) s = .next (bump32 .strainer (x.desc.stateBase + off) u)) ∧
  (∀ (s : State) (c : Fin 128) (cs : List Nat), s.dec.lastAuto < 128 → decAutoReady s c.val = true →
    (∀ k < 128, decAutoReady s k = true →
      (c.val + 127 - s.dec.lastAuto) % 128 ≤ (k + 127 - s.dec.lastAuto) % 128) →
    decTakes s c.val = some cs →
    exec (.decAutoStart c) s = .next { s with dec := { s.dec with
      lastAuto := c.val
      ctxs := updAt s.dec.ctxs c.val fun x => { x with pic := some { startAt := s.up, cores := cs } }
      busy := claim c.val cs s.dec.busy } })

/-- A picture that waits takes its cores as soon as enough are free, and its entry is taken then (R294). The
Strainer gives the entry the next PIC_COUNT and advances the ring; an entry with reserved bits or outside
the bitstream window is DEC_ENTRY_INVALID; another is admitted, with the lowest free frame buffer, refused
with a code, or skipped, by its bytes, which a function without a body reads as the standard does (R287,
R290, R291, R299 to R305, R310, R330; log entry 77). When the bytes are read, CONS passes the entry and is
written back (R289). -/
def Obligations.DecodeAdmission : Prop :=
  (∀ (s : State) (c : Fin 128) (p : DecPic) (cs : List Nat), (s.decCtx c.val).pic = some p → p.cores = [] →
    p.admitted = false → decTakes s c.val = some cs → cs ≠ [] →
    exec (.decPictureStart c) s = exec (.decPictureStart c) { s with dec := { s.dec with
      ctxs := updAt s.dec.ctxs c.val fun x => { x with pic := some { p with cores := cs } }
      busy := claim c.val cs s.dec.busy } }) ∧
  (∀ (s : State) (c : Fin 128) (p : DecPic), (s.decCtx c.val).pic = some p → p.cores = [] →
    p.admitted = false → p.waited = true → decTakes s c.val = none → (decCores s c.val).2 ≠ 0 →
    exec (.decPictureStart c) s = .next s) ∧
  (∀ (s r v : State) (c : Fin 128) (p : DecPic) (x : DecCtx) (e n : Nat), x = s.decCtx c.val →
    x.pic = some p → p.cores ≠ [] → p.admitted = false →
    readMem .strainer (x.desc.ringBase + 32 * x.pos) 32 s = (.ok, leBytes 32 e, r) → e < 2 ^ 256 →
    entryBad x.desc e = true → bitAt e 96 = false → n = peekNat s x.desc.stateBase 4 →
    v = storeNat .strainer x.desc.stateBase 4 ((n + 1) % 2 ^ 32) r →
    exec (.decPictureStart c) s = .next { v with
      str := { v.str with
        admitted := (v.str.admitted + 1) % 2 ^ 32, refused := min 0xffffffff (v.str.refused + 1) }
      dec := { v.dec with ctxs := updAt v.dec.ctxs c.val fun _ => { x with
        pos := if x.pos ≥ x.desc.ringLenM1 then 0 else x.pos + 1, tainted := true, recover := []
        pic := some { p with
          picCount := n, pts := fld e 191 128, admitted := true, data := (fld e 47 0, fld e 95 64)
          eos := bitAt e 97, au := default, tookAt := s.up, code := 1 } } } }) ∧
  (∀ (s r v : State) (c : Fin 128) (p : DecPic) (x : DecCtx) (e n : Nat) (au : AuInfo)
    (us : List (List Byte × List (Nat × Nat))) (a : Admit × DecCtx) (w : DecCtx), x = s.decCtx c.val →
    x.pic = some p → p.cores ≠ [] → p.admitted = false → p.errs = [] →
    readMem .strainer (x.desc.ringBase + 32 * x.pos) 32 s = (.ok, leBytes 32 e, r) → e < 2 ^ 256 →
    entryBad x.desc e = false → bitAt e 96 = false → n = peekNat s x.desc.stateBase 4 →
    v = storeNat .strainer x.desc.stateBase 4 ((n + 1) % 2 ^ 32) r →
    readable v .strainer x.desc.stateBase 65536 = true →
    us = x.units ++ [(peek v (fld e 47 0) (fld e 95 64), [])] → au = Config.readUnit x.desc.codec us →
    a = admitAu ((decCores s c.val).2 != 0) au
      { x with pos := if x.pos ≥ x.desc.ringLenM1 then 0 else x.pos + 1, units := us } →
    w = afterAdmit a { p with
      picCount := n, pts := fld e 191 128, admitted := true, data := (fld e 47 0, fld e 95 64)
      eos := bitAt e 97, au := au, tookAt := s.up } →
    ∃ t, exec (.decPictureStart c) s = .next t ∧
      (a.1 ≠ .skip → t = { v with
        free := t.free, hbm := t.hbm
        str := { v.str with
          admitted := (v.str.admitted + 1) % 2 ^ 32
          refused := if (admitCode a.1).any (fun k => k ≤ 5 || k == 13) then
            min 0xffffffff (v.str.refused + 1) else v.str.refused }
        dec := { v.dec with
          ctxs := updAt v.dec.ctxs c.val fun _ => w
          busy := if (admitCode a.1).isNone then
            claim c.val (w.pic.elim [] fun q => q.cores) (freeCores c.val v.dec.busy) else v.dec.busy } }) ∧
      (a.1 = .skip → x.desc.fbCount ≠ 0 → t = bump32 .strainer (x.desc.stateBase + 0x14) { v with
        str := { v.str with admitted := (v.str.admitted + 1) % 2 ^ 32 }
        dec := { v.dec with ctxs := updAt v.dec.ctxs c.val fun _ => w } })) ∧
  (∀ (s r : State) (c : Fin 128) (p : DecPic) (x : DecCtx) (bs : List Byte), x = s.decCtx c.val →
    x.pic = some p → p.admitted = true → p.consumed = false → p.buf.isSome = true → s.badWords = [] →
    readMem (decSrc (p.cores.headD 0)) p.data.1 p.data.2 s = (.ok, bs, r) →
    exec (.decEntryConsumed c) s = .next
      (storeNat .strainer x.desc.consWb 8 ((x.cons + 1) % 65536) { r with dec := { s.dec with
        ctxs := updAt s.dec.ctxs c.val fun x => { x with
          cons := (x.cons + 1) % 65536, pic := some { p with consumed := true } } } })) ∧
  (∀ (s : State) (c : Fin 128) (p : DecPic) (x : DecCtx), x = s.decCtx c.val → x.pic = some p →
    p.admitted = true → p.consumed = false → p.buf = none →
    exec (.decEntryConsumed c) s = .next
      (storeNat .strainer x.desc.consWb 8 ((x.cons + 1) % 65536) { s with dec := { s.dec with
        ctxs := updAt s.dec.ctxs c.val fun x => { x with
          cons := (x.cons + 1) % 65536, pic := some { p with consumed := true } } } }))

/-- A core whose bins reach BIN_BUDGET × S_i / 8 stops at that block, and one that completes no block for
WDOG_TICKS is given up with a known-answer check: the rest of its blocks is concealed, with DEC_BUDGET
or DEC_WATCHDOG (R307 to R309). A picture that met nothing has its samples written, becomes the surrogate
and goes to the output queue, without a report unless REPORT_ALL asks for one (R298, R300, R313, R317).
Another is reported with its first code in decode order and its concealed samples (R316, R317). An entry
without a picture ends with a report of its code. -/
def Obligations.DecodePicturesEnd : Prop :=
  (∀ (s : State) (c : Fin 128) (core : Fin 8) (k n : Nat) (p : DecPic) (q : SeqInfo) (b : Block)
    (pre suf : List Block), (s.decCtx c.val).pic = some p → (s.decCtx c.val).seqInfo = some q →
    workAt p core.val = some k → coreBlocks p k = pre ++ b :: suf →
    n = cdiv ((s.decCtx c.val).desc.binBudget * shareOf q p k) 8 → (pre.map (·.bins)).sum < n →
    n ≤ (pre.map (·.bins)).sum + b.bins → (∀ d ∈ pre, blockAddr (posOf d) ≠ blockAddr (posOf b)) →
    exec (.decBudget c core) s = .next { s with dec := { s.dec with
      ctxs := updAt s.dec.ctxs c.val fun x => { x with pic := some { p with
        errs := p.errs ++ [{ code := 10, addr := blockAddr (posOf b), core := some core.val
                             blocks := (b :: suf).map posOf }]
        stopped := p.stopped ++ [(k, n)] } } } }) ∧
  (∀ (s : State) (c : Fin 128) (core : Fin 8) (k last : Nat) (p : DecPic) (b : Block) (pre suf : List Block),
    sized s = true → (s.decCtx c.val).pic = some p → workAt p core.val = some k →
    coreBlocks p k = pre ++ b :: suf → p.tookAt ≤ last →
    last + (if (s.decCtx c.val).desc.wdogTicks = 0 then 1100000 else (s.decCtx c.val).desc.wdogTicks) = s.up →
    s.dec.kat.getD core.val none = none → (∀ d ∈ pre, blockAddr (posOf d) ≠ blockAddr (posOf b)) →
    ∃ t, exec (.decWatchdog c core pre.length last) s = .next t ∧ errBit t .dec 8 = true ∧
      sansLog s t = { s with dec := { s.dec with
        kat := updAt s.dec.kat core.val fun _ => some (s.up + 2200000)
        ctxs := updAt s.dec.ctxs c.val fun x => { x with pic := some { p with
          errs := p.errs ++ [{ code := 11, addr := blockAddr (posOf b), core := some core.val
                               blocks := (b :: suf).map posOf }]
          stopped := p.stopped ++ [(k, (pre.map (·.bins)).sum)] } } } }) ∧
  (∀ (s v u : State) (c : Fin 128) (p : DecPic) (b : Nat) (q : SeqInfo) (x : DecCtx) (d : DecEnd) (n : Nat),
    x = s.decCtx c.val → x.pic = some p → p.buf = some b → x.seqInfo = some q → decReady s x p = true →
    p.code = 0 → x.desc.reportAll = false → x.wantDis = false → x.wantDisc = false → x.heldStart = none →
    x.tainted = false → rbit s.hif.acctLo 0 = false → x.dpbOut = [] → x.outq.length ≤ x.desc.outqM1 →
    n = x.units.length - 1 → p.au.outs = [n] → p.au.waits = [] →
    d = { errs := [], copied := [], lost := [], predicted := [] } → pictureEnd x q p s = (d, v) →
    writeAll (decSrc (p.cores.headD 0))
      (pictureRows (x.fbs.getD b {}) q.width q.height (picSample v x q p.au d 0)
          (fun k => picSample v x q p.au d (k + 1)) ++
        [((x.fbs.getD b {}).mvBase,
          (picMotion x q (x.fbs.getD b {}) d).take ((x.fbs.getD b {}).mvLines * 64))]) v = (.ok, u) →
    exec (.decPictureDone c) s = .next { u with dec := { u.dec with
      busy := freeCores c.val u.dec.busy
      ctxs := updAt u.dec.ctxs c.val fun x => { x with
        pic := none, surrogate := some { buf := b, w := q.width, h := q.height, depth := q.bitDepth }
        refs := (x.refs ++ [(n, b)]).filter fun r => p.au.keeps.contains r.1
        units := updAt x.units n fun y => (y.1, [])
        outq := x.outq ++ [{ buf := b, picCount := p.picCount, pts := p.pts, width := q.width
                             height := q.height, crop := p.au.crop, bitDepth := q.bitDepth
                             concealed := false, corrupt := false, name := some n }] } } }) ∧
  (∀ (s v u : State) (c : Fin 128) (p : DecPic) (b : Nat) (q : SeqInfo) (x : DecCtx) (d : DecEnd)
    (e : DecCut) (l : List DecCut),
    x = s.decCtx c.val → x.pic = some p → p.buf = some b → x.seqInfo = some q → decReady s x p = true →
    p.code = 0 → rbit s.hif.acctLo 0 = false → x.wantDis = false → x.wantDisc = false →
    x.heldStart = none → x.dpbOut = [] → x.outq.length ≤ x.desc.outqM1 → p.au.outs = [x.units.length - 1] →
    p.au.waits = [] → rbit (s.sptRing x.desc.statusRing).cfg 31 = true → p.startAt ≤ s.up →
    s.up < p.startAt + 2 ^ 32 → p.picCount < 2 ^ 32 → e.code ≤ 14 → e.addr < 2 ^ 32 →
    concealedOf q d < 2 ^ 32 → pictureEnd x q p s = (d, v) → d.errs = e :: l →
    writeAll (decSrc (p.cores.headD 0))
      (pictureRows (x.fbs.getD b {}) q.width q.height (picSample v x q p.au d 0)
          (fun k => picSample v x q p.au d (k + 1)) ++
        [((x.fbs.getD b {}).mvBase,
          (picMotion x q (x.fbs.getD b {}) d).take ((x.fbs.getD b {}).mvLines * 64))]) v = (.ok, u) →
    ∃ t, exec (.decPictureDone c) s = .next t ∧ t.mem = u.mem ∧ (t.decCtx c.val).pic = none ∧
      t.dec.busy = freeCores c.val u.dec.busy ∧
      reported t x.desc.statusRing [(0x10, 4, p.picCount), (0x14, 1, c.val), (0x15, 1, e.code),
        (0x20, 4, e.addr), (0x28, 4, concealedOf q d), (0x34, 4, s.up - p.startAt)] = true) ∧
  (∀ (s : State) (c : Fin 128) (p : DecPic) (x : DecCtx), x = s.decCtx c.val → x.pic = some p →
    p.admitted = true → p.consumed = true → p.buf = none → p.code ≠ 0 → p.code ≤ 14 → p.eos = false →
    rbit s.hif.acctLo 0 = false → x.wantDis = false → x.wantDisc = false → x.heldStart = none →
    rbit (s.sptRing x.desc.statusRing).cfg 31 = true → p.picCount < 2 ^ 32 →
    ∃ t, exec (.decPictureDone c) s = .next t ∧
      reported t x.desc.statusRing [(0x10, 4, p.picCount), (0x14, 1, c.val), (0x15, 1, p.code),
        (0x16, 2, 2 ^ p.code), (0x20, 4, 0xffffffff), (0x28, 4, 0)] = true ∧
      t = { s with
        spt := t.spt, free := s.free + 1
        dec := { s.dec with
          busy := freeCores c.val s.dec.busy
          ctxs := updAt s.dec.ctxs c.val fun x => { x with pic := none } } })

/-- ENABLE of an encode context gives the code of the first check that fails, with BAD_FB for the two
reconstruction buffers (R318). DISABLE acts at once or waits for the picture in progress; REFRESH_NOW makes
the next picture an IDR picture (R327). On a context that is not enabled both are BAD_STATE; while DONE is 0
a command is discarded and sets the invalid-programming bit. -/
def Obligations.EncodeContexts : Prop :=
  (∀ (s : State) (c : Fin 16) (d : Nat) (x : EncDesc) (raw : List Nat), barWr s = true →
    s.enc.cmd.done = true →
    readable s (encSrc 0) (pairAddr s.enc.tableLo s.enc.tableHi 6 + 64 * c.val) 64 = true →
    d = peekNat s (pairAddr s.enc.tableLo s.enc.tableHi 6 + 64 * c.val) 64 → x = parseEnc d →
    readable s (encSrc 0) x.reconTable 128 = true → raw = fbRaw s x.reconTable 2 →
    ∃ t, exec (.encEnable c) s = .next t ∧
      t.enc.cmd.code =
        (if encDescBad d then 1
         else if raw.any (fun f => fbBad f x.width x.height 0 false) then 2
         else if meets ([(x.outBase, x.outLines * 64), (x.consAddr, 8)] ++
            (raw.map parseFb).flatMap fbRegions) then 3
         else if (s.encCtx c.val).enabled then 4 else 0) ∧
      t.enc.cmd = { cmd := BitVec.ofNat 32 c.val, code := t.enc.cmd.code, done := true, ctx := c.val } ∧
      t = { s with hbm := t.hbm, enc := if t.enc.cmd.code = 0 then { s.enc with
          cmd := t.enc.cmd
          act := updAt s.enc.act c.val fun _ => BitVec.ofNat 32 (x.coreMask + x.span * 16)
          ctxs := updAt s.enc.ctxs c.val fun y =>
            { enabled := true, desc := x, recon := raw.map parseFb, picCount := y.picCount } }
        else { s.enc with cmd := t.enc.cmd } }) ∧
  (∀ (s : State) (c : Fin 16), barWr s = true → s.enc.cmd.done = true → (s.encCtx c.val).enabled = true →
    exec (.encDisable c) s = .next { s with enc := { s.enc with
      cmd := { cmd := BitVec.ofNat 32 (256 + c.val), code := 0, done := true, ctx := c.val }
      ctxs := updAt s.enc.ctxs c.val fun x => if x.pic.isSome then { x with wantDis := true }
        else { x with enabled := false, wantDis := false, held := [] } } }) ∧
  (∀ (s : State) (c : Fin 16), barWr s = true → s.enc.cmd.done = true → (s.encCtx c.val).enabled = true →
    exec (.refreshNow c) s = .next { s with enc := { s.enc with
      cmd := { cmd := BitVec.ofNat 32 (512 + c.val), code := 0, done := true, ctx := c.val }
      ctxs := updAt s.enc.ctxs c.val fun x => { x with idrNext := true } } }) ∧
  (∀ (s : State) (c : Fin 16) (i : Instr) (op : Nat),
    (i, op) ∈ [(Instr.encDisable c, 256), (.refreshNow c, 512)] → barWr s = true →
    s.enc.cmd.done = true → (s.encCtx c.val).enabled = false →
    exec i s = .next { s with enc := { s.enc with
      cmd := { cmd := BitVec.ofNat 32 (op + c.val), code := 4, done := true, ctx := c.val } } }) ∧
  (∀ (s : State) (c : Fin 16) (i : Instr), i ∈ [Instr.encEnable c, .encDisable c, .refreshNow c] →
    sized s = true → barWr s = true → s.enc.cmd.done = false →
    ∃ t, exec i s = .next t ∧ errBit t .enc 0 = true ∧ sansLog s t = s)

/-- ENCODE_START of an enabled PLANNED context takes the newest frame that it has not encoded, the next
picture number, a place in the output ring with MAX_PIC_BYTES free and the lowest-numbered free cores, or
waits for cores; behind a picture in progress it is held with its tick (R319, R320, R325, R328, R329). With
no such frame, or no place, the picture is skipped with ENC_NO_INPUT or ENC_RING_FULL (R319, R325). A
picture's end writes the access unit, which a function without a body gives, and the reconstruction, and
reports it; a failed core's picture ends without bytes as ENC_CORE_FAULT, and the next starts a refresh
period (R328, R333; log entries 76, 79). -/
def Obligations.Encoders : Prop :=
  (∀ (s u r : State) (c : Fin 16) (a : Action) (x : EncCtx) (f : EncSource) (off : Nat) (bs : List Byte)
    (free cs : List Nat), takeAction s 8 3 (fun a => a.target == c.val) = some (a, u) →
    x = s.encCtx c.val → x.enabled = true → x.desc.auto = false → x.pic = none → s.mgt.safe = false →
    s.mgt.quiesce = false → encSource s x = some f → (encCores s c.val).2 ≠ 0 →
    (∀ k < 16, ∀ q ∈ (s.encCtx k).pic, q.cores ≠ []) →
    readMem (encSrc 0) x.desc.consAddr 8 u = (.ok, bs, r) → encPlace x (leNat bs) = some off →
    free = (encCores s c.val).1.filter (encFree s) →
    cs = (if (encCores s c.val).2 ≤ free.length then free.take (encCores s c.val).2 else []) →
    exec (.encodeStart c) s = .next { r with
      csi := f.buf.elim s.csi fun b => { s.csi with
        chs := updAt s.csi.chs x.desc.srcStream fun h => { h with readers := b :: h.readers } }
      enc := { s.enc with
        busy := claim c.val cs s.enc.busy
        ctxs := updAt s.enc.ctxs c.val fun x => { x with
          picCount := (x.picCount + 1) % 2 ^ 32, idrNext := false, restart := false
          pic := some {
            startAt := s.up, picNo := x.picCount, pts := f.pts, srcSeq := f.seq, srcBuf := f.buf, fb := f.fb
            bad := f.bad, idr := x.idrNext || !x.hasRecon
            pos := if x.idrNext || !x.hasRecon || x.restart then 0 else x.pos
            offset := off, cores := cs
            owners := if cs = [] then [] else ownersOver cs.length (bandSizes x.desc) } } } }) ∧
  (∀ (s u r : State) (c : Fin 16) (a : Action) (x : EncCtx) (bs : List Byte) (code : Nat),
    takeAction s 8 3 (fun a => a.target == c.val) = some (a, u) →
    x = s.encCtx c.val → x.enabled = true → x.desc.auto = false → x.pic = none → s.mgt.safe = false →
    s.mgt.quiesce = false → rbit s.hif.acctLo 0 = false →
    rbit (s.sptRing x.desc.statusRing).cfg 31 = true → x.picCount < 2 ^ 32 →
    readMem (encSrc 0) x.desc.consAddr 8 u = (.ok, bs, r) →
    (encSource s x = none ∧ code = 3 ∨
      (encSource s x).isSome = true ∧ (encCores s c.val).2 ≠ 0 ∧ encPlace x (leNat bs) = none ∧ code = 2) →
    ∃ t, exec (.encodeStart c) s = .next t ∧
      reported t x.desc.statusRing [(0x10, 4, x.picCount), (0x14, 1, c.val), (0x15, 1, code),
        (0x24, 4, 0)] = true ∧
      t = { u with
        free := t.free, spt := t.spt, hbm := t.hbm
        enc := { s.enc with ctxs := updAt s.enc.ctxs c.val fun x => { x with
          picCount := (x.picCount + 1) % 2 ^ 32, past := x.past ++ [none] } } }) ∧
  (∀ (s u : State) (c : Fin 16) (a : Action), takeAction s 8 3 (fun a => a.target == c.val) = some (a, u) →
    (s.encCtx c.val).enabled = true → (s.encCtx c.val).desc.auto = false →
    (s.encCtx c.val).pic.isSome = true →
    exec (.encodeStart c) s = .next { u with enc := { s.enc with
      ctxs := updAt s.enc.ctxs c.val fun x => { x with held := x.held ++ [s.up] } } }) ∧
  (∀ (s u : State) (c : Fin 16) (a : Action), takeAction s 8 3 (fun a => a.target == c.val) = some (a, u) →
    ((s.encCtx c.val).enabled = false ∨ (s.encCtx c.val).desc.auto = true) →
    exec (.encodeStart c) s = .next u) ∧
  (∀ (s v : State) (c : Fin 16) (x : EncCtx) (p : EncPic) (res : EncResult) (w : Resp × State),
    x = s.encCtx c.val → x.pic = some p → p.cores ≠ [] → x.held = [] → x.wantDis = false →
    rbit s.hif.acctLo 0 = false → rbit (s.sptRing x.desc.statusRing).cfg 31 = true →
    (∀ k < 16, k ≠ c.val → ∀ q ∈ (s.encCtx k).pic, q.cores ≠ []) →
    readsFail (encSrc (p.cores.headD 0)) (encReads x p) s = (false, v) → res = encResult v x p →
    w = writeAll (encSrc (p.cores.headD 0)) ((x.desc.outBase + p.offset, res.au) :: res.rows) v →
    ∃ t, exec (.encPictureDone c) s = .next t ∧
      (w.1 = .ok →
        reported t x.desc.statusRing [(0x14, 1, c.val),
          (0x15, 1, if p.bad then 1 else if res.capped then 4 else 0)] = true ∧
        t = { w.2 with
          spt := t.spt
          csi := p.srcBuf.elim w.2.csi fun b => { w.2.csi with
            chs := updAt w.2.csi.chs x.desc.srcStream fun h => { h with readers := h.readers.erase b } }
          enc := { w.2.enc with
            busy := freeCores c.val w.2.enc.busy
            ctxs := updAt w.2.enc.ctxs c.val fun x => { x with
              pic := none, writeOff := p.offset + res.au.length, alt := 1 - x.alt, hasRecon := true
              lastSeq := some p.srcSeq, pos := (p.pos + 1) % max 1 x.desc.refresh
              past := x.past ++ [some (res.au.length, res.qp)] } } })) ∧
  (∀ (s : State) (k : Fin 4), sized s = true → s.mgt.encMap.length = 4 → encState s k.val = .ok →
    s.mgt.encSpares ≠ [] → s.enc.busy.getD k.val none = none →
    ∃ t, exec (.encCoreFault k) s = .next t ∧ errBit t .enc 9 = true ∧ encState t k.val = .fenced ∧
      t.mgt.encSpares = s.mgt.encSpares.tail ∧ t.mgt.takeover.length = s.mgt.takeover.length + 1 ∧
      t.flash.unsaved.length = s.flash.unsaved.length + 1 ∧ sansLog s t = { s with flash := t.flash }) ∧
  (∀ (s : State) (k : Fin 4) (c : Nat) (p : EncPic) (x : EncCtx), sized s = true →
    s.mgt.encMap.length = 4 → encState s k.val = .ok → s.enc.busy.getD k.val none = some c → c < 16 →
    x = s.encCtx c → x.pic = some p → x.held = [] → x.wantDis = false → rbit s.hif.acctLo 0 = false →
    rbit (s.sptRing x.desc.statusRing).cfg 31 = true → p.picNo < 2 ^ 32 → p.srcBuf = none →
    (∀ i < 16, i ≠ c → ∀ q ∈ (s.encCtx i).pic, q.cores ≠ []) →
    ∃ t, exec (.encCoreFault k) s = .next t ∧ errBit t .enc 9 = true ∧
      reported t x.desc.statusRing [(0x10, 4, p.picNo), (0x14, 1, c), (0x15, 1, 5), (0x24, 4, 0)] = true ∧
      t.encCtx c = { x with pic := none, restart := true, past := (t.encCtx c).past } ∧
      t.enc = { s.enc with ctxs := t.enc.ctxs, busy := freeCores c s.enc.busy } ∧
      (∀ i < 16, i ≠ c → t.encCtx i = s.encCtx i) ∧ t.mem = s.mem)

/-! ## Cameras and scalers (chapter 09) -/

/-- ENABLE of a capture channel gives the code of the first check that fails; DISABLE acts at once, discards
the frame in progress and frees the channel's frames; on a channel that is not enabled it is BAD_STATE
(R338, R339). While DONE is 0 a command is discarded and sets the invalid-programming bit. -/
def Obligations.CameraCommands : Prop :=
  (∀ (s : State) (c : Fin 16) (d : Nat) (x : CapDesc) (raw : List Nat), barWr s = true →
    s.csi.cmd.done = true →
    readable s .csi (pairAddr s.csi.tableLo s.csi.tableHi 6 + 64 * c.val) 64 = true →
    d = peekNat s (pairAddr s.csi.tableLo s.csi.tableHi 6 + 64 * c.val) 64 → x = parseCap d →
    readable s .csi x.fbTable (64 * x.fbCount) = true → raw = fbRaw s x.fbTable x.fbCount →
    ∃ t, exec (.csiEnable c) s = .next t ∧
      t.csi.cmd.code =
        (if capDescBad d ∨ (c.val % 2 = 1 ∧ rbit (s.csi.ports.getD (c.val / 2) 0) 0 = false) ∨
            areasMeet ((raw.map parseFb).flatMap fbRegions) (otherRegions s c.val) then 1
         else if raw.any (fun f => fbBad f x.width x.height (storedBytes x) false) ∨
            (raw.map parseFb).any (capWideBad x) then 2
         else if meets ((x.stateBase, 64) :: (raw.map parseFb).flatMap fbRegions) then 3
         else if (s.cap c.val).enabled then 4 else 0) ∧
      t.csi.cmd = { cmd := BitVec.ofNat 32 c.val, code := t.csi.cmd.code, done := true, ctx := c.val } ∧
      t = { s with hbm := t.hbm, csi := if t.csi.cmd.code = 0 then { s.csi with
          cmd := t.csi.cmd
          chs := updAt s.csi.chs c.val fun h =>
            { enabled := true, desc := x, fbs := raw.map parseFb, nextSeq := h.nextSeq, readers := h.readers } }
        else { s.csi with cmd := t.csi.cmd } }) ∧
  (∀ (s : State) (c : Fin 16), barWr s = true → s.csi.cmd.done = true → (s.cap c.val).enabled = true →
    exec (.csiDisable c) s = .next { s with csi := { s.csi with
      cmd := { cmd := BitVec.ofNat 32 (256 + c.val), code := 0, done := true, ctx := c.val }
      chs := updAt s.csi.chs c.val fun h =>
        { h with enabled := false, openF := none, latest := none, frameOut := none } } }) ∧
  (∀ (s : State) (c : Fin 16), barWr s = true → s.csi.cmd.done = true → (s.cap c.val).enabled = false →
    exec (.csiDisable c) s = .next { s with csi := { s.csi with
      cmd := { cmd := BitVec.ofNat 32 (256 + c.val), code := 4, done := true, ctx := c.val } } }) ∧
  (∀ (s : State) (c : Fin 16) (i : Instr), i ∈ [Instr.csiEnable c, .csiDisable c] → sized s = true →
    barWr s = true → s.csi.cmd.done = false →
    ∃ t, exec i s = .next t ∧ errBit t (.csi 0) 0 = true ∧ sansLog s t = s)

/-- A frame start opens a frame with the next SEQ, the present count and the lowest free buffer, or none,
which counts as dropped; one that comes while a frame is open completes that frame with RX_ERR first
(R340, R342 to R344). A line is written in its row, and its errors are kept in RX_ERR (R336, R340, R341). A
frame end completes the frame, with RX_ERR when lines are missing, and so does the timeout, which counts; the
completed frame is the channel's latest, and an AUTO encode context of a YUV420_8 channel with a picture in
progress holds a start for it (R319, R340, R343, R344). Packets of other virtual channels and types are
only counted, corrected headers are counted too, and an uncorrectable header sets RX_ERR (R337, R341, R344). -/
def Obligations.Cameras : Prop :=
  (∀ (s m : State) (c vc : Fin 16) (h : CapCh) (b : Option Nat), h = s.cap c.val → h.enabled = true →
    s.mgt.safe = false → vc.val = h.desc.vc → h.openF = none →
    b = (List.range h.desc.fbCount).find? (fun b => !capUsed h b) →
    m = bump32 .csi h.desc.stateBase { s with csi := { s.csi with chs := updAt s.csi.chs c.val fun h => { h with
      nextSeq := (h.nextSeq + 1) % 2 ^ 32
      openF := some { seq := h.nextSeq, pts := s.now, from_ := s.up, buf := b } } } } →
    exec (.csiFrameStart c vc .good) s =
      .next (if b.isNone then bump32 .csi (h.desc.stateBase + 8) m else m)) ∧
  (∀ (s : State) (c vc : Fin 16) (h : CapCh) (f : CapFrame), sized s = true → h = s.cap c.val →
    h.enabled = true → s.mgt.safe = false → vc.val = h.desc.vc → h.openF = some f → f.buf.isSome = true →
    ∃ t, exec (.csiFrameStart c vc .good) s = .next t ∧
      (t.cap c.val).latest = some { f with rxErr := true } ∧
      (t.cap c.val).openF.map (·.seq) = some h.nextSeq ∧ (t.cap c.val).openF.map (·.pts) = some s.now ∧
      (t.cap c.val).nextSeq = (h.nextSeq + 1) % 2 ^ 32) ∧
  (∀ (s : State) (c vc : Fin 16) (dt : Fin 64) (crcOk overflow : Bool) (pl : List Byte) (h : CapCh)
    (f : CapFrame) (b : Nat), h = s.cap c.val → h.enabled = true → s.mgt.safe = false →
    vc.val = h.desc.vc → dt.val = dataType h.desc.format → h.openF = some f → f.buf = some b →
    f.lines < h.desc.height →
    exec (.csiLine c vc dt .good crcOk overflow pl) s = .next
      (writeAll .csi (lineWrites h.desc (h.fbs.getD b {}) f.lines pl) { s with csi := { s.csi with
        chs := updAt s.csi.chs c.val fun h => { h with openF := some { f with
          lines := f.lines + 1
          rxErr := f.rxErr || !crcOk || overflow ||
            decide (pl.length ≠ sentBytes h.desc f.lines) } } } }).2) ∧
  (∀ (s v : State) (c vc : Fin 16) (h : CapCh) (f : CapFrame) (bad : Bool), h = s.cap c.val →
    h.enabled = true → s.mgt.safe = false → vc.val = h.desc.vc → h.openF = some f → f.buf.isSome = true →
    (h.desc.format = 0 → ∀ k < 16, (s.encCtx k).enabled = true → (s.encCtx k).desc.auto = true →
      (s.encCtx k).desc.srcStream ≠ c.val) →
    bad = (f.rxErr || decide (f.lines ≠ h.desc.height)) →
    v = (if bad then bump32 .csi (h.desc.stateBase + 4) s else s) →
    exec (.csiFrameEnd c vc .good) s = .next { v with csi := { s.csi with
      chs := updAt s.csi.chs c.val fun h => { h with openF := none, latest := some { f with rxErr := bad } } } }) ∧
  (∀ (s : State) (c vc : Fin 16) (h : CapCh) (f : CapFrame) (k : Nat), sized s = true → h = s.cap c.val →
    h.enabled = true → s.mgt.safe = false → s.mgt.quiesce = false → vc.val = h.desc.vc → h.openF = some f →
    f.buf.isSome = true → h.desc.format = 0 → k < 16 → (s.encCtx k).enabled = true →
    (s.encCtx k).desc.auto = true → (s.encCtx k).desc.srcStream = c.val → (s.encCtx k).pic.isSome = true →
    (∀ q ∈ (s.encCtx k).pic, q.cores ≠ []) →
    ∃ t, exec (.csiFrameEnd c vc .good) s = .next t ∧ (t.cap c.val).openF = none ∧
      t.encCtx k = { s.encCtx k with held := (s.encCtx k).held ++ [s.up] }) ∧
  (∀ (s v : State) (c : Fin 16) (h : CapCh) (f : CapFrame), h = s.cap c.val → h.openF = some f →
    f.buf.isSome = true → f.from_ + h.desc.timeout ≤ s.up → h.desc.format ≠ 0 →
    v = bump32 .csi (h.desc.stateBase + 4) (bump32 .csi (h.desc.stateBase + 0xc) s) →
    exec (.csiFrameTimeout c) s = .next { v with csi := { s.csi with
      chs := updAt s.csi.chs c.val fun h => { h with openF := none, latest := some { f with rxErr := true } } } }) ∧
  (∀ (s : State) (c vc : Fin 16) (dt : Fin 64) (crcOk overflow : Bool) (pl : List Byte) (i : Instr) (off : Nat),
    (s.cap c.val).enabled = true → s.mgt.safe = false →
    (i ∈ [Instr.csiFrameStart c vc .good, .csiLine c vc dt .good crcOk overflow pl, .csiFrameEnd c vc .good] ∧
        vc.val ≠ (s.cap c.val).desc.vc ∧ off = 0x14 ∨
      i = .csiLine c vc dt .good crcOk overflow pl ∧ vc.val = (s.cap c.val).desc.vc ∧
        dt.val ≠ dataType (s.cap c.val).desc.format ∧ off = 0x18) →
    exec i s = .next (bump32 .csi ((s.cap c.val).desc.stateBase + off) s)) ∧
  (∀ (s : State) (c vc : Fin 16) (dt : Fin 64) (crcOk overflow : Bool) (pl : List Byte) (i j : Instr),
    (s.cap c.val).enabled = true → s.mgt.safe = false →
    (i, j) ∈ [(Instr.csiFrameStart c vc .corrected, Instr.csiFrameStart c vc .good),
      (.csiLine c vc dt .corrected crcOk overflow pl, .csiLine c vc dt .good crcOk overflow pl),
      (.csiFrameEnd c vc .corrected, .csiFrameEnd c vc .good)] →
    exec i s = exec j (bump32 .csi ((s.cap c.val).desc.stateBase + 0x10) s)) ∧
  (∀ (s : State) (c vc : Fin 16) (dt : Fin 64) (crcOk overflow : Bool) (pl : List Byte) (i : Instr),
    (s.cap c.val).enabled = true → s.mgt.safe = false →
    i ∈ [Instr.csiFrameStart c vc .bad, .csiLine c vc dt .bad crcOk overflow pl, .csiFrameEnd c vc .bad] →
    exec i s = .next { s with csi := { s.csi with chs := updAt s.csi.chs c.val fun h =>
      { h with openF := h.openF.map fun f => { f with rxErr := true } } } })

/-- SCALE_START reads its command and takes the newest frame of its source, whose buffer it holds; without a
frame it goes on as NO_FRAME, a corrupt one as SRC_CORRUPT, and a command that breaks the rules or comes
to a stopped scaler takes no frame (R258, R358, R359, R362). A scaler that is in use leaves the action for
later (R359). -/
def Obligations.ScalerStarts : Prop :=
  (∀ (s u : State) (n : Fin 4) (a : Action) (w : Nat) (ws : List Nat) (x : Option SclSrc) (y : SclSrc),
    (s.sclUnit n.val).cmd = none → takeAction s 8 4 (fun a => a.target == n.val) = some (a, u) →
    readable s (.scaler n) a.arg64 64 = true → w = peekNat s a.arg64 64 →
    readable s (.scaler n) (a.arg64 + 64) (64 * min 17 (hCount w)) = true →
    ws = w :: (List.range (min 17 (hCount w))).map (fun i => peekNat s (a.arg64 + 64 * (i + 1)) 64) →
    sclStopped s n.val = false → sclCmdBad s ws = false → inHbmClu a.arg64 (64 * (hCount w + 1)) = true →
    shapeBad s ws = false → x = sclSource s w → x.all (fun y => !sourceBad ws y) = true →
    y = x.getD
      { fb := {}, bufNo := 0, seq := 0, pts := 0, crop := (0, 0, 0, 0), depth := 8, format := 8, con := false
        cor := false, rx := false
        stream := if hKind w = 0 then (s.decCtx (hSrc w)).desc.streamId else (s.cap (hSrc w)).desc.streamId } →
    ∃ t, exec (.scaleStart n) s = .next t ∧
      t.scl = { s.scl with units := updAt s.scl.units n.val fun v => { v with
        lastLo := BitVec.ofNat 32 a.arg64, lastHi := BitVec.ofNat 32 (a.arg64 / 2 ^ 32)
        cmd := some {
          addr := a.arg64, started := s.up
          status := if x.isNone then 2 else if y.cor || y.rx then 3 else 0
          capSrc := hKind w != 0, src := hSrc w, buf := x.map (·.fb), bufNo := y.bufNo, words := ws
          seq := y.seq, pts := y.pts, crop := y.crop, depth := y.depth, format := y.format
          flagCon := y.con, flagCor := y.cor, flagRx := y.rx, stream := y.stream
          steer := steerAt s (hSteer w), next := 0, doneMsk := 0 } } } ∧
      t = { u with
        hbm := t.hbm, scl := t.scl, clus := if hSaucer w = 0 then s.clus else t.clus
        dec := if x.isNone ∨ hKind w ≠ 0 then s.dec else { s.dec with
          ctxs := updAt s.dec.ctxs (hSrc w) fun z => { z with
            outq := z.outq.tail, reading := y.bufNo :: z.reading
            holds := if hKeep w && !z.holds.contains y.bufNo then y.bufNo :: z.holds else z.holds } }
        csi := if x.isNone ∨ hKind w = 0 then s.csi else { s.csi with
          chs := updAt s.csi.chs (hSrc w) fun h => { h with
            sclSeq := some y.seq, readers := y.bufNo :: h.readers } } }) ∧
  (∀ (s u : State) (n : Fin 4) (a : Action) (w st : Nat) (ws : List Nat), sized s = true →
    (s.sclUnit n.val).cmd = none → takeAction s 8 4 (fun a => a.target == n.val) = some (a, u) →
    readable s (.scaler n) a.arg64 64 = true → w = peekNat s a.arg64 64 →
    readable s (.scaler n) (a.arg64 + 64) (64 * min 17 (hCount w)) = true →
    ws = w :: (List.range (min 17 (hCount w))).map (fun i => peekNat s (a.arg64 + 64 * (i + 1)) 64) →
    (sclStopped s n.val = true ∧ st = 5 ∨
      sclStopped s n.val = false ∧ st = 1 ∧ (sclCmdBad s ws = true ∨
        inHbmClu a.arg64 (64 * (hCount w + 1)) = false ∨ shapeBad s ws = true ∨
        (sclSource s w).any (fun y => sourceBad ws y) = true)) →
    ∃ t, exec (.scaleStart n) s = .next t ∧ (t.sclUnit n.val).cmd.map (·.status) = some st ∧
      (t.sclUnit n.val).cmd.bind (·.buf) = none ∧ (t.sclUnit n.val).cmd.map (·.words) = some ws ∧
      (∀ k < 4, k ≠ n.val → t.sclUnit k = s.sclUnit k) ∧
      t = { u with hbm := t.hbm, scl := t.scl, clus := if hSaucer w = 0 then s.clus else t.clus }) ∧
  (∀ (s : State) (n : Fin 4), (s.sclUnit n.val).cmd.isSome = true → exec (.scaleStart n) s = .next s)

/-- An entry whose time is over is written, its sample's batch entry and bits with it, and sets its ENTRY_DONE
bit (R360, R365, R366). After the last entry the source is given back and the done record written; a
command without a frame, or with a corrupt one, reports its sample as dropped (R361, R368). A PRIV command
that ends with OK rings the doorbell of its binding; one whose binding is disabled ends CMD_INVALID (R369,
R627; that the end decides is the model's choice, log entry 75). An uncorrectable error in the line memory
ends a command and is logged (R362). -/
def Obligations.ScalerCommands : Prop :=
  (∀ (s u v : State) (n : Fin 4) (c : SclCmd) (e : Nat), (s.sclUnit n.val).cmd = some c → c.status ≠ 1 →
    c.status < 4 → c.next < hCount (sclHdr c) → c.started + ticksTo s c c.next ≤ s.up →
    ((sauIndex c).any (· ≤ c.next) && streamWaits s (sclHdr c)) = false →
    (hPriv (sclHdr c) = false ∨ c.status = 0) → e = sclEntry c c.next → eKind e ≠ 2 → s.badWords = [] →
    entryRun n.val c e 8192 s = (.ok, u) →
    v = (if eBatch e = 0 ∨ hPriv (sclHdr c) = true then u else
      (modify64 (.scaler n) (eBatch e) false
        (if c.status = 0 ∧ (entryImage c e).isSome then set64 (2 ^ eSlot e) else clear64 (2 ^ eSlot e))
        (modify64 (.scaler n) (eBatch e + 8) false (set64 (2 ^ eSlot e))
          (store (.scaler n) (eBatch e + 0x40 + 16 * eSlot e)
            (leBytes 8 c.pts ++ leBytes 4 c.seq ++ leBytes 2 c.stream ++
              leBytes 2 (b2n c.flagCon + 2 * b2n c.flagCor + 4 * b2n c.flagRx +
                8 * b2n (c.status = 0 && (entryImage c e).isNone) + 16 * b2n (c.status = 2))) u)).2).2) →
    exec (.scalerEntryDone n) s = .next { v with scl := { v.scl with
      units := updAt v.scl.units n.val fun x => { x with
        cmd := some { c with next := c.next + 1, doneMsk := c.doneMsk + 2 ^ c.next } } } }) ∧
  (∀ (s : State) (n : Fin 4) (c : SclCmd), (s.sclUnit n.val).cmd = some c →
    (c.status = 2 ∨ c.status = 3) → c.next < hCount (sclHdr c) → c.started + ticksTo s c c.next ≤ s.up →
    ((sauIndex c).any (· ≤ c.next) && streamWaits s (sclHdr c)) = false → hPriv (sclHdr c) = true →
    exec (.scalerEntryDone n) s = .next { s with scl := { s.scl with
      units := updAt s.scl.units n.val fun x => { x with
        cmd := some { c with next := c.next + 1, doneMsk := c.doneMsk + 2 ^ c.next } } } }) ∧
  (∀ (s v : State) (n : Fin 4) (c : SclCmd), (s.sclUnit n.val).cmd = some c → c.status = 0 →
    hCount (sclHdr c) ≤ c.next → hPriv (sclHdr c) = false → c.words ≠ [] → hSaucer (sclHdr c) = 0 →
    c.buf.isSome = true → c.capSrc = true → rbit s.hif.acctLo 0 = false →
    v = store (.scaler n) (hDone (sclHdr c))
      (leBytes 8 (fld (sclHdr c) 255 192) ++ leBytes 8 (c.doneMsk * 65536)) { s with csi := { s.csi with
        chs := updAt s.csi.chs c.src fun h => { h with readers := h.readers.erase c.bufNo } } } →
    exec (.scalerCmdDone n) s = .next { v with scl := { v.scl with units := updAt v.scl.units n.val fun x =>
      { x with cmd := none, commands := (x.commands + 1) % 2 ^ 32 } } }) ∧
  (∀ (s v : State) (n : Fin 4) (c : SclCmd) (r : List Rec), (s.sclUnit n.val).cmd = some c →
    (c.status = 2 ∨ c.status = 3) → hCount (sclHdr c) ≤ c.next → hPriv (sclHdr c) = false →
    c.words ≠ [] → hSaucer (sclHdr c) = 0 → c.buf = none → rbit s.hif.acctLo 0 = false →
    s.spt.arriving = [] → rbit (s.sptRing (hRing (sclHdr c))).cfg 31 = true →
    r = [{ who := 34 + n.val, ring := hRing (sclHdr c), cpl := false, tick := s.now
           bytes := recHead c.seq 7 0 c.stream 0 c.flagCon false false s.now ++ leBytes 8 c.pts ++
             leBytes 4 (c.status + n.val * 256 + b2n c.capSrc * 65536 + c.src * 2 ^ 24) ++ leBytes 4 0 ++
             leBytes 8 (eBatch ((c.words.tail.find? fun e => eBatch e != 0).getD (sclEntry c 0))) ++
             leBytes 8 (eSlot ((c.words.tail.find? fun e => eBatch e != 0).getD (sclEntry c 0))) ++
             List.replicate 16 0 }] →
    v = store (.scaler n) (hDone (sclHdr c))
      (leBytes 8 (fld (sclHdr c) 255 192) ++ leBytes 8 (c.status + c.doneMsk * 65536))
      { s with spt := { s.spt with arriving := r } } →
    exec (.scalerCmdDone n) s = .next { v with scl := { v.scl with units := updAt v.scl.units n.val fun x =>
      { x with cmd := none, commands := (x.commands + 1) % 2 ^ 32 } } }) ∧
  (∀ (s p v : State) (n : Fin 4) (c : SclCmd) (b : W32), (s.sclUnit n.val).cmd = some c → c.status = 0 →
    hCount (sclHdr c) ≤ c.next → hPriv (sclHdr c) = true → c.words ≠ [] → hSaucer (sclHdr c) = 0 →
    c.buf = none → rbit s.hif.acctLo 0 = false → b = s.scl.priv.getD (hPrivIdx (sclHdr c)) 0 →
    rbit b 31 = true → privFinish n.val c s = (.ok, p) →
    v = store (.scaler n) (hDone (sclHdr c))
      (leBytes 8 (fld (sclHdr c) 255 192) ++ leBytes 8 (256 + c.doneMsk * 65536))
      (validateMask (rfld b 7 0) (2 ^ rfld b 13 8) p) →
    exec (.scalerCmdDone n) s = .next { v with scl := { v.scl with units := updAt v.scl.units n.val fun x =>
      { x with cmd := none, commands := (x.commands + 1) % 2 ^ 32 } } }) ∧
  (∀ (s v : State) (n : Fin 4) (c : SclCmd), (s.sclUnit n.val).cmd = some c → c.status < 4 →
    c.status ≠ 1 → hCount (sclHdr c) ≤ c.next → hPriv (sclHdr c) = true → c.words ≠ [] →
    hSaucer (sclHdr c) = 0 → c.buf = none → rbit s.hif.acctLo 0 = false →
    rbit (s.scl.priv.getD (hPrivIdx (sclHdr c)) 0) 31 = false →
    v = store (.scaler n) (hDone (sclHdr c))
      (leBytes 8 (fld (sclHdr c) 255 192) ++ leBytes 8 (1 + c.doneMsk * 65536)) s →
    exec (.scalerCmdDone n) s = .next { v with scl := { v.scl with units := updAt v.scl.units n.val fun x =>
      { x with cmd := none, commands := (x.commands + 1) % 2 ^ 32 } } }) ∧
  (∀ (s : State) (n : Fin 4) (c : SclCmd), sized s = true → (s.sclUnit n.val).cmd = some c →
    c.words ≠ [] →
    ∃ t, exec (.scalerMemError n) s = .next t ∧ errBit t (.scl n) 3 = true ∧
      (t.sclUnit n.val).cmd = none ∧
      (t.sclUnit n.val).commands = ((s.sclUnit n.val).commands + 1) % 2 ^ 32 ∧
      (∀ k < 4, k ≠ n.val → t.sclUnit k = s.sclUnit k)) ∧
  (∀ (s r v : State) (n : Fin 4) (c : SclCmd), sized s = true → (s.sclUnit n.val).cmd = some c →
    c.status = 0 → hCount (sclHdr c) ≤ c.next → hPriv (sclHdr c) = true → c.words ≠ [] →
    hSaucer (sclHdr c) = 0 → c.buf = none → rbit s.hif.acctLo 0 = false →
    r = raise (.scl n) 3 none n.val s →
    v = store (.scaler n) (hDone (sclHdr c))
      (leBytes 8 (fld (sclHdr c) 255 192) ++ leBytes 8 (4 + c.doneMsk * 65536)) { r with free := r.free + 1 } →
    errBit r (.scl n) 3 = true ∧ sansLog s r = s ∧
    exec (.scalerMemError n) s = .next { v with scl := { v.scl with units := updAt v.scl.units n.val fun x =>
      { x with cmd := none, commands := (x.commands + 1) % 2 ^ 32 } } })

/-! ## Caddy and Spout (chapter 10) -/

/-- ENABLE of a partition gives the code of the first check that fails, and writes the mirrors when it
passes; DISABLE disables it; CLEAR zeroes the entries and starts identities anew (R376, R377, R379). Of a
partition that is not enabled, or was never, DISABLE and CLEAR are BAD_STATE. While a command runs each waits
for its boundary with DONE 0, and while DONE is 0 another is discarded and sets the invalid-programming bit
(R376). -/
def Obligations.CaddyPartitions : Prop :=
  (∀ (s r v : State) (p : Fin 256) (d code : Nat) (x : PartDesc), barWr s = true → s.cdy.now = none →
    s.cdy.cmd.done = true →
    readMem .caddy (pairAddr s.cdy.tableLo s.cdy.tableHi 6 + 64 * p.val) 64 s = (.ok, leBytes 64 d, r) →
    d < 2 ^ 512 → x = parsePart d →
    code = (if partBad d then 1
      else if meets (mirrors x) ∨ (∃ q : Fin 256, q ≠ p ∧ (s.cdyPart q.val).enabled = true ∧
          (overlaps x.base x.count (s.cdyPart q.val).desc.base (s.cdyPart q.val).desc.count = true ∨
           areasMeet (mirrors x) (mirrors (s.cdyPart q.val).desc) = true)) then 3
      else if (s.cdyPart p.val).enabled then 4 else 0) →
    v = (if code = 0 then
        (writeMirrors x { r with cdy := { s.cdy with
          cmd := { s.cdy.cmd with cmd := BitVec.ofNat 32 p.val }
          parts := updAt s.cdy.parts p.val fun y =>
            { enabled := true, known := true, desc := x, nextId := y.nextId } } }).2
      else r) →
    exec (.cdyPartEnable p) s = .next { v with cdy := { v.cdy with
      waitCmd := none, cmd := { cmd := BitVec.ofNat 32 p.val, code := code, done := true, ctx := p.val } } }) ∧
  (∀ (s : State) (p : Fin 256), barWr s = true → s.cdy.now = none → s.cdy.cmd.done = true →
    (s.cdyPart p.val).enabled = true →
    exec (.cdyPartDisable p) s = .next { s with cdy := { s.cdy with
      waitCmd := none, cmd := { cmd := BitVec.ofNat 32 (256 + p.val), code := 0, done := true, ctx := p.val }
      parts := updAt s.cdy.parts p.val fun y => { y with enabled := false } } }) ∧
  (∀ (s v : State) (p : Fin 256) (y : CdyPart), barWr s = true → s.cdy.now = none →
    s.cdy.cmd.done = true → y = s.cdyPart p.val → y.known = true →
    v = (writeMirrors y.desc { poke (entryAddr y.desc 0) (List.replicate (128 * y.desc.count) 0) s with
      cdy := { s.cdy with
        cmd := { s.cdy.cmd with cmd := BitVec.ofNat 32 (512 + p.val) }
        parts := updAt s.cdy.parts p.val fun z => { z with nextId := some z.desc.firstId } } }).2 →
    exec (.clear p) s = .next { v with cdy := { v.cdy with
      waitCmd := none
      cmd := { cmd := BitVec.ofNat 32 (512 + p.val), code := 0, done := true, ctx := p.val } } }) ∧
  (∀ (s : State) (p : Fin 256) (i : Instr) (op : Nat),
    (i, op) ∈ [(Instr.cdyPartDisable p, 256), (.clear p, 512)] → barWr s = true → s.cdy.now = none →
    s.cdy.cmd.done = true → (s.cdyPart p.val).enabled = false → (s.cdyPart p.val).known = false →
    exec i s = .next { s with cdy := { s.cdy with
      waitCmd := none
      cmd := { cmd := BitVec.ofNat 32 (op + p.val), code := 4, done := true, ctx := p.val } } }) ∧
  (∀ (s : State) (p : Fin 256) (i : Instr) (op : Nat),
    (i, op) ∈ [(Instr.cdyPartEnable p, 0), (.cdyPartDisable p, 1), (.clear p, 2)] → barWr s = true →
    s.cdy.now.isSome = true → s.cdy.cmd.done = true →
    exec i s = .next { s with cdy := { s.cdy with
      waitCmd := some (cmdWord op p.val)
      cmd := { s.cdy.cmd with cmd := BitVec.ofNat 32 (op * 256 + p.val), done := false } } }) ∧
  (∀ (s : State) (p : Fin 256) (i : Instr), i ∈ [Instr.cdyPartEnable p, .cdyPartDisable p, .clear p] →
    sized s = true → barWr s = true → s.cdy.cmd.done = false →
    ∃ t, exec i s = .next t ∧ errBit t .cdy 0 = true ∧ sansLog s t = s)

/-- Setting EN of a command ring zeroes it, and LEN_M1 is fixed while it is 1; a delivered producer count makes
commands pending with the attribute of its write, is ignored with the ring-overrun bit when it overruns the
ring, and ignored while EN is 0 (R259, R380, R382). The command of the next ring in turn starts at a
boundary: it reads its inputs, and what it will do is settled for the end of its time; one that breaks the
rules, or names a partition that is not enabled, ends with CMD_INVALID or PART_DISABLED at that time
(R381, R383, R384, R386 to R397; that those end at their normal time is the model's reading, log entry 80). -/
def Obligations.CaddyStarts : Prop :=
  (∀ (s : State) (n : Fin 8) (v : W32), barWr s = true → rbit (s.cdyRing n.val).cfg 31 = false →
    rbit v 31 = true →
    exec (.cdyCringCfgWrite n v) s = .next { s with cdy := { s.cdy with
      rings := updAt s.cdy.rings n.val fun r =>
        { r with cfg := v &&& 0x800000ff#32, cons := 0, prod := 0, pos := 0, fallb := [] } } }) ∧
  (∀ (s : State) (n : Fin 8) (v : W32), barWr s = true →
    (rbit v 31 = false ∨ rbit (s.cdyRing n.val).cfg 31 = true) →
    (rbit (s.cdyRing n.val).cfg 31 = false ∨ rfld (s.cdyRing n.val).cfg 7 0 = rfld v 7 0) →
    exec (.cdyCringCfgWrite n v) s = .next { s with cdy := { s.cdy with
      rings := updAt s.cdy.rings n.val fun r => { r with cfg := v &&& 0x800000ff#32 } } }) ∧
  (∀ (s : State) (n : Fin 8) (v : W32), sized s = true → barWr s = true →
    rbit (s.cdyRing n.val).cfg 31 = true → rfld (s.cdyRing n.val).cfg 7 0 ≠ rfld v 7 0 →
    ∃ t, exec (.cdyCringCfgWrite n v) s = .next t ∧ errBit t .cdy 0 = true ∧ sansLog s t = s) ∧
  (∀ (s : State) (n : Fin 8) (v k : Nat) (fb : Bool) (q : List (Nat × Bool)),
    (s.cdyRing n.val).dbPend = (v, fb) :: q → rbit (s.cdyRing n.val).cfg 31 = true →
    k = (v + 65536 - (s.cdyRing n.val).cons) % 65536 → k ≤ rfld (s.cdyRing n.val).cfg 7 0 + 1 →
    exec (.cdyDoorbell n) s = .next { s with cdy := { s.cdy with
      rings := updAt s.cdy.rings n.val fun r => { r with
        dbPend := q, prod := v, fallb := (r.fallb ++ List.replicate (k - r.fallb.length) fb).take k } } }) ∧
  (∀ (s : State) (n : Fin 8) (v : Nat) (fb : Bool) (q : List (Nat × Bool)), sized s = true →
    (s.cdyRing n.val).dbPend = (v, fb) :: q → rbit (s.cdyRing n.val).cfg 31 = true →
    rfld (s.cdyRing n.val).cfg 7 0 + 1 < (v + 65536 - (s.cdyRing n.val).cons) % 65536 →
    ∃ t, exec (.cdyDoorbell n) s = .next t ∧ errBit t .cdy 1 = true ∧
      sansLog s t = { s with cdy := { s.cdy with
        rings := updAt s.cdy.rings n.val fun r => { r with dbPend := q } } }) ∧
  (∀ (s : State) (n : Fin 8) (v : Nat) (fb : Bool) (q : List (Nat × Bool)),
    (s.cdyRing n.val).dbPend = (v, fb) :: q → rbit (s.cdyRing n.val).cfg 31 = false →
    exec (.cdyDoorbell n) s = .next { s with cdy := { s.cdy with
      rings := updAt s.cdy.rings n.val fun r => { r with dbPend := q } } }) ∧
  (∀ (s : State) (n w id : Nat) (x : PartDesc) (q : Sample) (dets es fin : List Nat) (a : Assoc),
    nextRing s = some n → cdyIdle s = true → s.badWords = [] → readable s .caddy (ringCmdAddr s n) 64 = true →
    w = peekNat s (ringCmdAddr s n) 64 → cOp w = 1 → cdyWordBad w = false →
    readable s .caddy (cBatch w) 64 = true → cdyBatchBad s w = false →
    (s.cdyPart (cPart w)).enabled = true → x = (s.cdyPart (cPart w)).desc →
    readable s .caddy (cBatch w + 0x40 + 16 * cSlot w) 16 = true → q = sampleOf s w →
    (∀ r ∈ cdyInputs x w q.valid, readable s .caddy r.1 r.2 = true) →
    es = (List.range x.count).map (fun i => peekNat s (entryAddr x i) 128) →
    id = (s.cdyPart (cPart w)).nextId.getD x.firstId → dets = (if q.valid then detections s w else []) →
    a = (if q.valid then associate s x w q.seq q.stream id dets es else { es := es, nextId := id }) →
    fin = a.es.map (fun e => if isLive e then predictEntry x q.valid e else e) →
    ∃ t, exec .update s = .next t ∧ t = { s with hbm := t.hbm, cdy := { s.cdy with
      lastRing := n
      now := some {
        due := s.up + (128 + 3 * x.count + 8 * cD w + cD w * cK w * (Nat.clog 2 (cD w * cK w) + 1))
        done := some (cDone w), value := fld w 511 448, status := if q.valid then 0 else 4
        created := a.made.length, deleted := a.dead.length, notCr := a.lost, ring := n
        plan := {
          part := some (cPart w), entries := fin, nextId := if q.valid then some a.nextId else none
          steer := if x.steerMax > 0 then some (steerSetOf x q.seq fin) else none
          ring := x.recRing, recs := if q.valid then updateRecords s x q w dets a else []
          seq := q.seq, stream := q.stream, ctx := cCtx w, con := q.con
          fb := (s.cdyRing n).fallb.headD false } } } }) ∧
  (∀ (s : State) (n w : Nat) (q : Sample), nextRing s = some n → cdyIdle s = true →
    readable s .caddy (ringCmdAddr s n) 64 = true → w = peekNat s (ringCmdAddr s n) 64 → cOp w = 2 →
    cdyWordBad w = false → readable s .caddy (cBatch w) 64 = true → cdyBatchBad s w = false →
    readable s .caddy (cBatch w + 0x40 + 16 * cSlot w) 16 = true → q = sampleOf s w →
    (∀ r ∈ cdyInputs {} w true, readable s .caddy r.1 r.2 = true) →
    ∃ t, exec .emit s = .next t ∧ t = { s with hbm := t.hbm, cdy := { s.cdy with
      lastRing := n
      now := some {
        due := s.up + (64 + 4 * cD w), done := some (cDone w), value := fld w 511 448, status := 0
        created := 0, deleted := 0, notCr := 0, ring := n
        plan := {
          ring := cRing w, seq := q.seq, stream := q.stream, ctx := cCtx w, con := q.con
          fb := (s.cdyRing n).fallb.headD false
          recs := ((detections s w).zipIdx.map fun z => objectRec q z.1 (fld z.1 63 0) z.2 0 false false 0) ++
            if cToken w ≠ 0 then
              (List.range (detections s w).length).map fun d => tokenRec s q w d 0 else [] } } } }) ∧
  (∀ (s : State) (n w : Nat) (i : Instr), nextRing s = some n → cdyIdle s = true →
    readable s .caddy (ringCmdAddr s n) 64 = true → w = peekNat s (ringCmdAddr s n) 64 →
    cDone w % 16 = 0 → inHbmClu (cDone w) 16 = true →
    (i = .update ∧ cOp w ≠ 2 ∨ i = .emit ∧ cOp w = 2) → cdyWordBad w = true →
    ∃ t, exec i s = .next t ∧ t = { s with hbm := t.hbm, cdy := { s.cdy with
      lastRing := n
      now := some {
        due := s.up + cmdTicks s w, done := some (cDone w), value := fld w 511 448, status := 1
        created := 0, deleted := 0, notCr := 0, ring := n } } }) ∧
  (∀ (s : State) (n w : Nat), nextRing s = some n → cdyIdle s = true →
    readable s .caddy (ringCmdAddr s n) 64 = true → w = peekNat s (ringCmdAddr s n) 64 → cOp w = 1 →
    cdyWordBad w = false → readable s .caddy (cBatch w) 64 = true → cdyBatchBad s w = false →
    (s.cdyPart (cPart w)).enabled = false →
    ∃ t, exec .update s = .next t ∧ t = { s with hbm := t.hbm, cdy := { s.cdy with
      lastRing := n
      now := some {
        due := s.up + cmdTicks s w, done := some (cDone w), value := fld w 511 448, status := 2
        created := 0, deleted := 0, notCr := 0, ring := n } } }) ∧
  (∀ (s : State) (i : Instr), i ∈ [Instr.update, .emit] → (nextRing s = none ∨ cdyIdle s = false) →
    exec i s = .next s)

/-- At the tick that ends a command's time, and at no other, its records are handed off, its entries, mirrors
and steering set are written, and then the done record with its counts; the ring moves on, and HALT or the
safe state takes effect (R379, R390 to R394, R416). What an UPDATE left: each entry reads as it settled, the
set it formed is the scaler's front set, and identities go on from its last one. An uncorrectable word of
the next command ends it at once with MEM_ERROR and without a done record, one of an entry that an UPDATE
reads makes that entry EMPTY and ends the command with MEM_ERROR, and one that no command reads waits
(R417). -/
def Obligations.CaddyEnds : Prop :=
  (∀ (s p v : State) (x : CdyNow) (a : Nat) (r : Resp), s.cdy.now = some x → s.up = x.due →
    x.done = some a → s.cdy.waitCmd = none → runPlan x.plan s = (r, p) →
    v = store .caddy a (leBytes 8 x.value ++ leBytes 8 ((if r = .ok then x.status else 3) +
      min 65535 x.created * 2 ^ 16 + min 65535 x.deleted * 2 ^ 32 + min 65535 x.notCr * 2 ^ 48)) p →
    exec .caddyDone s = .next { v with cdy := { v.cdy with
      now := none, halted := v.cdy.halted || haltOn s .cdy || s.mgt.safe
      rings := updAt v.cdy.rings x.ring fun r => { r with
        cons := (r.cons + 1) % 65536, pos := if r.pos ≥ rfld r.cfg 7 0 then 0 else r.pos + 1
        fallb := r.fallb.tail } } }) ∧
  (∀ (s : State) (x : CdyNow), s.cdy.now = some x → s.up ≠ x.due → exec .caddyDone s = .next s) ∧
  (∀ (s : State) (x : CdyNow) (p : Fin 256), s.cdy.now = some x → s.up = x.due → x.done = none → x.plan = {} →
    s.cdy.waitCmd = some (cmdWord 1 p.val) → (s.cdyPart p.val).enabled = true → haltOn s .cdy = false →
    s.mgt.safe = false →
    exec .caddyDone s = .next { s with cdy := { s.cdy with
      now := none, waitCmd := none
      cmd := { s.cdy.cmd with code := 0, done := true, ctx := p.val }
      parts := updAt s.cdy.parts p.val fun y => { y with enabled := false }
      rings := updAt s.cdy.rings x.ring fun r => { r with
        cons := (r.cons + 1) % 65536, pos := if r.pos ≥ rfld r.cfg 7 0 then 0 else r.pos + 1
        fallb := r.fallb.tail } } }) ∧
  (∀ (s : State) (x : CdyNow) (k : Nat) (y : PartDesc) (set : SteerSet), sized s = true →
    s.cdy.now = some x → s.up = x.due → s.cdy.waitCmd = none → x.plan.part = some k → k < 256 →
    y = (s.cdyPart k).desc → x.plan.entries.length = y.count → y.base + y.count ≤ 131072 →
    x.plan.steer = some set → y.steerSlot < s.scl.steer.length →
    ((mirrors y).all fun r => inHbmClu r.1 r.2) = true → (x.done.all fun a => inHbmClu a 16) = true →
    ∃ t, exec .caddyDone s = .next t ∧
      (∀ i < y.count, peekNat t (entryAddr y i) 128 = x.plan.entries.getD i 0 % 2 ^ 1024) ∧
      t.scl.steer.getD y.steerSlot {} =
        { front := set, back := (s.scl.steer.getD y.steerSlot {}).front, at_ := some s.up } ∧
      (t.cdyPart k).nextId = x.plan.nextId.or (s.cdyPart k).nextId ∧ t.cdy.now = none) ∧
  (∀ (s : State) (n : Nat) (a : BitVec 48), sized s = true → nextRing s = some n → cdyIdle s = true →
    s.badWords = [] → respRange s .caddy (ringCmdAddr s n) 64 = .ok → ringCmdAddr s n % 64 = 0 →
    ringCmdAddr s n ≤ a.toNat → a.toNat < ringCmdAddr s n + 64 → cOp (peekNat s (ringCmdAddr s n) 64) ≠ 2 →
    ∃ t, exec (.caddyMemError a) s = .next t ∧
      t.cdy = { s.cdy with
        lastRing := n
        now := some { due := s.up, done := none, value := 0, status := 3, created := 0, deleted := 0
                      notCr := 0, ring := n } } ∧
      sansLog s t = { s with badWords := t.badWords, hbm := t.hbm, cdy := t.cdy }) ∧
  (∀ (s : State) (n w i : Nat) (x : PartDesc) (a : BitVec 48), sized s = true → nextRing s = some n →
    cdyIdle s = true → s.badWords = [] → readable s .caddy (ringCmdAddr s n) 64 = true →
    w = peekNat s (ringCmdAddr s n) 64 → cOp w = 1 → cdyWordBad w = false →
    readable s .caddy (cBatch w) 64 = true → cdyBatchBad s w = false →
    (s.cdyPart (cPart w)).enabled = true → x = (s.cdyPart (cPart w)).desc →
    readable s .caddy (cBatch w + 0x40 + 16 * cSlot w) 16 = true →
    ((cdyInputs x w (sampleOf s w).valid).all fun r => readable s .caddy r.1 r.2) = true →
    x.base + x.count ≤ 131072 → i < x.count → entryAddr x i ≤ a.toNat → a.toNat < entryAddr x i + 128 →
    ∃ t, exec (.caddyMemError a) s = .next t ∧ errBit t .cdy 3 = true ∧
      fld (peekNat t (entryAddr x i) 128) 631 624 = 0 ∧
      t.cdy.now.map (·.status) = some 3 ∧ t.cdy.now.map (·.due) = some (s.up + cmdTicks s w) ∧
      t.cdy.now.bind (·.done) = some (cDone w) ∧ t.cdy.parts = s.cdy.parts ∧ t.spt = s.spt) ∧
  (∀ (s : State) (a : BitVec 48), (nextRing s = none ∨ cdyIdle s = false) →
    exec (.caddyMemError a) s = .next (spoil a.toNat s))

/-- A record enters the Spout's store after its tick unless its ring is off, the store is full or the ring
holds too much, and is then dropped and counted, with RING_DROP once a beat; a completion record takes one
of the 256 lines kept for them (R409 to R412). Records leave in hand-off order where their ring has room:
each line at PROD in the host's ring, a PAD line first where the record would straddle its end, one line
in 16 ticks, and PROD advances after the last (R404, R405, R413). -/
def Obligations.SpoutRecords : Prop :=
  (∀ (s : State) (q : Rec) (l : List Rec), s.spt.arriving = q :: l → q.tick ≠ s.now →
    ringOn (s.sptRing q.ring) = true →
    (if q.cpl then cplLines s < 256 else storeLines s + ringLines q ≤ 3840 ∧
      (heldLines s q.ring [q] ≤ ringHold (s.sptRing q.ring) ∨
        heldLines s q.ring [q] ≤ heldLines s q.ring [])) →
    exec .spoutHandoff s = .next { s with spt := { s.spt with arriving := l, store := s.spt.store ++ [q] } }) ∧
  (∀ (s : State) (q : Rec) (l : List Rec), sized s = true → s.spt.arriving = q :: l → q.tick ≠ s.now →
    q.ring < 64 →
    (ringOn (s.sptRing q.ring) = false ∨ q.cpl = false ∧ (3840 < storeLines s + ringLines q ∨
      ringHold (s.sptRing q.ring) < heldLines s q.ring [q] ∧
        heldLines s q.ring [] < heldLines s q.ring [q])) →
    ∃ t, exec .spoutHandoff s = .next t ∧
      ((s.sptRing q.ring).dropBeat ≠ some s.beat → intBit t .spt 8 = true) ∧
      sansInt s t = { s with spt := { s.spt with
        arriving := l, dropPend := s.spt.dropPend ||| BitVec.ofNat 64 (2 ^ q.ring)
        rings := updAt s.spt.rings q.ring fun r =>
          { r with dropped := min 65535 (r.dropped + 1), dropBeat := some s.beat } } }) ∧
  (∀ (s : State) (q : Rec) (l : List Rec), s.spt.arriving = q :: l →
    (q.tick = s.now ∨ ringOn (s.sptRing q.ring) = true ∧ q.cpl = true ∧ 256 ≤ cplLines s) →
    exec .spoutHandoff s = .next s) ∧
  (∀ (s : State) (q : Rec) (r : SptRing), busOpen s = true → s.spt.part = 0 → s.spt.waitCpl = [] →
    (s.spt.lastIssue.all fun t => t + 16 ≤ s.up) = true → nextRec s [] s.spt.store = some q →
    r = s.sptRing q.ring → ringLines q = 1 → q.ring < 64 →
    exec .spoutLineIssue s = .next { s with
      link := s.link ++
        [.memWrite (ringBase r + 64 * (r.prod % ringSize r)) (q.bytes.take 64) false]
      spt := { s.spt with
        store := s.spt.store.erase q, partAt := none, lastIssue := some s.up
        rings := updAt s.spt.rings q.ring fun r => { r with
          prod := (r.prod + 1) % 2 ^ 32, unsig := r.unsig + 1, wbAt := r.wbAt.or (some s.up)
          unsigAt := r.unsigAt.or (some s.up) } } }) ∧
  (∀ (s : State) (q : Rec) (l : List Rec) (r : SptRing), busOpen s = true → s.spt.part = 0 →
    (s.spt.lastIssue.all fun t => t + 16 ≤ s.up) = true → s.spt.store = q :: l →
    nextRec s [] s.spt.store = some q → r = s.sptRing q.ring → 1 < ringLines q →
    exec .spoutLineIssue s = .next { s with
      link := s.link ++ [if ringLines q ≤ ringSize r - r.prod % ringSize r
        then .memWrite (ringBase r + 64 * (r.prod % ringSize r)) (q.bytes.take 64) false
        else .memWrite (ringBase r + 64 * (r.prod % ringSize r))
          (leBytes 4 0 ++ leBytes 4 (16 + (ringSize r - r.prod % ringSize r - 1) * 65536) ++ leBytes 4 0 ++
            leBytes 4 s.now ++ List.replicate 48 0) false]
      spt := { s.spt with
        part := 1, partAt := s.spt.partAt.or (some s.up), lastIssue := some s.up
        rings := updAt s.spt.rings q.ring fun r => { r with unsigAt := r.unsigAt.or (some s.up) } } }) ∧
  (∀ (s : State) (q : Rec) (l : List Rec) (r : SptRing) (k : Nat), busOpen s = true → s.spt.waitCpl = [] →
    (s.spt.lastIssue.all fun t => t + 16 ≤ s.up) = true → s.spt.store = q :: l → s.spt.part = k → k ≠ 0 →
    r = s.sptRing q.ring → ringLines q ≤ ringSize r - r.prod % ringSize r → k + 1 = ringLines q →
    exec .spoutLineIssue s = .next { s with
      link := s.link ++
        [.memWrite (ringBase r + 64 * ((r.prod + k) % ringSize r)) ((q.bytes.drop (64 * k)).take 64) false]
      spt := { s.spt with
        store := l, part := 0, partAt := none, lastIssue := some s.up
        rings := updAt s.spt.rings q.ring fun r => { r with
          prod := (r.prod + ringLines q) % 2 ^ 32, unsig := r.unsig + ringLines q
          wbAt := r.wbAt.or (some s.up), unsigAt := r.unsigAt.or (some s.up) } } }) ∧
  (∀ s : State, (busOpen s = false ∨ ∃ t ∈ s.spt.lastIssue, s.up < t + 16) →
    exec .spoutLineIssue s = .next s)

/-- A write-back posts PROD and the drop count, and the message of a ring follows it once INT_LINES lines
are unsignalled; it follows INT_BEATS after the first line not yet signalled, and a flush of the ring or of
every ring (R407, R408). While the bus is closed a flush waits with its write-back. A write of CONS inside
the lines written and not consumed moves it; any other is ignored and sets CONS_BAD (R406). Setting EN of a
ring starts it empty with a write-back; a size outside 6 to 16 or a HOLD_MAX above 4,096 keeps the field and
sets the invalid-programming bit; while EN is 1 another size discards the write; clearing EN discards and
counts every record held for the ring (R403, R412). -/
def Obligations.SpoutSignals : Prop :=
  (∀ (s : State) (n : Fin 64) (r : SptRing), r = s.sptRing n.val → ringOn r = true → r.wbAt.isSome = true →
    busOpen s = true → (ringInt r = false ∨ r.unsig < rfld r.coal 15 0 ∧ r.flush = false) →
    exec (.spoutWriteback n) s = .next { s with
      link := s.link ++
        [.memWrite (ringWb r) (leBytes 4 r.prod ++ leBytes 2 r.dropped ++ leBytes 2 0) false]
      spt := { s.spt with rings := updAt s.spt.rings n.val fun r => { r with wbAt := none } } }) ∧
  (∀ (s : State) (n : Fin 64) (r : SptRing), r = s.sptRing n.val → ringOn r = true → r.wbAt.isSome = true →
    busOpen s = true → ringInt r = true → rfld r.coal 15 0 ≤ r.unsig → s.spt.part = 0 → s.spt.partAt = none →
    vecOpen s (rfld r.cfg 15 8) = true →
    exec (.spoutWriteback n) s = .next { s with
      link := s.link ++
        [.memWrite (ringWb r) (leBytes 4 r.prod ++ leBytes 2 r.dropped ++ leBytes 2 0) false]
      hif := { s.hif with msixReq := s.hif.msixReq ++ [rfld r.cfg 15 8] }
      spt := { s.spt with rings := updAt s.spt.rings n.val fun r =>
        { r with wbAt := none, unsig := 0, unsigAt := none, flush := false } } }) ∧
  (∀ (s : State) (n : Fin 64) (r : SptRing) (a : Nat), r = s.sptRing n.val → ringOn r = true →
    ringInt r = true → rfld r.coal 31 16 ≠ 0 → busOpen s = true → r.unsigAt = some a → r.unsig ≠ 0 →
    a + rfld r.coal 31 16 * 1100 ≤ s.up → s.spt.partAt = none → vecOpen s (rfld r.cfg 15 8) = true →
    exec (.spoutIntBeatsExpiry n) s = .next { s with
      link := s.link ++
        [.memWrite (ringWb r) (leBytes 4 r.prod ++ leBytes 2 r.dropped ++ leBytes 2 0) false]
      hif := { s.hif with msixReq := s.hif.msixReq ++ [rfld r.cfg 15 8] }
      spt := { s.spt with rings := updAt s.spt.rings n.val fun r =>
        { r with wbAt := none, unsig := 0, unsigAt := none, flush := false } } }) ∧
  (∀ (s u : State) (f : Fin 256) (a : Action) (r : SptRing), f.val < 64 →
    takeAction s 8 6 (fun a => a.target == f.val) = some (a, u) → r = s.sptRing f.val → ringOn r = true →
    busOpen s = true → ringInt r = true → r.unsig ≠ 0 → s.spt.partAt = none →
    vecOpen s (rfld r.cfg 15 8) = true →
    exec (.spoutFlush f) s = .next { u with
      link := s.link ++
        [.memWrite (ringWb r) (leBytes 4 r.prod ++ leBytes 2 r.dropped ++ leBytes 2 0) false]
      hif := { s.hif with msixReq := s.hif.msixReq ++ [rfld r.cfg 15 8] }
      spt := { s.spt with rings := updAt s.spt.rings f.val fun r =>
        { r with wbAt := none, unsig := 0, unsigAt := none, flush := false } } }) ∧
  (∀ (s u : State) (a : Action), sized s = true → takeAction s 8 6 (fun a => a.target == 255) = some (a, u) →
    busOpen s = true → (∀ n < 64, ringInt (s.sptRing n) = false ∨ (s.sptRing n).unsig = 0) →
    exec (.spoutFlush 255) s = .next { u with
      link := s.link ++ ((List.range 64).filter fun n => ringOn (s.sptRing n)).map fun n =>
        .memWrite (ringWb (s.sptRing n))
          (leBytes 4 (s.sptRing n).prod ++ leBytes 2 (s.sptRing n).dropped ++ leBytes 2 0) false
      spt := { s.spt with rings := s.spt.rings.map fun r => if ringOn r then { r with wbAt := none } else r } }) ∧
  (∀ (s u : State) (f : Fin 256) (a : Action) (r : SptRing), f.val < 64 →
    takeAction s 8 6 (fun a => a.target == f.val) = some (a, u) → r = s.sptRing f.val → ringOn r = true →
    busOpen s = false → ringInt r = true → r.unsig ≠ 0 →
    exec (.spoutFlush f) s = .next { u with spt := { s.spt with
      rings := updAt s.spt.rings f.val fun r =>
        { r with wbAt := r.wbAt.or (some s.up), flush := true } } }) ∧
  (∀ (s : State) (n : Fin 64) (v : W32) (r : SptRing), barWr s = true → r = s.sptRing n.val →
    exec (.sptRingConsWrite n v) s = .next { s with spt := { s.spt with
      rings := updAt s.spt.rings n.val fun r =>
        if ringUsed r.prod v.toNat ≤ ringSize r ∧ ringUsed v.toNat r.cons ≤ ringUsed r.prod r.cons
        then { r with cons := v.toNat } else { r with consBad := true } } }) ∧
  (∀ (s : State) (n : Fin 64) (v : W32) (r : SptRing), barWr s = true → r = s.sptRing n.val →
    ringOn r = false → rbit v 31 = true → 6 ≤ rfld v 4 0 → rfld v 4 0 ≤ 16 → rfld v 28 16 ≤ 4096 →
    busOpen s = true →
    exec (.sptRingCfgWrite n v) s = .next { s with
      link := s.link ++ [.memWrite (ringWb r) (leBytes 4 0 ++ leBytes 2 r.dropped ++ leBytes 2 0) false]
      spt := { s.spt with rings := updAt s.spt.rings n.val fun r => { r with
        cfg := mergeBits 0xdfffff1f#32 r.cfg v, prod := 0, cons := 0, unsig := 0, unsigAt := none
        flush := false, wbAt := none } } }) ∧
  (∀ (s : State) (n : Fin 64) (v : W32), sized s = true → barWr s = true →
    ringOn (s.sptRing n.val) = true → rfld (s.sptRing n.val).cfg 4 0 ≠ rfld v 4 0 →
    ∃ t, exec (.sptRingCfgWrite n v) s = .next t ∧ errBit t .spt 0 = true ∧ sansLog s t = s) ∧
  (∀ (s : State) (n : Fin 64) (v : W32), sized s = true → barWr s = true →
    ringOn (s.sptRing n.val) = false → rbit v 31 = false → (rfld v 4 0 < 6 ∨ 16 < rfld v 4 0) →
    rfld v 28 16 ≤ 4096 →
    ∃ t, exec (.sptRingCfgWrite n v) s = .next t ∧ errBit t .spt 0 = true ∧
      sansLog s t = { s with spt := { s.spt with rings := updAt s.spt.rings n.val fun r => { r with
        cfg := mergeBits 0xdfffff00#32 r.cfg v } } }) ∧
  (∀ (s : State) (n : Fin 64) (v : W32) (r : SptRing), sized s = true → barWr s = true →
    r = s.sptRing n.val → ringOn r = true → rbit v 31 = false → rfld v 4 0 = rfld r.cfg 4 0 →
    6 ≤ rfld v 4 0 → rfld v 4 0 ≤ 16 → rfld v 28 16 ≤ 4096 → s.spt.waitCpl = [] → r.dropped ≤ 65535 →
    ∃ t, exec (.sptRingCfgWrite n v) s = .next t ∧
      t.spt.store = s.spt.store.filter (·.ring ≠ n.val) ∧
      t.spt.arriving = s.spt.arriving.filter (·.ring ≠ n.val) ∧
      t.sptRing n.val = { r with
        cfg := mergeBits 0xdfffff1f#32 r.cfg v, unsig := 0, unsigAt := none, flush := false, wbAt := none
        dropBeat := (t.sptRing n.val).dropBeat
        dropped := min 65535 (r.dropped +
          ((s.spt.store ++ s.spt.arriving).filter (·.ring == n.val)).length) } ∧
      (∀ k < 64, k ≠ n.val → t.sptRing k = s.sptRing k) ∧ sansInt s t = { s with spt := t.spt }) ∧
  (∀ (s : State) (n : Fin 64) (v : W32) (r : SptRing), barWr s = true → r = s.sptRing n.val →
    ringOn r = rbit v 31 → (ringOn r = true → rfld v 4 0 = rfld r.cfg 4 0) → 6 ≤ rfld v 4 0 →
    rfld v 4 0 ≤ 16 → rfld v 28 16 ≤ 4096 →
    exec (.sptRingCfgWrite n v) s = .next { s with spt := { s.spt with
      rings := updAt s.spt.rings n.val fun r => { r with cfg := mergeBits 0xdfffff1f#32 r.cfg v } } })

/-! ## Memory and mesh (chapter 12) -/

/-- HBM_CFG takes a map of 0 to 2 while LOCK is clear; LOCK can only be set; while it is set a write of the
same map changes nothing and one of another map is discarded as invalid programming; map 3 keeps the map
(R13, R461, R462). A retraining window opens at tick 0 of its beat for the next pseudo-channel, and at no
other tick; it ends two beats later with a new latency, or with the failure counted and logged (R472 to
R474). ENTER is taken while the plan is STOPPED and no job is ACTIVE, otherwise it is invalid programming;
self-refresh begins at a beat that is a multiple of 3 with the queues drained, and loses only the banks it
does not retain; EXIT leaves it and refresh resumes at the next such beat; each ends with SR_DONE's
interrupt bit, and while one is BUSY both are ignored (R475 to R477). That what is lost takes free values,
and that the latencies after training do, is how the model leaves them open (log entries 3 and 12). -/
def Obligations.HbmMapAndRetraining : Prop :=
  (∀ (s : State) (v : W32), barWr s = true → s.hbm.lock = false → rfld v 1 0 ≠ 3 →
    exec (.hbmCfgWrite v) s = .next { s with hbm := { s.hbm with map := rfld v 1 0, lock := rbit v 31 } }) ∧
  (∀ (s : State) (v : W32), barWr s = true → s.hbm.lock = true → rfld v 1 0 = s.hbm.map → rfld v 1 0 ≠ 3 →
    exec (.hbmCfgWrite v) s = .next s) ∧
  (∀ (s : State) (v : W32), sized s = true → barWr s = true → s.hbm.lock = true → rfld v 1 0 ≠ s.hbm.map →
    ∃ t, exec (.hbmCfgWrite v) s = .next t ∧ errBit t .hbm 0 = true ∧ sansLog s t = s) ∧
  (∀ (s : State) (v : W32), sized s = true → barWr s = true → s.hbm.lock = false → rfld v 1 0 = 3 →
    ∃ t, exec (.hbmCfgWrite v) s = .next t ∧ errBit t .hbm 0 = true ∧
      sansLog s t = { s with hbm := { s.hbm with lock := rbit v 31 } }) ∧
  (∀ s : State, rbit s.hbm.retrain 0 = true → (s.ktl.planState = .running ∨ s.ktl.planState = .stopping) →
    s.ktl.cycleNo % (rfld s.hbm.retrain 30 23 + 1) = 0 → rfld s.hbm.retrain 22 1 + 2 ≤ s.ktl.cycleLen →
    s.now = s.ktl.cycleStart + rfld s.hbm.retrain 22 1 * 1100 → (∀ w ∈ s.hbm.window, w.2 ≤ s.up) →
    hbmRefuses s = false →
    exec .hbmRetrainWindow s = .next { s with hbm := { s.hbm with
      window := some (s.hbm.nextPc, s.up + 2200), nextPc := (s.hbm.nextPc + 1) % 32 } }) ∧
  (∀ s : State, (rbit s.hbm.retrain 0 = false ∨ s.ktl.planState = .stopped ∨
      s.ktl.cycleNo % (rfld s.hbm.retrain 30 23 + 1) ≠ 0 ∨ s.ktl.cycleLen < rfld s.hbm.retrain 22 1 + 2 ∨
      s.now ≠ s.ktl.cycleStart + rfld s.hbm.retrain 22 1 * 1100 ∨ hbmRefuses s = true) →
    exec .hbmRetrainWindow s = .next s) ∧
  (∀ (s : State) (pc lat : Nat), s.hbm.window = some (pc, s.up) →
    exec (.hbmRetrainDone true lat) s = .next { s with hbm := { s.hbm with
      window := none, lastFail := false, fifoLat := updAt s.hbm.fifoLat pc fun _ => lat } }) ∧
  (∀ (s : State) (pc lat : Nat), sized s = true → s.hbm.window = some (pc, s.up) →
    ∃ t, exec (.hbmRetrainDone false lat) s = .next t ∧ errBit t .hbm 10 = true ∧
      sansLog s t = { s with hbm := { s.hbm with
        window := none, lastFail := true, fails := min 65535 (s.hbm.fails + 1) } }) ∧
  (∀ (s : State) (b : Bool) (lat : Nat), (∀ w ∈ s.hbm.window, w.2 ≠ s.up) →
    exec (.hbmRetrainDone b lat) s = .next s) ∧
  (∀ (s : State) (v : W32), barWr s = true → s.ktl.planState = .stopped → anyActive s = false →
    srBusy s = false → s.hbm.inSr = false →
    exec (.enter v) s = .next { s with hbm := { s.hbm with keep := rfld v 5 0, entering := some s.up } }) ∧
  (∀ (s : State) (v : W32), sized s = true → barWr s = true → srBusy s = false →
    (s.ktl.planState ≠ .stopped ∨ anyActive s = true) →
    ∃ t, exec (.enter v) s = .next t ∧ errBit t .hbm 0 = true ∧ sansLog s t = s) ∧
  (∀ (s : State) (v : W32) (i : Instr), barWr s = true → srBusy s = true → i ∈ [Instr.enter v, .exit v] →
    exec i s = .next { s with hbm := { s.hbm with keep := rfld v 5 0 } }) ∧
  (∀ (s : State) (a : Nat), sized s = true → s.hbm.entering = some a → a < s.up →
    s.now % 3300 = 0 → (∀ q ∈ s.hbm.queue, q.1 ≤ s.up) →
    ∃ t, exec .srEntry s = .next t ∧ intBit t .hbm 8 = true ∧
      memKept s t (fun k => k < hbmEnd ∧ keptBanks s.hbm.keep (bankOf k).1 ≤ (bankOf k).2) ∧
      sansInt s t = { s with
        mem := t.mem, free := t.free
        badWords := s.badWords.filter fun k =>
          !(k < hbmEnd && keptBanks s.hbm.keep (bankOf k).1 ≤ (bankOf k).2)
        hbm := { s.hbm with entering := none, inSr := true } }) ∧
  (∀ s : State, (s.hbm.entering = none ∨ s.now % 3300 ≠ 0 ∨ ∃ q ∈ s.hbm.queue, s.up < q.1) →
    exec .srEntry s = .next s) ∧
  (∀ (s : State) (v : W32), barWr s = true → s.hbm.inSr = true → srBusy s = false → rbit v 8 = false →
    exec (.exit v) s = .next { s with hbm := { s.hbm with keep := rfld v 5 0, exiting := some s.up } }) ∧
  (∀ (s : State) (a : Nat), sized s = true → s.hbm.exiting = some a → a < s.up →
    ∃ t, exec .srDone s = .next t ∧ intBit t .hbm 8 = true ∧
      sansInt s t = { s with
        free := s.free + 32, ktl := { s.ktl with resumeBeat := (s.beat / 3 + 1) * 3 }
        hbm := { s.hbm with
          exiting := none, inSr := false
          fifoLat := (List.range 32).map fun i => (Config.freeValue (s.free + i)).toNat } }) ∧
  (∀ s : State, s.hbm.exiting = none → exec .srDone s = .next s)
/-- A write of one line under its mask, and then a read of the line, answer OK with the written bytes
where the mask is set and the old ones elsewhere; no other byte changes (R191, R463, R464, R496). An indivisible
operation adds, sets or clears bits of the 64-bit word of its address, and changes no other byte (R465). Each
locks the HBM map when it reaches HBM from any agent but the management controller (R462). -/
def Obligations.MemoryOperations : Prop :=
  (∀ (s : State) (src : Src) (a : BitVec 48) (mask : W64) (data : List Byte) (l : Nat),
    l = a.toNat / 64 * 64 → s.badWords = [] →
    s.hbm.window = none → s.ktl.refreshed ≠ some s.beat → respRange s src l 64 = .ok →
    (src = .bar2 → ∀ i < 64, inPart s (l + i) = false) →
    ∃ t u, exec (.memWrite src a mask data .clean) s = .next t ∧ exec (.memRead src a 1 .clean) t = .next u ∧
      t.resp = [0] ∧
      u.resp = 0 :: (List.range 64).map (fun i =>
        if mask.getLsbD i then data.getD i 0 else memGet s.mem (physKey s (l + i))) ∧
      memKept s t (fun k => ∃ i : Fin 64, mask.getLsbD i.val = true ∧ k = physKey s (l + i.val)) ∧
      (mask ≠ 0 → t.hbm.lock = (s.hbm.lock || (decide (regionOf l = .hbm) && src != .mgmt))) ∧
      sansMem s t = s ∧ u = { t with resp := u.resp, hbm := { t.hbm with lock := u.hbm.lock } }) ∧
  (∀ (s : State) (src : Src) (a : BitVec 48) (v : W64) (i : Instr) (w x : Nat), w = a.toNat / 8 * 8 →
    s.badWords = [] → s.hbm.window = none → s.ktl.refreshed ≠ some s.beat →
    respRange s src (a.toNat / 64 * 64) 64 = .ok → (src = .bar2 → inPart s w = false) →
    x = peekNat s w 8 →
    i ∈ [Instr.memAdd src a v .clean, .memBitSet src a v .clean, .memBitClear src a v .clean] →
    ∃ t, exec i s = .next t ∧ t.resp = [0] ∧
      (i = .memAdd src a v .clean → peekNat t w 8 = (x + v.toNat) % 2 ^ 64) ∧
      (i = .memBitSet src a v .clean → peekNat t w 8 = x ||| v.toNat) ∧
      (i = .memBitClear src a v .clean → peekNat t w 8 + (x &&& v.toNat) = x) ∧
      memKept s t (fun k => ∃ j : Fin 8, k = physKey s (w + j.val)) ∧
      t.hbm.lock = (s.hbm.lock || (decide (regionOf w = .hbm) && src != .mgmt)) ∧ sansMem s t = s) ∧
  (∀ (s : State) (a : BitVec 48) (v mask : W64) (data : List Byte) (i : Instr), sized s = true →
    s.hbm.window = none → s.ktl.refreshed ≠ some s.beat → inPart s (a.toNat / 8 * 8) = true →
    mask.toNat = 2 ^ (a.toNat % 64) → a.toNat < caddyBase + 0x1000000 →
    (inPart s a.toNat = true) →
    i ∈ [Instr.memWrite .bar2 a mask data .clean, .memAdd .bar2 a v .clean, .memBitSet .bar2 a v .clean,
      .memBitClear .bar2 a v .clean] →
    ∃ t, exec i s = .next t ∧ t.resp = [0] ∧ errBit t .cdy 0 = true ∧ sansLog s t = { s with resp := [0] })

/-- A request whose address no memory holds, whose target is fenced or in reset, or whose queue is full is
answered so and changes nothing but the answer (R463, R466, R496). An uncorrectable word answers POISON, is
logged by the memory's block and stays as it is, also where a write covers it in part (R192, R465, R470, R496); a
corrected one answers OK and is logged (R469). A negative response ends a running core's job with JS_ABORTED,
halts a running host DMA channel, is recorded in a decoded picture, and is logged in the requester's page;
requesters without a command to end only log it; while the requester's partition is in reset it is dropped
(R452, R494, R496, R517). -/
def Obligations.NegativeAnswers : Prop :=
  (∀ (s : State) (src : Src) (a : BitVec 48) (r : Resp) (v mask : W64) (data : List Byte) (ecc : Ecc)
    (i : Instr), respRange s src (a.toNat / 64 * 64) 64 = r → r ≠ .ok →
    i ∈ [Instr.memRead src a 1 ecc, .memWrite src a mask data ecc, .memAdd src a v ecc,
      .memBitSet src a v ecc, .memBitClear src a v ecc] →
    exec i s = .next { s with resp := [BitVec.ofNat 8 (respCode r)] }) ∧
  (∀ (s : State) (src : Src) (a : BitVec 48) (v mask : W64) (data : List Byte) (ecc : Ecc) (i : Instr),
    respRange s src (a.toNat / 64 * 64) 64 = .ok → toQueues (a.toNat / 64 * 64) 1 s = none →
    i ∈ [Instr.memRead src a 1 ecc, .memWrite src a mask data ecc, .memAdd src a v ecc,
      .memBitSet src a v ecc, .memBitClear src a v ecc] →
    exec i s = .next { s with resp := [4] }) ∧
  (∀ (s : State) (src : Src) (a : BitVec 48) (v : W64) (i : Instr), sized s = true →
    respRange s src (a.toNat / 64 * 64) 64 = .ok → s.hbm.window = none → s.ktl.refreshed ≠ some s.beat →
    src ≠ .bar2 →
    i ∈ [Instr.memRead src a 1 .uncorrectable, .memAdd src a v .uncorrectable,
      .memBitSet src a v .uncorrectable, .memBitClear src a v .uncorrectable] →
    ∃ t, exec i s = .next t ∧ t.resp.headD 0 = 6 ∧
      errBit t (memPage a.toNat).1 (memPage a.toNat).2 = true ∧
      sansLog s t = { s with
        resp := t.resp, hbm := { s.hbm with lock := t.hbm.lock }
        badWords := insNat (physKey s (a.toNat / 8 * 8) / 8 * 8) s.badWords
        cores := t.cores } ∧
      (∀ n < 24, t.core n = { s.core n with memFail := (t.core n).memFail })) ∧
  (∀ (s : State) (src : Src) (a : BitVec 48) (mask : W64) (data : List Byte) (l w : Nat) (i j : Fin 8),
    sized s = true → l = a.toNat / 64 * 64 → respRange s src l 64 = .ok → s.hbm.window = none →
    s.ktl.refreshed ≠ some s.beat → src ≠ .bar2 → w < 8 →
    mask.getLsbD (8 * w + i.val) = true → mask.getLsbD (8 * w + j.val) = false →
    (∀ v < w, ∀ k < 8, mask.getLsbD (8 * v + k) = mask.getLsbD (8 * v)) →
    ∃ t, exec (.memWrite src a mask data .uncorrectable) s = .next t ∧ t.resp = [6] ∧
      errBit t (memPage l).1 (memPage l).2 = true ∧
      (∀ k < 8, memGet t.mem (physKey s (l + 8 * w + k)) = memGet s.mem (physKey s (l + 8 * w + k))) ∧
      memKept s t (fun k => ∃ i : Fin 64, mask.getLsbD i.val = true ∧ k = physKey s (l + i.val))) ∧
  (∀ (s : State) (src : Src) (a : BitVec 48), sized s = true → s.badWords = [] →
    respRange s src (a.toNat / 64 * 64) 64 = .ok → s.hbm.window = none → s.ktl.refreshed ≠ some s.beat →
    ∃ t, exec (.memRead src a 1 .corrected) s = .next t ∧
      t.resp = 0 :: peek s (a.toNat / 64 * 64) 64 ∧
      errBit t (memPage a.toNat).1 (if (memPage a.toNat).1 = .hbm then 9 else 2) = true ∧
      sansLog s t = { s with resp := t.resp, hbm := { s.hbm with lock := t.hbm.lock } }) ∧
  (∀ (s : State) (n : Fin 24) (r : Resp) (a : BitVec 48) (j : Job), sized s = true → r ≠ .ok → r ≠ .poison →
    respDropped s (.core n) = false → (s.core n.val).job = some j → (s.core n.val).phase = .run →
    (0 < j.mi ∨ j.begun = true) → s.sched.after.getD n.val none = none → takesCpl s j.cplRing = true →
    ∃ t, exec (.negResponse (.core n) r a) s = .next t ∧ errBit t (.core n) 4 = true ∧
      (t.core n.val).job = none ∧ (t.slot j.ctx j.slot).state = .empty ∧
      handed t j.cplRing [(4, 1, jsAborted), (24, 8, s.now)] = true) ∧
  (∀ (s : State) (n : Fin 24) (r : Resp) (a : BitVec 48) (j : Job) (k : Slot), sized s = true → r ≠ .ok →
    r ≠ .poison → respDropped s (.core n) = false → (s.core n.val).job = some j →
    (s.core n.val).phase = .verify → k = s.slot j.ctx j.slot → k.depEn = true →
    a.toNat / 64 = k.depAddr / 64 → fbLine (fbOf s j) (a.toNat / 64) = false →
    ∃ t, exec (.negResponse (.core n) r a) s = .next t ∧ errBit t (.core n) 4 = true ∧
      sansLog s t = { s with cores := updAt s.cores n.val fun x =>
        { x with job := some { j with badReads := a.toNat / 64 :: j.badReads } } }) ∧
  (∀ (s : State) (c : Fin 8) (r : Resp) (a : BitVec 48), sized s = true → r ≠ .ok →
    (s.dma c.val).state = .run →
    ∃ t, exec (.negResponse (.hdma c) r a) s = .next t ∧ errBit t .hif 13 = true ∧
      (t.dma c.val).state = .haltErr ∧ (t.dma c.val).err = 6 ∧ (t.dma c.val).reads = [] ∧
      (∀ k < 8, k ≠ c.val → t.dma k = s.dma k) ∧ sansLog s t = s) ∧
  (∀ (s : State) (n : Fin 8) (c : Nat) (r : Resp) (a : BitVec 48) (p : DecPic), sized s = true → r ≠ .ok →
    r ≠ .poison → s.dec.busy.getD n.val none = some c → c < 128 → (s.decCtx c).pic = some p →
    overlaps (a.toNat / 64 * 64) 64 p.data.1 p.data.2 = true →
    ∃ t, exec (.negResponse (.decoder n) r a) s = .next t ∧ errBit t .dec 4 = true ∧
      sansLog s t = { s with dec := { s.dec with ctxs := updAt s.dec.ctxs c fun x => { x with
        pic := some { p with errs := p.errs ++ [dataCut p.au (a.toNat / 64 * 64 - p.data.1)
          (a.toNat / 64 * 64 + 64 - p.data.1)] } } } }) ∧
  (∀ (s : State) (src : Src) (r : Resp) (a : BitVec 48), sized s = true → r ≠ .ok → r ≠ .poison →
    src ∈ [Src.strainer, .spout, .mgmt, .sched, .csi] →
    ∃ t, exec (.negResponse src r a) s = .next t ∧ errBit t (srcPage src) 4 = true ∧ sansLog s t = s) ∧
  (∀ (s : State) (src : Src) (r : Resp) (a : BitVec 48), (r = .ok ∨ respDropped s src = true) →
    exec (.negResponse src r a) s = .next s)

/-- A planned flit enters the mesh in the tick that an injection entry of its agent and destination gives it,
and is 3 ticks later at the next router; each router forwards it in the tick its entry holds for it, an
open or relocated one in its turn and with room ahead, and one whose destination is reached leaves the
mesh (R480, R482 to R484, R486). An open flit waits in the buffer of its stop, where it may leave after 2
ticks; without a turn nothing moves. A flit with an uncorrectable error is dropped, logged, and its
requester answered POISON; one with a corrected error goes on and is logged (R479, R481, R493). -/
def Obligations.FlitsHop : Prop :=
  (∀ (s : State) (src : Src) (k : FlitKind) (a : BitVec 48) (f : Flit) (n : Nat),
    newFlit s src k a.toNat false = some f → f.cls = .planned →
    plannedEntry s f (entryNow s f.src (flitOut f)) = true → outFree s f.src (flitOut f) = true →
    f.at_ = f.src → neighbour f.src (flitOut f) = some n →
    exec (.meshFlitHop (.inject src k a false) .clean) s = .next { s with mesh := { s.mesh with
      served := updAt s.mesh.served (f.src * 5 + flitOut f) fun _ => (f.inp, s.up + 1)
      flits := s.mesh.flits ++ [{ f with at_ := n, inp := facing (flitOut f) + 1, due := s.up + 3 }] } }) ∧
  (∀ (s : State) (src : Src) (k : FlitKind) (a : BitVec 48) (f : Flit) (o : Bool),
    newFlit s src k a.toNat o = some f →
    (f.cls = .opened ∧ (∀ p ∈ f.part, partShare s p = true) ∨ f.cls = .relocated) →
    bufRoom s f.cls f.src 5 = true →
    exec (.meshFlitHop (.inject src k a o) .clean) s = .next { s with mesh := { s.mesh with
      flits := s.mesh.flits ++ [{ f with due := s.up + 2 }] } }) ∧
  (∀ (s : State) (i n : Nat) (f : Flit), s.mesh.flits[i]? = some f →
    (f.cls = .planned ∧ f.due = s.up ∧ plannedEntry s f (entryNow s f.at_ (flitOut f)) = true ∨
      f.cls ≠ .planned ∧ isServed s i f = true ∧ creditOk s f = true) →
    outFree s f.at_ (flitOut f) = true → neighbour f.at_ (flitOut f) = some n →
    exec (.meshFlitHop (.transit i) .clean) s = .next { s with mesh := { s.mesh with
      served := updAt s.mesh.served (f.at_ * 5 + flitOut f) fun _ => (f.inp, s.up + 1)
      flits := s.mesh.flits.eraseIdx i ++
        [{ f with at_ := n, inp := facing (flitOut f) + 1, due := s.up + 3 }] } }) ∧
  (∀ (s : State) (i : Nat) (f : Flit), s.mesh.flits[i]? = some f → f.at_ = f.dest →
    (f.cls = .planned ∧ f.due = s.up ∧ plannedEntry s f (entryNow s f.at_ 4) = true ∨
      f.cls ≠ .planned ∧ isServed s i f = true) →
    outFree s f.at_ 4 = true →
    exec (.meshFlitHop (.transit i) .clean) s = .next { s with mesh := { s.mesh with
      served := updAt s.mesh.served (f.at_ * 5 + 4) fun _ => (f.inp, s.up + 1)
      flits := s.mesh.flits.eraseIdx i } }) ∧
  (∀ (s : State) (i : Nat) (f : Flit) (e : Ecc), s.mesh.flits[i]? = some f →
    (f.cls = .planned ∧ (f.due ≠ s.up ∨ plannedEntry s f (entryNow s f.at_ (flitOut f)) = false) ∨
      f.cls ≠ .planned ∧ (isServed s i f = false ∨ creditOk s f = false) ∨
      outFree s f.at_ (flitOut f) = false) →
    exec (.meshFlitHop (.transit i) e) s = .next s) ∧
  (∀ (s : State) (i : Nat) (f : Flit), s.mesh.flits[i]? = some f → f.cls = .planned → f.due = s.up →
    plannedEntry s f (entryNow s f.at_ (flitOut f)) = true → outFree s f.at_ (flitOut f) = true →
    f.addr < 2 ^ 48 →
    exec (.meshFlitHop (.transit i) .uncorrectable) s = exec (.negResponse f.who .poison (BitVec.ofNat 48 f.addr))
      (raiseLog .mesh 8 (BitVec.ofNat 32 f.dest) (BitVec.ofNat 32 (f.src * 2 ^ 19 + f.agent * 2 ^ 24))
        (BitVec.ofNat 32 s.now) 0 { s with mesh := { s.mesh with flits := s.mesh.flits.eraseIdx i } })) ∧
  (∀ (s : State) (i : Nat) (f : Flit), sized s = true → s.mesh.flits[i]? = some f → f.cls = .planned →
    f.due = s.up → plannedEntry s f (entryNow s f.at_ (flitOut f)) = true →
    outFree s f.at_ (flitOut f) = true →
    ∃ t u, exec (.meshFlitHop (.transit i) .corrected) s = .next t ∧
      exec (.meshFlitHop (.transit i) .clean) s = .next u ∧ errBit t .mesh 9 = true ∧ sansLog s t = u)

/-- MESH_ST_DATA writes and reads the selected shadow entry and moves to the next slot; a commit checks
the set, records the first failing entry with its place and code, and tells so; during a commit another
write is invalid programming (R485, R614, R621, R625). A partition reset stops the partition's cores, zeroes
their accumulators and engine state, leaves the cores and memories of others as they are, and is over 20
µs later; while it runs another GO is ignored (R490, R492, R494). That zeroed accumulators read as unwritten
bytes is log entry 12's. -/
def Obligations.MeshTables : Prop :=
  (∀ (s : State), barOpen s = true →
    exec (.meshStDataAccess none) s = .next { s with
      resp := leBytes 4 (tabGet (if s.mesh.stActive then s.mesh.active else s.mesh.shadow)
        (tabKey s.mesh.stStop s.mesh.stPort s.mesh.stSlot)).toNat
      mesh := { s.mesh with stSlot := (s.mesh.stSlot + 1) % 1100 } }) ∧
  (∀ (s : State) (w : W32), barWr s = true → s.mesh.checking = false → s.mesh.stActive = false →
    locked s .mesh = false →
    exec (.meshStDataAccess (some w)) s = .next { s with
      mesh := { s.mesh with
        shadow := tabPut s.mesh.shadow (tabKey s.mesh.stStop s.mesh.stPort s.mesh.stSlot) w
        committed := none, stSlot := (s.mesh.stSlot + 1) % 1100 }
      hdrs := updAt s.hdrs (pageIdx .mesh) fun h => { h with complete := false } }) ∧
  (∀ (s : State) (w : W32), barWr s = true → s.mesh.checking = false →
    (s.mesh.stActive = true ∨ locked s .mesh = true ∧
      w = tabGet s.mesh.shadow (tabKey s.mesh.stStop s.mesh.stPort s.mesh.stSlot)) →
    exec (.meshStDataAccess (some w)) s = .next { s with mesh := { s.mesh with
      stSlot := (s.mesh.stSlot + 1) % 1100 } }) ∧
  (∀ (s : State) (w : W32), sized s = true → barWr s = true →
    (s.mesh.checking = true ∨ s.mesh.stActive = false ∧ locked s .mesh = true ∧
      w ≠ tabGet s.mesh.shadow (tabKey s.mesh.stStop s.mesh.stPort s.mesh.stSlot)) →
    ∃ t, exec (.meshStDataAccess (some w)) s = .next t ∧ errBit t .mesh 0 = true ∧
      sansLog s t = { s with mesh := { s.mesh with stSlot := (s.mesh.stSlot + 1) % 1100 } }) ∧
  (∀ (s : State) (v : W32), barWr s = true → s.mesh.checking = false → locked s .mesh = false →
    exec (.meshStCtrlWrite v) s = .next { s with mesh := { s.mesh with stCtrl := v, checking := true } }) ∧
  (∀ (s : State) (v : W32), sized s = true → barWr s = true →
    (s.mesh.checking = true ∨ locked s .mesh = true) →
    ∃ t, exec (.meshStCtrlWrite v) s = .next t ∧ errBit t .mesh 0 = true ∧ sansLog s t = s) ∧
  (∀ s : State, sized s = true → s.mesh.checking = true → firstFailing s.mesh.shadow = none →
    ∃ t, exec .commitDone s = .next t ∧ intBit t .mesh 9 = true ∧ (t.hdr .mesh).complete = true ∧
      sansInt s t = { s with mesh := { s.mesh with
        checking := false, committed := some s.mesh.stCtrl, errCode := 0 } }) ∧
  (∀ (s : State) (k c : Nat), sized s = true → s.mesh.checking = true →
    firstFailing s.mesh.shadow = some (k, c) →
    ∃ t, exec .commitDone s = .next t ∧ intBit t .mesh 9 = true ∧ (t.hdr .mesh).complete = false ∧
      sansInt s t = { s with mesh := { s.mesh with
        checking := false, committed := none, errStop := k / 5500, errPort := k / 1100 % 5
        errSlot := k % 1100, errCode := c } }) ∧
  (∀ (s : State) (v : W32) (p : Nat), sized s = true → barWr s = true → s.mesh.rstBusy = false →
    p = rfld v 2 0 → (∀ c < 256, (s.ctx c).enabled = true → (s.ctx c).part ≠ p) →
    (∀ m < 7, partOfClu s m = p → (s.clu m).cmd = none) →
    ∃ t, exec (.meshPartResetGo v) s = .next t ∧
      t = { s with
        mesh := { s.mesh with rstSel := p, rstPart := p, rstBusy := true, rstAt := s.up }
        cores := t.cores, mem := t.mem, badWords := t.badWords } ∧
      (∀ n < 24, t.core n = if partOfCore s n = p then
        { clearCore (s.core n) with
          sat := List.replicate 1024 0, plane0 := {}, plane1 := {}
          vregs := List.replicate 8192 0, nmsFlags := [] }
        else s.core n) ∧
      memKept s t (fun k => ∃ n : Fin 24, partOfCore s n.val = p ∧ coreKey s n.val 0x400000 ≤ k ∧
        k < coreKey s n.val 0x4a0000)) ∧
  (∀ (s : State) (v : W32), sized s = true → barWr s = true → s.mesh.rstBusy = false →
    ∃ t, exec (.meshPartResetGo v) s = .next t ∧
      t.mesh = { s.mesh with
        rstSel := rfld v 2 0, rstPart := rfld v 2 0, rstBusy := true, rstAt := s.up } ∧
      (∀ n < 24, partOfCore s n = rfld v 2 0 → (t.core n).job = none ∧ (t.core n).phase = .idle ∧
        ∀ k < 0xa0000, memGet t.mem (coreKey s n (0x400000 + k)) = 0)) ∧
  (∀ (s : State) (v : W32), barWr s = true → s.mesh.rstBusy = true →
    exec (.meshPartResetGo v) s = .next { s with mesh := { s.mesh with rstSel := rfld v 2 0 } }) ∧
  (∀ s : State, sized s = true → s.mesh.rstBusy = true → s.mesh.rstAt + 22000 ≤ s.up →
    ∃ t, exec .partResetDone s = .next t ∧ intBit t .mesh 8 = true ∧
      sansInt s t = { s with mesh := { s.mesh with rstBusy := false } }) ∧
  (∀ s : State, (s.mesh.rstBusy = false ∨ s.up < s.mesh.rstAt + 22000) → exec .partResetDone s = .next s)

/-! ## Host interface (chapter 13) -/

/-- A register access of a wrong size or alignment is discarded, a read of it completed with Completer
Abort; a read outside every page gives 0; a page that does not answer within its time gives
0xFFFF_FFFE; each but a late answer of the management firmware is logged in the host interface's page
(R502, R503, R584). A BAR2 read inside an enabled window completes with the bytes of the device addresses it
maps to, a write inside a writable one stores its bytes there; outside, the read is an Unsupported Request,
the write is discarded, and both are logged; a request answered HBM_BUSY is logged and waits, and goes out
again at tick 0 of a beat, where a read is given up after 1 ms; another answer ends the read with its status
(R463, R505 to R508). With memory space closed a read is an Unsupported Request and a write goes nowhere
(R504). -/
def Obligations.HostAccesses : Prop :=
  (∀ (s : State) (w : Bool) (off size : Nat), sized s = true → barOpen s = true → sizeOk off size = false →
    ∃ t, exec (.bar0AccessInvalid w off size) s = .next t ∧ errBit t .hif 8 = true ∧
      sansLog s t = if w then s else { s with link := s.link ++ [.cpl .ca []], resp := [] }) ∧
  (∀ (s : State) (w : Bool) (off size : Nat), sized s = true → barOpen s = true → sizeOk off size = true →
    pageOf off = none → off < doorbellBase →
    ∃ t, exec (.bar0AccessInvalid w off size) s = .next t ∧ errBit t .hif 8 = true ∧
      sansLog s t = if w then s else { s with resp := List.replicate size 0 }) ∧
  (∀ (s : State) (w : Bool) (off size : Nat), barOpen s = true → sizeOk off size = true →
    ((pageOf off).isSome = true ∨ doorbellBase ≤ off) → exec (.bar0AccessInvalid w off size) s = .next s) ∧
  (∀ (s : State) (off o : Nat) (p : Page), sized s = true → barOpen s = true → pageOf off = some (p, o) →
    p ≠ .mgt →
    ∃ t, exec (.bar0Timeout off) s = .next t ∧ errBit t .hif 9 = true ∧
      sansLog s t = { s with resp := [0xfe, 0xff, 0xff, 0xff] }) ∧
  (∀ (s : State) (off o : Nat), barOpen s = true → pageOf off = some (.mgt, o) →
    exec (.bar0Timeout off) s =
      .next (if 0x800 ≤ o then { s with resp := [0xfe, 0xff, 0xff, 0xff] } else s)) ∧
  (∀ (s : State) (i : Instr) (w : Bool) (off size : Nat) (o2 : BitVec 36) (n : Fin 4097),
    barOpen s = false → s.hif.linkUp = true → s.power.perst = false →
    i ∈ [Instr.bar0AccessInvalid w off size, .bar0Timeout off, .bar2Read o2 n] →
    exec i s = .next { s with link := s.link ++ [.cpl .ur []], resp := [] }) ∧
  (∀ (s : State) (o2 : BitVec 36) (bs : List Byte), barWr s = false → exec (.bar2Write o2 bs) s = .next s) ∧
  (∀ (s : State) (off : BitVec 36) (n : Fin 4097) (w : Win) (a : Nat), barWr s = true →
    winFor s off.toNat n.val = some (w, a) → respRange s .bar2 a n.val = .ok → badAt s a n.val = false →
    s.hif.reissue = [] → s.hbm.window = none → s.ktl.refreshed ≠ some s.beat →
    exec (.bar2Read off n) s = .next { s with
      link := s.link ++ [.cpl .sc (peek s a n.val)]
      hbm := { s.hbm with lock := s.hbm.lock || decide (regionOf a = .hbm) } }) ∧
  (∀ (s : State) (off : BitVec 36) (bs : List Byte) (w : Win) (a : Nat), barWr s = true →
    winFor s off.toNat bs.length = some (w, a) → winWr w = true → respRange s .bar2 a bs.length = .ok →
    (∀ i < bs.length, inPart s (a + i) = false) → (∀ i < bs.length, respOf s .bar2 (a + i) = .ok) →
    s.badWords = [] → s.hif.reissue = [] → s.hbm.window = none → s.ktl.refreshed ≠ some s.beat →
    ∃ t, exec (.bar2Write off bs) s = .next t ∧
      t.mem = memPutAll s.mem (bs.mapIdx fun i b => (physKey s (a + i), b)) ∧
      memKept s t (fun k => ∃ i : Fin bs.length, k = physKey s (a + i.val)) ∧
      t.resp = s.resp ∧ sansMem s t = s) ∧
  (∀ (s : State) (off : BitVec 36) (n : Fin 4097) (bs : List Byte), sized s = true → barWr s = true →
    winFor s off.toNat n.val = none → (∀ p ∈ winFor s off.toNat bs.length, winWr p.1 = false) →
    ∃ t u, exec (.bar2Read off n) s = .next t ∧ exec (.bar2Write off bs) s = .next u ∧
      errBit t .hif 10 = true ∧ errBit u .hif 10 = true ∧
      sansLog s t = { s with link := s.link ++ [.cpl .ur []] } ∧ sansLog s u = s) ∧
  (∀ (s : State) (off : BitVec 36) (n : Fin 4097) (w : Win) (a : Nat), sized s = true → barWr s = true →
    winFor s off.toNat n.val = some (w, a) → s.hif.reissue = [] → respRange s .bar2 a n.val ≠ .ok →
    ∃ t, exec (.bar2Read off n) s = .next t ∧ errBit t .hif 11 = true ∧
      sansLog s t = { s with link := s.link ++
        [.cpl (if respRange s .bar2 a n.val = .addrUnmapped then .ur else .ca) []] }) ∧
  (∀ (s : State) (off : BitVec 36) (n : Fin 4097) (w : Win) (a : Nat), sized s = true → barWr s = true →
    winFor s off.toNat n.val = some (w, a) → s.hif.reissue = [] → respRange s .bar2 a n.val = .ok →
    toQueues a (lineStarts a n.val).length s = none →
    ∃ t, exec (.bar2Read off n) s = .next t ∧ errBit t .hif 11 = true ∧
      t.hif.reissue = [{ what := .read a n.val, since := s.up }] ∧ sansLog s t = s) ∧
  (∀ (s : State) (off : BitVec 36) (n : Fin 4097) (w : Win) (a : Nat), barWr s = true →
    winFor s off.toNat n.val = some (w, a) → s.hif.reissue ≠ [] → regionOf a = .hbm →
    exec (.bar2Read off n) s = .next { s with hif := { s.hif with
      reissue := s.hif.reissue ++ [{ what := .read a n.val, since := s.up }] } }) ∧
  (∀ (s : State) (a n at_ : Nat), s.hif.reissue = [{ what := .read a n, since := at_ }] →
    s.now % 1100 = 0 → respRange s .bar2 a n = .ok → badAt s a n = false → s.hbm.window = none →
    s.ktl.refreshed ≠ some s.beat →
    exec .bar2Reissue s = .next { s with
      link := s.link ++ [.cpl .sc (peek s a n)], hif := { s.hif with reissue := [] }
      hbm := { s.hbm with lock := s.hbm.lock || decide (regionOf a = .hbm) } }) ∧
  (∀ (s : State) (a n at_ : Nat), sized s = true → s.hif.reissue = [{ what := .read a n, since := at_ }] →
    s.now % 1100 = 0 → respRange s .bar2 a n = .ok → toQueues a (lineStarts a n).length s = none →
    ∃ t, exec .bar2Reissue s = .next t ∧ errBit t .hif 11 = true ∧
      t.hif.reissue = (if at_ + 1100000 ≤ s.up then [] else s.hif.reissue) ∧
      sansLog s t = { s with link := if at_ + 1100000 ≤ s.up then s.link ++ [.cpl .ca []] else s.link }) ∧
  (∀ s : State, s.now % 1100 ≠ 0 → exec .bar2Reissue s = .next s)

/-- A window that is not enabled takes its configuration, with EN only when every check of its base,
target, size and overlap holds, otherwise without EN as invalid programming; an enabled one takes only a write
of EN = 0 (R506). A doorbell write of either half or of 8 bytes is delivered at once when MIN_GAP has passed
since the last delivery; within it values merge, those of a job context by OR, and are delivered when it has
passed; it takes effect after every BAR2 write before it; one of a reserved offset or a wrong alignment is
logged (R502, R509, R510, R512). -/
def Obligations.WindowsAndDoorbells : Prop :=
  (∀ (s : State) (w : Fin 64) (v : W32), barWr s = true → (rbit v 0 = false ∨
      winOn (s.win w.val) = false ∧ winOk s w.val v = true) →
    exec (.hifWinCfgWrite w v) s = .next { s with hif := { s.hif with
      wins := updAt s.hif.wins w.val fun x => { x with cfg := v &&& 0x7fff00ff#32 } } }) ∧
  (∀ (s : State) (w : Fin 64) (v : W32), sized s = true → barWr s = true → rbit v 0 = true →
    winOn (s.win w.val) = false → winOk s w.val v = false →
    ∃ t, exec (.hifWinCfgWrite w v) s = .next t ∧ errBit t .hif 0 = true ∧
      t.hif.wins = (updAt s.hif.wins w.val fun x => { x with cfg := v &&& 0x7fff00fe#32 }) ∧
      sansLog s t = s) ∧
  (∀ (s : State) (w : Fin 64) (v : W32), sized s = true → barWr s = true → rbit v 0 = true →
    winOn (s.win w.val) = true →
    ∃ t, exec (.hifWinCfgWrite w v) s = .next t ∧ errBit t .hif 0 = true ∧ t.hif.wins = s.hif.wins ∧
      sansLog s t = s) ∧
  (∀ (s : State) (off : BitVec 26) (b : Bool) (v : W64) (d x : Nat), barWr s = true →
    doorbellBase ≤ off.toNat → sizeOk off.toNat (if b then 8 else 4) = true →
    dbOf (off.toNat - doorbellBase) = some d → writeWaits s.hif.reissue = false →
    (s.doorbell d).pending = none → (s.hif.minGap = 0 ∨ ∀ t ∈ (s.doorbell d).last, t + s.hif.minGap ≤ s.up) →
    x = (if b then v.toNat else if off.toNat % 8 = 0 then v.toNat % 2 ^ 32 else v.toNat % 2 ^ 32 * 2 ^ 32) →
    exec (.doorbellWrite off b v) s = .next { s with hif := { s.hif with
      doorbells := updAt s.hif.doorbells d fun _ => { last := some s.up, pending := none }
      dbOut := s.hif.dbOut ++ [(d, if d < 256 then x else x % 65536)] } }) ∧
  (∀ (s : State) (off : BitVec 26) (v : W64) (d t0 : Nat), barWr s = true →
    doorbellBase ≤ off.toNat → off.toNat % 8 = 0 → dbOf (off.toNat - doorbellBase) = some d →
    writeWaits s.hif.reissue = false → (s.doorbell d).last = some t0 → s.up < t0 + s.hif.minGap →
    s.hif.stormBeat = some s.beat →
    exec (.doorbellWrite off true v) s = .next { s with hif := { s.hif with
      coalesced := min 65535 (s.hif.coalesced + 1)
      doorbells := updAt s.hif.doorbells d fun x => { x with pending := some (match x.pending with
        | some o => if d < 256 then o ||| v.toNat else v.toNat
        | none => v.toNat) } } }) ∧
  (∀ (s : State) (off : BitVec 26) (v : W64) (d t0 : Nat), sized s = true → barWr s = true →
    doorbellBase ≤ off.toNat → off.toNat % 8 = 0 → dbOf (off.toNat - doorbellBase) = some d →
    writeWaits s.hif.reissue = false → (s.doorbell d).last = some t0 → s.up < t0 + s.hif.minGap →
    s.hif.stormBeat ≠ some s.beat →
    ∃ t, exec (.doorbellWrite off true v) s = .next t ∧ intBit t .hif 8 = true ∧
      t.hif.stormBeat = some s.beat ∧ t.hif.dbOut = s.hif.dbOut ∧ sansInt s t = s ∧
      t.hif.doorbells = updAt s.hif.doorbells d fun x => { x with pending := some (match x.pending with
        | some o => if d < 256 then o ||| v.toNat else v.toNat
        | none => v.toNat) }) ∧
  (∀ (s : State) (off : BitVec 26) (v : W64) (d : Nat), barWr s = true → doorbellBase ≤ off.toNat →
    off.toNat % 8 = 0 → dbOf (off.toNat - doorbellBase) = some d → writeWaits s.hif.reissue = true →
    exec (.doorbellWrite off true v) s = .next { s with hif := { s.hif with
      reissue := s.hif.reissue ++ [{ what := .doorbell d v.toNat, since := s.up }] } }) ∧
  (∀ (s : State) (off : BitVec 26) (b : Bool) (v : W64), sized s = true → barWr s = true →
    doorbellBase ≤ off.toNat →
    (sizeOk off.toNat (if b then 8 else 4) = false ∨ dbOf (off.toNat - doorbellBase) = none) →
    ∃ t, exec (.doorbellWrite off b v) s = .next t ∧ sansLog s t = s ∧
      errBit t .hif (if sizeOk off.toNat (if b then 8 else 4) then 12 else 8) = true) ∧
  (∀ (s : State) (d : Fin 392) (v t0 : Nat), (s.doorbell d.val).pending = some v →
    (s.doorbell d.val).last = some t0 → t0 + s.hif.minGap ≤ s.up →
    exec (.doorbellDelivery d) s = .next { s with hif := { s.hif with
      doorbells := updAt s.hif.doorbells d.val fun _ => { last := some s.up, pending := none }
      dbOut := s.hif.dbOut ++ [(d.val, if d.val < 256 then v else v % 65536)] } }) ∧
  (∀ (s : State) (d : Fin 392),
    ((s.doorbell d.val).pending = none ∨ ∃ t ∈ (s.doorbell d.val).last, s.up < t + s.hif.minGap) →
    exec (.doorbellDelivery d) s = .next s)

/-- A channel starts empty when it is enabled, keeps its length while it is, and drops its work when it is
disabled; a doorbell gives it descriptors, unless it overruns the ring; RESUME sends a halted one on
(R513, R519). An IN descriptor issues reads that cross no 4 KiB boundary, an OUT descriptor posted writes of
the device's bytes, a WRITE descriptor its own data, each at most as large as the link allows, and the next
descriptor starts when the last byte of one is asked for (R514 to R516). A descriptor that is complete
advances CONS, is written back, and requests its message when it asks for one (R515). The link's limits and
timeouts are PRESUMED, log entry 34. -/
def Obligations.HostDma : Prop :=
  (∀ (s : State) (c : Fin 8) (v : W32) (i : Instr), barWr s = true → dmaOn (s.dma c.val) = false →
    rbit v 31 = true → i ∈ [Instr.hdmaCfgWrite c v, .resume c v] →
    exec i s = .next { s with hif := { s.hif with dma := updAt s.hif.dma c.val fun x =>
      { x with cfg := v &&& 0xc0ff03ff#32, cons := 0, prod := 0, pos := 0, issued := 0, ahead := 0
               state := .idle } } }) ∧
  (∀ (s : State) (c : Fin 8) (v : W32), barWr s = true → dmaOn (s.dma c.val) = true →
    rbit v 31 = false → dmaLen (s.dma c.val) = rfld v 9 0 →
    exec (.hdmaCfgWrite c v) s = .next { s with hif := { s.hif with dma := updAt s.hif.dma c.val fun x =>
      { x with cfg := v &&& 0xc0ff03ff#32, reads := [], issued := 0, ahead := 0, state := .disabled
               stale := x.stale ++ x.reads.map fun r =>
                 { bytes := r.bytes, counts := false, late := false } } } }) ∧
  (∀ (s : State) (c : Fin 8) (v : W32), barWr s = true → dmaOn (s.dma c.val) = rbit v 31 →
    (rbit v 31 = true → dmaLen (s.dma c.val) = rfld v 9 0 ∧ rbit v 29 = false) →
    exec (.hdmaCfgWrite c v) s = .next { s with hif := { s.hif with dma := updAt s.hif.dma c.val fun x =>
      { x with cfg := v &&& 0xc0ff03ff#32 } } }) ∧
  (∀ (s : State) (c : Fin 8) (v : W32), sized s = true → barWr s = true → dmaOn (s.dma c.val) = true →
    dmaLen (s.dma c.val) ≠ rfld v 9 0 →
    ∃ t, exec (.hdmaCfgWrite c v) s = .next t ∧ errBit t .hif 0 = true ∧ t.hif.dma = s.hif.dma ∧
      sansLog s t = s) ∧
  (∀ (s : State) (c : Fin 8) (v : W32) (x : DmaCh), barWr s = true → x = s.dma c.val →
    dmaOn x = true → rbit v 31 = true → dmaLen x = rfld v 9 0 → s.mgt.safe = false →
    (x.state = .haltErr ∨ x.state = .haltBme) →
    exec (.resume c v) s = .next { s with hif := { s.hif with dma := updAt s.hif.dma c.val fun x =>
      { x with cfg := v &&& 0xc0ff03ff#32, err := 0, discarded := 0, issued := 0, ahead := 0
               state := if x.cons = x.prod then .idle else .run } } }) ∧
  (∀ (s u : State) (c : Fin 8) (v : Nat) (x : DmaCh), takeDb (384 + c.val) s = some (v, u) →
    x = s.dma c.val → s.mgt.safe = false → dmaOn x = true →
    (v % 65536 + 65536 - x.cons) % 65536 ≤ dmaLen x + 1 →
    exec (.hdmaDoorbell c) s = .next { u with hif := { u.hif with dma := updAt u.hif.dma c.val fun x =>
      { x with prod := v % 65536
               state := if x.state = .idle then (if x.cons = v % 65536 then .idle else .run)
                 else x.state } } }) ∧
  (∀ (s u : State) (c : Fin 8) (v : Nat), takeDb (384 + c.val) s = some (v, u) →
    (s.mgt.safe = true ∨ dmaOn (s.dma c.val) = false) → exec (.hdmaDoorbell c) s = .next u) ∧
  (∀ (s u : State) (c : Fin 8) (v : Nat), sized s = true → takeDb (384 + c.val) s = some (v, u) →
    s.mgt.safe = false → dmaOn (s.dma c.val) = true →
    dmaLen (s.dma c.val) + 1 < (v % 65536 + 65536 - (s.dma c.val).cons) % 65536 →
    ∃ t, exec (.hdmaDoorbell c) s = .next t ∧ errBit t .hif 1 = true ∧ t.hif.dma = s.hif.dma ∧
      sansLog s t = s) ∧
  (∀ (s : State) (c : Fin 8) (x : DmaCh) (a d n : Nat), x = s.dma c.val → dmaRuns s c.val = true →
    x.ahead < hdPending x → a = hdAddr x x.ahead → readable s (.hdma c) a 32 = true → d = peekNat s a 32 →
    hdBad d = false → (x.ahead = 0 ∨ x.issued ≠ 0 ∨ bitAt d 4 = false) → x.issued < hdBytes d →
    hdOp d = 0 → n = chunk s.hif.maxRead (hdBus d + x.issued) (hdBytes d - x.issued) →
    x.reads.length < 64 → (s.hif.dma.map fun x => x.reads.length + x.stale.length).sum < 512 →
    exec (.hdmaIn c) s = .next { s with
      link := s.link ++ [.memRead c.val (hdBus d + x.issued) n (hdNoSnoop d)]
      hbm := { s.hbm with lock := s.hbm.lock || decide (regionOf a = .hbm) }
      hif := { s.hif with dma := updAt s.hif.dma c.val fun x => { x with
        reads := x.reads ++ [{ dev := hdDev d + x.issued, bytes := n, since := s.up, desc := x.ahead }]
        ahead := if x.issued + n = hdBytes d then x.ahead + 1 else x.ahead
        issued := if x.issued + n = hdBytes d then 0 else x.issued + n } } }) ∧
  (∀ (s : State) (c : Fin 8) (x : DmaCh) (a d n : Nat) (bs : List Byte) (i : Instr), x = s.dma c.val →
    dmaRuns s c.val = true → dmaTurn s c.val = true →
    x.ahead < hdPending x → a = hdAddr x x.ahead → readable s (.hdma c) a 32 = true → d = peekNat s a 32 →
    hdBad d = false → (x.ahead = 0 ∨ x.issued ≠ 0 ∨ bitAt d 4 = false ∧ hdOp d = 1) → x.issued < hdBytes d →
    n = chunk s.hif.maxPayload (hdBus d + x.issued) (hdBytes d - x.issued) →
    (i = .hdmaOut c ∧ hdOp d = 1 ∧ readable s (.hdma c) (hdDev d + x.issued) n = true ∧
        bs = peek s (hdDev d + x.issued) n ∨
      i = .hdmaWrite c ∧ hdOp d = 2 ∧ bs = ((leBytes 8 (hdData d)).drop x.issued).take n) →
    exec i s = .next { s with
      link := s.link ++ [.memWrite (hdBus d + x.issued) bs (hdNoSnoop d)]
      hbm := { s.hbm with lock := s.hbm.lock || decide (regionOf a = .hbm) ||
        (hdOp d == 1 && decide (regionOf (hdDev d + x.issued) = .hbm)) }
      hif := { s.hif with
        lastDma := c.val
        dma := updAt s.hif.dma c.val fun x => { x with
          ahead := if x.issued + n = hdBytes d then x.ahead + 1 else x.ahead
          issued := if x.issued + n = hdBytes d then 0 else x.issued + n } } }) ∧
  (∀ (s : State) (c : Fin 8) (x : DmaCh) (a d : Nat) (i : Instr), x = s.dma c.val →
    dmaRuns s c.val = true → a = hdAddr x 0 → d = peekNat s a 32 →
    (bitAt d 5 = true → rbit x.cfg 30 = false) →
    (i = .hdmaDescComplete c ∧ x.ahead ≠ 0 ∧ (∀ r ∈ x.reads, r.desc ≠ 0) ∨
      i = .hdmaNop c ∧ x.ahead = 0 ∧ hdPending x ≠ 0 ∧ hdOp d = 3 ∧ hdBad d = false ∧
        readable s (.hdma c) a 32 = true) →
    exec i s = .next { s with
      link := s.link ++ [.memWrite (dmaWb x) (leBytes 8 ((x.cons + 1) % 65536 +
        (if (x.cons + 1) % 65536 = x.prod then 1 else 2) * 65536 + x.err * 2 ^ 24)) false]
      hbm := if x.ahead = 0 then { s.hbm with lock := s.hbm.lock || decide (regionOf a = .hbm) } else s.hbm
      hif := { s.hif with dma := updAt s.hif.dma c.val fun x => { x with
        cons := (x.cons + 1) % 65536, pos := (x.pos + 1) % (dmaLen x + 1), ahead := x.ahead - 1
        reads := x.reads.map fun r => { r with desc := r.desc - 1 }
        state := if (x.cons + 1) % 65536 = x.prod then .idle else .run } } }) ∧
  (∀ (s : State) (c : Fin 8) (x : DmaCh), x = s.dma c.val →
    dmaRuns s c.val = true → bitAt (peekNat s (hdAddr x 0) 32) 5 = true → rbit x.cfg 30 = true →
    vecOpen s (rfld x.cfg 23 16) = true → x.ahead ≠ 0 → (∀ r ∈ x.reads, r.desc ≠ 0) →
    ∃ t, exec (.hdmaDescComplete c) s = .next t ∧ t.hif.msixReq = s.hif.msixReq ++ [rfld x.cfg 23 16] ∧
      (t.dma c.val).cons = (x.cons + 1) % 65536 ∧ t.link.length = s.link.length + 1 ∧
      t = { s with link := t.link, hif := t.hif }) ∧
  (∀ (s : State) (c : Fin 8) (x : DmaCh) (d : Nat), x = s.dma c.val → dmaRuns s c.val = true →
    x.ahead ≠ 0 → x.ahead < hdPending x → readable s (.hdma c) (hdAddr x x.ahead) 32 = true →
    d = peekNat s (hdAddr x x.ahead) 32 → hdBad d = false → hdOp d = 3 → bitAt d 4 = false →
    exec (.hdmaNop c) s = .next { s with
      hbm := { s.hbm with lock := s.hbm.lock || decide (regionOf (hdAddr x x.ahead) = .hbm) }
      hif := { s.hif with dma := updAt s.hif.dma c.val fun x =>
        { x with ahead := x.ahead + 1, issued := 0 } } }) ∧
  (∀ (s : State) (c : Fin 8) (i : Instr), dmaRuns s c.val = false →
    i ∈ [Instr.hdmaIn c, .hdmaOut c, .hdmaWrite c, .hdmaNop c, .hdmaDescComplete c] → exec i s = .next s)

/-- The data of a completion is written at its device address; a failed one halts its channel, as a timeout
does and a descriptor that breaks the rules, with the error's code, the interrupt bit and the condition; a
completion of a read given up is discarded and counted; a job that an incomplete descriptor of a halted
channel names ends with JS_ABORTED (R514, R517, R518). A requested message goes out with its vector's address
and data; one whose vector has closed is pending, and follows when the host unmasks the vector or sets Bus
Master Enable; clearing that halts running channels and makes requested messages pending (R521 to R523,
R528, R529). -/
def Obligations.LinkWork : Prop :=
  (∀ (s u : State) (c : Fin 8) (x : DmaCh) (r : DmaRead) (l : List DmaRead) (bs : List Byte),
    s.power.perst = false → s.hif.linkUp = true → x = s.dma c.val → x.stale = [] → x.reads = r :: l →
    bs.length ≤ r.bytes → writeMem (.hdma c) r.dev bs false s = (.ok, u) →
    exec (.hdmaCompletion c .sc bs) s = .next { u with hif := { u.hif with
      dma := updAt u.hif.dma c.val fun x => { x with
        reads := if bs.length = r.bytes then l
          else { r with dev := r.dev + bs.length, bytes := r.bytes - bs.length } :: l } } }) ∧
  (∀ (s : State) (c : Fin 8) (x : DmaCh) (r : DmaRead) (l : List DmaRead) (bs : List Byte) (st : CplStatus),
    sized s = true → s.power.perst = false → s.hif.linkUp = true → x = s.dma c.val → x.stale = [] →
    x.reads = r :: l → r.desc = 0 → st ≠ .sc →
    (∀ i < hdPending x, bitAt (peekNat s (hdAddr x i) 32) 22 = false) →
    ∃ t, exec (.hdmaCompletion c st bs) s = .next t ∧ errBit t .hif 13 = true ∧ intBit t .hif 9 = true ∧
      t.hif.dma = (updAt s.hif.dma c.val fun x => { x with
        state := .haltErr, discarded := 0, reads := [], issued := 0, ahead := 0
        err := if st = .ur then 3 else if st = .ca then 4 else 5
        stale := l.map fun r => { bytes := r.bytes, counts := true, late := false } }) ∧
      sansLog s t = s) ∧
  (∀ (s : State) (c : Fin 8) (x : DmaCh) (r : DmaRead) (l : List DmaRead), sized s = true →
    x = s.dma c.val → x.reads = r :: l → r.desc = 0 → s.hif.cplOff = false →
    r.since + cplTicks s.hif.cplRange ≤ s.up →
    (∀ i < hdPending x, bitAt (peekNat s (hdAddr x i) 32) 22 = false) →
    ∃ t, exec (.cplTimeout c) s = .next t ∧ errBit t .hif 13 = true ∧ intBit t .hif 9 = true ∧
      t.hif.dma = (updAt s.hif.dma c.val fun x => { x with
        state := .haltErr, discarded := 0, reads := [], issued := 0, ahead := 0, err := 2
        stale := x.stale ++ { bytes := r.bytes, counts := true, late := true } ::
          l.map fun r => { bytes := r.bytes, counts := true, late := false } }) ∧
      sansLog s t = s) ∧
  (∀ (s : State) (c : Fin 8), (∀ r ∈ (s.dma c.val).reads.head?, s.up < r.since + cplTicks s.hif.cplRange) →
    exec (.cplTimeout c) s = .next s) ∧
  (∀ (s : State) (c : Fin 8) (y : DmaStale) (l : List DmaStale) (bs : List Byte), s.power.perst = false →
    s.hif.linkUp = true → (s.dma c.val).stale = y :: l → y.late = false → bs.length < y.bytes →
    exec (.hdmaCompletion c .sc bs) s = .next { s with hif := { s.hif with
      dma := updAt s.hif.dma c.val fun x => { x with
        stale := { y with bytes := y.bytes - bs.length } :: l
        discarded := if y.counts then min 65535 (x.discarded + 1) else x.discarded } } }) ∧
  (∀ (s : State) (c : Fin 8) (x : DmaCh) (i : Instr) (d j k : Nat), sized s = true → x = s.dma c.val →
    dmaRuns s c.val = true → x.ahead = 0 → hdPending x = 1 → readable s (.hdma c) (hdAddr x 0) 32 = true →
    d = peekNat s (hdAddr x 0) 32 → hdBad d = true → bitAt d 22 = true → j = fld d 15 8 → k = fld d 21 16 →
    (s.slot j k).state = .valid → i ∈ [Instr.hdmaIn c, .hdmaNop c] →
    ∃ t, exec i s = .next t ∧ errBit t .hif 13 = true ∧ (t.dma c.val).state = .haltErr ∧
      (t.dma c.val).err = 1 ∧ (t.slot j k).state = .empty ∧ t.cores = s.cores ∧ t.link = s.link) ∧
  (∀ (s : State) (v : Nat) (l : List Nat), s.hif.msixReq = v :: l → vecOpen s v = true → linkOpen s = true →
    exec .msixSend s = .next { s with
      hif := { s.hif with msixReq := l }, link := s.link ++ [.msix v (s.vec v).addr (s.vec v).data] }) ∧
  (∀ (s : State) (v : Nat) (l : List Nat), s.hif.msixReq = v :: l → vecOpen s v = false →
    exec .msixSend s = .next { s with hif := { s.hif with
      msixReq := l, msix := updAt s.hif.msix v fun x => { x with pending := true } } }) ∧
  (∀ s : State, (s.hif.msixReq = [] ∨ linkOpen s = false ∧ ∃ v ∈ s.hif.msixReq.head?, vecOpen s v = true) →
    exec .msixSend s = .next s) ∧
  (∀ (s : State) (v : Fin 256), sized s = true → barWr s = true →
    (∀ k < 256, k ≠ v.val → (s.vec k).pending = true → vecOpen s k = false) →
    exec (.msixUnmask v) s = .next { s with hif :=
      if ((s.vec v.val).pending && s.hif.bme && s.hif.msixEnable && !s.hif.msixFnMask) = true then
        { s.hif with
          msixReq := s.hif.msixReq ++ [v.val]
          msix := updAt s.hif.msix v.val fun x => { x with masked := false, pending := false } }
      else { s.hif with msix := updAt s.hif.msix v.val fun x => { x with masked := false } } }) ∧
  (∀ s : State, cfgOpen s = true → s.hif.bme = true → (∀ k < 8, (s.dma k).state ≠ .run) →
    exec .busMasterClear s = .next { s with hif := { s.hif with
      bme := false, msixReq := []
      msix := s.hif.msix.mapIdx fun v x => { x with pending := x.pending || s.hif.msixReq.contains v } } }) ∧
  (∀ s : State, sized s = true → cfgOpen s = true → s.hif.bme = true →
    ∃ t, exec .busMasterClear s = .next t ∧ t.hif.bme = false ∧
      (∀ k < 8, (s.dma k).state = .run → t.dma k = { s.dma k with
        state := .haltBme, discarded := 0, reads := [], issued := 0, ahead := 0
        stale := (s.dma k).stale ++ (s.dma k).reads.map fun r =>
          { bytes := r.bytes, counts := true, late := false } })) ∧
  (∀ s : State, sized s = true → cfgOpen s = true → s.hif.bme = false →
    exec .busMasterSet s = .next { s with hif := { s.hif with
      bme := true
      msixReq := s.hif.msixReq ++ ((List.range 256).filter fun v =>
        (s.vec v).pending && s.hif.msixEnable && !s.hif.msixFnMask && !(s.vec v).masked)
      msix := s.hif.msix.map fun x =>
        if (x.pending && s.hif.msixEnable && !s.hif.msixFnMask && !x.masked) = true
        then { x with pending := false } else x } }) ∧
  (∀ s : State, (cfgOpen s = false ∨ s.hif.bme = false) → exec .busMasterClear s = .next s) ∧
  (∀ s : State, (cfgOpen s = false ∨ s.hif.bme = true) → exec .busMasterSet s = .next s)

/-! ## Resets, link, boot (chapters 13, 14, 17) -/

/-- PERST_N puts the machine in its reset state and keeps fuses, the flash record and the bytes of the
banks that self-refresh retains; a lost supply keeps nothing volatile, and releases the trip latch when VDDIO
falls (R476, R524, R527, R643, R655). A function-level and a hot reset end every job without a record, empty the
units' contexts and rings, close the device to the host and put header and host-interface registers at their
reset values; fuses, flash, count and memories stay, and a hot reset takes the link down; the reset is done once
no epoch is pending (R525 to R527). A lost link ends every job, gives up outstanding reads and makes the safe
state due; a trained one is up with the widest link of its good lanes (R533, R542, R548). That memory under a
reset takes free values is log entry 12's. -/
def Obligations.Resets : Prop :=
  (∀ s : State, s.power.perst = false →
    ∃ t, exec .perstNAssert s = .next t ∧
      memKept s t (fun k => ¬ (s.hbm.inSr = true ∧ k < hbmEnd ∧ bankLost s.hbm.keep k = false)) ∧
      t = { State.reset with
        pending := s.pending, free := t.free, link := s.link, mem := t.mem, fuse := s.fuse
        badWords := s.badWords.filter fun k => s.hbm.inSr && k < hbmEnd && !bankLost s.hbm.keep k
        flash := { s.flash with unsaved := [], stuck := none }
        hbm := { State.reset.hbm with keep := s.hbm.keep, inSr := s.hbm.inSr }
        power := { State.reset.power with perst := true, railsOk := s.power.railsOk } }) ∧
  (∀ s : State, s.power.perst = true → exec .perstNAssert s = .next s) ∧
  (∀ (s : State) (io : Bool),
    ∃ t, exec (.inputPowerLoss io) s = .next t ∧
      t = { State.reset with
        pending := s.pending, free := t.free, link := s.link, mem := t.mem, fuse := s.fuse, badWords := []
        flash := { s.flash with unsaved := [], stuck := none }
        hbm := { State.reset.hbm with keep := s.hbm.keep, inSr := false }
        power := { State.reset.power with
          perst := s.power.perst, railsOk := false, therm := s.power.therm && !io } }) ∧
  (∀ (s : State) (i : Instr) (hot : Bool), sized s = true →
    (i = .functionLevelReset ∧ hot = false ∧ cfgOpen s = true ∨
      i = .hotReset ∧ hot = true ∧ s.power.booted = true ∧ s.power.perst = false ∧ s.hif.linkUp = true) →
    ∃ t, exec i s = .next t ∧ t.power = { s.power with reset := some hot, resetAt := s.up } ∧
      (∀ n < 24, (t.core n).job = none) ∧ t.sched = {} ∧ t.clus = List.replicate 7 {} ∧
      t.dec.ctxs = List.replicate 128 {} ∧ t.enc.ctxs = List.replicate 16 {} ∧
      t.csi.chs = List.replicate 16 {} ∧ t.cdy.parts = List.replicate 256 {} ∧
      t.cdy.rings = List.replicate 8 {} ∧ t.cdy.now = none ∧ t.spt.rings = List.replicate 64 {} ∧
      t.spt.arriving = [] ∧ t.spt.store = [] ∧ t.bist.slice = none ∧ t.sec.session = none ∧
      (∀ u < 4, (t.sclUnit u).cmd = none) ∧ t.fuse = s.fuse ∧ t.flash = s.flash ∧
      t.ktl.count = s.ktl.count ∧ t.link = s.link) ∧
  (∀ (s : State) (i : Instr) (hot : Bool), sized s = true →
    (i = .functionLevelReset ∧ hot = false ∧ cfgOpen s = true ∨
      i = .hotReset ∧ hot = true ∧ s.power.booted = true ∧ s.power.perst = false ∧ s.hif.linkUp = true) →
    ∃ t, exec i s = .next t ∧ t.hif.bme = false ∧ t.hif.mse = false ∧
      t.hif.wins = List.replicate 64 {} ∧ t.hif.msix = List.replicate 256 {} ∧ t.hif.msixReq = [] ∧
      t.hif.doorbells = List.replicate 392 {} ∧ t.hif.irqMap = List.replicate 64 0 ∧
      t.hif.minGap = 110 ∧ t.hif.linkUp = (s.hif.linkUp && !hot) ∧
      (∀ k < 8, (t.dma k).state = .disabled ∧ (t.dma k).reads = []) ∧
      (t.hdrs.all fun h => h.enable && !h.halt && !h.fence && h.intStatus == 0 && h.intEnable == 0) = true) ∧
  (∀ s : State, sized s = true → cfgOpen s = true → (∀ u < 4, (s.sclUnit u).cmd = none) →
    (∀ m < 7, (s.clu m).cmd = none) → s.bist.slice = none → s.mgt.takeover = [] →
    ∃ t, exec .functionLevelReset s = .next t ∧ t.mem = s.mem ∧ t.badWords = s.badWords ∧ t.free = s.free ∧
      t.cores = s.cores.map (fun x =>
        { clearCore x with frames := List.replicate 4 false, drvFence := false }) ∧
      t.mesh.active = s.mesh.active ∧ t.mgt.faultLog = s.mgt.faultLog) ∧
  (∀ s : State, cfgOpen s = false → exec .functionLevelReset s = .next s) ∧
  (∀ (s : State) (h : Bool), s.power.reset = some h → s.ktl.epoch = none →
    ∃ t, exec .resetDone s = .next t ∧ t.power = { s.power with reset := none } ∧ t.cores = s.cores ∧
      t.mem = s.mem ∧ t.hif.wins = s.hif.wins) ∧
  (∀ s : State, (s.ktl.epoch.isSome = true ∨ s.power.reset = none) → exec .resetDone s = .next s) ∧
  (∀ s : State, sized s = true → s.hif.linkUp = true → s.power.booted = true → s.mgt.safe = false →
    (∀ n < 24, s.sched.after.getD n none = none) →
    ∃ t, exec .linkLoss s = .next t ∧ t.hif.linkUp = false ∧ t.hif.linkLost = true ∧ t.hif.linkWidth = 0 ∧
      (∀ n < 24, (t.core n).job = none) ∧ (∀ k < 8, (t.dma k).reads = []) ∧
      (s.mgt.safeDue = none → t.mgt.safeDue.map (·.1) = some s.up) ∧
      (s.mgt.safeDue.isSome = true → t.mgt.safeDue = s.mgt.safeDue)) ∧
  (∀ s : State, sized s = true → s.hif.linkUp = true → s.power.booted = true → s.mgt.safe = false →
    (∀ n < 24, (s.core n).job = none) → (∀ k < 8, (s.dma k).state ≠ .run) →
    exec .linkLoss s = .next { s with
      mgt := { s.mgt with safeDue := s.mgt.safeDue.or (some (s.up, 2)) }
      hif := { s.hif with
        linkUp := false, linkWidth := 0, linkLost := true
        dma := s.hif.dma.map fun x => { x with
          reads := [], issued := 0, ahead := 0
          stale := x.stale ++ x.reads.map fun r =>
            { bytes := r.bytes, counts := false, late := false } } } }) ∧
  (∀ s : State, s.hif.linkUp = false → exec .linkLoss s = .next s) ∧
  (∀ s : State, s.power.perst = false → s.fuse.life ≠ .scrap →
    exec .linkTrained s = .next { s with hif := { s.hif with
      linkUp := true
      linkWidth := if s.hif.badLanes % 256 = 0 then 8 else if s.hif.badLanes % 16 = 0 then 4
        else if s.hif.badLanes % 4 = 0 then 2 else if s.hif.badLanes % 2 = 0 then 1 else 0 } }) ∧
  (∀ s : State, (s.power.perst = true ∨ s.fuse.life = .scrap) → exec .linkTrained s = .next s)

/-- With good fuses, clocks and supplies and no failed test, boot puts the device in service on its good
units when an image passes the four checks, and stops in stage 2 when none does; bad fuses stop it in stage 3,
a PLL without lock in stage 4, a failed test in its own stage with the test's code and unit. A quantity outside
its window lets the check repeat, 100 times at most, and then stops boot in stage 5 with the quantity (R499,
R535, R536, R538, R539, R541, R546 to R548, R550, R592). -/
def Obligations.Bringup : Prop :=
  (∀ (s : State) (b : BootInfo) (bad : List Defect) (f : FwImage) (sl : Bool), sized s = true →
    s.power.perst = true →
    b.fuseOk = true → badCount s.fuse.badCore ≤ 4 → s.fuse.variant ≠ 3 →
    s.fuse.nextLife.getD s.fuse.life ≠ .scrap → b.pllLock = true → windowFail b.window = none →
    b.fails = [] → b.ucodeOk = true →
    bad = (match defectCopy s.flash with | some c => c.entries | none => []) →
    goodUnits 1 28 s.fuse.badCore bad [] 14 ≠ [] → goodUnits 2 9 s.fuse.badDec bad [] 14 ≠ [] →
    ∃ t, exec (.perstNRelease b) s = .next t ∧ t.power.perst = false ∧
      t.ktl = { s.ktl with ppsRef := s.ktl.up } ∧
      (fwChosen s b = some (f, sl) → t.power.booted = true ∧
        t.power.stopped = false ∧ t.mgt.bootStage = 14 ∧ t.mgt.bootCode = 0 ∧ t.mgt.bootSlotB = sl ∧
        t.mgt.fwVersion = f.release ∧
        t.mgt.coreMap = mapUnits 24 (goodUnits 1 28 s.fuse.badCore bad [] 14) ∧
        t.mgt.coreSpares = (goodUnits 1 28 s.fuse.badCore bad [] 14).drop 24 ∧
        t.mgt.decMap = mapUnits 8 (goodUnits 2 9 s.fuse.badDec bad [] 14) ∧
        t.mgt.encMap = mapUnits 4 (goodUnits 3 5 s.fuse.badEnc bad [] 14) ∧
        t.mgt.div = min 2 s.fuse.variant ∧ t.flash.boots = (s.flash.boots + 1) % 2 ^ 32 ∧
        t.hif.subsys = s.fuse.subsys ∧ t.hif.serial = s.fuse.serial ∧
        t.hbm.inSr = false ∧ (t.hdr .ktl).ready = true ∧ t.cores = s.cores) ∧
      (fwChosen s b = none → t.power.booted = false ∧ t.power.stopped = true ∧
        t.mgt.bootStage = 2 ∧ t.mgt.bootCode = (if b.slotA.isNone && b.slotB.isNone then 2 else 1))) ∧
  (∀ (s : State) (b : BootInfo), s.power.perst = true → b.slotA = none → b.slotB = none →
    ∃ t, exec (.perstNRelease b) s = .next t ∧ t.power.booted = false ∧ t.power.stopped = true ∧
      t.mgt.bootStage = 2 ∧ t.mgt.bootCode = 2 ∧ t.flash = s.flash) ∧
  (∀ (s : State) (b : BootInfo) (st cd : Nat), s.power.perst = true →
    (b.fuseOk = false ∧ st = 3 ∧ cd = 3 ∨
      b.fuseOk = true ∧ badCount s.fuse.badCore ≤ 4 ∧ s.fuse.variant ≠ 3 ∧
        s.fuse.nextLife.getD s.fuse.life ≠ .scrap ∧ b.pllLock = false ∧ st = 4 ∧ cd = 7) →
    ∃ t, exec (.perstNRelease b) s = .next t ∧
      (fwChosen s b ≠ none → t.power.booted = false ∧ t.power.stopped = true ∧ t.mgt.bootStage = st ∧
        t.mgt.bootCode = cd)) ∧
  (∀ (s : State) (b : BootInfo) (f : WindowFail), s.power.perst = true →
    b.fuseOk = true → badCount s.fuse.badCore ≤ 4 → s.fuse.variant ≠ 3 →
    s.fuse.nextLife.getD s.fuse.life ≠ .scrap → b.pllLock = true → windowFail b.window = some f →
    ∃ t, exec (.perstNRelease b) s = .next t ∧
      (fwChosen s b ≠ none → t.power.booted = false ∧ t.power.stopped = false ∧ t.mgt.bootStage = 5 ∧
        t.power.window = some (0, b))) ∧
  (∀ (s : State) (b : BootInfo), s.power.perst = false → exec (.perstNRelease b) s = .next s) ∧
  (∀ (s : State) (m : WindowMeas) (n : Nat) (b : BootInfo) (f : WindowFail),
    s.power.window = some (n, b) → windowFail m = some f → n + 1 < 100 →
    exec (.windowRetry m) s = .next { s with power := { s.power with window := some (n + 1, b) } }) ∧
  (∀ (s : State) (m : WindowMeas) (n : Nat) (b : BootInfo) (f : WindowFail),
    s.power.window = some (n, b) → windowFail m = some f → 100 ≤ n + 1 →
    ∃ t, exec (.windowRetry m) s = .next t ∧ t = { s with
      free := s.free + 1
      power := { s.power with stopped := true, window := none }
      mgt := { s.mgt with
        bootStage := 5, bootCode := f.code, bootUnitKind := f.kind, bootUnitNum := t.mgt.bootUnitNum
        unitQuantity := f.row, unitMeasured := f.got } }) ∧
  (∀ (s : State) (m : WindowMeas) (n : Nat) (b : BootInfo) (x : BootFail), s.power.window = some (n, b) →
    windowFail m = none → s.mgt.bootQuick = false → b.fails = [x] → 6 ≤ x.step → x.step ≤ 8 →
    spared x = false → laneOnly x = false →
    exec (.windowRetry m) s = .next { s with
      power := { s.power with stopped := true, window := none }
      mgt := { s.mgt with
        bootStage := x.step, bootUnitKind := x.kind, bootUnitNum := x.num % 128
        bootCode := if x.step = 6 then (if x.kind = 10 then 9 else if x.kind = 13 then 14 else 10)
          else if x.step = 7 then 8 else 9 } }) ∧
  (∀ (s : State) (m : WindowMeas), s.power.window = none → exec (.windowRetry m) s = .next s)

/-! ## Self-test, spares, faults, power (chapters 14, 15, 17) -/

/-- GO queues a slice, in FIELD only in a session and never during one, and a reserved KIND stays as it was; it
starts at its beat, refuses a busy or unknown target, and its end gives the result and releases the target; a
memory test leaves the core's memories in free values or as PRESERVE saved them; a failed one starts the
takeover of a logical unit and removes a spare one (R13, R552 to R558). -/
def Obligations.SelfTestSlices : Prop :=
  (∀ (s : State) (v : W32), barWr s = true → s.bist.slice = none → rfld v 2 0 < 6 →
    (isField s = false ∨ s.sec.session.isSome = true) →
    exec (.go v) s = .next { s with bist := { s.bist with
      cmd := v &&& 0x7fff#32, result := 7
      slice := some {
        kind := rfld v 2 0, index := rfld v 7 3, segment := rfld v 12 8, preserve := rbit v 13
        due := if rbit v 14 then sliceBeat s * 1100 else 0, started := false, saved := [] } } }) ∧
  (∀ (s : State) (v : W32), sized s = true → barWr s = true → s.bist.slice.isSome = true →
    ∃ t, exec (.go v) s = .next t ∧ errBit t .bist 0 = true ∧ sansLog s t = s) ∧
  (∀ (s : State) (v : W32), barWr s = true → s.bist.slice = none → rfld v 2 0 < 6 → isField s = true →
    s.sec.session = none →
    exec (.go v) s = .next { s with bist := { s.bist with cmd := v &&& 0x7fff#32, result := 4 } }) ∧
  (∀ (s : State) (v : W32), sized s = true → barWr s = true → s.bist.slice = none → 6 ≤ rfld v 2 0 →
    isField s = true → s.sec.session = none →
    ∃ t, exec (.go v) s = .next t ∧ errBit t .bist 0 = true ∧
      sansLog s t = { s with bist := { s.bist with
        cmd := mergeBits 0x7ff8#32 s.bist.cmd v &&& 0x7fff#32, result := 4 } }) ∧
  (∀ (s : State) (x : Slice), s.bist.slice = some x → x.started = false → (x.due = 0 ∨ s.now = x.due) →
    s.mgt.safe = false → sliceTargetOk s x = true → sliceBusyNow s x = false →
    (x.preserve = true → x.segment ≠ 16) →
    ∃ t, exec .sliceStart s = .next t ∧
      t = { s with
        bist := { s.bist with slice := some { x with started := true } }
        cores := if x.kind = 0 then updAt s.cores x.index (fun c => { c with slice := true }) else s.cores
        dec := if x.kind = 2 then { s.dec with slice := updAt s.dec.slice x.index fun _ => true } else s.dec
        enc := if x.kind = 4 then { s.enc with slice := updAt s.enc.slice x.index fun _ => true }
          else s.enc }) ∧
  (∀ (s : State) (x : Slice), s.bist.slice = some x → x.started = false → (x.due = 0 ∨ s.now = x.due) →
    (s.mgt.safe = true ∨ sliceTargetOk s x = true ∧ sliceBusyNow s x = true) →
    exec .sliceStart s = .next { s with bist := { s.bist with slice := none, result := 3 } }) ∧
  (∀ (s : State) (x : Slice), s.bist.slice = some x → x.started = false → (x.due = 0 ∨ s.now = x.due) →
    s.mgt.safe = false → sliceTargetOk s x = false →
    exec .sliceStart s = .next { s with bist := { s.bist with slice := none, result := 5 } }) ∧
  (∀ (s : State) (x : Slice), sized s = true → s.bist.slice = some x → x.started = true → x.kind ≤ 1 →
    x.segment ≠ 16 →
    ∃ t, exec (.sliceDone true) s = .next t ∧ intBit t .bist 8 = true ∧
      sansInt s t = { s with
        bist := { s.bist with slice := none, result := 1, slices := min 65535 (s.bist.slices + 1) }
        cores := if x.kind = 0 then updAt s.cores x.index (fun c => { c with slice := false })
          else s.cores }) ∧
  (∀ (s : State) (x : Slice) (p : Nat), sized s = true → s.bist.slice = some x → x.started = true →
    x.kind = 0 → x.segment = 16 → p = physCore s x.index →
    ∃ t, exec (.sliceDone true) s = .next t ∧ t.bist.slice = none ∧ t.bist.result = 1 ∧
      (x.preserve = true → t.mem = memPutAll (memDrop (inCore p) s.mem) x.saved) ∧
      memKept s t (fun k => coreBase + p * 0x1000000 ≤ k ∧ k < coreBase + (p + 1) * 0x1000000 ∨
        x.saved.any (fun c => c.1 == k) = true) ∧
      t.badWords = s.badWords.filter (fun w => !inCore p w)) ∧
  (∀ (s : State) (x : Slice), sized s = true → s.bist.slice = some x → x.started = true → x.kind = 0 →
    x.segment ≠ 16 →
    x.index < 24 → inTakeover s x.index = false → coreAbsent s x.index = false → s.mgt.coreMap.length = 24 →
    (chooseSpare s (physCore s x.index)).isSome = true →
    ∃ t, exec (.sliceDone false) s = .next t ∧ intBit t .bist 8 = true ∧
      t.bist = { s.bist with slice := none, result := 2, slices := min 65535 (s.bist.slices + 1) } ∧
      inTakeover t x.index = true ∧ (t.core x.index).mgmtFence = true ∧
      (t.mgt.coreMap.getD x.index {}).state = .fenced ∧ t.mem = s.mem) ∧
  (∀ (s : State) (x : Slice), sized s = true → s.bist.slice = some x → x.started = true → x.kind = 3 →
    ∃ t, exec (.sliceDone false) s = .next t ∧ intBit t .bist 8 = true ∧ intBit t .mgt 10 = true ∧
      sansInt s t = { s with
        bist := { s.bist with slice := none, result := 2, slices := min 65535 (s.bist.slices + 1) }
        mgt := { s.mgt with decSpares := s.mgt.decSpares.erase x.index }
        flash := { s.flash with unsaved := s.flash.unsaved ++
          [{ kind := 2, phys := x.index, cause := 3, boots := s.flash.boots, tick := s.now }] } }) ∧
  (∀ s : State, s.bist.slice = none → exec .sliceStart s = .next s) ∧
  (∀ (s : State) (b : Bool), s.bist.slice = none → exec (.sliceDone b) s = .next s)

/-- A spare is powered, tested for 2,200,000 ticks, and engaged at tick 0 of a beat that no epoch takes, when
the logical unit maps to it and its fence lifts; a spare that fails is recorded and the next one tried, and
without one the unit is ABSENT; a decoder core that passes its check is free again, and one that fails is
fenced for its spare (R68, R309, R544, R545, R560 to R564). What waits is added to the record with the next SEQ
in the older copy, which holds 254 entries at most; a write that does not finish leaves it waiting and is
reported (R565, R566, R650). -/
def Obligations.SparesAndDefects : Prop :=
  (∀ (s : State) (u : Unit') (x : Takeover), takeoverOf s u = some x → x.stage = .powering →
    x.spare.isSome = true →
    exec (.sparePowerGood u) s = .next { s with mgt := { s.mgt with takeover := s.mgt.takeover.map fun y =>
      if y.target = u then { y with stage := .testing, goodAt := s.up + 2200000 } else y } }) ∧
  (∀ (s : State) (u : Unit') (x : Takeover), takeoverOf s u = some x → x.stage = .testing →
    x.goodAt ≤ s.up →
    exec (.spareKatDone u true) s = .next { s with mgt := { s.mgt with takeover := s.mgt.takeover.map fun y =>
      if y.target = u then { y with stage := .mapping } else y } }) ∧
  (∀ (s : State) (u : Unit'),
    ((takeoverOf s u).all fun x => x.stage != .powering || x.spare.isNone) = true →
    exec (.sparePowerGood u) s = .next s) ∧
  (∀ (s : State) (u : Unit') (b : Bool),
    ((takeoverOf s u).all fun x => x.stage != .testing || decide (s.up < x.goodAt)) = true →
    exec (.spareKatDone u b) s = .next s) ∧
  (∀ (s : State) (n : Fin 24) (x : Takeover), sized s = true → takeoverOf s (.core n) = some x →
    x.stage = .testing → x.goodAt ≤ s.up → (chooseSpare s x.failed).isSome = true →
    (∀ y ∈ s.mgt.takeover, y.target = .core n → y = x) →
    ∃ t, exec (.spareKatDone (.core n) false) s = .next t ∧ intBit t .mgt 10 = true ∧
      sansInt s t = { s with
        flash := { s.flash with unsaved := s.flash.unsaved ++
          [{ kind := 1, phys := x.spare.getD 0, cause := 4, boots := s.flash.boots, tick := s.now }] }
        mgt := { s.mgt with
          coreSpares := s.mgt.coreSpares.filter fun p => some p != chooseSpare s x.failed
          takeover := s.mgt.takeover.map fun y => if y.target = .core n
            then { y with stage := .powering, spare := chooseSpare s x.failed, goodAt := s.up + 23100 }
            else y } }) ∧
  (∀ (s : State) (k : Fin 8) (x : Takeover), sized s = true → takeoverOf s (.dec k) = some x →
    x.stage = .testing → x.goodAt ≤ s.up → s.mgt.decSpares = [] → s.mgt.decMap.length = 8 →
    ∃ t, exec (.spareKatDone (.dec k) false) s = .next t ∧ intBit t .mgt 10 = true ∧
      intBit t .mgt 11 = true ∧ (mapOf t (.dec k)).state = .absent ∧ takeoverOf t (.dec k) = none ∧
      t.mem = s.mem ∧ t.dec = s.dec) ∧
  (∀ (s : State) (u : Unit') (x : Takeover) (sp : Nat), sized s = true → takeoverOf s u = some x →
    x.stage = .mapping → x.saveDone = true → x.spare = some sp → x.hasJob = false → s.now % 1100 = 0 →
    (∀ e ∈ s.ktl.epoch, e.beat ≠ some s.beat) → (s.ktl.epoch = none → s.ktl.epochLast ≠ some s.up) →
    s.mgt.coreMap.length = 24 → s.mgt.decMap.length = 8 → s.mgt.encMap.length = 4 →
    ∃ t, exec (.spareEngaged u) s = .next t ∧ mapOf t u = { phys := sp, state := .ok } ∧
      takeoverOf t u = none ∧ intBit t .mgt 9 = true ∧ t.mgt.takeovers = min 255 (s.mgt.takeovers + 1) ∧
      (∀ n : Fin 24, u = .core n → (t.core n.val).mgmtFence = false ∧
        t.mesh.reloc.testBit n.val = (s.mesh.reloc.testBit n.val || sp / 4 != x.failed / 4)) ∧
      t.mem = s.mem ∧ t.flash = s.flash) ∧
  (∀ (s : State) (u : Unit') (x : Takeover), takeoverOf s u = some x →
    (x.stage ≠ .mapping ∨ x.saveDone = false ∨ s.now % 1100 ≠ 0 ∨
      (∃ e ∈ s.ktl.epoch, e.beat = some s.beat) ∨ s.ktl.epoch = none ∧ s.ktl.epochLast = some s.up) →
    exec (.spareEngaged u) s = .next s) ∧
  (∀ (s : State) (k : Fin 8) (e : Nat), s.dec.kat.getD k.val none = some e → e ≤ s.up →
    exec (.codecKatDone k true) s = .next { s with dec := { s.dec with
      kat := updAt s.dec.kat k.val fun _ => none } }) ∧
  (∀ (s : State) (k : Fin 8) (b : Bool), (∀ e ∈ s.dec.kat.getD k.val none, s.up < e) →
    exec (.codecKatDone k b) s = .next s) ∧
  (∀ (s : State) (k : Fin 8) (e : Nat), sized s = true → s.dec.kat.getD k.val none = some e → e ≤ s.up →
    s.mgt.decMap.length = 8 → decState s k.val = .ok → s.mgt.decSpares ≠ [] →
    s.dec.busy.getD k.val none = none →
    ∃ t, exec (.codecKatDone k false) s = .next t ∧ errBit t .dec 9 = true ∧ decState t k.val = .fenced ∧
      t.mgt.decSpares = s.mgt.decSpares.tail ∧
      (takeoverOf s (.dec k) = none →
        (takeoverOf t (.dec k)).map (·.spare) = some (s.mgt.decSpares.head?)) ∧
      t.dec = { s.dec with kat := updAt s.dec.kat k.val fun _ => none } ∧ t.mem = s.mem) ∧
  (∀ (s : State) (c d : DefectCopy), s.power.booted = true → recordDue s.flash = true →
    defectCopy s.flash = some c → c.entries.length + s.flash.unsaved.length ≤ 254 →
    d = { seq := (max s.flash.copyA.seq s.flash.copyB.seq + 1) % 2 ^ 32
          entries := c.entries ++ s.flash.unsaved, valid := true } →
    exec .defectRecordWrite s = .next { s with flash := { s.flash with
      unsaved := [], stuck := none
      copyA := if s.flash.copyB.seq ≤ s.flash.copyA.seq then s.flash.copyA else d
      copyB := if s.flash.copyB.seq ≤ s.flash.copyA.seq then d else s.flash.copyB } }) ∧
  (∀ (s : State) (c : DefectCopy), sized s = true → s.power.booted = true → recordDue s.flash = true →
    defectCopy s.flash = some c → 254 ≤ c.entries.length →
    ∃ t, exec .defectRecordWrite s = .next t ∧ intBit t .mgt 13 = true ∧
      sansInt s t = { s with flash := { s.flash with unsaved := [], stuck := none } }) ∧
  (∀ s : State, sized s = true → s.power.booted = true → recordDue s.flash = true →
    ∃ t, exec .flashTimeout s = .next t ∧ intBit t .mgt 13 = true ∧ recordDue t.flash = false ∧
      sansInt s t = { s with
        free := s.free + 1
        flash := { s.flash with
          stuck := some s.flash.unsaved.length
          copyA := { s.flash.copyA with valid := t.flash.copyA.valid }
          copyB := { s.flash.copyB with valid := t.flash.copyB.valid } } }) ∧
  (∀ (s : State) (i : Instr), (s.power.booted = false ∨ recordDue s.flash = false) →
    i ∈ [Instr.defectRecordWrite, .flashTimeout] → exec i s = .next s)

/-- Writing VALID clears the first-error capture of a page, POP removes the oldest entry of the fault log
(R574, R578). A condition that the hardware finds by itself is raised, which makes the safe state due where
its class is fatal (R570, R580); a due safe state and a QUIESCE end every job and picture; the trip sensor
latches THERM_TRIP_N and makes the safe state due; QUIESCE is done when nothing is in progress (R580, R581,
R585, R586). That such conditions come with the command that enters the safe state is log entry 53's. A
CAP_STEP records its readings; a hot sensor or too much power steps the divider down one by an epoch of the
controller's own, three beats ahead at least, and a step that had to wait is tried again (R587, R588). A
poll records the readings, confirms a raised set point near its value, or asks for another; the set point
moves by 10 mV at most, inside 0.60 to 0.80 V and once in 100 µs, and stays otherwise (R638, R639). -/
def Obligations.FaultsAndSafeState : Prop :=
  (∀ (s : State) (p : Page), barWr s = true →
    exec (.errFirstClear p) s = .next { s with hdrs := updAt s.hdrs (pageIdx p) fun h => { h with
      firstValid := false, firstBit := 0, firstClass := 0, firstMultiple := false
      log0 := 0, log1 := 0, log2 := 0, log3 := 0, capAt := none } }) ∧
  (∀ s : State, barWr s = true →
    exec .pop s = .next { s with mgt := { s.mgt with faultLog := s.mgt.faultLog.tail } }) ∧
  (∀ (s : State) (p : Page) (b : Fin 32), sized s = true → s.power.booted = true → s.power.perst = false →
    hwCond p b.val = true →
    ∃ t, exec (.safeStateEntry (some (p, b))) s = .next t ∧ errBit t p b.val = true ∧
      (condClass s p b.val = 2 → s.mgt.safe = false →
        t.mgt.safeDue = s.mgt.safeDue.or (some (s.up, 1))) ∧
      sansLog s t = s) ∧
  (∀ (s : State) (p : Page) (b : Fin 32),
    (s.power.booted = false ∨ s.power.perst = true ∨ hwCond p b.val = false) →
    exec (.safeStateEntry (some (p, b))) s = .next s) ∧
  (∀ (s : State) (a c : Nat), sized s = true → s.mgt.safeDue = some (a, c) →
    (∀ n < 24, s.sched.after.getD n none = none) →
    ∃ t, exec (.safeStateEntry none) s = .next t ∧ t.mgt.safe = true ∧ t.mgt.safeCause = c ∧
      (∀ n < 24, (t.core n).job = none) ∧ (∀ k < 128, (t.decCtx k).pic = none) ∧
      (∀ k < 16, (t.encCtx k).pic = none) ∧ (∀ k < 16, (t.cap k).openF = none) ∧ t.bist.slice = none ∧
      t.fuse = s.fuse ∧ t.ktl.count = s.ktl.count ∧ t.link = s.link) ∧
  (∀ s : State, s.mgt.safeDue = none → exec (.safeStateEntry none) s = .next s) ∧
  (∀ (s : State) (n : Fin 32) (c : BitVec 8), sized s = true → 115 ≤ c.toInt → s.power.railsOk = true →
    s.power.perst = false → s.power.therm = false → s.mgt.safe = false →
    ∃ t, exec (.thermalTrip n c) s = .next t ∧ errBit t .mgt 10 = true ∧
      t.mgt.safeDue = s.mgt.safeDue.or (some (s.up, 3)) ∧
      sansLog s t = { s with power := { s.power with therm := true } }) ∧
  (∀ (s : State) (n : Fin 32) (c : BitVec 8), (c.toInt < 115 ∨ s.power.therm = true ∨ s.power.perst = true) →
    exec (.thermalTrip n c) s = .next s) ∧
  (∀ s : State, sized s = true → barWr s = true → s.mgt.quiesce = false →
    (∀ n < 24, s.sched.after.getD n none = none) →
    ∃ t, exec .quiesce s = .next t ∧ t.mgt.quiesce = true ∧ (∀ n < 24, (t.core n).job = none) ∧
      (∀ k < 128, (t.decCtx k).pic = none) ∧ (∀ k < 16, (t.encCtx k).pic = none) ∧
      (∀ ch < 8, (s.dma ch).state = .run → (t.dma ch).state = .haltBme) ∧
      (∀ ch < 8, (s.dma ch).state ≠ .run → t.dma ch = s.dma ch)) ∧
  (∀ s : State, barWr s = true → s.mgt.quiesce = true → exec .quiesce s = .next s) ∧
  (∀ s : State, s.mgt.quiesce = true → allIdle s = true →
    exec .quiesceDone s = .next { s with mgt := { s.mgt with quiesceDone := true } }) ∧
  (∀ s : State, (s.mgt.quiesce = false ∨ allIdle s = false) → exec .quiesceDone s = .next s) ∧
  (∀ (s : State) (n : Fin 32) (c : BitVec 8) (w : BitVec 16), s.power.booted = true → s.mgt.capEn = false →
    ∃ t, exec (.capStep n c w) s = .next t ∧ t = { s with mgt := { s.mgt with
      tempMax := c.toNat, tempSensor := n.val, pkgPower := w.toNat, coolSince := t.mgt.coolSince } }) ∧
  (∀ (s : State) (n : Fin 32) (c : BitVec 8) (w : BitVec 16), sized s = true → s.power.booted = true →
    s.mgt.capEn = true → s.ktl.epoch = none → s.mgt.div < 3 →
    (s.mgt.capC ≤ c.toInt ∨ powerLimit s ≤ w.toNat) →
    ∃ t, exec (.capStep n c w) s = .next t ∧ t.mgt.shDiv = some (s.mgt.div + 1) ∧
      t.mgt.div = s.mgt.div ∧ t.mgt.capWait = some (s.mgt.div + 1, s.up) ∧
      t.ktl.epoch = some {
        target := if (capBank s (s.mgt.div + 1)).isSome then 2 ^ 33 + 2 ^ 32 else 2 ^ 33
        beat := some ((s.beat + 5) / 3 * 3), planned := false, byCap := true, decision := none } ∧
      t.ktl.shBank = (capBank s (s.mgt.div + 1)).or s.ktl.shBank ∧
      t = { s with mgt := t.mgt, ktl := t.ktl, hdrs := t.hdrs }) ∧
  (∀ (s : State) (n : Fin 32) (c : BitVec 8) (w : BitVec 16), s.power.booted = true →
    s.mgt.capEn = true → s.ktl.epoch.isSome = true → s.mgt.div < 3 →
    (∀ e ∈ s.ktl.epoch, e.byCap = false) → (s.mgt.capC ≤ c.toInt ∨ powerLimit s ≤ w.toNat) →
    ∃ t, exec (.capStep n c w) s = .next t ∧ t = { s with mgt := { s.mgt with
      tempMax := c.toNat, tempSensor := n.val, pkgPower := w.toNat, coolSince := t.mgt.coolSince
      capWait := some (s.mgt.div + 1, s.up) } }) ∧
  (∀ (s : State) (d a : Nat), sized s = true → s.power.booted = true → s.mgt.capEn = true →
    s.mgt.capWait = some (d, a) → a ≤ s.up → s.ktl.epoch = none → s.mgt.div ≤ d →
    ∃ t, exec .capRetry s = .next t ∧ t.mgt.shDiv = some d ∧
      t.ktl.epoch = some {
        target := if (capBank s d).isSome then 2 ^ 33 + 2 ^ 32 else 2 ^ 33
        beat := some ((s.beat + 5) / 3 * 3), planned := false, byCap := true, decision := none } ∧
      t = { s with mgt := t.mgt, ktl := t.ktl, hdrs := t.hdrs }) ∧
  (∀ s : State, (s.mgt.capWait = none ∨ s.ktl.epoch.isSome = true) → exec .capRetry s = .next s) ∧
  (∀ s : State, s.power.booted = true →
    exec (.pmbusPoll none) s = .next { s with power := { s.power with pmRetry := true } }) ∧
  (∀ (s : State) (v i : Nat), s.power.booted = true →
    exec (.pmbusPoll (some (v, i))) s = .next { s with
      power := { s.power with vout := v, iout := i, pmRetry := false }
      mgt := { s.mgt with vddRaise :=
        if s.mgt.vddRaise = 2 ∧ v ≤ s.power.vddMv + 10 ∧ s.power.vddMv ≤ v + 10 then 3
        else s.mgt.vddRaise } }) ∧
  (∀ (s : State) (mv : Nat), s.power.booted = true → s.power.pmRetry = false → 600 ≤ mv → mv ≤ 800 →
    mv ≤ s.power.vddMv + 10 → s.power.vddMv ≤ mv + 10 → s.power.vddAt + 110000 ≤ s.up →
    (s.mgt.vddRaise = 1 → s.power.vddMv ≤ mv) → (s.mgt.vddLower = true → mv ≤ s.power.vddMv) →
    exec (.vddSetPointStep mv) s = .next { s with
      power := { s.power with vddMv := mv, vddAt := s.up }
      mgt := { s.mgt with
        vddRaise := if s.mgt.vddRaise = 1 then 2 else s.mgt.vddRaise, vddLower := false } }) ∧
  (∀ (s : State) (mv : Nat), (mv < 600 ∨ 800 < mv ∨ s.power.vddMv + 10 < mv ∨ mv + 10 < s.power.vddMv ∨
      s.up < s.power.vddAt + 110000) →
    exec (.vddSetPointStep mv) s = .next s)

/-! ## Security, headers, ports (chapters 15 to 17) -/

/-- GET_IDENTITY and ATTEST answer in the mailbox in the states that allow them, and are BAD_STATE in the
others; the mailbox is read and written word by word. A session opens for the secret whose digest the
owner slot in force holds; every other secret counts a failure and refuses openings for a time that
doubles; while one is open another is BAD_STATE; the session's port closes it (R594 to R598). -/
def Obligations.IdentityAndSessions : Prop :=
  (∀ (s : State) (p : Port), sized s = true → portOpen s p = true → s.fuse.life ≠ .scrap →
    s.fuse.seedLock = true →
    ∃ t, exec (.getIdentity p) s = .next t ∧ intBit t .sec 8 = true ∧ t.sec.mbox.length = 2048 ∧
      mboxBytes t 2592 = (List.range 2592).map (Config.mldsaPublic s.fuse.seed) ∧
      sansInt s t = { s with sec := { s.sec with op := 1, result := 0, mboxLen := 2592, mbox := t.sec.mbox } }) ∧
  (∀ (s : State) (p : Port), sized s = true → portOpen s p = true →
    (s.fuse.life = .field ∨ s.fuse.life = .return_) → s.sec.mboxLen = 64 → s.sec.mbox.length = 2048 →
    ∃ t, exec (.attest p) s = .next t ∧ intBit t .sec 8 = true ∧ t.sec.mbox.length = 2048 ∧
      mboxBytes t 16 = leBytes 4 0x41544c42 ++ leBytes 2 1 ++ leBytes 1 (if s.fuse.life = .field then 1 else 2) ++
        leBytes 1 s.fuse.variant ++ leBytes 8 s.fuse.serial.toNat ∧
      (mboxBytes t 96).drop 32 = secArg s ∧
      (mboxBytes t 4883).drop 256 =
        (List.range 4627).map (Config.mldsaSign s.fuse.seed (digest (mboxBytes t 256))) ∧
      sansInt s t = { s with
        free := t.free, sec := { s.sec with op := 2, result := 0, mboxLen := 4883, mbox := t.sec.mbox } }) ∧
  (∀ (s : State) (p : Port) (i : Instr) (o r : Nat), sized s = true → portOpen s p = true →
    (i = .getIdentity p ∧ o = 1 ∧ (s.fuse.life = .scrap ∧ r = 2 ∨
        s.fuse.life ≠ .scrap ∧ s.fuse.seedLock = false ∧ r = 7) ∨
      i = .attest p ∧ o = 2 ∧ (s.fuse.life = .scrap ∧ r = 2 ∨ s.fuse.life = .test ∧ r = 2 ∨
        (s.fuse.life = .field ∨ s.fuse.life = .return_) ∧ s.sec.mboxLen ≠ 64 ∧ r = 3)) →
    ∃ t, exec i s = .next t ∧ intBit t .sec 8 = true ∧
      sansInt s t = { s with sec := { s.sec with op := o, result := r } }) ∧
  (∀ (s : State) (w : W32), barWr s = true →
    exec (.secMboxDataAccess (some w)) s = .next { s with sec := { s.sec with
      mbox := updAt s.sec.mbox s.sec.mboxAddr fun _ => w, mboxAddr := (s.sec.mboxAddr + 1) % 2048 } }) ∧
  (∀ s : State, barOpen s = true →
    exec (.secMboxDataAccess none) s = .next { s with
      resp := leBytes 4 (s.sec.mbox.getD s.sec.mboxAddr 0).toNat
      sec := { s.sec with mboxAddr := (s.sec.mboxAddr + 1) % 2048 } }) ∧
  (∀ (s : State) (p : Port) (n : Nat), sized s = true → portOpen s p = true → s.sec.session = none →
    s.sec.lockUntil ≤ s.up → 32 ≤ s.sec.mboxLen → s.sec.mboxLen ≤ 256 → ownerSlot s = some n →
    s.fuse.owner.getD n none = some (digest (secArg s)) →
    ∃ t, exec (.openSession p) s = .next t ∧ intBit t .sec 8 = true ∧
      sansInt s t = { s with sec := { s.sec with op := 0x10, result := 0, session := some p, fails := 0 } }) ∧
  (∀ (s : State) (p : Port) (k : Nat), sized s = true → portOpen s p = true → s.sec.session = none →
    s.sec.lockUntil ≤ s.up → 32 ≤ s.sec.mboxLen → s.sec.mboxLen ≤ 256 →
    (∀ n ∈ ownerSlot s, s.fuse.owner.getD n none ≠ some (digest (secArg s))) →
    k = min 255 (s.sec.fails + 1) →
    ∃ t, exec (.openSession p) s = .next t ∧ intBit t .sec 8 = true ∧
      sansInt s t = { s with sec := { s.sec with
        op := 0x10, result := 5, fails := k, lockUntil := s.up + min 1024 (2 ^ (k - 1)) * 1100000000 } }) ∧
  (∀ (s : State) (p : Port) (r : Nat), sized s = true → portOpen s p = true →
    (s.sec.session.isSome = true ∧ r = 2 ∨ s.sec.session = none ∧ s.up < s.sec.lockUntil ∧ r = 4 ∨
      s.sec.session = none ∧ s.sec.lockUntil ≤ s.up ∧ (s.sec.mboxLen < 32 ∨ 256 < s.sec.mboxLen) ∧ r = 3) →
    ∃ t, exec (.openSession p) s = .next t ∧ intBit t .sec 8 = true ∧
      sansInt s t = { s with sec := { s.sec with op := 0x10, result := r } }) ∧
  (∀ (s : State) (p : Port), sized s = true → portOpen s p = true → s.sec.session = some p →
    ∃ t, exec (.closeSession p) s = .next t ∧ intBit t .sec 8 = true ∧
      sansInt s t = { s with sec := { s.sec with op := 0x11, result := 0, session := none } })

/-- A command that needs the session of its port changes no fuse, no flash and no debug lock without it,
and its result is NO_SESSION. In the session PROVISION_OWNER burns the next slot and revokes the one
before, the first one without a session; ADVANCE_SVN raises the floor, FUSE_WRITE burns a field in TEST,
SET_LIFE_CYCLE burns a permitted state, DEBUG_UNLOCK opens the test port, and CLEAR_DEFECT_RECORD empties the
record; in other states they are BAD_STATE and change none of these (R593, R596, R598, R599). The result of
DEBUG_UNLOCK in TEST is left open. -/
def Obligations.FusesAreBurned : Prop :=
  (∀ (s : State) (p : Port) (w : FuseWrite) (l : Life) (i : Instr) (o : Nat), sized s = true →
    portOpen s p = true → s.sec.session ≠ some p →
    (i, o) ∈ [(Instr.closeSession p, 0x11), (.advanceSvn p, 0x21), (.fuseWrite p w, 0x22),
      (.setLifeCycle p l, 0x30), (.debugUnlock p, 0x31), (.clearDefectRecord p, 0x41)] →
    ∃ t, exec i s = .next t ∧ intBit t .sec 8 = true ∧
      sansInt s t = { s with sec := { s.sec with op := o, result := 1 } }) ∧
  (∀ (s : State) (p : Port) (n : Nat), sized s = true → portOpen s p = true → s.sec.mboxLen = 64 →
    (s.sec.session = some p ∨ (∀ o ∈ s.fuse.owner, o = none) ∧ s.fuse.life ≠ .field) →
    n < 4 → s.fuse.owner.getD n none = none → (∀ k < n, s.fuse.owner.getD k none ≠ none) →
    ∃ t, exec (.provisionOwner p) s = .next t ∧ intBit t .sec 8 = true ∧
      sansInt s t = { s with
        sec := { s.sec with op := 0x20, result := 0 }
        fuse := { s.fuse with
          owner := updAt s.fuse.owner n fun _ => some (secArg s)
          ownerRev := if n = 0 then s.fuse.ownerRev else s.fuse.ownerRev ||| 2 ^ (n - 1) } }) ∧
  (∀ (s : State) (p : Port) (r : Nat), sized s = true → portOpen s p = true →
    (s.fuse.life = .field ∨ ∃ o ∈ s.fuse.owner, o.isSome = true) →
    (s.sec.session ≠ some p ∧ r = 1 ∨ s.sec.session = some p ∧ s.sec.mboxLen ≠ 64 ∧ r = 3) →
    ∃ t, exec (.provisionOwner p) s = .next t ∧ intBit t .sec 8 = true ∧
      sansInt s t = { s with sec := { s.sec with op := 0x20, result := r } }) ∧
  (∀ (s : State) (p : Port), sized s = true → portOpen s p = true → s.sec.session = some p →
    ∃ t, exec (.advanceSvn p) s = .next t ∧ intBit t .sec 8 = true ∧
      sansInt s t = { s with
        sec := { s.sec with op := 0x21, result := 0 }
        fuse := { s.fuse with svnFloor := max s.fuse.svnFloor s.mgt.fwSvn } }) ∧
  (∀ (s : State) (p : Port) (w : FuseWrite), sized s = true → portOpen s p = true →
    s.sec.session = some p → s.fuse.life = .test →
    ∃ t, exec (.fuseWrite p w) s = .next t ∧ intBit t .sec 8 = true ∧
      sansInt s t = { s with
        sec := { s.sec with op := 0x22, result := 0 }
        fuse := match w with
          | .seed v => { s.fuse with seed := padTo 32 v, seedLock := true }
          | .subsys v => { s.fuse with subsys := v }
          | .serial v => { s.fuse with serial := v } }) ∧
  (∀ (s : State) (p : Port) (l : Life), sized s = true → portOpen s p = true → s.sec.session = some p →
    (l = .scrap ∨ l = .return_ ∧ s.fuse.nextLife.getD s.fuse.life = .field ∨
      l = .field ∧ s.fuse.nextLife.getD s.fuse.life = .test ∧ s.fuse.seedLock = true ∧
        ∃ o ∈ s.fuse.owner, o.isSome = true) →
    ∃ t, exec (.setLifeCycle p l) s = .next t ∧ intBit t .sec 8 = true ∧
      sansInt s t = { s with
        sec := { s.sec with op := 0x30, result := 0 }, fuse := { s.fuse with nextLife := some l } }) ∧
  (∀ (s : State) (p : Port), sized s = true → portOpen s p = true → s.sec.session = some p →
    (s.fuse.life = .field ∨ s.fuse.life = .return_) →
    ∃ t, exec (.debugUnlock p) s = .next t ∧ intBit t .sec 8 = true ∧
      sansInt s t = { s with sec := { s.sec with op := 0x31, result := 0, debugOpen := true } }) ∧
  (∀ (s : State) (p : Port), sized s = true → portOpen s p = true → s.sec.session = some p →
    s.fuse.life = .test →
    ∃ t, exec (.debugUnlock p) s = .next t ∧ intBit t .sec 8 = true ∧
      sansInt s t = { s with free := s.free + 1, sec := { s.sec with op := 0x31, result := t.sec.result } }) ∧
  (∀ (s : State) (p : Port), sized s = true → portOpen s p = true → s.sec.session = some p →
    (s.fuse.life = .test ∨ s.fuse.life = .return_) →
    max s.flash.copyA.seq s.flash.copyB.seq + 1 < 2 ^ 32 →
    ∃ t d, exec (.clearDefectRecord p) s = .next t ∧ defectCopy t.flash = some d ∧ intBit t .sec 8 = true ∧
      d.entries = [] ∧
      sansInt s t = { s with
        sec := { s.sec with op := 0x41, result := 0 }
        flash := { s.flash with boots := 0, copyA := t.flash.copyA, copyB := t.flash.copyB } }) ∧
  (∀ (s : State) (p : Port) (w : FuseWrite) (l : Life) (i : Instr) (o : Nat), sized s = true →
    portOpen s p = true → s.sec.session = some p →
    (i = .fuseWrite p w ∧ o = 0x22 ∧ s.fuse.life ≠ .test ∨
      i = .setLifeCycle p l ∧ o = 0x30 ∧ lifeOk s l = false ∨
      i = .debugUnlock p ∧ o = 0x31 ∧ s.fuse.life = .scrap ∨
      i = .clearDefectRecord p ∧ o = 0x41 ∧ (s.fuse.life = .field ∨ s.fuse.life = .scrap)) →
    ∃ t, exec i s = .next t ∧ intBit t .sec 8 = true ∧
      sansInt s t = { s with sec := { s.sec with op := o, result := 2 } })

/-- A write of BLK_CTRL that its page allows takes HALT, ENABLE and FENCE, one that it does not allow
changes none; a halted core holds no job; a fence asked for holds once the core has no job and lifts at once;
SOFT_INIT returns the registers of a halted page and disables its contexts, and is invalid programming of a
page that is not halted (R608 to R613). MARK_COMPLETE declares a shadow complete, DISCARD empties it; both
change nothing of a shadow that an armed epoch locks, and of a page without a shadow (R614, R615). -/
def Obligations.BlockControl : Prop :=
  (∀ (s : State) (p : Page) (on : Bool), sized s = true → barWr s = true →
    ctrlBad s p (ctrlWith s p 1 on) = false →
    ∃ t, exec (.halt p on) s = .next t ∧ (t.hdr p).halt = on ∧ (t.hdr p).enable = (s.hdr p).enable ∧
      (t.hdr p).fence = (s.hdr p).fence) ∧
  (∀ (s : State) (n : Fin 24), sized s = true → barWr s = true →
    ctrlBad s (.core n) (ctrlWith s (.core n) 1 true) = false → haltOn s (.core n) = false →
    s.sched.after.getD n.val none = none →
    ∃ t, exec (.halt (.core n) true) s = .next t ∧ (t.core n.val).job = none ∧
      (∀ j ∈ (s.core n.val).job, (t.slot j.ctx j.slot).state = .empty)) ∧
  (∀ (s : State) (p : Page) (on : Bool) (b : Nat) (i : Instr), barWr s = true →
    (i, b) ∈ [(Instr.halt p on, 1), (.enable p on, 0)] → ctrlBad s p (ctrlWith s p b on) = false →
    p ∈ [Page.mgt, .sec, .ktl, .hif, .mesh, .hbm, .dec, .str, .spt, .csi 0, .csi 7] →
    exec i s = .next { s with hdrs := updAt s.hdrs (pageIdx p) fun h =>
      if b = 1 then { h with halt := on } else { h with enable := on } }) ∧
  (∀ (s : State) (p : Page) (on : Bool), sized s = true → barWr s = true →
    ctrlBad s p (ctrlWith s p 0 on) = false →
    ∃ t, exec (.enable p on) s = .next t ∧ (t.hdr p).enable = on ∧ (t.hdr p).halt = (s.hdr p).halt ∧
      (t.hdr p).fence = (s.hdr p).fence) ∧
  (∀ (s : State) (p : Page) (on : Bool) (i : Instr), sized s = true → barWr s = true →
    (i = .halt p on ∧ ctrlBad s p (ctrlWith s p 1 on) = true ∨
      i = .enable p on ∧ ctrlBad s p (ctrlWith s p 0 on) = true) →
    ∃ t, exec i s = .next t ∧ errBit t p 0 = true ∧ (t.hdr p).halt = (s.hdr p).halt ∧
      (t.hdr p).enable = (s.hdr p).enable ∧ sansLog s t = s) ∧
  (∀ (s : State) (n : Fin 24) (on : Bool), barWr s = true →
    ctrlBad s (.core n) (ctrlWith s (.core n) 2 on) = false →
    exec (.fenceDriver n on) s = .next { s with
      hdrs := updAt s.hdrs (pageIdx (.core n)) fun h => { h with fence := on }
      cores := updAt s.cores n.val fun x =>
        { x with drvFence := on && (x.drvFence || x.job.isNone) } }) ∧
  (∀ (s : State) (n : Fin 24), barWr s = true → halted s (.core n) = true →
    ctrlBad s (.core n) (ctrlWith s (.core n) 3 true) = false →
    exec (.softInit (.core n)) s = .next { s with cores := updAt s.cores n.val fun x => { x with
      mse := List.replicate 4 {}, skewInfo := 0, skewBlock := 0, stall := 0, stallHi := 0
      drvFence := (s.hdr (.core n)).fence } }) ∧
  (∀ s : State, barWr s = true → halted s .dec = true → ctrlBad s .dec (ctrlWith s .dec 3 true) = false →
    exec (.softInit .dec) s = .next { s with dec := { s.dec with
      tableLo := 0, tableHi := 0, cmd := {}, act := List.replicate 128 0
      ctxs := s.dec.ctxs.map fun x => decDisabled { x with pic := none } } }) ∧
  (∀ (s : State) (p : Page), sized s = true → barWr s = true → halted s p = false →
    ctrlBad s p (ctrlWith s p 3 true) = false →
    ∃ t, exec (.softInit p) s = .next t ∧ errBit t p 0 = true ∧
      (t.hdr p).enable = (s.hdr p).enable ∧ (t.hdr p).halt = (s.hdr p).halt ∧ t.mem = s.mem ∧
      t.dec = s.dec ∧ t.enc = s.enc ∧ t.cdy = s.cdy ∧ t.csi = s.csi ∧ t.ktl = s.ktl) ∧
  (∀ (s : State) (p : Page), barWr s = true → bitAt (blkCaps p) 3 = true → locked s p = false → p ≠ .mesh →
    exec (.markComplete p) s = .next { s with hdrs := updAt s.hdrs (pageIdx p) fun h =>
      { h with complete := true } }) ∧
  (∀ s : State, barWr s = true → locked s .mesh = false → exec (.markComplete .mesh) s = .next s) ∧
  (∀ s : State, barWr s = true → locked s .hbm = false →
    exec (.discard .hbm) s = .next { s with
      hdrs := updAt s.hdrs (pageIdx .hbm) (fun h => { h with complete := false })
      hbm := { s.hbm with shRetrain := none } }) ∧
  (∀ s : State, barWr s = true → locked s .ktl = false →
    exec (.discard .ktl) s = .next { s with
      hdrs := updAt s.hdrs (pageIdx .ktl) (fun h => { h with complete := false })
      ktl := { s.ktl with shBank := none, shPlanLen := none, shPlan := none } }) ∧
  (∀ s : State, barWr s = true → locked s .mesh = false →
    exec (.discard .mesh) s = .next { s with
      hdrs := updAt s.hdrs (pageIdx .mesh) (fun h => { h with complete := false })
      mesh := { s.mesh with
        shadow := s.mesh.active, committed := none, shPart := List.replicate 8 none } }) ∧
  (∀ (s : State) (p : Page), sized s = true → barWr s = true → bitAt (blkCaps p) 3 = true →
    locked s p = false →
    ∃ t, exec (.discard p) s = .next t ∧ (t.hdr p).complete = false ∧ t.cores = s.cores ∧ t.mem = s.mem ∧
      (∀ k < 56, k ≠ pageIdx p → t.hdrs.getD k {} = s.hdrs.getD k {})) ∧
  (∀ (s : State) (p : Page) (i : Instr), i ∈ [Instr.markComplete p, .discard p] → sized s = true →
    barWr s = true → bitAt (blkCaps p) 3 = true → locked s p = true →
    ∃ t, exec i s = .next t ∧ errBit t p 0 = true ∧ (t.hdr p).complete = (s.hdr p).complete ∧
      sansLog s t = s) ∧
  (∀ (s : State) (p : Page) (i : Instr), i ∈ [Instr.markComplete p, .discard p] → barWr s = true →
    bitAt (blkCaps p) 3 = false → exec i s = .next s)

/-- INT_FORCE sets the bits that the page has; a write of INT_ENABLE, INT_STATUS, ERR_STATUS or a reserved
offset of a header does what the register's type says and no more, and a read of a counter of type RC clears it
(R14, R571, R607, R620). The configuration header answers its identity and takes Memory Space and Bus Master
Enable (R499). Over SMBus only the pages of R652 are written, in service, and read at the set address; every
other read gives ones; IDCODE answers unless the part is SCRAP; a received error sets its AER status, whose
bit numbers are PRESUMED, log entry 34 (R530, R652, R653). That REGISTER_WRITE stands for the host's reads as
well is log entry 61's. -/
def Obligations.HeadersAndPorts : Prop :=
  (∀ (s : State) (p : Page) (v : W32), sized s = true → barWr s = true →
    ∃ t, exec (.intForce p v) s = .next t ∧
      t.hdrs = (updAt s.hdrs (pageIdx p) fun h =>
        { h with intStatus := h.intStatus ||| (v &&& intBits p) }) ∧ sansInt s t = s) ∧
  (∀ (s : State) (p : Page) (off : Nat) (v : W32), barWr s = true → off % 4 = 0 → off < doorbellBase →
    pageOf off = some (p, 0x014) →
    ∃ t, exec (.registerWrite .bar0 off v) s = .next t ∧
      t.hdrs = (updAt s.hdrs (pageIdx p) fun h => { h with intEnable := v &&& intBits p }) ∧
      sansInt s t = s) ∧
  (∀ (s : State) (p : Page) (off : Nat) (v : W32), barWr s = true → off % 4 = 0 → off < doorbellBase →
    pageOf off = some (p, 0x010) →
    ∃ t, exec (.registerWrite .bar0 off v) s = .next t ∧
      t.hdrs = (updAt s.hdrs (pageIdx p) fun h => { h with intStatus := h.intStatus &&& ~~~v }) ∧
      sansInt s t = s) ∧
  (∀ (s : State) (p : Page) (off : Nat) (v : W32), barWr s = true → off % 4 = 0 → off < doorbellBase →
    pageOf off = some (p, 0x020) →
    exec (.registerWrite .bar0 off v) s = .next { s with hdrs := updAt s.hdrs (pageIdx p) fun h =>
      { h with errStatus := h.errStatus &&& ~~~v } }) ∧
  (∀ (s : State) (p : Page) (off : Nat) (v : W32), barWr s = true → off % 4 = 0 → off < doorbellBase →
    pageOf off = some (p, 0x000) →
    exec (.registerWrite .bar0 off v) s = .next s) ∧
  (∀ (s : State) (p : Page) (off : Nat) (v : W32), barOpen s = true → off % 4 = 0 → off < doorbellBase →
    pageOf off = some (p, 0x040) →
    exec (.registerWrite .bar0Read off v) s = .next { s with
      resp := leBytes 4 (s.hdr p).cntCorr
      hdrs := updAt s.hdrs (pageIdx p) fun h => { h with cntCorr := 0 } }) ∧
  (∀ (s : State) (v : W32), cfgOpen s = true →
    exec (.registerWrite .configRead 0x2c v) s = .next { s with resp := leBytes 4 s.hif.subsys.toNat } ∧
    exec (.registerWrite .configRead 0 v) s = .next { s with
      resp := leBytes 4 (0x7264 * 2 ^ 16 + Config.vendorId.toNat) }) ∧
  (∀ (s : State) (v : W32), cfgOpen s = true → rbit v 2 = s.hif.bme →
    exec (.registerWrite .pciCommand 4 v) s = .next { s with hif := { s.hif with mse := rbit v 1 } }) ∧
  (∀ (s : State) (off : Nat) (v : W32) (sp : RegSpace), cfgOpen s = false → s.hif.linkUp = true →
    s.power.perst = false → sp ∈ [RegSpace.pciCommand, .msixControl, .deviceControl, .deviceControl2, .configRead] →
    exec (.registerWrite sp off v) s = .next { s with link := s.link ++ [.cfgRetry] }) ∧
  (∀ (s : State) (n : Nat) (v : W32), barWr s = true → n < 256 →
    exec (.registerWrite .bar4 (16 * n + 8) v) s = .next { s with hif := { s.hif with
      msix := updAt s.hif.msix n fun x => { x with data := v } } }) ∧
  (∀ (s : State) (off : BitVec 24) (p : Page) (v : W32), smbOpen s = true → s.power.booted = true →
    off.toNat % 4 = 0 → pageOf off.toNat = some (p, 0x020) →
    exec (.smbRegisterWrite off v) s = .next (if p ∈ [Page.mgt, .sec, .fuse] then
      { s with hdrs := updAt s.hdrs (pageIdx p) fun h => { h with errStatus := h.errStatus &&& ~~~v } }
      else s)) ∧
  (∀ (s : State) (off : BitVec 24) (v : W32), (smbOpen s = false ∨ s.power.booted = false) →
    exec (.smbRegisterWrite off v) s = .next s) ∧
  (∀ (s : State) (off : BitVec 24), smbOpen s = true →
    exec (.smbSetReadAddress off) s = .next { s with mgt := { s.mgt with readAddr := off.toNat } }) ∧
  (∀ (s : State) (p : Page), smbOpen s = true → s.power.booted = true → p ∈ [Page.mgt, .sec, .fuse] →
    pageOf s.mgt.readAddr = some (p, 0x000) →
    exec .smbRegisterRead s = .next { s with resp := leBytes 4 (blkId p) }) ∧
  (∀ s : State, smbOpen s = true →
    ((pageOf s.mgt.readAddr).all fun q => !smbPage q.1 || (!s.power.booted && q.1 != .mgt)) = true →
    exec .smbRegisterRead s = .next { s with resp := [0xff, 0xff, 0xff, 0xff] }) ∧
  (∀ s : State, s.power.railsOk = true → s.power.perst = false → s.fuse.life ≠ .scrap →
    exec .idcode s = .next { s with
      resp := leBytes 4 ((2 ^ 28 + 0x7264 * 2 ^ 12 + Config.jedecCode.toNat * 2 + 1) % 2 ^ 32) }) ∧
  (∀ s : State, (s.power.railsOk = false ∨ s.power.perst = true ∨ s.fuse.life = .scrap) →
    exec .idcode s = .next { s with resp := [] }) ∧
  (∀ (s : State) (e : TlpErr) (h : List W32) (b : Nat), s.hif.linkUp = true → s.power.perst = false →
    (e, b) ∈ [(TlpErr.receiver, 0), (.badTlp, 6), (.badDllp, 7), (.replay, 8)] →
    exec (.badTlp e h) s = .next { s with hif := { s.hif with aerCorr := s.hif.aerCorr ||| 2 ^ b } }) ∧
  (∀ (s : State) (e : TlpErr) (h : List W32) (b : Nat), s.hif.linkUp = true → s.power.perst = false →
    (e, b) ∈ [(TlpErr.malformed, 18), (.flowControl, 13), (.dataLink, 4), (.overflow, 17), (.ecrc, 19)] →
    exec (.badTlp e h) s = .next { s with hif := { s.hif with
      aerUncorr := s.hif.aerUncorr ||| 2 ^ b, hdrLog := if s.hif.hdrLog = [] then h.take 4 else s.hif.hdrLog } }) ∧
  (∀ (s : State) (h : List W32), sized s = true → s.hif.linkUp = true → s.power.perst = false →
    ∃ t, exec (.badTlp .buffer h) s = .next t ∧ errBit t .hif 3 = true ∧ sansLog s t = s) ∧
  (∀ (s : State) (e : TlpErr) (h : List W32), (s.hif.linkUp = false ∨ s.power.perst = true) →
    exec (.badTlp e h) s = .next s)

/-! ## The block as a whole -/

/-- A step runs the command that waits longest with the rest of the queue. The queue is the model's form
of a block that takes commands, log entry 1. On an empty queue a step is one Kettle tick: the count advances by
one, but under reset, each context's deficit falls by the number of its ACTIVE jobs, the FSYNC_OUT balls follow
their enables, and a core whose memory another agent found uncorrectable goes on to its takeover (R44, R70,
R112, R434). That an idle step is a tick is the model's choice, log entry 1. -/
def Obligations.StepRunsTheFront : Prop :=
  (∀ (s : State) (c : Instr) (rest : List Instr),
    step { s with pending := c :: rest } = exec c { s with pending := rest }) ∧
  (∀ s : State, s.pending = [] → ∃ t, step s = .next t ∧ t.up = s.up + 1 ∧
    t.ktl.count = (if s.power.perst then s.ktl.count else s.ktl.count + 1) ∧
    t.ktl.fsync = s.ktl.fsync.map fun l => { l with driven := rbit l.cfg 0 }) ∧
  (∀ s : State, s.pending = [] → (∀ n < 24, (s.core n).memFail = false) →
    step s = .next { s with
      ktl := { s.ktl with
        up := s.up + 1, count := if s.power.perst then s.ktl.count else s.ktl.count + 1
        fsync := s.ktl.fsync.map fun l => { l with driven := rbit l.cfg 0 } }
      sched := { s.sched with ctxs := s.sched.ctxs.map fun c => { c with
        deficit := c.deficit - ((c.slots.filter fun k => k.state == .active).length : Int) } } })

/-- What reset leaves, by the reset values of R6, R43, R461, R490, R503, R607 and R618: no context is
enabled, the plan is STOPPED, LOCK and the safe state are clear, and every page is enabled, not READY,
without a status bit. The model's own: nothing waits, no memory byte is listed, and the two invariants
hold, log entries 1, 3 and 5. -/
def Obligations.ResetState : Prop :=
  (State.reset.pending = [] ∧ State.reset.mem = [] ∧ State.reset.ktl.count = 0 ∧
  State.reset.ktl.planState = .stopped ∧ State.reset.ktl.planLen = 33333 ∧ State.reset.hbm.lock = false ∧
  State.reset.hbm.map = 0 ∧ State.reset.mgt.safe = false ∧ State.reset.hif.bme = false ∧
  (∀ c < 256, (State.reset.ctx c).enabled = false) ∧ (∀ n < 24, (State.reset.core n).job = none) ∧
  (∀ n < 24, partOfCore State.reset n = 0) ∧
  (∀ p, (State.reset.hdr p).enable = true ∧ (State.reset.hdr p).halt = false ∧
    (State.reset.hdr p).ready = false ∧ (State.reset.hdr p).intStatus = 0 ∧
    (State.reset.hdr p).errStatus = 0 ∧ (State.reset.hdr p).errSeverity = severityReset (pageIdx p))) ∧
  (Memory.wf State.reset.mem = true ∧ sized State.reset = true)

/-- Every step keeps the memory's canonical form: addresses rise strictly, and no listed byte is what an
unlisted address reads as. The form is the model's, log entry 3. -/
def Obligations.MemoryStaysCanonical : Prop :=
  ∀ s t : State, Memory.wf s.mem = true → step s = .next t → Memory.wf t.mem = true

/-- Every step keeps the numbered parts: no page, core, cluster, bank, line, input, FIFO, context,
channel, vector, ring, unit or slot is added or lost. -/
def Obligations.PartsStayInPlace : Prop :=
  ∀ s t : State, sized s = true → step s = .next t → sized t = true

/-- While the device does not answer on the link and no link is up, no register write or read of the host
changes anything but the answer (R504, R524, R525). -/
def Obligations.ClosedToTheHost : Prop :=
  ∀ (s : State) (i : Instr) (v : W32) (w : Option W32) (p : Page) (on : Bool) (n : Nat), barOpen s = false →
    s.hif.linkUp = false →
    i ∈ [Instr.start v, .stop v, .load v, .commit v, .invalidate v, .ktlLtDataAccess w, .arm v, .disarm v,
      .ctxEnable (Fin.ofNat 256 n), .ctxDisable (Fin.ofNat 256 n), .hold (Fin.ofNat 256 n), .unhold (Fin.ofNat 256 n),
      .hbmCfgWrite v, .enter v, .exit v, .meshStDataAccess w, .meshStCtrlWrite v, .meshPartResetGo v,
      .bar0AccessInvalid on n n, .bar0Timeout n, .quiesce, .pop, .errFirstClear p, .halt p on, .enable p on,
      .softInit p, .markComplete p, .discard p, .intForce p v, .registerWrite .bar0 n v,
      .registerWrite .bar4 n v, .secMboxDataAccess w, .go v, .getIdentity .bar0, .openSession .bar0,
      .sptRingConsWrite (Fin.ofNat 64 n) v, .hdmaCfgWrite (Fin.ofNat 8 n) v, .clear (Fin.ofNat 256 n),
      .bar2Read 0 (Fin.ofNat 4097 n), .bar2Write 0 [], .hifWinCfgWrite (Fin.ofNat 64 n) v,
      .registerWrite .pciCommand n v, .registerWrite .configRead n v, .functionLevelReset] →
    exec i s = .next s
end

