-- ==== Sys2Proof/Laws/State.lean ====
section
/-! SUPPORT. What each update of one part leaves as it was and what it writes, field by field, so that
no proof unfolds a record update. -/

namespace Sys2Proof.Machine

variable (s : State)

section
variable (f : Ktl → Ktl)
@[simp] theorem State.onKtl_pending : (s.onKtl f).pending = s.pending := rfl
@[simp] theorem State.onKtl_free : (s.onKtl f).free = s.free := rfl
@[simp] theorem State.onKtl_resp : (s.onKtl f).resp = s.resp := rfl
@[simp] theorem State.onKtl_link : (s.onKtl f).link = s.link := rfl
@[simp] theorem State.onKtl_mem : (s.onKtl f).mem = s.mem := rfl
@[simp] theorem State.onKtl_badWords : (s.onKtl f).badWords = s.badWords := rfl
@[simp] theorem State.onKtl_power : (s.onKtl f).power = s.power := rfl
@[simp] theorem State.onKtl_hdrs : (s.onKtl f).hdrs = s.hdrs := rfl
@[simp] theorem State.onKtl_ktl : (s.onKtl f).ktl = f s.ktl := rfl
@[simp] theorem State.onKtl_mgt : (s.onKtl f).mgt = s.mgt := rfl
@[simp] theorem State.onKtl_fuse : (s.onKtl f).fuse = s.fuse := rfl
@[simp] theorem State.onKtl_flash : (s.onKtl f).flash = s.flash := rfl
@[simp] theorem State.onKtl_sec : (s.onKtl f).sec = s.sec := rfl
@[simp] theorem State.onKtl_hif : (s.onKtl f).hif = s.hif := rfl
@[simp] theorem State.onKtl_sched : (s.onKtl f).sched = s.sched := rfl
@[simp] theorem State.onKtl_cores : (s.onKtl f).cores = s.cores := rfl
@[simp] theorem State.onKtl_clus : (s.onKtl f).clus = s.clus := rfl
@[simp] theorem State.onKtl_dec : (s.onKtl f).dec = s.dec := rfl
@[simp] theorem State.onKtl_str : (s.onKtl f).str = s.str := rfl
@[simp] theorem State.onKtl_enc : (s.onKtl f).enc = s.enc := rfl
@[simp] theorem State.onKtl_csi : (s.onKtl f).csi = s.csi := rfl
@[simp] theorem State.onKtl_scl : (s.onKtl f).scl = s.scl := rfl
@[simp] theorem State.onKtl_cdy : (s.onKtl f).cdy = s.cdy := rfl
@[simp] theorem State.onKtl_spt : (s.onKtl f).spt = s.spt := rfl
@[simp] theorem State.onKtl_hbm : (s.onKtl f).hbm = s.hbm := rfl
@[simp] theorem State.onKtl_mesh : (s.onKtl f).mesh = s.mesh := rfl
@[simp] theorem State.onKtl_bist : (s.onKtl f).bist = s.bist := rfl
end

section
variable (f : Mgt → Mgt)
@[simp] theorem State.onMgt_pending : (s.onMgt f).pending = s.pending := rfl
@[simp] theorem State.onMgt_free : (s.onMgt f).free = s.free := rfl
@[simp] theorem State.onMgt_resp : (s.onMgt f).resp = s.resp := rfl
@[simp] theorem State.onMgt_link : (s.onMgt f).link = s.link := rfl
@[simp] theorem State.onMgt_mem : (s.onMgt f).mem = s.mem := rfl
@[simp] theorem State.onMgt_badWords : (s.onMgt f).badWords = s.badWords := rfl
@[simp] theorem State.onMgt_power : (s.onMgt f).power = s.power := rfl
@[simp] theorem State.onMgt_hdrs : (s.onMgt f).hdrs = s.hdrs := rfl
@[simp] theorem State.onMgt_ktl : (s.onMgt f).ktl = s.ktl := rfl
@[simp] theorem State.onMgt_mgt : (s.onMgt f).mgt = f s.mgt := rfl
@[simp] theorem State.onMgt_fuse : (s.onMgt f).fuse = s.fuse := rfl
@[simp] theorem State.onMgt_flash : (s.onMgt f).flash = s.flash := rfl
@[simp] theorem State.onMgt_sec : (s.onMgt f).sec = s.sec := rfl
@[simp] theorem State.onMgt_hif : (s.onMgt f).hif = s.hif := rfl
@[simp] theorem State.onMgt_sched : (s.onMgt f).sched = s.sched := rfl
@[simp] theorem State.onMgt_cores : (s.onMgt f).cores = s.cores := rfl
@[simp] theorem State.onMgt_clus : (s.onMgt f).clus = s.clus := rfl
@[simp] theorem State.onMgt_dec : (s.onMgt f).dec = s.dec := rfl
@[simp] theorem State.onMgt_str : (s.onMgt f).str = s.str := rfl
@[simp] theorem State.onMgt_enc : (s.onMgt f).enc = s.enc := rfl
@[simp] theorem State.onMgt_csi : (s.onMgt f).csi = s.csi := rfl
@[simp] theorem State.onMgt_scl : (s.onMgt f).scl = s.scl := rfl
@[simp] theorem State.onMgt_cdy : (s.onMgt f).cdy = s.cdy := rfl
@[simp] theorem State.onMgt_spt : (s.onMgt f).spt = s.spt := rfl
@[simp] theorem State.onMgt_hbm : (s.onMgt f).hbm = s.hbm := rfl
@[simp] theorem State.onMgt_mesh : (s.onMgt f).mesh = s.mesh := rfl
@[simp] theorem State.onMgt_bist : (s.onMgt f).bist = s.bist := rfl
end

section
variable (f : Fuse → Fuse)
@[simp] theorem State.onFuse_pending : (s.onFuse f).pending = s.pending := rfl
@[simp] theorem State.onFuse_free : (s.onFuse f).free = s.free := rfl
@[simp] theorem State.onFuse_resp : (s.onFuse f).resp = s.resp := rfl
@[simp] theorem State.onFuse_link : (s.onFuse f).link = s.link := rfl
@[simp] theorem State.onFuse_mem : (s.onFuse f).mem = s.mem := rfl
@[simp] theorem State.onFuse_badWords : (s.onFuse f).badWords = s.badWords := rfl
@[simp] theorem State.onFuse_power : (s.onFuse f).power = s.power := rfl
@[simp] theorem State.onFuse_hdrs : (s.onFuse f).hdrs = s.hdrs := rfl
@[simp] theorem State.onFuse_ktl : (s.onFuse f).ktl = s.ktl := rfl
@[simp] theorem State.onFuse_mgt : (s.onFuse f).mgt = s.mgt := rfl
@[simp] theorem State.onFuse_fuse : (s.onFuse f).fuse = f s.fuse := rfl
@[simp] theorem State.onFuse_flash : (s.onFuse f).flash = s.flash := rfl
@[simp] theorem State.onFuse_sec : (s.onFuse f).sec = s.sec := rfl
@[simp] theorem State.onFuse_hif : (s.onFuse f).hif = s.hif := rfl
@[simp] theorem State.onFuse_sched : (s.onFuse f).sched = s.sched := rfl
@[simp] theorem State.onFuse_cores : (s.onFuse f).cores = s.cores := rfl
@[simp] theorem State.onFuse_clus : (s.onFuse f).clus = s.clus := rfl
@[simp] theorem State.onFuse_dec : (s.onFuse f).dec = s.dec := rfl
@[simp] theorem State.onFuse_str : (s.onFuse f).str = s.str := rfl
@[simp] theorem State.onFuse_enc : (s.onFuse f).enc = s.enc := rfl
@[simp] theorem State.onFuse_csi : (s.onFuse f).csi = s.csi := rfl
@[simp] theorem State.onFuse_scl : (s.onFuse f).scl = s.scl := rfl
@[simp] theorem State.onFuse_cdy : (s.onFuse f).cdy = s.cdy := rfl
@[simp] theorem State.onFuse_spt : (s.onFuse f).spt = s.spt := rfl
@[simp] theorem State.onFuse_hbm : (s.onFuse f).hbm = s.hbm := rfl
@[simp] theorem State.onFuse_mesh : (s.onFuse f).mesh = s.mesh := rfl
@[simp] theorem State.onFuse_bist : (s.onFuse f).bist = s.bist := rfl
end

section
variable (f : Flash → Flash)
@[simp] theorem State.onFlash_pending : (s.onFlash f).pending = s.pending := rfl
@[simp] theorem State.onFlash_free : (s.onFlash f).free = s.free := rfl
@[simp] theorem State.onFlash_resp : (s.onFlash f).resp = s.resp := rfl
@[simp] theorem State.onFlash_link : (s.onFlash f).link = s.link := rfl
@[simp] theorem State.onFlash_mem : (s.onFlash f).mem = s.mem := rfl
@[simp] theorem State.onFlash_badWords : (s.onFlash f).badWords = s.badWords := rfl
@[simp] theorem State.onFlash_power : (s.onFlash f).power = s.power := rfl
@[simp] theorem State.onFlash_hdrs : (s.onFlash f).hdrs = s.hdrs := rfl
@[simp] theorem State.onFlash_ktl : (s.onFlash f).ktl = s.ktl := rfl
@[simp] theorem State.onFlash_mgt : (s.onFlash f).mgt = s.mgt := rfl
@[simp] theorem State.onFlash_fuse : (s.onFlash f).fuse = s.fuse := rfl
@[simp] theorem State.onFlash_flash : (s.onFlash f).flash = f s.flash := rfl
@[simp] theorem State.onFlash_sec : (s.onFlash f).sec = s.sec := rfl
@[simp] theorem State.onFlash_hif : (s.onFlash f).hif = s.hif := rfl
@[simp] theorem State.onFlash_sched : (s.onFlash f).sched = s.sched := rfl
@[simp] theorem State.onFlash_cores : (s.onFlash f).cores = s.cores := rfl
@[simp] theorem State.onFlash_clus : (s.onFlash f).clus = s.clus := rfl
@[simp] theorem State.onFlash_dec : (s.onFlash f).dec = s.dec := rfl
@[simp] theorem State.onFlash_str : (s.onFlash f).str = s.str := rfl
@[simp] theorem State.onFlash_enc : (s.onFlash f).enc = s.enc := rfl
@[simp] theorem State.onFlash_csi : (s.onFlash f).csi = s.csi := rfl
@[simp] theorem State.onFlash_scl : (s.onFlash f).scl = s.scl := rfl
@[simp] theorem State.onFlash_cdy : (s.onFlash f).cdy = s.cdy := rfl
@[simp] theorem State.onFlash_spt : (s.onFlash f).spt = s.spt := rfl
@[simp] theorem State.onFlash_hbm : (s.onFlash f).hbm = s.hbm := rfl
@[simp] theorem State.onFlash_mesh : (s.onFlash f).mesh = s.mesh := rfl
@[simp] theorem State.onFlash_bist : (s.onFlash f).bist = s.bist := rfl
end

section
variable (f : Sec → Sec)
@[simp] theorem State.onSec_pending : (s.onSec f).pending = s.pending := rfl
@[simp] theorem State.onSec_free : (s.onSec f).free = s.free := rfl
@[simp] theorem State.onSec_resp : (s.onSec f).resp = s.resp := rfl
@[simp] theorem State.onSec_link : (s.onSec f).link = s.link := rfl
@[simp] theorem State.onSec_mem : (s.onSec f).mem = s.mem := rfl
@[simp] theorem State.onSec_badWords : (s.onSec f).badWords = s.badWords := rfl
@[simp] theorem State.onSec_power : (s.onSec f).power = s.power := rfl
@[simp] theorem State.onSec_hdrs : (s.onSec f).hdrs = s.hdrs := rfl
@[simp] theorem State.onSec_ktl : (s.onSec f).ktl = s.ktl := rfl
@[simp] theorem State.onSec_mgt : (s.onSec f).mgt = s.mgt := rfl
@[simp] theorem State.onSec_fuse : (s.onSec f).fuse = s.fuse := rfl
@[simp] theorem State.onSec_flash : (s.onSec f).flash = s.flash := rfl
@[simp] theorem State.onSec_sec : (s.onSec f).sec = f s.sec := rfl
@[simp] theorem State.onSec_hif : (s.onSec f).hif = s.hif := rfl
@[simp] theorem State.onSec_sched : (s.onSec f).sched = s.sched := rfl
@[simp] theorem State.onSec_cores : (s.onSec f).cores = s.cores := rfl
@[simp] theorem State.onSec_clus : (s.onSec f).clus = s.clus := rfl
@[simp] theorem State.onSec_dec : (s.onSec f).dec = s.dec := rfl
@[simp] theorem State.onSec_str : (s.onSec f).str = s.str := rfl
@[simp] theorem State.onSec_enc : (s.onSec f).enc = s.enc := rfl
@[simp] theorem State.onSec_csi : (s.onSec f).csi = s.csi := rfl
@[simp] theorem State.onSec_scl : (s.onSec f).scl = s.scl := rfl
@[simp] theorem State.onSec_cdy : (s.onSec f).cdy = s.cdy := rfl
@[simp] theorem State.onSec_spt : (s.onSec f).spt = s.spt := rfl
@[simp] theorem State.onSec_hbm : (s.onSec f).hbm = s.hbm := rfl
@[simp] theorem State.onSec_mesh : (s.onSec f).mesh = s.mesh := rfl
@[simp] theorem State.onSec_bist : (s.onSec f).bist = s.bist := rfl
end

section
variable (f : Hif → Hif)
@[simp] theorem State.onHif_pending : (s.onHif f).pending = s.pending := rfl
@[simp] theorem State.onHif_free : (s.onHif f).free = s.free := rfl
@[simp] theorem State.onHif_resp : (s.onHif f).resp = s.resp := rfl
@[simp] theorem State.onHif_link : (s.onHif f).link = s.link := rfl
@[simp] theorem State.onHif_mem : (s.onHif f).mem = s.mem := rfl
@[simp] theorem State.onHif_badWords : (s.onHif f).badWords = s.badWords := rfl
@[simp] theorem State.onHif_power : (s.onHif f).power = s.power := rfl
@[simp] theorem State.onHif_hdrs : (s.onHif f).hdrs = s.hdrs := rfl
@[simp] theorem State.onHif_ktl : (s.onHif f).ktl = s.ktl := rfl
@[simp] theorem State.onHif_mgt : (s.onHif f).mgt = s.mgt := rfl
@[simp] theorem State.onHif_fuse : (s.onHif f).fuse = s.fuse := rfl
@[simp] theorem State.onHif_flash : (s.onHif f).flash = s.flash := rfl
@[simp] theorem State.onHif_sec : (s.onHif f).sec = s.sec := rfl
@[simp] theorem State.onHif_hif : (s.onHif f).hif = f s.hif := rfl
@[simp] theorem State.onHif_sched : (s.onHif f).sched = s.sched := rfl
@[simp] theorem State.onHif_cores : (s.onHif f).cores = s.cores := rfl
@[simp] theorem State.onHif_clus : (s.onHif f).clus = s.clus := rfl
@[simp] theorem State.onHif_dec : (s.onHif f).dec = s.dec := rfl
@[simp] theorem State.onHif_str : (s.onHif f).str = s.str := rfl
@[simp] theorem State.onHif_enc : (s.onHif f).enc = s.enc := rfl
@[simp] theorem State.onHif_csi : (s.onHif f).csi = s.csi := rfl
@[simp] theorem State.onHif_scl : (s.onHif f).scl = s.scl := rfl
@[simp] theorem State.onHif_cdy : (s.onHif f).cdy = s.cdy := rfl
@[simp] theorem State.onHif_spt : (s.onHif f).spt = s.spt := rfl
@[simp] theorem State.onHif_hbm : (s.onHif f).hbm = s.hbm := rfl
@[simp] theorem State.onHif_mesh : (s.onHif f).mesh = s.mesh := rfl
@[simp] theorem State.onHif_bist : (s.onHif f).bist = s.bist := rfl
end

section
variable (f : Sched → Sched)
@[simp] theorem State.onSched_pending : (s.onSched f).pending = s.pending := rfl
@[simp] theorem State.onSched_free : (s.onSched f).free = s.free := rfl
@[simp] theorem State.onSched_resp : (s.onSched f).resp = s.resp := rfl
@[simp] theorem State.onSched_link : (s.onSched f).link = s.link := rfl
@[simp] theorem State.onSched_mem : (s.onSched f).mem = s.mem := rfl
@[simp] theorem State.onSched_badWords : (s.onSched f).badWords = s.badWords := rfl
@[simp] theorem State.onSched_power : (s.onSched f).power = s.power := rfl
@[simp] theorem State.onSched_hdrs : (s.onSched f).hdrs = s.hdrs := rfl
@[simp] theorem State.onSched_ktl : (s.onSched f).ktl = s.ktl := rfl
@[simp] theorem State.onSched_mgt : (s.onSched f).mgt = s.mgt := rfl
@[simp] theorem State.onSched_fuse : (s.onSched f).fuse = s.fuse := rfl
@[simp] theorem State.onSched_flash : (s.onSched f).flash = s.flash := rfl
@[simp] theorem State.onSched_sec : (s.onSched f).sec = s.sec := rfl
@[simp] theorem State.onSched_hif : (s.onSched f).hif = s.hif := rfl
@[simp] theorem State.onSched_sched : (s.onSched f).sched = f s.sched := rfl
@[simp] theorem State.onSched_cores : (s.onSched f).cores = s.cores := rfl
@[simp] theorem State.onSched_clus : (s.onSched f).clus = s.clus := rfl
@[simp] theorem State.onSched_dec : (s.onSched f).dec = s.dec := rfl
@[simp] theorem State.onSched_str : (s.onSched f).str = s.str := rfl
@[simp] theorem State.onSched_enc : (s.onSched f).enc = s.enc := rfl
@[simp] theorem State.onSched_csi : (s.onSched f).csi = s.csi := rfl
@[simp] theorem State.onSched_scl : (s.onSched f).scl = s.scl := rfl
@[simp] theorem State.onSched_cdy : (s.onSched f).cdy = s.cdy := rfl
@[simp] theorem State.onSched_spt : (s.onSched f).spt = s.spt := rfl
@[simp] theorem State.onSched_hbm : (s.onSched f).hbm = s.hbm := rfl
@[simp] theorem State.onSched_mesh : (s.onSched f).mesh = s.mesh := rfl
@[simp] theorem State.onSched_bist : (s.onSched f).bist = s.bist := rfl
end

section
variable (f : Dec → Dec)
@[simp] theorem State.onDec_pending : (s.onDec f).pending = s.pending := rfl
@[simp] theorem State.onDec_free : (s.onDec f).free = s.free := rfl
@[simp] theorem State.onDec_resp : (s.onDec f).resp = s.resp := rfl
@[simp] theorem State.onDec_link : (s.onDec f).link = s.link := rfl
@[simp] theorem State.onDec_mem : (s.onDec f).mem = s.mem := rfl
@[simp] theorem State.onDec_badWords : (s.onDec f).badWords = s.badWords := rfl
@[simp] theorem State.onDec_power : (s.onDec f).power = s.power := rfl
@[simp] theorem State.onDec_hdrs : (s.onDec f).hdrs = s.hdrs := rfl
@[simp] theorem State.onDec_ktl : (s.onDec f).ktl = s.ktl := rfl
@[simp] theorem State.onDec_mgt : (s.onDec f).mgt = s.mgt := rfl
@[simp] theorem State.onDec_fuse : (s.onDec f).fuse = s.fuse := rfl
@[simp] theorem State.onDec_flash : (s.onDec f).flash = s.flash := rfl
@[simp] theorem State.onDec_sec : (s.onDec f).sec = s.sec := rfl
@[simp] theorem State.onDec_hif : (s.onDec f).hif = s.hif := rfl
@[simp] theorem State.onDec_sched : (s.onDec f).sched = s.sched := rfl
@[simp] theorem State.onDec_cores : (s.onDec f).cores = s.cores := rfl
@[simp] theorem State.onDec_clus : (s.onDec f).clus = s.clus := rfl
@[simp] theorem State.onDec_dec : (s.onDec f).dec = f s.dec := rfl
@[simp] theorem State.onDec_str : (s.onDec f).str = s.str := rfl
@[simp] theorem State.onDec_enc : (s.onDec f).enc = s.enc := rfl
@[simp] theorem State.onDec_csi : (s.onDec f).csi = s.csi := rfl
@[simp] theorem State.onDec_scl : (s.onDec f).scl = s.scl := rfl
@[simp] theorem State.onDec_cdy : (s.onDec f).cdy = s.cdy := rfl
@[simp] theorem State.onDec_spt : (s.onDec f).spt = s.spt := rfl
@[simp] theorem State.onDec_hbm : (s.onDec f).hbm = s.hbm := rfl
@[simp] theorem State.onDec_mesh : (s.onDec f).mesh = s.mesh := rfl
@[simp] theorem State.onDec_bist : (s.onDec f).bist = s.bist := rfl
end

section
variable (f : Str → Str)
@[simp] theorem State.onStr_pending : (s.onStr f).pending = s.pending := rfl
@[simp] theorem State.onStr_free : (s.onStr f).free = s.free := rfl
@[simp] theorem State.onStr_resp : (s.onStr f).resp = s.resp := rfl
@[simp] theorem State.onStr_link : (s.onStr f).link = s.link := rfl
@[simp] theorem State.onStr_mem : (s.onStr f).mem = s.mem := rfl
@[simp] theorem State.onStr_badWords : (s.onStr f).badWords = s.badWords := rfl
@[simp] theorem State.onStr_power : (s.onStr f).power = s.power := rfl
@[simp] theorem State.onStr_hdrs : (s.onStr f).hdrs = s.hdrs := rfl
@[simp] theorem State.onStr_ktl : (s.onStr f).ktl = s.ktl := rfl
@[simp] theorem State.onStr_mgt : (s.onStr f).mgt = s.mgt := rfl
@[simp] theorem State.onStr_fuse : (s.onStr f).fuse = s.fuse := rfl
@[simp] theorem State.onStr_flash : (s.onStr f).flash = s.flash := rfl
@[simp] theorem State.onStr_sec : (s.onStr f).sec = s.sec := rfl
@[simp] theorem State.onStr_hif : (s.onStr f).hif = s.hif := rfl
@[simp] theorem State.onStr_sched : (s.onStr f).sched = s.sched := rfl
@[simp] theorem State.onStr_cores : (s.onStr f).cores = s.cores := rfl
@[simp] theorem State.onStr_clus : (s.onStr f).clus = s.clus := rfl
@[simp] theorem State.onStr_dec : (s.onStr f).dec = s.dec := rfl
@[simp] theorem State.onStr_str : (s.onStr f).str = f s.str := rfl
@[simp] theorem State.onStr_enc : (s.onStr f).enc = s.enc := rfl
@[simp] theorem State.onStr_csi : (s.onStr f).csi = s.csi := rfl
@[simp] theorem State.onStr_scl : (s.onStr f).scl = s.scl := rfl
@[simp] theorem State.onStr_cdy : (s.onStr f).cdy = s.cdy := rfl
@[simp] theorem State.onStr_spt : (s.onStr f).spt = s.spt := rfl
@[simp] theorem State.onStr_hbm : (s.onStr f).hbm = s.hbm := rfl
@[simp] theorem State.onStr_mesh : (s.onStr f).mesh = s.mesh := rfl
@[simp] theorem State.onStr_bist : (s.onStr f).bist = s.bist := rfl
end

section
variable (f : Enc → Enc)
@[simp] theorem State.onEnc_pending : (s.onEnc f).pending = s.pending := rfl
@[simp] theorem State.onEnc_free : (s.onEnc f).free = s.free := rfl
@[simp] theorem State.onEnc_resp : (s.onEnc f).resp = s.resp := rfl
@[simp] theorem State.onEnc_link : (s.onEnc f).link = s.link := rfl
@[simp] theorem State.onEnc_mem : (s.onEnc f).mem = s.mem := rfl
@[simp] theorem State.onEnc_badWords : (s.onEnc f).badWords = s.badWords := rfl
@[simp] theorem State.onEnc_power : (s.onEnc f).power = s.power := rfl
@[simp] theorem State.onEnc_hdrs : (s.onEnc f).hdrs = s.hdrs := rfl
@[simp] theorem State.onEnc_ktl : (s.onEnc f).ktl = s.ktl := rfl
@[simp] theorem State.onEnc_mgt : (s.onEnc f).mgt = s.mgt := rfl
@[simp] theorem State.onEnc_fuse : (s.onEnc f).fuse = s.fuse := rfl
@[simp] theorem State.onEnc_flash : (s.onEnc f).flash = s.flash := rfl
@[simp] theorem State.onEnc_sec : (s.onEnc f).sec = s.sec := rfl
@[simp] theorem State.onEnc_hif : (s.onEnc f).hif = s.hif := rfl
@[simp] theorem State.onEnc_sched : (s.onEnc f).sched = s.sched := rfl
@[simp] theorem State.onEnc_cores : (s.onEnc f).cores = s.cores := rfl
@[simp] theorem State.onEnc_clus : (s.onEnc f).clus = s.clus := rfl
@[simp] theorem State.onEnc_dec : (s.onEnc f).dec = s.dec := rfl
@[simp] theorem State.onEnc_str : (s.onEnc f).str = s.str := rfl
@[simp] theorem State.onEnc_enc : (s.onEnc f).enc = f s.enc := rfl
@[simp] theorem State.onEnc_csi : (s.onEnc f).csi = s.csi := rfl
@[simp] theorem State.onEnc_scl : (s.onEnc f).scl = s.scl := rfl
@[simp] theorem State.onEnc_cdy : (s.onEnc f).cdy = s.cdy := rfl
@[simp] theorem State.onEnc_spt : (s.onEnc f).spt = s.spt := rfl
@[simp] theorem State.onEnc_hbm : (s.onEnc f).hbm = s.hbm := rfl
@[simp] theorem State.onEnc_mesh : (s.onEnc f).mesh = s.mesh := rfl
@[simp] theorem State.onEnc_bist : (s.onEnc f).bist = s.bist := rfl
end

section
variable (f : Csi → Csi)
@[simp] theorem State.onCsi_pending : (s.onCsi f).pending = s.pending := rfl
@[simp] theorem State.onCsi_free : (s.onCsi f).free = s.free := rfl
@[simp] theorem State.onCsi_resp : (s.onCsi f).resp = s.resp := rfl
@[simp] theorem State.onCsi_link : (s.onCsi f).link = s.link := rfl
@[simp] theorem State.onCsi_mem : (s.onCsi f).mem = s.mem := rfl
@[simp] theorem State.onCsi_badWords : (s.onCsi f).badWords = s.badWords := rfl
@[simp] theorem State.onCsi_power : (s.onCsi f).power = s.power := rfl
@[simp] theorem State.onCsi_hdrs : (s.onCsi f).hdrs = s.hdrs := rfl
@[simp] theorem State.onCsi_ktl : (s.onCsi f).ktl = s.ktl := rfl
@[simp] theorem State.onCsi_mgt : (s.onCsi f).mgt = s.mgt := rfl
@[simp] theorem State.onCsi_fuse : (s.onCsi f).fuse = s.fuse := rfl
@[simp] theorem State.onCsi_flash : (s.onCsi f).flash = s.flash := rfl
@[simp] theorem State.onCsi_sec : (s.onCsi f).sec = s.sec := rfl
@[simp] theorem State.onCsi_hif : (s.onCsi f).hif = s.hif := rfl
@[simp] theorem State.onCsi_sched : (s.onCsi f).sched = s.sched := rfl
@[simp] theorem State.onCsi_cores : (s.onCsi f).cores = s.cores := rfl
@[simp] theorem State.onCsi_clus : (s.onCsi f).clus = s.clus := rfl
@[simp] theorem State.onCsi_dec : (s.onCsi f).dec = s.dec := rfl
@[simp] theorem State.onCsi_str : (s.onCsi f).str = s.str := rfl
@[simp] theorem State.onCsi_enc : (s.onCsi f).enc = s.enc := rfl
@[simp] theorem State.onCsi_csi : (s.onCsi f).csi = f s.csi := rfl
@[simp] theorem State.onCsi_scl : (s.onCsi f).scl = s.scl := rfl
@[simp] theorem State.onCsi_cdy : (s.onCsi f).cdy = s.cdy := rfl
@[simp] theorem State.onCsi_spt : (s.onCsi f).spt = s.spt := rfl
@[simp] theorem State.onCsi_hbm : (s.onCsi f).hbm = s.hbm := rfl
@[simp] theorem State.onCsi_mesh : (s.onCsi f).mesh = s.mesh := rfl
@[simp] theorem State.onCsi_bist : (s.onCsi f).bist = s.bist := rfl
end

section
variable (f : Scl → Scl)
@[simp] theorem State.onScl_pending : (s.onScl f).pending = s.pending := rfl
@[simp] theorem State.onScl_free : (s.onScl f).free = s.free := rfl
@[simp] theorem State.onScl_resp : (s.onScl f).resp = s.resp := rfl
@[simp] theorem State.onScl_link : (s.onScl f).link = s.link := rfl
@[simp] theorem State.onScl_mem : (s.onScl f).mem = s.mem := rfl
@[simp] theorem State.onScl_badWords : (s.onScl f).badWords = s.badWords := rfl
@[simp] theorem State.onScl_power : (s.onScl f).power = s.power := rfl
@[simp] theorem State.onScl_hdrs : (s.onScl f).hdrs = s.hdrs := rfl
@[simp] theorem State.onScl_ktl : (s.onScl f).ktl = s.ktl := rfl
@[simp] theorem State.onScl_mgt : (s.onScl f).mgt = s.mgt := rfl
@[simp] theorem State.onScl_fuse : (s.onScl f).fuse = s.fuse := rfl
@[simp] theorem State.onScl_flash : (s.onScl f).flash = s.flash := rfl
@[simp] theorem State.onScl_sec : (s.onScl f).sec = s.sec := rfl
@[simp] theorem State.onScl_hif : (s.onScl f).hif = s.hif := rfl
@[simp] theorem State.onScl_sched : (s.onScl f).sched = s.sched := rfl
@[simp] theorem State.onScl_cores : (s.onScl f).cores = s.cores := rfl
@[simp] theorem State.onScl_clus : (s.onScl f).clus = s.clus := rfl
@[simp] theorem State.onScl_dec : (s.onScl f).dec = s.dec := rfl
@[simp] theorem State.onScl_str : (s.onScl f).str = s.str := rfl
@[simp] theorem State.onScl_enc : (s.onScl f).enc = s.enc := rfl
@[simp] theorem State.onScl_csi : (s.onScl f).csi = s.csi := rfl
@[simp] theorem State.onScl_scl : (s.onScl f).scl = f s.scl := rfl
@[simp] theorem State.onScl_cdy : (s.onScl f).cdy = s.cdy := rfl
@[simp] theorem State.onScl_spt : (s.onScl f).spt = s.spt := rfl
@[simp] theorem State.onScl_hbm : (s.onScl f).hbm = s.hbm := rfl
@[simp] theorem State.onScl_mesh : (s.onScl f).mesh = s.mesh := rfl
@[simp] theorem State.onScl_bist : (s.onScl f).bist = s.bist := rfl
end

section
variable (f : Cdy → Cdy)
@[simp] theorem State.onCdy_pending : (s.onCdy f).pending = s.pending := rfl
@[simp] theorem State.onCdy_free : (s.onCdy f).free = s.free := rfl
@[simp] theorem State.onCdy_resp : (s.onCdy f).resp = s.resp := rfl
@[simp] theorem State.onCdy_link : (s.onCdy f).link = s.link := rfl
@[simp] theorem State.onCdy_mem : (s.onCdy f).mem = s.mem := rfl
@[simp] theorem State.onCdy_badWords : (s.onCdy f).badWords = s.badWords := rfl
@[simp] theorem State.onCdy_power : (s.onCdy f).power = s.power := rfl
@[simp] theorem State.onCdy_hdrs : (s.onCdy f).hdrs = s.hdrs := rfl
@[simp] theorem State.onCdy_ktl : (s.onCdy f).ktl = s.ktl := rfl
@[simp] theorem State.onCdy_mgt : (s.onCdy f).mgt = s.mgt := rfl
@[simp] theorem State.onCdy_fuse : (s.onCdy f).fuse = s.fuse := rfl
@[simp] theorem State.onCdy_flash : (s.onCdy f).flash = s.flash := rfl
@[simp] theorem State.onCdy_sec : (s.onCdy f).sec = s.sec := rfl
@[simp] theorem State.onCdy_hif : (s.onCdy f).hif = s.hif := rfl
@[simp] theorem State.onCdy_sched : (s.onCdy f).sched = s.sched := rfl
@[simp] theorem State.onCdy_cores : (s.onCdy f).cores = s.cores := rfl
@[simp] theorem State.onCdy_clus : (s.onCdy f).clus = s.clus := rfl
@[simp] theorem State.onCdy_dec : (s.onCdy f).dec = s.dec := rfl
@[simp] theorem State.onCdy_str : (s.onCdy f).str = s.str := rfl
@[simp] theorem State.onCdy_enc : (s.onCdy f).enc = s.enc := rfl
@[simp] theorem State.onCdy_csi : (s.onCdy f).csi = s.csi := rfl
@[simp] theorem State.onCdy_scl : (s.onCdy f).scl = s.scl := rfl
@[simp] theorem State.onCdy_cdy : (s.onCdy f).cdy = f s.cdy := rfl
@[simp] theorem State.onCdy_spt : (s.onCdy f).spt = s.spt := rfl
@[simp] theorem State.onCdy_hbm : (s.onCdy f).hbm = s.hbm := rfl
@[simp] theorem State.onCdy_mesh : (s.onCdy f).mesh = s.mesh := rfl
@[simp] theorem State.onCdy_bist : (s.onCdy f).bist = s.bist := rfl
end

section
variable (f : Spt → Spt)
@[simp] theorem State.onSpt_pending : (s.onSpt f).pending = s.pending := rfl
@[simp] theorem State.onSpt_free : (s.onSpt f).free = s.free := rfl
@[simp] theorem State.onSpt_resp : (s.onSpt f).resp = s.resp := rfl
@[simp] theorem State.onSpt_link : (s.onSpt f).link = s.link := rfl
@[simp] theorem State.onSpt_mem : (s.onSpt f).mem = s.mem := rfl
@[simp] theorem State.onSpt_badWords : (s.onSpt f).badWords = s.badWords := rfl
@[simp] theorem State.onSpt_power : (s.onSpt f).power = s.power := rfl
@[simp] theorem State.onSpt_hdrs : (s.onSpt f).hdrs = s.hdrs := rfl
@[simp] theorem State.onSpt_ktl : (s.onSpt f).ktl = s.ktl := rfl
@[simp] theorem State.onSpt_mgt : (s.onSpt f).mgt = s.mgt := rfl
@[simp] theorem State.onSpt_fuse : (s.onSpt f).fuse = s.fuse := rfl
@[simp] theorem State.onSpt_flash : (s.onSpt f).flash = s.flash := rfl
@[simp] theorem State.onSpt_sec : (s.onSpt f).sec = s.sec := rfl
@[simp] theorem State.onSpt_hif : (s.onSpt f).hif = s.hif := rfl
@[simp] theorem State.onSpt_sched : (s.onSpt f).sched = s.sched := rfl
@[simp] theorem State.onSpt_cores : (s.onSpt f).cores = s.cores := rfl
@[simp] theorem State.onSpt_clus : (s.onSpt f).clus = s.clus := rfl
@[simp] theorem State.onSpt_dec : (s.onSpt f).dec = s.dec := rfl
@[simp] theorem State.onSpt_str : (s.onSpt f).str = s.str := rfl
@[simp] theorem State.onSpt_enc : (s.onSpt f).enc = s.enc := rfl
@[simp] theorem State.onSpt_csi : (s.onSpt f).csi = s.csi := rfl
@[simp] theorem State.onSpt_scl : (s.onSpt f).scl = s.scl := rfl
@[simp] theorem State.onSpt_cdy : (s.onSpt f).cdy = s.cdy := rfl
@[simp] theorem State.onSpt_spt : (s.onSpt f).spt = f s.spt := rfl
@[simp] theorem State.onSpt_hbm : (s.onSpt f).hbm = s.hbm := rfl
@[simp] theorem State.onSpt_mesh : (s.onSpt f).mesh = s.mesh := rfl
@[simp] theorem State.onSpt_bist : (s.onSpt f).bist = s.bist := rfl
end

section
variable (f : Hbm → Hbm)
@[simp] theorem State.onHbm_pending : (s.onHbm f).pending = s.pending := rfl
@[simp] theorem State.onHbm_free : (s.onHbm f).free = s.free := rfl
@[simp] theorem State.onHbm_resp : (s.onHbm f).resp = s.resp := rfl
@[simp] theorem State.onHbm_link : (s.onHbm f).link = s.link := rfl
@[simp] theorem State.onHbm_mem : (s.onHbm f).mem = s.mem := rfl
@[simp] theorem State.onHbm_badWords : (s.onHbm f).badWords = s.badWords := rfl
@[simp] theorem State.onHbm_power : (s.onHbm f).power = s.power := rfl
@[simp] theorem State.onHbm_hdrs : (s.onHbm f).hdrs = s.hdrs := rfl
@[simp] theorem State.onHbm_ktl : (s.onHbm f).ktl = s.ktl := rfl
@[simp] theorem State.onHbm_mgt : (s.onHbm f).mgt = s.mgt := rfl
@[simp] theorem State.onHbm_fuse : (s.onHbm f).fuse = s.fuse := rfl
@[simp] theorem State.onHbm_flash : (s.onHbm f).flash = s.flash := rfl
@[simp] theorem State.onHbm_sec : (s.onHbm f).sec = s.sec := rfl
@[simp] theorem State.onHbm_hif : (s.onHbm f).hif = s.hif := rfl
@[simp] theorem State.onHbm_sched : (s.onHbm f).sched = s.sched := rfl
@[simp] theorem State.onHbm_cores : (s.onHbm f).cores = s.cores := rfl
@[simp] theorem State.onHbm_clus : (s.onHbm f).clus = s.clus := rfl
@[simp] theorem State.onHbm_dec : (s.onHbm f).dec = s.dec := rfl
@[simp] theorem State.onHbm_str : (s.onHbm f).str = s.str := rfl
@[simp] theorem State.onHbm_enc : (s.onHbm f).enc = s.enc := rfl
@[simp] theorem State.onHbm_csi : (s.onHbm f).csi = s.csi := rfl
@[simp] theorem State.onHbm_scl : (s.onHbm f).scl = s.scl := rfl
@[simp] theorem State.onHbm_cdy : (s.onHbm f).cdy = s.cdy := rfl
@[simp] theorem State.onHbm_spt : (s.onHbm f).spt = s.spt := rfl
@[simp] theorem State.onHbm_hbm : (s.onHbm f).hbm = f s.hbm := rfl
@[simp] theorem State.onHbm_mesh : (s.onHbm f).mesh = s.mesh := rfl
@[simp] theorem State.onHbm_bist : (s.onHbm f).bist = s.bist := rfl
end

section
variable (f : Mesh → Mesh)
@[simp] theorem State.onMesh_pending : (s.onMesh f).pending = s.pending := rfl
@[simp] theorem State.onMesh_free : (s.onMesh f).free = s.free := rfl
@[simp] theorem State.onMesh_resp : (s.onMesh f).resp = s.resp := rfl
@[simp] theorem State.onMesh_link : (s.onMesh f).link = s.link := rfl
@[simp] theorem State.onMesh_mem : (s.onMesh f).mem = s.mem := rfl
@[simp] theorem State.onMesh_badWords : (s.onMesh f).badWords = s.badWords := rfl
@[simp] theorem State.onMesh_power : (s.onMesh f).power = s.power := rfl
@[simp] theorem State.onMesh_hdrs : (s.onMesh f).hdrs = s.hdrs := rfl
@[simp] theorem State.onMesh_ktl : (s.onMesh f).ktl = s.ktl := rfl
@[simp] theorem State.onMesh_mgt : (s.onMesh f).mgt = s.mgt := rfl
@[simp] theorem State.onMesh_fuse : (s.onMesh f).fuse = s.fuse := rfl
@[simp] theorem State.onMesh_flash : (s.onMesh f).flash = s.flash := rfl
@[simp] theorem State.onMesh_sec : (s.onMesh f).sec = s.sec := rfl
@[simp] theorem State.onMesh_hif : (s.onMesh f).hif = s.hif := rfl
@[simp] theorem State.onMesh_sched : (s.onMesh f).sched = s.sched := rfl
@[simp] theorem State.onMesh_cores : (s.onMesh f).cores = s.cores := rfl
@[simp] theorem State.onMesh_clus : (s.onMesh f).clus = s.clus := rfl
@[simp] theorem State.onMesh_dec : (s.onMesh f).dec = s.dec := rfl
@[simp] theorem State.onMesh_str : (s.onMesh f).str = s.str := rfl
@[simp] theorem State.onMesh_enc : (s.onMesh f).enc = s.enc := rfl
@[simp] theorem State.onMesh_csi : (s.onMesh f).csi = s.csi := rfl
@[simp] theorem State.onMesh_scl : (s.onMesh f).scl = s.scl := rfl
@[simp] theorem State.onMesh_cdy : (s.onMesh f).cdy = s.cdy := rfl
@[simp] theorem State.onMesh_spt : (s.onMesh f).spt = s.spt := rfl
@[simp] theorem State.onMesh_hbm : (s.onMesh f).hbm = s.hbm := rfl
@[simp] theorem State.onMesh_mesh : (s.onMesh f).mesh = f s.mesh := rfl
@[simp] theorem State.onMesh_bist : (s.onMesh f).bist = s.bist := rfl
end

section
variable (f : Bist → Bist)
@[simp] theorem State.onBist_pending : (s.onBist f).pending = s.pending := rfl
@[simp] theorem State.onBist_free : (s.onBist f).free = s.free := rfl
@[simp] theorem State.onBist_resp : (s.onBist f).resp = s.resp := rfl
@[simp] theorem State.onBist_link : (s.onBist f).link = s.link := rfl
@[simp] theorem State.onBist_mem : (s.onBist f).mem = s.mem := rfl
@[simp] theorem State.onBist_badWords : (s.onBist f).badWords = s.badWords := rfl
@[simp] theorem State.onBist_power : (s.onBist f).power = s.power := rfl
@[simp] theorem State.onBist_hdrs : (s.onBist f).hdrs = s.hdrs := rfl
@[simp] theorem State.onBist_ktl : (s.onBist f).ktl = s.ktl := rfl
@[simp] theorem State.onBist_mgt : (s.onBist f).mgt = s.mgt := rfl
@[simp] theorem State.onBist_fuse : (s.onBist f).fuse = s.fuse := rfl
@[simp] theorem State.onBist_flash : (s.onBist f).flash = s.flash := rfl
@[simp] theorem State.onBist_sec : (s.onBist f).sec = s.sec := rfl
@[simp] theorem State.onBist_hif : (s.onBist f).hif = s.hif := rfl
@[simp] theorem State.onBist_sched : (s.onBist f).sched = s.sched := rfl
@[simp] theorem State.onBist_cores : (s.onBist f).cores = s.cores := rfl
@[simp] theorem State.onBist_clus : (s.onBist f).clus = s.clus := rfl
@[simp] theorem State.onBist_dec : (s.onBist f).dec = s.dec := rfl
@[simp] theorem State.onBist_str : (s.onBist f).str = s.str := rfl
@[simp] theorem State.onBist_enc : (s.onBist f).enc = s.enc := rfl
@[simp] theorem State.onBist_csi : (s.onBist f).csi = s.csi := rfl
@[simp] theorem State.onBist_scl : (s.onBist f).scl = s.scl := rfl
@[simp] theorem State.onBist_cdy : (s.onBist f).cdy = s.cdy := rfl
@[simp] theorem State.onBist_spt : (s.onBist f).spt = s.spt := rfl
@[simp] theorem State.onBist_hbm : (s.onBist f).hbm = s.hbm := rfl
@[simp] theorem State.onBist_mesh : (s.onBist f).mesh = s.mesh := rfl
@[simp] theorem State.onBist_bist : (s.onBist f).bist = f s.bist := rfl
end

section
variable (f : Power → Power)
@[simp] theorem State.onPower_pending : (s.onPower f).pending = s.pending := rfl
@[simp] theorem State.onPower_free : (s.onPower f).free = s.free := rfl
@[simp] theorem State.onPower_resp : (s.onPower f).resp = s.resp := rfl
@[simp] theorem State.onPower_link : (s.onPower f).link = s.link := rfl
@[simp] theorem State.onPower_mem : (s.onPower f).mem = s.mem := rfl
@[simp] theorem State.onPower_badWords : (s.onPower f).badWords = s.badWords := rfl
@[simp] theorem State.onPower_power : (s.onPower f).power = f s.power := rfl
@[simp] theorem State.onPower_hdrs : (s.onPower f).hdrs = s.hdrs := rfl
@[simp] theorem State.onPower_ktl : (s.onPower f).ktl = s.ktl := rfl
@[simp] theorem State.onPower_mgt : (s.onPower f).mgt = s.mgt := rfl
@[simp] theorem State.onPower_fuse : (s.onPower f).fuse = s.fuse := rfl
@[simp] theorem State.onPower_flash : (s.onPower f).flash = s.flash := rfl
@[simp] theorem State.onPower_sec : (s.onPower f).sec = s.sec := rfl
@[simp] theorem State.onPower_hif : (s.onPower f).hif = s.hif := rfl
@[simp] theorem State.onPower_sched : (s.onPower f).sched = s.sched := rfl
@[simp] theorem State.onPower_cores : (s.onPower f).cores = s.cores := rfl
@[simp] theorem State.onPower_clus : (s.onPower f).clus = s.clus := rfl
@[simp] theorem State.onPower_dec : (s.onPower f).dec = s.dec := rfl
@[simp] theorem State.onPower_str : (s.onPower f).str = s.str := rfl
@[simp] theorem State.onPower_enc : (s.onPower f).enc = s.enc := rfl
@[simp] theorem State.onPower_csi : (s.onPower f).csi = s.csi := rfl
@[simp] theorem State.onPower_scl : (s.onPower f).scl = s.scl := rfl
@[simp] theorem State.onPower_cdy : (s.onPower f).cdy = s.cdy := rfl
@[simp] theorem State.onPower_spt : (s.onPower f).spt = s.spt := rfl
@[simp] theorem State.onPower_hbm : (s.onPower f).hbm = s.hbm := rfl
@[simp] theorem State.onPower_mesh : (s.onPower f).mesh = s.mesh := rfl
@[simp] theorem State.onPower_bist : (s.onPower f).bist = s.bist := rfl
end

section
variable (p : Page) (f : Hdr → Hdr)
@[simp] theorem State.onHdr_pending : (s.onHdr p f).pending = s.pending := rfl
@[simp] theorem State.onHdr_free : (s.onHdr p f).free = s.free := rfl
@[simp] theorem State.onHdr_resp : (s.onHdr p f).resp = s.resp := rfl
@[simp] theorem State.onHdr_link : (s.onHdr p f).link = s.link := rfl
@[simp] theorem State.onHdr_mem : (s.onHdr p f).mem = s.mem := rfl
@[simp] theorem State.onHdr_badWords : (s.onHdr p f).badWords = s.badWords := rfl
@[simp] theorem State.onHdr_power : (s.onHdr p f).power = s.power := rfl
@[simp] theorem State.onHdr_ktl : (s.onHdr p f).ktl = s.ktl := rfl
@[simp] theorem State.onHdr_mgt : (s.onHdr p f).mgt = s.mgt := rfl
@[simp] theorem State.onHdr_fuse : (s.onHdr p f).fuse = s.fuse := rfl
@[simp] theorem State.onHdr_flash : (s.onHdr p f).flash = s.flash := rfl
@[simp] theorem State.onHdr_sec : (s.onHdr p f).sec = s.sec := rfl
@[simp] theorem State.onHdr_hif : (s.onHdr p f).hif = s.hif := rfl
@[simp] theorem State.onHdr_sched : (s.onHdr p f).sched = s.sched := rfl
@[simp] theorem State.onHdr_cores : (s.onHdr p f).cores = s.cores := rfl
@[simp] theorem State.onHdr_clus : (s.onHdr p f).clus = s.clus := rfl
@[simp] theorem State.onHdr_dec : (s.onHdr p f).dec = s.dec := rfl
@[simp] theorem State.onHdr_str : (s.onHdr p f).str = s.str := rfl
@[simp] theorem State.onHdr_enc : (s.onHdr p f).enc = s.enc := rfl
@[simp] theorem State.onHdr_csi : (s.onHdr p f).csi = s.csi := rfl
@[simp] theorem State.onHdr_scl : (s.onHdr p f).scl = s.scl := rfl
@[simp] theorem State.onHdr_cdy : (s.onHdr p f).cdy = s.cdy := rfl
@[simp] theorem State.onHdr_spt : (s.onHdr p f).spt = s.spt := rfl
@[simp] theorem State.onHdr_hbm : (s.onHdr p f).hbm = s.hbm := rfl
@[simp] theorem State.onHdr_mesh : (s.onHdr p f).mesh = s.mesh := rfl
@[simp] theorem State.onHdr_bist : (s.onHdr p f).bist = s.bist := rfl
end

section
variable (p : Nat) (f : Core → Core)
@[simp] theorem State.onCore_pending : (s.onCore p f).pending = s.pending := rfl
@[simp] theorem State.onCore_free : (s.onCore p f).free = s.free := rfl
@[simp] theorem State.onCore_resp : (s.onCore p f).resp = s.resp := rfl
@[simp] theorem State.onCore_link : (s.onCore p f).link = s.link := rfl
@[simp] theorem State.onCore_mem : (s.onCore p f).mem = s.mem := rfl
@[simp] theorem State.onCore_badWords : (s.onCore p f).badWords = s.badWords := rfl
@[simp] theorem State.onCore_power : (s.onCore p f).power = s.power := rfl
@[simp] theorem State.onCore_hdrs : (s.onCore p f).hdrs = s.hdrs := rfl
@[simp] theorem State.onCore_ktl : (s.onCore p f).ktl = s.ktl := rfl
@[simp] theorem State.onCore_mgt : (s.onCore p f).mgt = s.mgt := rfl
@[simp] theorem State.onCore_fuse : (s.onCore p f).fuse = s.fuse := rfl
@[simp] theorem State.onCore_flash : (s.onCore p f).flash = s.flash := rfl
@[simp] theorem State.onCore_sec : (s.onCore p f).sec = s.sec := rfl
@[simp] theorem State.onCore_hif : (s.onCore p f).hif = s.hif := rfl
@[simp] theorem State.onCore_sched : (s.onCore p f).sched = s.sched := rfl
@[simp] theorem State.onCore_clus : (s.onCore p f).clus = s.clus := rfl
@[simp] theorem State.onCore_dec : (s.onCore p f).dec = s.dec := rfl
@[simp] theorem State.onCore_str : (s.onCore p f).str = s.str := rfl
@[simp] theorem State.onCore_enc : (s.onCore p f).enc = s.enc := rfl
@[simp] theorem State.onCore_csi : (s.onCore p f).csi = s.csi := rfl
@[simp] theorem State.onCore_scl : (s.onCore p f).scl = s.scl := rfl
@[simp] theorem State.onCore_cdy : (s.onCore p f).cdy = s.cdy := rfl
@[simp] theorem State.onCore_spt : (s.onCore p f).spt = s.spt := rfl
@[simp] theorem State.onCore_hbm : (s.onCore p f).hbm = s.hbm := rfl
@[simp] theorem State.onCore_mesh : (s.onCore p f).mesh = s.mesh := rfl
@[simp] theorem State.onCore_bist : (s.onCore p f).bist = s.bist := rfl
end

section
variable (p : Nat) (f : Clu → Clu)
@[simp] theorem State.onClu_pending : (s.onClu p f).pending = s.pending := rfl
@[simp] theorem State.onClu_free : (s.onClu p f).free = s.free := rfl
@[simp] theorem State.onClu_resp : (s.onClu p f).resp = s.resp := rfl
@[simp] theorem State.onClu_link : (s.onClu p f).link = s.link := rfl
@[simp] theorem State.onClu_mem : (s.onClu p f).mem = s.mem := rfl
@[simp] theorem State.onClu_badWords : (s.onClu p f).badWords = s.badWords := rfl
@[simp] theorem State.onClu_power : (s.onClu p f).power = s.power := rfl
@[simp] theorem State.onClu_hdrs : (s.onClu p f).hdrs = s.hdrs := rfl
@[simp] theorem State.onClu_ktl : (s.onClu p f).ktl = s.ktl := rfl
@[simp] theorem State.onClu_mgt : (s.onClu p f).mgt = s.mgt := rfl
@[simp] theorem State.onClu_fuse : (s.onClu p f).fuse = s.fuse := rfl
@[simp] theorem State.onClu_flash : (s.onClu p f).flash = s.flash := rfl
@[simp] theorem State.onClu_sec : (s.onClu p f).sec = s.sec := rfl
@[simp] theorem State.onClu_hif : (s.onClu p f).hif = s.hif := rfl
@[simp] theorem State.onClu_sched : (s.onClu p f).sched = s.sched := rfl
@[simp] theorem State.onClu_cores : (s.onClu p f).cores = s.cores := rfl
@[simp] theorem State.onClu_dec : (s.onClu p f).dec = s.dec := rfl
@[simp] theorem State.onClu_str : (s.onClu p f).str = s.str := rfl
@[simp] theorem State.onClu_enc : (s.onClu p f).enc = s.enc := rfl
@[simp] theorem State.onClu_csi : (s.onClu p f).csi = s.csi := rfl
@[simp] theorem State.onClu_scl : (s.onClu p f).scl = s.scl := rfl
@[simp] theorem State.onClu_cdy : (s.onClu p f).cdy = s.cdy := rfl
@[simp] theorem State.onClu_spt : (s.onClu p f).spt = s.spt := rfl
@[simp] theorem State.onClu_hbm : (s.onClu p f).hbm = s.hbm := rfl
@[simp] theorem State.onClu_mesh : (s.onClu p f).mesh = s.mesh := rfl
@[simp] theorem State.onClu_bist : (s.onClu p f).bist = s.bist := rfl
end

section
variable (p : Nat) (f : Ctx → Ctx)
@[simp] theorem State.onCtx_pending : (s.onCtx p f).pending = s.pending := rfl
@[simp] theorem State.onCtx_free : (s.onCtx p f).free = s.free := rfl
@[simp] theorem State.onCtx_resp : (s.onCtx p f).resp = s.resp := rfl
@[simp] theorem State.onCtx_link : (s.onCtx p f).link = s.link := rfl
@[simp] theorem State.onCtx_mem : (s.onCtx p f).mem = s.mem := rfl
@[simp] theorem State.onCtx_badWords : (s.onCtx p f).badWords = s.badWords := rfl
@[simp] theorem State.onCtx_power : (s.onCtx p f).power = s.power := rfl
@[simp] theorem State.onCtx_hdrs : (s.onCtx p f).hdrs = s.hdrs := rfl
@[simp] theorem State.onCtx_ktl : (s.onCtx p f).ktl = s.ktl := rfl
@[simp] theorem State.onCtx_mgt : (s.onCtx p f).mgt = s.mgt := rfl
@[simp] theorem State.onCtx_fuse : (s.onCtx p f).fuse = s.fuse := rfl
@[simp] theorem State.onCtx_flash : (s.onCtx p f).flash = s.flash := rfl
@[simp] theorem State.onCtx_sec : (s.onCtx p f).sec = s.sec := rfl
@[simp] theorem State.onCtx_hif : (s.onCtx p f).hif = s.hif := rfl
@[simp] theorem State.onCtx_cores : (s.onCtx p f).cores = s.cores := rfl
@[simp] theorem State.onCtx_clus : (s.onCtx p f).clus = s.clus := rfl
@[simp] theorem State.onCtx_dec : (s.onCtx p f).dec = s.dec := rfl
@[simp] theorem State.onCtx_str : (s.onCtx p f).str = s.str := rfl
@[simp] theorem State.onCtx_enc : (s.onCtx p f).enc = s.enc := rfl
@[simp] theorem State.onCtx_csi : (s.onCtx p f).csi = s.csi := rfl
@[simp] theorem State.onCtx_scl : (s.onCtx p f).scl = s.scl := rfl
@[simp] theorem State.onCtx_cdy : (s.onCtx p f).cdy = s.cdy := rfl
@[simp] theorem State.onCtx_spt : (s.onCtx p f).spt = s.spt := rfl
@[simp] theorem State.onCtx_hbm : (s.onCtx p f).hbm = s.hbm := rfl
@[simp] theorem State.onCtx_mesh : (s.onCtx p f).mesh = s.mesh := rfl
@[simp] theorem State.onCtx_bist : (s.onCtx p f).bist = s.bist := rfl
end

section
variable (p : Nat) (f : Bank → Bank)
@[simp] theorem State.onBank_pending : (s.onBank p f).pending = s.pending := rfl
@[simp] theorem State.onBank_free : (s.onBank p f).free = s.free := rfl
@[simp] theorem State.onBank_resp : (s.onBank p f).resp = s.resp := rfl
@[simp] theorem State.onBank_link : (s.onBank p f).link = s.link := rfl
@[simp] theorem State.onBank_mem : (s.onBank p f).mem = s.mem := rfl
@[simp] theorem State.onBank_badWords : (s.onBank p f).badWords = s.badWords := rfl
@[simp] theorem State.onBank_power : (s.onBank p f).power = s.power := rfl
@[simp] theorem State.onBank_hdrs : (s.onBank p f).hdrs = s.hdrs := rfl
@[simp] theorem State.onBank_mgt : (s.onBank p f).mgt = s.mgt := rfl
@[simp] theorem State.onBank_fuse : (s.onBank p f).fuse = s.fuse := rfl
@[simp] theorem State.onBank_flash : (s.onBank p f).flash = s.flash := rfl
@[simp] theorem State.onBank_sec : (s.onBank p f).sec = s.sec := rfl
@[simp] theorem State.onBank_hif : (s.onBank p f).hif = s.hif := rfl
@[simp] theorem State.onBank_sched : (s.onBank p f).sched = s.sched := rfl
@[simp] theorem State.onBank_cores : (s.onBank p f).cores = s.cores := rfl
@[simp] theorem State.onBank_clus : (s.onBank p f).clus = s.clus := rfl
@[simp] theorem State.onBank_dec : (s.onBank p f).dec = s.dec := rfl
@[simp] theorem State.onBank_str : (s.onBank p f).str = s.str := rfl
@[simp] theorem State.onBank_enc : (s.onBank p f).enc = s.enc := rfl
@[simp] theorem State.onBank_csi : (s.onBank p f).csi = s.csi := rfl
@[simp] theorem State.onBank_scl : (s.onBank p f).scl = s.scl := rfl
@[simp] theorem State.onBank_cdy : (s.onBank p f).cdy = s.cdy := rfl
@[simp] theorem State.onBank_spt : (s.onBank p f).spt = s.spt := rfl
@[simp] theorem State.onBank_hbm : (s.onBank p f).hbm = s.hbm := rfl
@[simp] theorem State.onBank_mesh : (s.onBank p f).mesh = s.mesh := rfl
@[simp] theorem State.onBank_bist : (s.onBank p f).bist = s.bist := rfl
end

section
variable (p : Nat) (f : FsyncLine → FsyncLine)
@[simp] theorem State.onLine_pending : (s.onLine p f).pending = s.pending := rfl
@[simp] theorem State.onLine_free : (s.onLine p f).free = s.free := rfl
@[simp] theorem State.onLine_resp : (s.onLine p f).resp = s.resp := rfl
@[simp] theorem State.onLine_link : (s.onLine p f).link = s.link := rfl
@[simp] theorem State.onLine_mem : (s.onLine p f).mem = s.mem := rfl
@[simp] theorem State.onLine_badWords : (s.onLine p f).badWords = s.badWords := rfl
@[simp] theorem State.onLine_power : (s.onLine p f).power = s.power := rfl
@[simp] theorem State.onLine_hdrs : (s.onLine p f).hdrs = s.hdrs := rfl
@[simp] theorem State.onLine_mgt : (s.onLine p f).mgt = s.mgt := rfl
@[simp] theorem State.onLine_fuse : (s.onLine p f).fuse = s.fuse := rfl
@[simp] theorem State.onLine_flash : (s.onLine p f).flash = s.flash := rfl
@[simp] theorem State.onLine_sec : (s.onLine p f).sec = s.sec := rfl
@[simp] theorem State.onLine_hif : (s.onLine p f).hif = s.hif := rfl
@[simp] theorem State.onLine_sched : (s.onLine p f).sched = s.sched := rfl
@[simp] theorem State.onLine_cores : (s.onLine p f).cores = s.cores := rfl
@[simp] theorem State.onLine_clus : (s.onLine p f).clus = s.clus := rfl
@[simp] theorem State.onLine_dec : (s.onLine p f).dec = s.dec := rfl
@[simp] theorem State.onLine_str : (s.onLine p f).str = s.str := rfl
@[simp] theorem State.onLine_enc : (s.onLine p f).enc = s.enc := rfl
@[simp] theorem State.onLine_csi : (s.onLine p f).csi = s.csi := rfl
@[simp] theorem State.onLine_scl : (s.onLine p f).scl = s.scl := rfl
@[simp] theorem State.onLine_cdy : (s.onLine p f).cdy = s.cdy := rfl
@[simp] theorem State.onLine_spt : (s.onLine p f).spt = s.spt := rfl
@[simp] theorem State.onLine_hbm : (s.onLine p f).hbm = s.hbm := rfl
@[simp] theorem State.onLine_mesh : (s.onLine p f).mesh = s.mesh := rfl
@[simp] theorem State.onLine_bist : (s.onLine p f).bist = s.bist := rfl
end

section
variable (p : Nat) (f : InFilter → InFilter)
@[simp] theorem State.onInput_pending : (s.onInput p f).pending = s.pending := rfl
@[simp] theorem State.onInput_free : (s.onInput p f).free = s.free := rfl
@[simp] theorem State.onInput_resp : (s.onInput p f).resp = s.resp := rfl
@[simp] theorem State.onInput_link : (s.onInput p f).link = s.link := rfl
@[simp] theorem State.onInput_mem : (s.onInput p f).mem = s.mem := rfl
@[simp] theorem State.onInput_badWords : (s.onInput p f).badWords = s.badWords := rfl
@[simp] theorem State.onInput_power : (s.onInput p f).power = s.power := rfl
@[simp] theorem State.onInput_hdrs : (s.onInput p f).hdrs = s.hdrs := rfl
@[simp] theorem State.onInput_mgt : (s.onInput p f).mgt = s.mgt := rfl
@[simp] theorem State.onInput_fuse : (s.onInput p f).fuse = s.fuse := rfl
@[simp] theorem State.onInput_flash : (s.onInput p f).flash = s.flash := rfl
@[simp] theorem State.onInput_sec : (s.onInput p f).sec = s.sec := rfl
@[simp] theorem State.onInput_hif : (s.onInput p f).hif = s.hif := rfl
@[simp] theorem State.onInput_sched : (s.onInput p f).sched = s.sched := rfl
@[simp] theorem State.onInput_cores : (s.onInput p f).cores = s.cores := rfl
@[simp] theorem State.onInput_clus : (s.onInput p f).clus = s.clus := rfl
@[simp] theorem State.onInput_dec : (s.onInput p f).dec = s.dec := rfl
@[simp] theorem State.onInput_str : (s.onInput p f).str = s.str := rfl
@[simp] theorem State.onInput_enc : (s.onInput p f).enc = s.enc := rfl
@[simp] theorem State.onInput_csi : (s.onInput p f).csi = s.csi := rfl
@[simp] theorem State.onInput_scl : (s.onInput p f).scl = s.scl := rfl
@[simp] theorem State.onInput_cdy : (s.onInput p f).cdy = s.cdy := rfl
@[simp] theorem State.onInput_spt : (s.onInput p f).spt = s.spt := rfl
@[simp] theorem State.onInput_hbm : (s.onInput p f).hbm = s.hbm := rfl
@[simp] theorem State.onInput_mesh : (s.onInput p f).mesh = s.mesh := rfl
@[simp] theorem State.onInput_bist : (s.onInput p f).bist = s.bist := rfl
end

section
variable (p : Nat) (f : TsFifo → TsFifo)
@[simp] theorem State.onFifo_pending : (s.onFifo p f).pending = s.pending := rfl
@[simp] theorem State.onFifo_free : (s.onFifo p f).free = s.free := rfl
@[simp] theorem State.onFifo_resp : (s.onFifo p f).resp = s.resp := rfl
@[simp] theorem State.onFifo_link : (s.onFifo p f).link = s.link := rfl
@[simp] theorem State.onFifo_mem : (s.onFifo p f).mem = s.mem := rfl
@[simp] theorem State.onFifo_badWords : (s.onFifo p f).badWords = s.badWords := rfl
@[simp] theorem State.onFifo_power : (s.onFifo p f).power = s.power := rfl
@[simp] theorem State.onFifo_hdrs : (s.onFifo p f).hdrs = s.hdrs := rfl
@[simp] theorem State.onFifo_mgt : (s.onFifo p f).mgt = s.mgt := rfl
@[simp] theorem State.onFifo_fuse : (s.onFifo p f).fuse = s.fuse := rfl
@[simp] theorem State.onFifo_flash : (s.onFifo p f).flash = s.flash := rfl
@[simp] theorem State.onFifo_sec : (s.onFifo p f).sec = s.sec := rfl
@[simp] theorem State.onFifo_hif : (s.onFifo p f).hif = s.hif := rfl
@[simp] theorem State.onFifo_sched : (s.onFifo p f).sched = s.sched := rfl
@[simp] theorem State.onFifo_cores : (s.onFifo p f).cores = s.cores := rfl
@[simp] theorem State.onFifo_clus : (s.onFifo p f).clus = s.clus := rfl
@[simp] theorem State.onFifo_dec : (s.onFifo p f).dec = s.dec := rfl
@[simp] theorem State.onFifo_str : (s.onFifo p f).str = s.str := rfl
@[simp] theorem State.onFifo_enc : (s.onFifo p f).enc = s.enc := rfl
@[simp] theorem State.onFifo_csi : (s.onFifo p f).csi = s.csi := rfl
@[simp] theorem State.onFifo_scl : (s.onFifo p f).scl = s.scl := rfl
@[simp] theorem State.onFifo_cdy : (s.onFifo p f).cdy = s.cdy := rfl
@[simp] theorem State.onFifo_spt : (s.onFifo p f).spt = s.spt := rfl
@[simp] theorem State.onFifo_hbm : (s.onFifo p f).hbm = s.hbm := rfl
@[simp] theorem State.onFifo_mesh : (s.onFifo p f).mesh = s.mesh := rfl
@[simp] theorem State.onFifo_bist : (s.onFifo p f).bist = s.bist := rfl
end

section
variable (p : Nat) (f : DmaCh → DmaCh)
@[simp] theorem State.onDma_pending : (s.onDma p f).pending = s.pending := rfl
@[simp] theorem State.onDma_free : (s.onDma p f).free = s.free := rfl
@[simp] theorem State.onDma_resp : (s.onDma p f).resp = s.resp := rfl
@[simp] theorem State.onDma_link : (s.onDma p f).link = s.link := rfl
@[simp] theorem State.onDma_mem : (s.onDma p f).mem = s.mem := rfl
@[simp] theorem State.onDma_badWords : (s.onDma p f).badWords = s.badWords := rfl
@[simp] theorem State.onDma_power : (s.onDma p f).power = s.power := rfl
@[simp] theorem State.onDma_hdrs : (s.onDma p f).hdrs = s.hdrs := rfl
@[simp] theorem State.onDma_ktl : (s.onDma p f).ktl = s.ktl := rfl
@[simp] theorem State.onDma_mgt : (s.onDma p f).mgt = s.mgt := rfl
@[simp] theorem State.onDma_fuse : (s.onDma p f).fuse = s.fuse := rfl
@[simp] theorem State.onDma_flash : (s.onDma p f).flash = s.flash := rfl
@[simp] theorem State.onDma_sec : (s.onDma p f).sec = s.sec := rfl
@[simp] theorem State.onDma_sched : (s.onDma p f).sched = s.sched := rfl
@[simp] theorem State.onDma_cores : (s.onDma p f).cores = s.cores := rfl
@[simp] theorem State.onDma_clus : (s.onDma p f).clus = s.clus := rfl
@[simp] theorem State.onDma_dec : (s.onDma p f).dec = s.dec := rfl
@[simp] theorem State.onDma_str : (s.onDma p f).str = s.str := rfl
@[simp] theorem State.onDma_enc : (s.onDma p f).enc = s.enc := rfl
@[simp] theorem State.onDma_csi : (s.onDma p f).csi = s.csi := rfl
@[simp] theorem State.onDma_scl : (s.onDma p f).scl = s.scl := rfl
@[simp] theorem State.onDma_cdy : (s.onDma p f).cdy = s.cdy := rfl
@[simp] theorem State.onDma_spt : (s.onDma p f).spt = s.spt := rfl
@[simp] theorem State.onDma_hbm : (s.onDma p f).hbm = s.hbm := rfl
@[simp] theorem State.onDma_mesh : (s.onDma p f).mesh = s.mesh := rfl
@[simp] theorem State.onDma_bist : (s.onDma p f).bist = s.bist := rfl
end

section
variable (p : Nat) (f : Vec → Vec)
@[simp] theorem State.onVec_pending : (s.onVec p f).pending = s.pending := rfl
@[simp] theorem State.onVec_free : (s.onVec p f).free = s.free := rfl
@[simp] theorem State.onVec_resp : (s.onVec p f).resp = s.resp := rfl
@[simp] theorem State.onVec_link : (s.onVec p f).link = s.link := rfl
@[simp] theorem State.onVec_mem : (s.onVec p f).mem = s.mem := rfl
@[simp] theorem State.onVec_badWords : (s.onVec p f).badWords = s.badWords := rfl
@[simp] theorem State.onVec_power : (s.onVec p f).power = s.power := rfl
@[simp] theorem State.onVec_hdrs : (s.onVec p f).hdrs = s.hdrs := rfl
@[simp] theorem State.onVec_ktl : (s.onVec p f).ktl = s.ktl := rfl
@[simp] theorem State.onVec_mgt : (s.onVec p f).mgt = s.mgt := rfl
@[simp] theorem State.onVec_fuse : (s.onVec p f).fuse = s.fuse := rfl
@[simp] theorem State.onVec_flash : (s.onVec p f).flash = s.flash := rfl
@[simp] theorem State.onVec_sec : (s.onVec p f).sec = s.sec := rfl
@[simp] theorem State.onVec_sched : (s.onVec p f).sched = s.sched := rfl
@[simp] theorem State.onVec_cores : (s.onVec p f).cores = s.cores := rfl
@[simp] theorem State.onVec_clus : (s.onVec p f).clus = s.clus := rfl
@[simp] theorem State.onVec_dec : (s.onVec p f).dec = s.dec := rfl
@[simp] theorem State.onVec_str : (s.onVec p f).str = s.str := rfl
@[simp] theorem State.onVec_enc : (s.onVec p f).enc = s.enc := rfl
@[simp] theorem State.onVec_csi : (s.onVec p f).csi = s.csi := rfl
@[simp] theorem State.onVec_scl : (s.onVec p f).scl = s.scl := rfl
@[simp] theorem State.onVec_cdy : (s.onVec p f).cdy = s.cdy := rfl
@[simp] theorem State.onVec_spt : (s.onVec p f).spt = s.spt := rfl
@[simp] theorem State.onVec_hbm : (s.onVec p f).hbm = s.hbm := rfl
@[simp] theorem State.onVec_mesh : (s.onVec p f).mesh = s.mesh := rfl
@[simp] theorem State.onVec_bist : (s.onVec p f).bist = s.bist := rfl
end

section
variable (p : Nat) (f : DecCtx → DecCtx)
@[simp] theorem State.onDecCtx_pending : (s.onDecCtx p f).pending = s.pending := rfl
@[simp] theorem State.onDecCtx_free : (s.onDecCtx p f).free = s.free := rfl
@[simp] theorem State.onDecCtx_resp : (s.onDecCtx p f).resp = s.resp := rfl
@[simp] theorem State.onDecCtx_link : (s.onDecCtx p f).link = s.link := rfl
@[simp] theorem State.onDecCtx_mem : (s.onDecCtx p f).mem = s.mem := rfl
@[simp] theorem State.onDecCtx_badWords : (s.onDecCtx p f).badWords = s.badWords := rfl
@[simp] theorem State.onDecCtx_power : (s.onDecCtx p f).power = s.power := rfl
@[simp] theorem State.onDecCtx_hdrs : (s.onDecCtx p f).hdrs = s.hdrs := rfl
@[simp] theorem State.onDecCtx_ktl : (s.onDecCtx p f).ktl = s.ktl := rfl
@[simp] theorem State.onDecCtx_mgt : (s.onDecCtx p f).mgt = s.mgt := rfl
@[simp] theorem State.onDecCtx_fuse : (s.onDecCtx p f).fuse = s.fuse := rfl
@[simp] theorem State.onDecCtx_flash : (s.onDecCtx p f).flash = s.flash := rfl
@[simp] theorem State.onDecCtx_sec : (s.onDecCtx p f).sec = s.sec := rfl
@[simp] theorem State.onDecCtx_hif : (s.onDecCtx p f).hif = s.hif := rfl
@[simp] theorem State.onDecCtx_sched : (s.onDecCtx p f).sched = s.sched := rfl
@[simp] theorem State.onDecCtx_cores : (s.onDecCtx p f).cores = s.cores := rfl
@[simp] theorem State.onDecCtx_clus : (s.onDecCtx p f).clus = s.clus := rfl
@[simp] theorem State.onDecCtx_str : (s.onDecCtx p f).str = s.str := rfl
@[simp] theorem State.onDecCtx_enc : (s.onDecCtx p f).enc = s.enc := rfl
@[simp] theorem State.onDecCtx_csi : (s.onDecCtx p f).csi = s.csi := rfl
@[simp] theorem State.onDecCtx_scl : (s.onDecCtx p f).scl = s.scl := rfl
@[simp] theorem State.onDecCtx_cdy : (s.onDecCtx p f).cdy = s.cdy := rfl
@[simp] theorem State.onDecCtx_spt : (s.onDecCtx p f).spt = s.spt := rfl
@[simp] theorem State.onDecCtx_hbm : (s.onDecCtx p f).hbm = s.hbm := rfl
@[simp] theorem State.onDecCtx_mesh : (s.onDecCtx p f).mesh = s.mesh := rfl
@[simp] theorem State.onDecCtx_bist : (s.onDecCtx p f).bist = s.bist := rfl
end

section
variable (p : Nat) (f : EncCtx → EncCtx)
@[simp] theorem State.onEncCtx_pending : (s.onEncCtx p f).pending = s.pending := rfl
@[simp] theorem State.onEncCtx_free : (s.onEncCtx p f).free = s.free := rfl
@[simp] theorem State.onEncCtx_resp : (s.onEncCtx p f).resp = s.resp := rfl
@[simp] theorem State.onEncCtx_link : (s.onEncCtx p f).link = s.link := rfl
@[simp] theorem State.onEncCtx_mem : (s.onEncCtx p f).mem = s.mem := rfl
@[simp] theorem State.onEncCtx_badWords : (s.onEncCtx p f).badWords = s.badWords := rfl
@[simp] theorem State.onEncCtx_power : (s.onEncCtx p f).power = s.power := rfl
@[simp] theorem State.onEncCtx_hdrs : (s.onEncCtx p f).hdrs = s.hdrs := rfl
@[simp] theorem State.onEncCtx_ktl : (s.onEncCtx p f).ktl = s.ktl := rfl
@[simp] theorem State.onEncCtx_mgt : (s.onEncCtx p f).mgt = s.mgt := rfl
@[simp] theorem State.onEncCtx_fuse : (s.onEncCtx p f).fuse = s.fuse := rfl
@[simp] theorem State.onEncCtx_flash : (s.onEncCtx p f).flash = s.flash := rfl
@[simp] theorem State.onEncCtx_sec : (s.onEncCtx p f).sec = s.sec := rfl
@[simp] theorem State.onEncCtx_hif : (s.onEncCtx p f).hif = s.hif := rfl
@[simp] theorem State.onEncCtx_sched : (s.onEncCtx p f).sched = s.sched := rfl
@[simp] theorem State.onEncCtx_cores : (s.onEncCtx p f).cores = s.cores := rfl
@[simp] theorem State.onEncCtx_clus : (s.onEncCtx p f).clus = s.clus := rfl
@[simp] theorem State.onEncCtx_dec : (s.onEncCtx p f).dec = s.dec := rfl
@[simp] theorem State.onEncCtx_str : (s.onEncCtx p f).str = s.str := rfl
@[simp] theorem State.onEncCtx_csi : (s.onEncCtx p f).csi = s.csi := rfl
@[simp] theorem State.onEncCtx_scl : (s.onEncCtx p f).scl = s.scl := rfl
@[simp] theorem State.onEncCtx_cdy : (s.onEncCtx p f).cdy = s.cdy := rfl
@[simp] theorem State.onEncCtx_spt : (s.onEncCtx p f).spt = s.spt := rfl
@[simp] theorem State.onEncCtx_hbm : (s.onEncCtx p f).hbm = s.hbm := rfl
@[simp] theorem State.onEncCtx_mesh : (s.onEncCtx p f).mesh = s.mesh := rfl
@[simp] theorem State.onEncCtx_bist : (s.onEncCtx p f).bist = s.bist := rfl
end

section
variable (p : Nat) (f : CapCh → CapCh)
@[simp] theorem State.onCap_pending : (s.onCap p f).pending = s.pending := rfl
@[simp] theorem State.onCap_free : (s.onCap p f).free = s.free := rfl
@[simp] theorem State.onCap_resp : (s.onCap p f).resp = s.resp := rfl
@[simp] theorem State.onCap_link : (s.onCap p f).link = s.link := rfl
@[simp] theorem State.onCap_mem : (s.onCap p f).mem = s.mem := rfl
@[simp] theorem State.onCap_badWords : (s.onCap p f).badWords = s.badWords := rfl
@[simp] theorem State.onCap_power : (s.onCap p f).power = s.power := rfl
@[simp] theorem State.onCap_hdrs : (s.onCap p f).hdrs = s.hdrs := rfl
@[simp] theorem State.onCap_ktl : (s.onCap p f).ktl = s.ktl := rfl
@[simp] theorem State.onCap_mgt : (s.onCap p f).mgt = s.mgt := rfl
@[simp] theorem State.onCap_fuse : (s.onCap p f).fuse = s.fuse := rfl
@[simp] theorem State.onCap_flash : (s.onCap p f).flash = s.flash := rfl
@[simp] theorem State.onCap_sec : (s.onCap p f).sec = s.sec := rfl
@[simp] theorem State.onCap_hif : (s.onCap p f).hif = s.hif := rfl
@[simp] theorem State.onCap_sched : (s.onCap p f).sched = s.sched := rfl
@[simp] theorem State.onCap_cores : (s.onCap p f).cores = s.cores := rfl
@[simp] theorem State.onCap_clus : (s.onCap p f).clus = s.clus := rfl
@[simp] theorem State.onCap_dec : (s.onCap p f).dec = s.dec := rfl
@[simp] theorem State.onCap_str : (s.onCap p f).str = s.str := rfl
@[simp] theorem State.onCap_enc : (s.onCap p f).enc = s.enc := rfl
@[simp] theorem State.onCap_scl : (s.onCap p f).scl = s.scl := rfl
@[simp] theorem State.onCap_cdy : (s.onCap p f).cdy = s.cdy := rfl
@[simp] theorem State.onCap_spt : (s.onCap p f).spt = s.spt := rfl
@[simp] theorem State.onCap_hbm : (s.onCap p f).hbm = s.hbm := rfl
@[simp] theorem State.onCap_mesh : (s.onCap p f).mesh = s.mesh := rfl
@[simp] theorem State.onCap_bist : (s.onCap p f).bist = s.bist := rfl
end

section
variable (p : Nat) (f : SclUnit → SclUnit)
@[simp] theorem State.onSclUnit_pending : (s.onSclUnit p f).pending = s.pending := rfl
@[simp] theorem State.onSclUnit_free : (s.onSclUnit p f).free = s.free := rfl
@[simp] theorem State.onSclUnit_resp : (s.onSclUnit p f).resp = s.resp := rfl
@[simp] theorem State.onSclUnit_link : (s.onSclUnit p f).link = s.link := rfl
@[simp] theorem State.onSclUnit_mem : (s.onSclUnit p f).mem = s.mem := rfl
@[simp] theorem State.onSclUnit_badWords : (s.onSclUnit p f).badWords = s.badWords := rfl
@[simp] theorem State.onSclUnit_power : (s.onSclUnit p f).power = s.power := rfl
@[simp] theorem State.onSclUnit_hdrs : (s.onSclUnit p f).hdrs = s.hdrs := rfl
@[simp] theorem State.onSclUnit_ktl : (s.onSclUnit p f).ktl = s.ktl := rfl
@[simp] theorem State.onSclUnit_mgt : (s.onSclUnit p f).mgt = s.mgt := rfl
@[simp] theorem State.onSclUnit_fuse : (s.onSclUnit p f).fuse = s.fuse := rfl
@[simp] theorem State.onSclUnit_flash : (s.onSclUnit p f).flash = s.flash := rfl
@[simp] theorem State.onSclUnit_sec : (s.onSclUnit p f).sec = s.sec := rfl
@[simp] theorem State.onSclUnit_hif : (s.onSclUnit p f).hif = s.hif := rfl
@[simp] theorem State.onSclUnit_sched : (s.onSclUnit p f).sched = s.sched := rfl
@[simp] theorem State.onSclUnit_cores : (s.onSclUnit p f).cores = s.cores := rfl
@[simp] theorem State.onSclUnit_clus : (s.onSclUnit p f).clus = s.clus := rfl
@[simp] theorem State.onSclUnit_dec : (s.onSclUnit p f).dec = s.dec := rfl
@[simp] theorem State.onSclUnit_str : (s.onSclUnit p f).str = s.str := rfl
@[simp] theorem State.onSclUnit_enc : (s.onSclUnit p f).enc = s.enc := rfl
@[simp] theorem State.onSclUnit_csi : (s.onSclUnit p f).csi = s.csi := rfl
@[simp] theorem State.onSclUnit_cdy : (s.onSclUnit p f).cdy = s.cdy := rfl
@[simp] theorem State.onSclUnit_spt : (s.onSclUnit p f).spt = s.spt := rfl
@[simp] theorem State.onSclUnit_hbm : (s.onSclUnit p f).hbm = s.hbm := rfl
@[simp] theorem State.onSclUnit_mesh : (s.onSclUnit p f).mesh = s.mesh := rfl
@[simp] theorem State.onSclUnit_bist : (s.onSclUnit p f).bist = s.bist := rfl
end

section
variable (p : Nat) (f : CdyPart → CdyPart)
@[simp] theorem State.onCdyPart_pending : (s.onCdyPart p f).pending = s.pending := rfl
@[simp] theorem State.onCdyPart_free : (s.onCdyPart p f).free = s.free := rfl
@[simp] theorem State.onCdyPart_resp : (s.onCdyPart p f).resp = s.resp := rfl
@[simp] theorem State.onCdyPart_link : (s.onCdyPart p f).link = s.link := rfl
@[simp] theorem State.onCdyPart_mem : (s.onCdyPart p f).mem = s.mem := rfl
@[simp] theorem State.onCdyPart_badWords : (s.onCdyPart p f).badWords = s.badWords := rfl
@[simp] theorem State.onCdyPart_power : (s.onCdyPart p f).power = s.power := rfl
@[simp] theorem State.onCdyPart_hdrs : (s.onCdyPart p f).hdrs = s.hdrs := rfl
@[simp] theorem State.onCdyPart_ktl : (s.onCdyPart p f).ktl = s.ktl := rfl
@[simp] theorem State.onCdyPart_mgt : (s.onCdyPart p f).mgt = s.mgt := rfl
@[simp] theorem State.onCdyPart_fuse : (s.onCdyPart p f).fuse = s.fuse := rfl
@[simp] theorem State.onCdyPart_flash : (s.onCdyPart p f).flash = s.flash := rfl
@[simp] theorem State.onCdyPart_sec : (s.onCdyPart p f).sec = s.sec := rfl
@[simp] theorem State.onCdyPart_hif : (s.onCdyPart p f).hif = s.hif := rfl
@[simp] theorem State.onCdyPart_sched : (s.onCdyPart p f).sched = s.sched := rfl
@[simp] theorem State.onCdyPart_cores : (s.onCdyPart p f).cores = s.cores := rfl
@[simp] theorem State.onCdyPart_clus : (s.onCdyPart p f).clus = s.clus := rfl
@[simp] theorem State.onCdyPart_dec : (s.onCdyPart p f).dec = s.dec := rfl
@[simp] theorem State.onCdyPart_str : (s.onCdyPart p f).str = s.str := rfl
@[simp] theorem State.onCdyPart_enc : (s.onCdyPart p f).enc = s.enc := rfl
@[simp] theorem State.onCdyPart_csi : (s.onCdyPart p f).csi = s.csi := rfl
@[simp] theorem State.onCdyPart_scl : (s.onCdyPart p f).scl = s.scl := rfl
@[simp] theorem State.onCdyPart_spt : (s.onCdyPart p f).spt = s.spt := rfl
@[simp] theorem State.onCdyPart_hbm : (s.onCdyPart p f).hbm = s.hbm := rfl
@[simp] theorem State.onCdyPart_mesh : (s.onCdyPart p f).mesh = s.mesh := rfl
@[simp] theorem State.onCdyPart_bist : (s.onCdyPart p f).bist = s.bist := rfl
end

section
variable (p : Nat) (f : CdyRing → CdyRing)
@[simp] theorem State.onCdyRing_pending : (s.onCdyRing p f).pending = s.pending := rfl
@[simp] theorem State.onCdyRing_free : (s.onCdyRing p f).free = s.free := rfl
@[simp] theorem State.onCdyRing_resp : (s.onCdyRing p f).resp = s.resp := rfl
@[simp] theorem State.onCdyRing_link : (s.onCdyRing p f).link = s.link := rfl
@[simp] theorem State.onCdyRing_mem : (s.onCdyRing p f).mem = s.mem := rfl
@[simp] theorem State.onCdyRing_badWords : (s.onCdyRing p f).badWords = s.badWords := rfl
@[simp] theorem State.onCdyRing_power : (s.onCdyRing p f).power = s.power := rfl
@[simp] theorem State.onCdyRing_hdrs : (s.onCdyRing p f).hdrs = s.hdrs := rfl
@[simp] theorem State.onCdyRing_ktl : (s.onCdyRing p f).ktl = s.ktl := rfl
@[simp] theorem State.onCdyRing_mgt : (s.onCdyRing p f).mgt = s.mgt := rfl
@[simp] theorem State.onCdyRing_fuse : (s.onCdyRing p f).fuse = s.fuse := rfl
@[simp] theorem State.onCdyRing_flash : (s.onCdyRing p f).flash = s.flash := rfl
@[simp] theorem State.onCdyRing_sec : (s.onCdyRing p f).sec = s.sec := rfl
@[simp] theorem State.onCdyRing_hif : (s.onCdyRing p f).hif = s.hif := rfl
@[simp] theorem State.onCdyRing_sched : (s.onCdyRing p f).sched = s.sched := rfl
@[simp] theorem State.onCdyRing_cores : (s.onCdyRing p f).cores = s.cores := rfl
@[simp] theorem State.onCdyRing_clus : (s.onCdyRing p f).clus = s.clus := rfl
@[simp] theorem State.onCdyRing_dec : (s.onCdyRing p f).dec = s.dec := rfl
@[simp] theorem State.onCdyRing_str : (s.onCdyRing p f).str = s.str := rfl
@[simp] theorem State.onCdyRing_enc : (s.onCdyRing p f).enc = s.enc := rfl
@[simp] theorem State.onCdyRing_csi : (s.onCdyRing p f).csi = s.csi := rfl
@[simp] theorem State.onCdyRing_scl : (s.onCdyRing p f).scl = s.scl := rfl
@[simp] theorem State.onCdyRing_spt : (s.onCdyRing p f).spt = s.spt := rfl
@[simp] theorem State.onCdyRing_hbm : (s.onCdyRing p f).hbm = s.hbm := rfl
@[simp] theorem State.onCdyRing_mesh : (s.onCdyRing p f).mesh = s.mesh := rfl
@[simp] theorem State.onCdyRing_bist : (s.onCdyRing p f).bist = s.bist := rfl
end

section
variable (p : Nat) (f : SptRing → SptRing)
@[simp] theorem State.onSptRing_pending : (s.onSptRing p f).pending = s.pending := rfl
@[simp] theorem State.onSptRing_free : (s.onSptRing p f).free = s.free := rfl
@[simp] theorem State.onSptRing_resp : (s.onSptRing p f).resp = s.resp := rfl
@[simp] theorem State.onSptRing_link : (s.onSptRing p f).link = s.link := rfl
@[simp] theorem State.onSptRing_mem : (s.onSptRing p f).mem = s.mem := rfl
@[simp] theorem State.onSptRing_badWords : (s.onSptRing p f).badWords = s.badWords := rfl
@[simp] theorem State.onSptRing_power : (s.onSptRing p f).power = s.power := rfl
@[simp] theorem State.onSptRing_hdrs : (s.onSptRing p f).hdrs = s.hdrs := rfl
@[simp] theorem State.onSptRing_ktl : (s.onSptRing p f).ktl = s.ktl := rfl
@[simp] theorem State.onSptRing_mgt : (s.onSptRing p f).mgt = s.mgt := rfl
@[simp] theorem State.onSptRing_fuse : (s.onSptRing p f).fuse = s.fuse := rfl
@[simp] theorem State.onSptRing_flash : (s.onSptRing p f).flash = s.flash := rfl
@[simp] theorem State.onSptRing_sec : (s.onSptRing p f).sec = s.sec := rfl
@[simp] theorem State.onSptRing_hif : (s.onSptRing p f).hif = s.hif := rfl
@[simp] theorem State.onSptRing_sched : (s.onSptRing p f).sched = s.sched := rfl
@[simp] theorem State.onSptRing_cores : (s.onSptRing p f).cores = s.cores := rfl
@[simp] theorem State.onSptRing_clus : (s.onSptRing p f).clus = s.clus := rfl
@[simp] theorem State.onSptRing_dec : (s.onSptRing p f).dec = s.dec := rfl
@[simp] theorem State.onSptRing_str : (s.onSptRing p f).str = s.str := rfl
@[simp] theorem State.onSptRing_enc : (s.onSptRing p f).enc = s.enc := rfl
@[simp] theorem State.onSptRing_csi : (s.onSptRing p f).csi = s.csi := rfl
@[simp] theorem State.onSptRing_scl : (s.onSptRing p f).scl = s.scl := rfl
@[simp] theorem State.onSptRing_cdy : (s.onSptRing p f).cdy = s.cdy := rfl
@[simp] theorem State.onSptRing_hbm : (s.onSptRing p f).hbm = s.hbm := rfl
@[simp] theorem State.onSptRing_mesh : (s.onSptRing p f).mesh = s.mesh := rfl
@[simp] theorem State.onSptRing_bist : (s.onSptRing p f).bist = s.bist := rfl
end

section
variable (c k : Nat) (f : Slot → Slot)
@[simp] theorem State.onSlot_pending : (s.onSlot c k f).pending = s.pending := rfl
@[simp] theorem State.onSlot_free : (s.onSlot c k f).free = s.free := rfl
@[simp] theorem State.onSlot_resp : (s.onSlot c k f).resp = s.resp := rfl
@[simp] theorem State.onSlot_link : (s.onSlot c k f).link = s.link := rfl
@[simp] theorem State.onSlot_mem : (s.onSlot c k f).mem = s.mem := rfl
@[simp] theorem State.onSlot_badWords : (s.onSlot c k f).badWords = s.badWords := rfl
@[simp] theorem State.onSlot_power : (s.onSlot c k f).power = s.power := rfl
@[simp] theorem State.onSlot_hdrs : (s.onSlot c k f).hdrs = s.hdrs := rfl
@[simp] theorem State.onSlot_ktl : (s.onSlot c k f).ktl = s.ktl := rfl
@[simp] theorem State.onSlot_mgt : (s.onSlot c k f).mgt = s.mgt := rfl
@[simp] theorem State.onSlot_fuse : (s.onSlot c k f).fuse = s.fuse := rfl
@[simp] theorem State.onSlot_flash : (s.onSlot c k f).flash = s.flash := rfl
@[simp] theorem State.onSlot_sec : (s.onSlot c k f).sec = s.sec := rfl
@[simp] theorem State.onSlot_hif : (s.onSlot c k f).hif = s.hif := rfl
@[simp] theorem State.onSlot_cores : (s.onSlot c k f).cores = s.cores := rfl
@[simp] theorem State.onSlot_clus : (s.onSlot c k f).clus = s.clus := rfl
@[simp] theorem State.onSlot_dec : (s.onSlot c k f).dec = s.dec := rfl
@[simp] theorem State.onSlot_str : (s.onSlot c k f).str = s.str := rfl
@[simp] theorem State.onSlot_enc : (s.onSlot c k f).enc = s.enc := rfl
@[simp] theorem State.onSlot_csi : (s.onSlot c k f).csi = s.csi := rfl
@[simp] theorem State.onSlot_scl : (s.onSlot c k f).scl = s.scl := rfl
@[simp] theorem State.onSlot_cdy : (s.onSlot c k f).cdy = s.cdy := rfl
@[simp] theorem State.onSlot_spt : (s.onSlot c k f).spt = s.spt := rfl
@[simp] theorem State.onSlot_hbm : (s.onSlot c k f).hbm = s.hbm := rfl
@[simp] theorem State.onSlot_mesh : (s.onSlot c k f).mesh = s.mesh := rfl
@[simp] theorem State.onSlot_bist : (s.onSlot c k f).bist = s.bist := rfl
end

section
variable (t : Tlp) (w : W32)
@[simp] theorem State.issue_pending : (s.issue t).pending = s.pending := rfl
@[simp] theorem State.issue_free : (s.issue t).free = s.free := rfl
@[simp] theorem State.issue_resp : (s.issue t).resp = s.resp := rfl
@[simp] theorem State.issue_mem : (s.issue t).mem = s.mem := rfl
@[simp] theorem State.issue_badWords : (s.issue t).badWords = s.badWords := rfl
@[simp] theorem State.issue_power : (s.issue t).power = s.power := rfl
@[simp] theorem State.issue_hdrs : (s.issue t).hdrs = s.hdrs := rfl
@[simp] theorem State.issue_ktl : (s.issue t).ktl = s.ktl := rfl
@[simp] theorem State.issue_mgt : (s.issue t).mgt = s.mgt := rfl
@[simp] theorem State.issue_fuse : (s.issue t).fuse = s.fuse := rfl
@[simp] theorem State.issue_flash : (s.issue t).flash = s.flash := rfl
@[simp] theorem State.issue_sec : (s.issue t).sec = s.sec := rfl
@[simp] theorem State.issue_hif : (s.issue t).hif = s.hif := rfl
@[simp] theorem State.issue_sched : (s.issue t).sched = s.sched := rfl
@[simp] theorem State.issue_cores : (s.issue t).cores = s.cores := rfl
@[simp] theorem State.issue_clus : (s.issue t).clus = s.clus := rfl
@[simp] theorem State.issue_dec : (s.issue t).dec = s.dec := rfl
@[simp] theorem State.issue_str : (s.issue t).str = s.str := rfl
@[simp] theorem State.issue_enc : (s.issue t).enc = s.enc := rfl
@[simp] theorem State.issue_csi : (s.issue t).csi = s.csi := rfl
@[simp] theorem State.issue_scl : (s.issue t).scl = s.scl := rfl
@[simp] theorem State.issue_cdy : (s.issue t).cdy = s.cdy := rfl
@[simp] theorem State.issue_spt : (s.issue t).spt = s.spt := rfl
@[simp] theorem State.issue_hbm : (s.issue t).hbm = s.hbm := rfl
@[simp] theorem State.issue_mesh : (s.issue t).mesh = s.mesh := rfl
@[simp] theorem State.issue_bist : (s.issue t).bist = s.bist := rfl
@[simp] theorem State.issue_link : (s.issue t).link = s.link ++ [t] := rfl
@[simp] theorem State.answer_pending : (s.answer w).pending = s.pending := rfl
@[simp] theorem State.answer_free : (s.answer w).free = s.free := rfl
@[simp] theorem State.answer_link : (s.answer w).link = s.link := rfl
@[simp] theorem State.answer_mem : (s.answer w).mem = s.mem := rfl
@[simp] theorem State.answer_badWords : (s.answer w).badWords = s.badWords := rfl
@[simp] theorem State.answer_power : (s.answer w).power = s.power := rfl
@[simp] theorem State.answer_hdrs : (s.answer w).hdrs = s.hdrs := rfl
@[simp] theorem State.answer_ktl : (s.answer w).ktl = s.ktl := rfl
@[simp] theorem State.answer_mgt : (s.answer w).mgt = s.mgt := rfl
@[simp] theorem State.answer_fuse : (s.answer w).fuse = s.fuse := rfl
@[simp] theorem State.answer_flash : (s.answer w).flash = s.flash := rfl
@[simp] theorem State.answer_sec : (s.answer w).sec = s.sec := rfl
@[simp] theorem State.answer_hif : (s.answer w).hif = s.hif := rfl
@[simp] theorem State.answer_sched : (s.answer w).sched = s.sched := rfl
@[simp] theorem State.answer_cores : (s.answer w).cores = s.cores := rfl
@[simp] theorem State.answer_clus : (s.answer w).clus = s.clus := rfl
@[simp] theorem State.answer_dec : (s.answer w).dec = s.dec := rfl
@[simp] theorem State.answer_str : (s.answer w).str = s.str := rfl
@[simp] theorem State.answer_enc : (s.answer w).enc = s.enc := rfl
@[simp] theorem State.answer_csi : (s.answer w).csi = s.csi := rfl
@[simp] theorem State.answer_scl : (s.answer w).scl = s.scl := rfl
@[simp] theorem State.answer_cdy : (s.answer w).cdy = s.cdy := rfl
@[simp] theorem State.answer_spt : (s.answer w).spt = s.spt := rfl
@[simp] theorem State.answer_hbm : (s.answer w).hbm = s.hbm := rfl
@[simp] theorem State.answer_mesh : (s.answer w).mesh = s.mesh := rfl
@[simp] theorem State.answer_bist : (s.answer w).bist = s.bist := rfl
@[simp] theorem State.answer_resp : (s.answer w).resp = leBytes 4 w.toNat := rfl
@[simp] theorem State.takeFree_pending : s.takeFree.2.pending = s.pending := rfl
@[simp] theorem State.takeFree_resp : s.takeFree.2.resp = s.resp := rfl
@[simp] theorem State.takeFree_link : s.takeFree.2.link = s.link := rfl
@[simp] theorem State.takeFree_mem : s.takeFree.2.mem = s.mem := rfl
@[simp] theorem State.takeFree_badWords : s.takeFree.2.badWords = s.badWords := rfl
@[simp] theorem State.takeFree_power : s.takeFree.2.power = s.power := rfl
@[simp] theorem State.takeFree_hdrs : s.takeFree.2.hdrs = s.hdrs := rfl
@[simp] theorem State.takeFree_ktl : s.takeFree.2.ktl = s.ktl := rfl
@[simp] theorem State.takeFree_mgt : s.takeFree.2.mgt = s.mgt := rfl
@[simp] theorem State.takeFree_fuse : s.takeFree.2.fuse = s.fuse := rfl
@[simp] theorem State.takeFree_flash : s.takeFree.2.flash = s.flash := rfl
@[simp] theorem State.takeFree_sec : s.takeFree.2.sec = s.sec := rfl
@[simp] theorem State.takeFree_hif : s.takeFree.2.hif = s.hif := rfl
@[simp] theorem State.takeFree_sched : s.takeFree.2.sched = s.sched := rfl
@[simp] theorem State.takeFree_cores : s.takeFree.2.cores = s.cores := rfl
@[simp] theorem State.takeFree_clus : s.takeFree.2.clus = s.clus := rfl
@[simp] theorem State.takeFree_dec : s.takeFree.2.dec = s.dec := rfl
@[simp] theorem State.takeFree_str : s.takeFree.2.str = s.str := rfl
@[simp] theorem State.takeFree_enc : s.takeFree.2.enc = s.enc := rfl
@[simp] theorem State.takeFree_csi : s.takeFree.2.csi = s.csi := rfl
@[simp] theorem State.takeFree_scl : s.takeFree.2.scl = s.scl := rfl
@[simp] theorem State.takeFree_cdy : s.takeFree.2.cdy = s.cdy := rfl
@[simp] theorem State.takeFree_spt : s.takeFree.2.spt = s.spt := rfl
@[simp] theorem State.takeFree_hbm : s.takeFree.2.hbm = s.hbm := rfl
@[simp] theorem State.takeFree_mesh : s.takeFree.2.mesh = s.mesh := rfl
@[simp] theorem State.takeFree_bist : s.takeFree.2.bist = s.bist := rfl
@[simp] theorem State.takeFree_free : s.takeFree.2.free = s.free + 1 := rfl
@[simp] theorem State.takeFree_val : s.takeFree.1 = Config.freeValue s.free := rfl
end

end Sys2Proof.Machine
end

