-- ==== Sys2Proof/Laws/Flags.lean ====
section
/-! SUPPORT. What raising an interrupt and logging a condition can do: the parts they leave alone, the
bits they set. -/

namespace Sys2Proof.Machine

/-! ## Arrival -/

theorem hostRead_of {s : State} {f : State → State} (h : barOpen s = true) : hostRead f s = f s := if_pos h

theorem hostWrite_of {s : State} {f : State → State} (h : barWr s = true) : hostWrite f s = f s := if_pos h

theorem barOpen_of_barWr {s : State} (h : barWr s = true) : barOpen s = true := by
  simp only [barWr, Bool.and_eq_true] at h; exact h.1

/-! ## Parts that logging touches -/

theorem sansInt_self (s : State) : sansInt s s = s := rfl

theorem sansLog_self (s : State) : sansLog s s = s := rfl

theorem sansInt_trans {s t u : State} (h : sansInt s t = s) (k : sansInt t u = t) : sansInt s u = s := by
  cases s; cases t; cases u
  simp only [sansInt, State.mk.injEq] at *
  simp_all

theorem sansLog_trans {s t u : State} (h : sansLog s t = s) (k : sansLog t u = t) : sansLog s u = s := by
  cases s; cases t; cases u
  simp only [sansLog, State.mk.injEq] at *
  simp_all

theorem sansLog_of_int {s t : State} (h : sansInt s t = s) : sansLog s t = s := by
  cases s; cases t
  simp only [sansInt, sansLog, State.mk.injEq] at *
  simp_all

/-- What a step changed before logging stands after it. -/
theorem sansInt_over {s t u : State} (h : sansInt t u = t) : sansInt s u = sansInt s t := by
  cases s; cases t; cases u
  simp only [sansInt, State.mk.injEq] at *
  simp_all

theorem sansLog_over {s t u : State} (h : sansLog t u = t) : sansLog s u = sansLog s t := by
  cases s; cases t; cases u
  simp only [sansLog, State.mk.injEq] at *
  simp_all

/-- Equal up to logging: every part that logging does not touch is the same. -/
theorem sansLog_parts {s t : State} (h : sansLog s t = s) :
    t.pending = s.pending ∧ t.resp = s.resp ∧ t.link = s.link ∧ t.mem = s.mem ∧ t.badWords = s.badWords ∧
    t.power = s.power ∧ t.ktl = s.ktl ∧ t.fuse = s.fuse ∧ t.flash = s.flash ∧ t.sec = s.sec ∧
    t.sched = s.sched ∧ t.cores = s.cores ∧ t.clus = s.clus ∧ t.dec = s.dec ∧ t.str = s.str ∧
    t.enc = s.enc ∧ t.csi = s.csi ∧ t.scl = s.scl ∧ t.cdy = s.cdy ∧ t.spt = s.spt ∧ t.hbm = s.hbm ∧
    t.mesh = s.mesh ∧ t.bist = s.bist := by
  cases s; cases t
  simp only [sansLog, State.mk.injEq] at *
  simp_all

/-! ## Headers -/

theorem hdr_onHdr (s : State) (p q : Page) (f : Hdr → Hdr) :
    (s.onHdr p f).hdr q =
      if pageIdx p = pageIdx q ∧ pageIdx q < s.hdrs.length then f (s.hdr q) else s.hdr q := by
  simp only [State.hdr, State.onHdr, updAt, List.getD_eq_getElem?_getD, List.getElem?_modify]
  by_cases h : pageIdx p = pageIdx q
  · by_cases k : pageIdx q < s.hdrs.length
    · simp [h, k]
    · simp [h, k]
  · simp [h]

/-- A change of a header that leaves a value of it alone leaves it alone in every page. -/
theorem hdr_onHdr_same {α : Type} (g : Hdr → α) (s : State) (p q : Page) (f : Hdr → Hdr)
    (h : ∀ x, g (f x) = g x) : g ((s.onHdr p f).hdr q) = g (s.hdr q) := by
  rw [hdr_onHdr]; split
  · exact h _
  · rfl

theorem hdrs_length_onHdr (s : State) (p : Page) (f : Hdr → Hdr) :
    (s.onHdr p f).hdrs.length = s.hdrs.length := by
  simp [State.onHdr, updAt]

theorem pageIdx_lt (p : Page) : pageIdx p < 56 := by
  cases p <;> simp [pageIdx] <;> omega

/-! ## Interrupts (R521 to R523, R620) -/

theorem hdrs_reqVector (v : Nat) (s : State) : (reqVector v s).hdrs = s.hdrs := by
  unfold reqVector; split <;> rfl

theorem reqVector_int (v : Nat) (s : State) : sansInt s (reqVector v s) = s := by
  unfold reqVector; split <;> rfl

theorem hdrs_reqSource (i : Nat) (s : State) : (reqSource i s).hdrs = s.hdrs := by
  unfold reqSource; simp only; split
  · exact hdrs_reqVector _ s
  · rfl

theorem reqSource_int (i : Nat) (s : State) : sansInt s (reqSource i s) = s := by
  unfold reqSource; simp only; split
  · exact reqVector_int _ s
  · rfl

theorem hdrs_onIrq (p : Page) (f : Hdr → Hdr) (s : State) : (onIrq p f s).hdrs = (s.onHdr p f).hdrs := by
  unfold onIrq; simp only; split
  · exact hdrs_reqSource _ _
  · rfl

theorem onIrq_int (p : Page) (f : Hdr → Hdr) (s : State) : sansInt s (onIrq p f s) = s := by
  unfold onIrq; simp only; split
  · exact sansInt_trans (t := s.onHdr p f) rfl (reqSource_int _ _)
  · rfl

/-- Setting an interrupt bit touches the headers and the host interface only. -/
theorem setInt_int (p : Page) (i : Nat) (s : State) : sansInt s (setInt p i s) = s := onIrq_int p _ s

theorem hdr_setInt (p q : Page) (i : Nat) (s : State) :
    (setInt p i s).hdr q = (s.onHdr p fun h =>
      { h with intStatus := h.intStatus ||| BitVec.ofNat 32 (2 ^ i) }).hdr q := by
  simp only [State.hdr, setInt, hdrs_onIrq]

theorem bit_of_or (w : W32) (i : Nat) (h : i < 32) : (w ||| BitVec.ofNat 32 (2 ^ i)).getLsbD i = true := by
  rw [BitVec.getLsbD_or, BitVec.getLsbD_ofNat]
  simp [h]

/-- The bit is set. -/
theorem intBit_setInt (p : Page) (i : Nat) (s : State) (hi : i < 32) (hs : s.hdrs.length = 56) :
    intBit (setInt p i s) p i = true := by
  unfold intBit
  rw [hdr_setInt, hdr_onHdr, if_pos ⟨rfl, by rw [hs]; exact pageIdx_lt p⟩]
  exact bit_of_or _ _ hi

/-- Interrupt bits are only set, by whichever event. -/
theorem intBit_setInt_mono (p q : Page) (i j : Nat) (s : State) (h : intBit s q j = true) :
    intBit (setInt p i s) q j = true := by
  unfold intBit at *
  rw [hdr_setInt, hdr_onHdr]; split
  · simp [BitVec.getLsbD_or, h]
  · exact h

theorem errStatus_setInt (p q : Page) (i : Nat) (s : State) :
    ((setInt p i s).hdr q).errStatus = (s.hdr q).errStatus := by
  rw [hdr_setInt]; exact hdr_onHdr_same Hdr.errStatus _ _ _ _ fun _ => rfl

/-! ## Conditions (R571 to R580) -/

theorem logFault_log (p : Page) (b c : Nat) (d : W32) (s : State) : sansLog s (logFault p b c d s) = s :=
  sansLog_trans (t := (s.onMgt _).onHif _) rfl (sansLog_of_int (setInt_int _ _ _))

theorem errStatus_logFault (p q : Page) (b c : Nat) (d : W32) (s : State) :
    ((logFault p b c d s).hdr q).errStatus = (s.hdr q).errStatus := errStatus_setInt _ q _ _

theorem fatalDue_log (p : Page) (s : State) : sansLog s (fatalDue p s) = s := rfl

theorem errStatus_capture (now b c : Nat) (l0 l1 l2 l3 : W32) (h : Hdr) :
    (capture now b c l0 l1 l2 l3 h).errStatus = h.errStatus := by
  unfold capture; simp only; split
  · rfl
  · split
    · rfl
    · split <;> split <;> rfl

/-- Logging a condition touches nothing but the headers, the management block's log and the host
interface. -/
theorem raiseLog_log (p : Page) (b : Nat) (l0 l1 l2 l3 : W32) (s : State) :
    sansLog s (raiseLog p b l0 l1 l2 l3 s) = s := by
  unfold raiseLog; simp only; split
  · rfl
  · have tail : ∀ (a : State) (x y z : Prop) [Decidable x] [Decidable y] [Decidable z], sansLog s a = s →
        sansLog s (if z then fatalDue p (if y then logFault p b (condClass s p b) l0
              (if x then setInt p 0 a else a) else (if x then setInt p 0 a else a))
            else (if y then logFault p b (condClass s p b) l0 (if x then setInt p 0 a else a)
              else (if x then setInt p 0 a else a))) = s := by
      intro a x y z _ _ _ h
      have h1 : sansLog s (if x then setInt p 0 a else a) = s := by
        split
        · exact sansLog_trans h (sansLog_of_int (setInt_int _ _ _))
        · exact h
      have h2 : sansLog s (if y then logFault p b (condClass s p b) l0 (if x then setInt p 0 a else a)
          else (if x then setInt p 0 a else a)) = s := by
        split
        · exact sansLog_trans h1 (logFault_log _ _ _ _ _)
        · exact h1
      split
      · exact sansLog_trans h2 rfl
      · exact h2
    exact tail _ _ _ _ rfl

/-- Its status bit is set. -/
theorem errBit_raiseLog (p : Page) (b : Nat) (l0 l1 l2 l3 : W32) (s : State) (hb : b < 32)
    (hs : s.hdrs.length = 56) : errBit (raiseLog p b l0 l1 l2 l3 s) p b = true := by
  have hp : pageIdx p < s.hdrs.length := by rw [hs]; exact pageIdx_lt p
  unfold errBit raiseLog; simp only; split
  · rw [hdr_onHdr, if_pos ⟨rfl, hp⟩]; exact bit_of_or _ _ hb
  · have fin : ∀ (a : State) (x y z : Prop) [Decidable x] [Decidable y] [Decidable z],
        ((if z then fatalDue p (if y then logFault p b (condClass s p b) l0 (if x then setInt p 0 a else a)
            else (if x then setInt p 0 a else a))
          else (if y then logFault p b (condClass s p b) l0 (if x then setInt p 0 a else a)
            else (if x then setInt p 0 a else a))).hdr p).errStatus = (a.hdr p).errStatus := by
      intro a x y z _ _ _
      have e1 : ((if x then setInt p 0 a else a).hdr p).errStatus = (a.hdr p).errStatus := by
        split
        · exact errStatus_setInt _ _ _ _
        · rfl
      have e2 : ((if y then logFault p b (condClass s p b) l0 (if x then setInt p 0 a else a)
            else (if x then setInt p 0 a else a)).hdr p).errStatus = (a.hdr p).errStatus := by
        split
        · rw [errStatus_logFault]; exact e1
        · exact e1
      split
      · exact e2
      · exact e2
    rw [fin, hdr_onHdr, if_pos ⟨rfl, hp⟩, errStatus_capture]
    exact bit_of_or _ _ hb

theorem hdrs_detailOf (d : Option W32) (s : State) : (detailOf d s).2.hdrs = s.hdrs := by
  cases d <;> rfl

theorem detailOf_log (d : Option W32) (s : State) : sansLog s (detailOf d s).2 = s := by
  cases d <;> rfl

theorem raise_log (p : Page) (b : Nat) (d : Option W32) (u : Nat) (s : State) :
    sansLog s (raise p b d u s) = s :=
  sansLog_trans (detailOf_log d s) (raiseLog_log _ _ _ _ _ _ _)

theorem errBit_raise (p : Page) (b : Nat) (d : Option W32) (u : Nat) (s : State) (hb : b < 32)
    (hs : s.hdrs.length = 56) : errBit (raise p b d u s) p b = true :=
  errBit_raiseLog _ _ _ _ _ _ _ hb (by rw [hdrs_detailOf]; exact hs)

/-- An invalid programming is logged and does nothing else (R13). -/
theorem invalidProg_log (p : Page) (s : State) : sansLog s (invalidProg p s) = s := raise_log _ _ _ _ _

theorem errBit_invalidProg (p : Page) (s : State) (hs : s.hdrs.length = 56) :
    errBit (invalidProg p s) p 0 = true := errBit_raise _ _ _ _ _ (by decide) hs

theorem hdrs_of_sized {s : State} (h : sized s = true) : s.hdrs.length = 56 := by
  simp only [sized, Bool.and_eq_true, beq_iff_eq] at h
  simp_all

end Sys2Proof.Machine
end

