-- ==== Sys2Proof/Laws/Memory.lean ====
section
/-! SUPPORT. What the memory operations can do: the canonical form they keep, reads after writes, and the
parts of the state that an access of an agent may touch. -/

namespace Sys2Proof.Machine

/-! ## The canonical form -/

theorem wfFrom_mono {lo hi : Nat} {m : List Host.Cell} (h : lo ≤ hi) (w : Memory.wfFrom hi m = true) :
    Memory.wfFrom lo m = true := by
  cases m with
  | nil => rfl
  | cons c r =>
    obtain ⟨a, v⟩ := c
    simp only [Memory.wfFrom, Bool.and_eq_true, decide_eq_true_eq] at *
    exact ⟨⟨Nat.le_trans h w.1.1, w.1.2⟩, w.2⟩

theorem memGet_below {lo : Nat} {m : List Host.Cell} (w : Memory.wfFrom lo m = true) {a : Nat} (h : a < lo) :
    memGet m a = 0 := by
  induction m generalizing lo with
  | nil => rfl
  | cons c r ih =>
    obtain ⟨x, v⟩ := c
    simp only [Memory.wfFrom, Bool.and_eq_true, decide_eq_true_eq] at w
    rw [memGet, if_neg (by omega), ih w.2 (by omega)]

theorem memPut_wfFrom {lo : Nat} {m : List Host.Cell} (w : Memory.wfFrom lo m = true) {a : Nat} (h : lo ≤ a)
    (b : Byte) : Memory.wfFrom lo (memPut m a b) = true := by
  induction m generalizing lo with
  | nil =>
    unfold memPut; split
    · rfl
    · simp_all [Memory.wfFrom]
  | cons c r ih =>
    obtain ⟨x, v⟩ := c
    simp only [Memory.wfFrom, Bool.and_eq_true, decide_eq_true_eq] at w
    unfold memPut
    split
    · split
      · simp_all [Memory.wfFrom]
      · simp_all [Memory.wfFrom]
    · split
      · split
        · exact wfFrom_mono (by omega) w.2
        · simp_all [Memory.wfFrom]
      · have := ih w.2 (by omega)
        simp_all [Memory.wfFrom]

/-- A write keeps the canonical form. -/
theorem memPut_wf {m : List Host.Cell} (w : Memory.wf m = true) (a : Nat) (b : Byte) :
    Memory.wf (memPut m a b) = true := memPut_wfFrom w (Nat.zero_le a) b

/-- So do writes of many bytes. -/
theorem memPutAll_wf {m : List Host.Cell} (w : Memory.wf m = true) (cs : List Host.Cell) :
    Memory.wf (memPutAll m cs) = true := by
  unfold memPutAll
  induction cs generalizing m with
  | nil => exact w
  | cons c r ih => exact ih (memPut_wf w _ _)

theorem memFilter_wfFrom {lo : Nat} {m : List Host.Cell} (w : Memory.wfFrom lo m = true)
    (p : Host.Cell → Bool) : Memory.wfFrom lo (m.filter p) = true := by
  induction m generalizing lo with
  | nil => rfl
  | cons c r ih =>
    obtain ⟨x, v⟩ := c
    simp only [Memory.wfFrom, Bool.and_eq_true, decide_eq_true_eq] at w
    rw [List.filter_cons]; split
    · simp only [Memory.wfFrom, Bool.and_eq_true, decide_eq_true_eq]; exact ⟨w.1, ih w.2⟩
    · exact wfFrom_mono (by omega) (ih w.2)

/-- Dropping bytes keeps the form. -/
theorem memDrop_wf {m : List Host.Cell} (w : Memory.wf m = true) (p : Nat → Bool) :
    Memory.wf (memDrop p m) = true := memFilter_wfFrom w _

/-- Bytes that become undefined keep the form. -/
theorem memBlur_wf {m : List Host.Cell} (w : Memory.wf m = true) (p : Nat → Bool) (k : Nat) :
    Memory.wf (memBlur p k m) = true := memPutAll_wf w _

/-! ## Reads after writes -/

theorem memGet_memPut_from {lo : Nat} {m : List Host.Cell} (w : Memory.wfFrom lo m = true) (a k : Nat)
    (b : Byte) : memGet (memPut m a b) k = if k = a then b else memGet m k := by
  induction m generalizing lo with
  | nil =>
    unfold memPut; split
    · simp_all [memGet]
    · simp only [memGet]
      by_cases h : k = a
      · rw [if_pos h.symm, if_pos h]
      · rw [if_neg (Ne.symm h), if_neg h]
  | cons c r ih =>
    obtain ⟨x, v⟩ := c
    simp only [Memory.wfFrom, Bool.and_eq_true, decide_eq_true_eq] at w
    have below : ∀ k, k ≤ x → memGet r k = 0 := fun k h => memGet_below w.2 (by omega)
    unfold memPut
    split
    · split
      · by_cases h : k = a
        · subst h; rw [memGet, if_neg (by omega), below _ (by omega)]; simp_all
        · rw [if_neg h]
      · simp only [memGet]
        by_cases h : k = a
        · simp [h]
        · rw [if_neg (Ne.symm h), if_neg h]
    · split
      · rename_i e; subst e
        split
        · by_cases h : k = a
          · subst h; rw [below _ (Nat.le_refl _)]; simp_all
          · simp only [memGet]; rw [if_neg h, if_neg (Ne.symm h)]
        · simp only [memGet]
          by_cases h : k = a
          · simp [h]
          · rw [if_neg (Ne.symm h), if_neg h, if_neg (Ne.symm h)]
      · simp only [memGet, ih w.2]
        by_cases h : x = k
        · rw [if_pos h, if_neg (by omega), if_pos h]
        · rw [if_neg h, if_neg h]

/-- A byte written reads back; every other address reads as before. -/
theorem memGet_memPut {m : List Host.Cell} (w : Memory.wf m = true) (a k : Nat) (b : Byte) :
    memGet (memPut m a b) k = if k = a then b else memGet m k := memGet_memPut_from w a k b

/-- An address written, whether the form holds or not, leaves every other address as it was. -/
theorem memGet_memPut_other (m : List Host.Cell) {a k : Nat} (b : Byte) (h : k ≠ a) :
    memGet (memPut m a b) k = memGet m k := by
  induction m with
  | nil =>
    unfold memPut; split
    · rfl
    · simp only [memGet]; rw [if_neg (Ne.symm h)]
  | cons c r ih =>
    obtain ⟨x, v⟩ := c
    unfold memPut; split
    · split
      · rfl
      · rw [memGet, if_neg (Ne.symm h)]
    · split
      · rename_i e; subst e; split
        · rw [memGet, if_neg (Ne.symm h)]
        · simp only [memGet]; rw [if_neg (Ne.symm h), if_neg (Ne.symm h)]
      · simp only [memGet, ih]

/-- Addresses that no cell of a write names read as before. -/
theorem memGet_memPutAll_other {m cs : List Host.Cell} {k : Nat} (h : ∀ c ∈ cs, c.1 ≠ k) :
    memGet (memPutAll m cs) k = memGet m k := by
  unfold memPutAll
  induction cs generalizing m with
  | nil => rfl
  | cons c r ih =>
    rw [List.foldl_cons, ih fun d hd => h d (List.mem_cons_of_mem _ hd)]
    exact memGet_memPut_other m _ (Ne.symm (h c List.mem_cons_self))

/-- Dropped addresses read as unwritten, the others as before. -/
theorem memGet_memDrop (p : Nat → Bool) (m : List Host.Cell) (k : Nat) :
    memGet (memDrop p m) k = if p k then 0 else memGet m k := by
  unfold memDrop
  induction m with
  | nil => simp [memGet]
  | cons c r ih =>
    obtain ⟨x, v⟩ := c
    rw [List.filter_cons]
    by_cases hx : p x = true
    · by_cases e : x = k
      · subst e; simp [hx, ih]
      · simp [hx, ih, memGet, e]
    · by_cases e : x = k
      · subst e; simp [hx, memGet]
      · simp [hx, ih, memGet, e]

/-! ## What an access may touch -/

theorem raiseAddr_log (p : Page) (b addr resp stop agent unit : Nat) (s : State) :
    sansLog s (raiseAddr p b addr resp stop agent unit s) = s := raiseLog_log _ _ _ _ _ _ _

theorem raiseTlp_log (b : Nat) (s : State) : sansLog s (raiseTlp b s) = s :=
  sansLog_trans (t := { s with free := s.free + 4 }) rfl (raiseLog_log _ _ _ _ _ _ _)

/-- Logging a response touches what logging touches, and nothing else. -/
theorem logResp_log (src : Src) (r : Resp) (a : Nat) (s : State) : sansLog s (logResp src r a s) = s := by
  unfold logResp; simp only
  split
  · exact sansLog_self s
  · exact raiseTlp_log _ _
  · exact sansLog_self s
  · exact sansLog_self s
  · exact raiseAddr_log _ _ _ _ _ _ _ _

/-- An error met in a core's memories marks that core and does nothing else. -/
theorem markCore_keeps (src : Src) (a : Nat) (s : State) : { markCore src a s with cores := s.cores } = s := by
  unfold markCore; split
  · split <;> rfl
  · rfl

@[simp] theorem markCore_mem (src : Src) (a : Nat) (s : State) : (markCore src a s).mem = s.mem := by
  have h := congrArg State.mem (markCore_keeps src a s); exact h

/-- Logging an uncorrectable error touches what logging touches, and the mark of a core. -/
theorem logUncorr_log (src : Src) (a : Nat) (s : State) :
    sansLog (markCore src a s) (logUncorr src a s) = markCore src a s :=
  raiseAddr_log _ _ _ _ _ _ _ _

theorem logCorr_log (src : Src) (a : Nat) (s : State) : sansLog s (logCorr src a s) = s :=
  raiseLog_log _ _ _ _ _ _ _

@[simp] theorem touch_mem (src : Src) (a : Nat) (s : State) : (touch src a s).mem = s.mem := by
  unfold touch; split <;> rfl

@[simp] theorem touch_badWords (src : Src) (a : Nat) (s : State) : (touch src a s).badWords = s.badWords := by
  unfold touch; split <;> rfl

@[simp] theorem touch_cores (src : Src) (a : Nat) (s : State) : (touch src a s).cores = s.cores := by
  unfold touch; split <;> rfl

@[simp] theorem touch_mgt (src : Src) (a : Nat) (s : State) : (touch src a s).mgt = s.mgt := by
  unfold touch; split <;> rfl

/-- A first access locks the HBM map and does nothing else. -/
theorem touch_hbm (src : Src) (a : Nat) (s : State) :
    touch src a s = { s with hbm := (touch src a s).hbm } := by
  unfold touch; split <;> rfl

theorem mem_of_log {s t : State} (h : sansLog s t = s) : t.mem = s.mem := (sansLog_parts h).2.2.2.1

@[simp] theorem logResp_mem (src : Src) (r : Resp) (a : Nat) (s : State) : (logResp src r a s).mem = s.mem :=
  mem_of_log (logResp_log src r a s)

@[simp] theorem logUncorr_mem (src : Src) (a : Nat) (s : State) : (logUncorr src a s).mem = s.mem :=
  (mem_of_log (logUncorr_log src a s)).trans (markCore_mem src a s)

@[simp] theorem partFault_mem (src : Src) (as : List Nat) (s : State) : (partFault src as s).mem = s.mem := by
  unfold partFault; split
  · exact mem_of_log (invalidProg_log .cdy s)
  · rfl

/-- A read of an agent leaves memory as it was. -/
theorem readMem_mem (src : Src) (a n : Nat) (s : State) : (readMem src a n s).2.2.mem = s.mem := by
  unfold readMem
  split
  · simp only; split
    · rw [logResp_mem, logUncorr_mem, touch_mem]
    · exact touch_mem _ _ _
  · exact logResp_mem _ _ _ _

/-- A readable range answers OK with its bytes; only the map's lock may change. -/
theorem readMem_ok {src : Src} {a n : Nat} {s : State} (h : readable s src a n = true)
    (k : ∀ t : State, t = touch src a s → badAt t a n = badAt s a n ∧ peek t a n = peek s a n) :
    readMem src a n s = (.ok, peek s a n, touch src a s) := by
  simp only [readable, Bool.and_eq_true, beq_iff_eq, Bool.not_eq_true'] at h
  obtain ⟨h1, h2⟩ := h
  obtain ⟨k1, k2⟩ := k _ rfl
  unfold readMem
  simp only [h1, k1, h2, k2, Bool.false_eq_true, if_false]

theorem hbmMap_touch (src : Src) (a : Nat) (s : State) : (touch src a s).hbm.map = s.hbm.map := by
  unfold touch; split <;> rfl

@[simp] theorem physKey_touch (src : Src) (b a : Nat) (s : State) :
    physKey (touch src b s) a = physKey s a := by
  unfold physKey; split
  · simp only [coreKey, physCore, touch_mgt]
  · rw [hbmMap_touch]
  · rfl

@[simp] theorem peek_touch (src : Src) (b a n : Nat) (s : State) :
    peek (touch src b s) a n = peek s a n := by
  simp only [peek, touch_mem, physKey_touch]

@[simp] theorem badAt_touch (src : Src) (b a n : Nat) (s : State) :
    badAt (touch src b s) a n = badAt s a n := by
  simp only [badAt, touch_badWords, physKey_touch]

/-- A readable range answers OK with its bytes. -/
theorem readMem_of_readable {src : Src} {a n : Nat} {s : State} (h : readable s src a n = true) :
    readMem src a n s = (.ok, peek s a n, touch src a s) :=
  readMem_ok h fun _ e => by subst e; exact ⟨badAt_touch _ _ _ _ _, peek_touch _ _ _ _ _⟩

/-! ## Writes -/

/-- A write of bytes at keys keeps the canonical form. -/
theorem putKeys_wf {s : State} (w : Memory.wf s.mem = true) (part : List Nat) (cs : List Host.Cell) :
    Memory.wf (putKeys part cs s).mem = true := memPutAll_wf w _

theorem putKeys_other {s : State} {part : List Nat} {cs : List Host.Cell} {k : Nat} (h : ∀ c ∈ cs, c.1 ≠ k) :
    memGet (putKeys part cs s).mem k = memGet s.mem k :=
  memGet_memPutAll_other fun c hc => h c (List.mem_of_mem_filter hc)

/-- Words that hold no error are all written. -/
theorem putKeys_good {s : State} (h : s.badWords = []) (part : List Nat) (cs : List Host.Cell) :
    putKeys part cs s = { s with mem := memPutAll s.mem cs } := by
  unfold putKeys partialBad
  simp [h]

theorem foldl_keeps {α β γ : Type} (g : α → γ) (f : α → β → α) (h : ∀ a b, g (f a b) = g a) (l : List β) :
    ∀ a, g (l.foldl f a) = g a := by
  induction l with
  | nil => intro a; rfl
  | cons b r ih => intro a; rw [List.foldl_cons, ih, h]

/-- A doorbell's delivery leaves everything but the rings as it was. -/
theorem ringDoorbells_keeps (hit : Nat → Bool) (fb : Bool) (s : State) :
    { ringDoorbells hit fb s with clus := s.clus, cdy := s.cdy } = s := by
  have key : ∀ t : State, (fun u : State => { u with clus := s.clus, cdy := s.cdy })
      (ringDoorbells hit fb t) = (fun u : State => { u with clus := s.clus, cdy := s.cdy }) t := by
    intro t
    unfold ringDoorbells
    simp only
    refine Eq.trans (foldl_keeps (fun u : State => { u with clus := s.clus, cdy := s.cdy }) _ ?_ _ _)
      (foldl_keeps (fun u : State => { u with clus := s.clus, cdy := s.cdy }) _ ?_ _ _)
    · intro a b; split <;> rfl
    · intro a b; split <;> rfl
  exact key s

theorem ringDoorbells_mem (hit : Nat → Bool) (fb : Bool) (s : State) :
    (ringDoorbells hit fb s).mem = s.mem :=
  (State.mk.inj (ringDoorbells_keeps hit fb s)).2.2.2.2.1

theorem poke_wf {s : State} (w : Memory.wf s.mem = true) (a : Nat) (bs : List Byte) :
    Memory.wf (poke a bs s).mem = true := putKeys_wf w _ _

@[simp] theorem logWords_mem (src : Src) (bad ws : List Nat) (s : State) : (logWords src bad ws s).mem = s.mem :=
  foldl_keeps State.mem _ (fun t a => logUncorr_mem src a t) _ _

/-- A write of an agent keeps the canonical form, whatever its response. -/
theorem writeMem_wf {s : State} (w : Memory.wf s.mem = true) (src : Src) (a : Nat) (bs : List Byte)
    (fb : Bool) : Memory.wf (writeMem src a bs fb s).2.mem = true := by
  have k : Memory.wf (ringDoorbells (inRange a bs.length) fb (poke a bs (touch src a s))).mem = true := by
    rw [ringDoorbells_mem]; exact poke_wf (by rw [touch_mem]; exact w) _ _
  unfold writeMem
  split
  · simp only; split
    · exact k
    · rw [logResp_mem, logWords_mem]; exact k
  · rw [logResp_mem]; exact w

theorem store_wf {s : State} (w : Memory.wf s.mem = true) (src : Src) (a : Nat) (bs : List Byte) :
    Memory.wf (store src a bs s).mem = true := writeMem_wf w _ _ _ _

theorem storeNat_wf {s : State} (w : Memory.wf s.mem = true) (src : Src) (a n v : Nat) :
    Memory.wf (storeNat src a n v s).mem = true := store_wf w _ _ _

theorem serveCells_wf {s : State} (w : Memory.wf s.mem = true) (src : Src) (cs : Cells) :
    Memory.wf (serveCells src cs s).2.mem = true := by
  unfold serveCells
  generalize keptOf src cs s = kept
  have p : Memory.wf (partFault src (cs.cells.map (·.1)) s).mem = true := by rw [partFault_mem]; exact w
  cases kept with
  | nil =>
    dsimp only; split
    · simp only [ringDoorbells_mem]; exact putKeys_wf p _ _
    · simp only [logWords_mem, ringDoorbells_mem]; exact putKeys_wf p _ _
  | cons c r =>
    dsimp only; split
    · simp only [ringDoorbells_mem]; exact putKeys_wf (by rw [touch_mem]; exact p) _ _
    · simp only [logWords_mem, ringDoorbells_mem]; exact putKeys_wf (by rw [touch_mem]; exact p) _ _

theorem writeCells_wf {s : State} (w : Memory.wf s.mem = true) (src : Src) (cs : Cells) :
    Memory.wf (writeCells src cs s).2.mem = true := by
  unfold writeCells
  split
  · simp only; rw [logResp_mem]; exact w
  · simp only; rw [logResp_mem]; exact serveCells_wf w _ _

theorem serve64_wf {s : State} (w : Memory.wf s.mem = true) (src : Src) (a : Nat) (fb : Bool)
    (f : Nat → Nat) : Memory.wf (serve64 src a fb f s).2.mem = true := by
  unfold serve64
  simp only; split
  · exact (mem_of_log (invalidProg_log .cdy _)).symm ▸ (touch_mem src a s).symm ▸ w
  · split
    · rw [logUncorr_mem, touch_mem]; exact w
    · simp only; rw [ringDoorbells_mem]; exact poke_wf (by rw [touch_mem]; exact w) _ _

theorem modify64_wf {s : State} (w : Memory.wf s.mem = true) (src : Src) (a : Nat) (fb : Bool)
    (f : Nat → Nat) : Memory.wf (modify64 src a fb f s).2.mem = true := by
  unfold modify64
  simp only; split
  · simp only; rw [logResp_mem]; exact serve64_wf w _ _ _ _
  · rw [logResp_mem]; exact w

theorem account_wf {s : State} (w : Memory.wf s.mem = true) (src : Src) (off v : Nat) :
    Memory.wf (account src off v s).mem = true := by
  unfold account; split
  · exact modify64_wf w _ _ _ _
  · exact w

theorem bump32_wf {s : State} (w : Memory.wf s.mem = true) (src : Src) (a : Nat) :
    Memory.wf (bump32 src a s).mem = true := by
  unfold bump32; split
  · rw [logResp_mem]; exact w
  · simp only; split
    · rw [logUncorr_mem, touch_mem]; exact w
    · exact poke_wf (by rw [touch_mem]; exact w) _ _

/-- With accounting off an accounting add does nothing (R440). -/
theorem account_off {s : State} (h : rbit s.hif.acctLo 0 = false) (src : Src) (off v : Nat) :
    account src off v s = s := by
  unfold account; rw [h]; rfl

/-! ## Ranges in HBM -/

theorem lineStarts_lt {a n l : Nat} (h : l ∈ lineStarts a n) : l < a + n := by
  unfold lineStarts at h
  split at h
  · cases h
  · rcases List.mem_cons.1 h with h | h
    · omega
    · obtain ⟨i, hi, rfl⟩ := List.mem_map.1 h
      have := List.mem_range.1 hi
      omega

/-- A range of HBM answers OK while the controller serves requests. -/
theorem respRange_hbm {s : State} {src : Src} {a n : Nat} (h : a + n ≤ hbmEnd) (r : hbmRefuses s = false) :
    respRange s src a n = .ok := by
  have k : ((lineStarts a n).map (respOf s src)).find? (· != .ok) = none := by
    rw [List.find?_eq_none]
    intro x hx
    obtain ⟨l, hl, rfl⟩ := List.mem_map.1 hx
    have : l < hbmEnd := by have := lineStarts_lt hl; omega
    simp [respOf, regionOf, this, r]
  rw [respRange, k]; rfl

theorem hbmRefuses_touch (src : Src) (a : Nat) (s : State) : hbmRefuses (touch src a s) = hbmRefuses s := by
  unfold touch; split <;> rfl

theorem ringDoorbells_hbm (hit : Nat → Bool) (fb : Bool) (s : State) :
    (ringDoorbells hit fb s).hbm = s.hbm := by
  have h := congrArg State.hbm (ringDoorbells_keeps hit fb s); exact h

theorem ringDoorbells_badWords (hit : Nat → Bool) (fb : Bool) (s : State) :
    (ringDoorbells hit fb s).badWords = s.badWords := by
  have h := congrArg State.badWords (ringDoorbells_keeps hit fb s); exact h

/-- Writes within HBM all answer OK where no word holds an error. -/
theorem writeAll_hbm {src : Src} {l : List (Nat × List Byte)} {s : State}
    (h : ∀ r ∈ l, r.1 + r.2.length ≤ hbmEnd) (r : hbmRefuses s = false) (b : s.badWords = []) :
    (writeAll src l s).1 = .ok := by
  induction l generalizing s with
  | nil => rfl
  | cons c q ih =>
    obtain ⟨a, bs⟩ := c
    have ha := h (a, bs) List.mem_cons_self
    have hb : partialBad (touch src a s) ((keyed (touch src a s) a bs).map (·.1)) [] = [] := by
      simp [partialBad, b]
    have w : writeMem src a bs false s =
        (.ok, ringDoorbells (inRange a bs.length) false (poke a bs (touch src a s))) := by
      unfold writeMem
      simp only [respRange_hbm ha r, hb, if_true]
    unfold writeAll
    rw [w]
    refine ih (fun r hr => h r (List.mem_cons_of_mem _ hr)) ?_ ?_
    · unfold hbmRefuses; rw [ringDoorbells_hbm]; exact (hbmRefuses_touch src a s).trans r
    · rw [ringDoorbells_badWords]; simp [poke, putKeys, b]

theorem peek_length (s : State) (a n : Nat) : (peek s a n).length = n := by simp [peek]

@[simp] theorem freeBytes_fuse (n : Nat) (s : State) : (freeBytes n s).2.fuse = s.fuse := rfl

theorem freeBytes_length (n : Nat) (s : State) : (freeBytes n s).1.length = n := by
  simp [freeBytes]

theorem leBytes_length (n v : Nat) : (leBytes n v).length = n := by
  induction n generalizing v with
  | zero => rfl
  | succ n ih => rw [leBytes, List.length_cons, ih]

theorem length_flatMap_const {α β : Type} (f : α → List β) (k : Nat) (h : ∀ a, (f a).length = k) (l : List α) :
    (l.flatMap f).length = l.length * k := by
  induction l with
  | nil => simp
  | cons a r ih => rw [List.flatMap_cons, List.length_append, h, ih, List.length_cons, Nat.succ_mul, Nat.add_comm]

theorem accPlaces_length (s : State) (n : Nat) : (accPlaces s n).length = ringSlots s * 4 := by
  unfold accPlaces
  rw [length_flatMap_const _ 4 (by intro k; simp), List.length_range]

/-- The accumulators that a save writes: 640 bytes a slot. -/
theorem accSaved_length (n : Nat) (s : State) : (accSaved n s).1.length = ringSlots s * 640 := by
  have h : ((accPlaces s n).flatMap fun p => peek s p 160).length = ringSlots s * 640 := by
    rw [length_flatMap_const _ 160 (fun p => peek_length s p 160), accPlaces_length]; omega
  have g : ((accPlaces s n).flatMap fun p => (List.range 160).map (p + ·)).length = ringSlots s * 640 := by
    rw [length_flatMap_const _ 160 (by intro p; simp), accPlaces_length]; omega
  unfold accSaved; simp only; split
  · simp only [List.length_map, List.length_zip, g, h, freeBytes_length, Nat.min_self]
  · exact h

/-- A save frame without ranges of its own lies within 1 MiB. -/
theorem frameBytes_in {n : Nat} {s : State} (hs : (s.core n).sat.length ≤ 1024)
    (hv : (s.core n).vregs.length ≤ 8192) (hf : s.fuse.accFence ≤ 1024) (he : (s.core n).store.save = []) :
    ∀ r ∈ (frameBytes n s).1, r.1 + r.2.length ≤ 0x100000 := by
  have h4 : (((s.core n).sat.flatMap (leBytes 4)).length) = (s.core n).sat.length * 4 := by
    rw [List.length_flatMap, List.map_congr_left (fun v _ => leBytes_length 4 v)]
    simp
  intro r hr
  simp only [frameBytes, List.mem_cons, List.not_mem_nil, or_false] at hr
  rcases hr with h | h | h | h | h | h | h <;> subst h <;>
    simp only [freeBytes_length, accSaved_length, List.length_append, List.length_replicate, h4, he, List.flatMap_nil,
      List.length_nil, ringSlots, freeBytes_fuse] <;> omega

end Sys2Proof.Machine
end

