-- ==== Sys2Proof/WellFormed.lean ====
section
/-! DEFINITION. The commands whose operands the rules admit: sizes of data against R480, R502, R508
and the header log, ranges of measured values. Numbers of units, rings and contexts are
bounded by their types. -/

namespace Sys2Proof

/-- A mesh write carries one 64-byte line (R480). -/
def wfLine (d : List Byte) : Bool := d.length == 64

/-- A BAR2 write carries 1 to 4,096 bytes of one TLP. -/
def wfBar2 (d : List Byte) : Bool := 1 ≤ d.length && d.length ≤ 4096

/-- An access that R502 calls invalid: not 4 bytes aligned to 4 and not 8 bytes aligned to 8, or to
an offset inside BAR0's 64 MiB that holds no page. -/
def wfBar0 (off : Nat) : Bool := off < 2 ^ 26

/-- VDD_CORE set points lie in 0.60 to 0.80 V (R639). -/
def wfVdd (mv : Nat) : Bool := 600 ≤ mv && mv ≤ 800

/-- Well-formed commands. -/
def Instr.wf : Instr → Bool
  | .memWrite _ _ _ d _ => wfLine d
  | .memRead _ _ n _ => 0 < n.val
  | .bar2Write _ d => wfBar2 d
  | .bar2Read _ n => 0 < n.val
  | .bar0AccessInvalid _ off _ => wfBar0 off
  | .bar0Timeout off => wfBar0 off
  | .vddSetPointStep mv => wfVdd mv
  | .badTlp _ h => h.length == 4
  | .hdmaCompletion _ _ d => d.length ≤ 4096
  | _ => true

end Sys2Proof
end

