-- ==== Sys2Proof/Tests/Slice0.lean ====
section
/-! SUPPORT. Tests: each check of WellFormed refuses an ill-formed command, the manual's worked examples,
and for every obligation a state and operands that meet the hypotheses of each of its clauses. -/

namespace Sys2Proof.Tests

set_option Elab.async false
set_option linter.unnecessarySeqFocus false
set_option linter.unusedVariables false
set_option exponentiation.threshold 1024
set_option maxRecDepth 20000

open Machine

/-! ## Ill-formed commands are refused -/

theorem test_wf_line : Instr.wf (.memWrite .spout 0 0 [1, 2, 3] .clean) = false := by decide
theorem test_wf_lines : Instr.wf (.memRead .spout 0 0 .clean) = false := by decide
theorem test_wf_bar2Write : Instr.wf (.bar2Write 0 []) = false := by decide
theorem test_wf_bar2Read : Instr.wf (.bar2Read 0 0) = false := by decide
theorem test_wf_bar0 : Instr.wf (.bar0AccessInvalid true (2 ^ 26) 4) = false := by decide
theorem test_wf_timeout : Instr.wf (.bar0Timeout (2 ^ 26)) = false := by decide
theorem test_wf_vdd : Instr.wf (.vddSetPointStep 599) = false := by decide
theorem test_wf_header : Instr.wf (.badTlp .malformed [1, 2, 3]) = false := by decide
theorem test_wf_completion : Instr.wf (.hdmaCompletion 0 .sc (List.replicate 4097 0)) = false := by decide +kernel

/-! ## Worked examples of the manual -/

/-- Four or eight 64-bit words as one number, the first lowest. -/
def words64 (l : List Nat) : Nat := l.foldr (fun w n => w + n * 2 ^ 64) 0

/-- The DIST word of chapter 04's example. -/
def distWord : Nat := words64 [0x0000001000020004, 0x12, 0, 0]

/-- DST 2, SRC0 0, SRC1 1, cell L2SQ, reduction ARGMIN. -/
theorem test_dist_word : mOp distWord = opDist ∧ mDst distWord = 2 ∧ mSrc0 distWord = 0 ∧ mSrc1 distWord = 1 ∧
    distCell distWord = 2 ∧ distReduce distWord = 2 ∧ distGate distWord = 0 := by decide

/-- Descriptor 1 of the same example: 1,024 rows of 64 bytes at Core 5's weight buffer. -/
def refDesc : Nat := words64 [0x0000800105000000, 0x0000040000000400, 0x0000000100000001, 0x0000004000000040, 0x0000004000000040, 0, 0, 0]

theorem test_ref_desc : dBase refDesc = 0x800105000000 ∧ dAlloc refDesc = 1024 ∧ dN refDesc = 1024 ∧ dC refDesc = 64 ∧
    dS1 refDesc = 64 ∧ dS3 refDesc = 64 ∧ eltRange refDesc (posAt refDesc 1023 63) = (0x800105000000 + 65535, 1) := by
  decide

/-- Row 47 of descriptor 2 of that example, the ARGMIN output, ends its 384 bytes. -/
def argDesc : Nat := words64 [0x0006800105200c00, 0x0000000100000006, 0x0000003000000001, 0x0000000800000002, 0x0000018000000180, 0, 0, 0]

theorem test_arg_desc : eltRange argDesc (posAt argDesc 47 1) = (0x800105200c00 + 380, 4) := by decide

/-- The walk of chapter 05's example: 1,000 × 200 by 200 × 77 on four arrays. -/
def walk1000 : Geo :=
  geoOf opMatmul (words64 [0, 1000 * 2 ^ 32, 1 + 2 ^ 32, 200, 0, 0, 0, 0]) (words64 [0, 77 * 2 ^ 32, 1 + 2 ^ 32, 200, 0, 0, 0, 0]) 0 1

theorem test_walk : walk1000 = { m := 1000, nc := 77, kb := 7, tr := 250, nrg := 1, ncb := 3 } ∧ trgOf walk1000 0 = 250 := by
  decide

/-- The check value of the CRC-32 of R125 over the nine digits. -/
theorem test_crc : crc32 [49, 50, 51, 52, 53, 54, 55, 56, 57] = 0xcbf43926 := by decide +kernel

/-- BLK_ID of a core's page: TYPE 0x10, its number, revision 1 (R603, R608). -/
theorem test_blk_id : blkId (.core 5) = 0x100501 := by decide

/-! ## Worked examples of chapters 06, 09, 10, 12 and 13 -/

/-- A requantisation record: M, S, ZO 10, LO −128, HI 127. -/
def quantRec (m sh : Nat) : Nat := m + sh * 2 ^ 32 + 10 * 2 ^ 40 + 0x80 * 2 ^ 48 + 0x7f * 2 ^ 56

/-- Ties to even, on both sides of 0, and the saturated rows of chapter 06's nine accumulators. -/
theorem test_requant : (requant1 0 (quantRec (2 ^ 30) 31) (.int 5)).1 = 12 ∧ (requant1 0 (quantRec (2 ^ 30) 31) (.int 7)).1 = 14 ∧
    (requant1 0 (quantRec (2 ^ 30) 31) (.int (-5))).1 = 8 ∧ (requant1 0 (quantRec (2 ^ 30) 31) (.int (-7))).1 = 6 ∧
    (requant1 0 (quantRec 3 2) (.int 6)).1 = 14 ∧ (requant1 0 (quantRec 3 2) (.int 10)).1 = 18 ∧
    (requant1 0 (quantRec 3 2) (.int 1)).1 = 11 ∧ requant1 0 (quantRec (2 ^ 30) 31) (.int 300) = (127, 127, true) := by
  decide +kernel

/-- The error terms of rows 1 and 8 (R240). -/
theorem test_mse : mseTerm 0 (quantRec (2 ^ 30) 31) (.int 5) 12 = some (-128) ∧
    mseTerm 0 (quantRec (2 ^ 30) 31) (.int 300) 127 = some (-8448) := by decide +kernel

/-- An entry with ASPECT and an output of 256 × 256. -/
def aspectEntry : Nat := 2 ^ 15 + 256 * 2 ^ 160 + 256 * 2 ^ 176

/-- Chapter 09's window, widened about its centre, and the taps of the first and last output sample. -/
theorem test_crop : adjust aspectEntry 1920 1080 ⟨1500, 40, 90, 120⟩ = (1485, 40, 120, 120) ∧
    tapsAt true 120 (axisPos 120 256 0) = [(0, -3), (0, 31), (0, 109), (1, -9)] ∧
    tapsAt true 120 (axisPos 120 256 255) = [(118, -9), (119, 109), (119, 31), (119, -3)] ∧
    resampled (fun i _ => if i = 0 then 400 else 480) (tapsAt true 120 (axisPos 120 256 0))
      (tapsAt true 120 (axisPos 120 256 0)) = 394 := by decide +kernel

/-- Chapter 10's assignment: the pairs that pass the limit, in order, and the walk over them. -/
theorem test_assign :
    [(12000, 3, 0), (12000, 3, 1), (13000, 12, 1), (14000, 7, 0), (16000, 7, 2)].Pairwise (fun a b => pairLe false a b) ∧
    assign [(12000, 3, 0), (12000, 3, 1), (13000, 12, 1), (14000, 7, 0), (16000, 7, 2)] =
      [(12000, 3, 0), (13000, 12, 1), (16000, 7, 2)] := by decide

/-- Entry 12 of chapter 10: both coordinates corrected, then predicted. -/
theorem test_track : corrected 600 400 400 612 = (606, 200) ∧ corrected 700 400 400 716 = (708, 200) ∧
    (let e := predictAxis 0 (setVel (setBox (setBox 0 0 606) 2 708) 0 88)
     tBox e 0 = 612 ∧ tBox e 2 = 714 ∧ tRes e 0 = -8) := by decide +kernel

/-- Windows 0 and 1 of chapter 13's example: an offset inside window 1 and one outside both (R505, R506). -/
def winsS : State :=
  { State.reset with hif := { State.reset.hif with
      wins := [⟨BitVec.ofNat 32 (1 + 34 * 4), 0, 0⟩, ⟨BitVec.ofNat 32 (1 + 26 * 4 + 0x2000 * 2 ^ 16), 0, 0x8000⟩] } }

theorem test_window : (winFor winsS 0x401200040 4).map (·.2) = some 0x800001200040 ∧
    (winFor winsS 0x403800000 4).map (·.2) = some 0x800003800000 ∧ winFor winsS 0x404000000 4 = none := by decide +kernel

/-! ## States for the witnesses -/

/-- In service, the link up, the registers reached by the host. -/
def openS : State :=
  { State.reset with power := { State.reset.power with perst := false, booted := true }
                     hif := { State.reset.hif with linkUp := true, mse := true } }

/-- `openS` with another Kettle. -/
def onK (f : Ktl → Ktl) : State := { openS with ktl := f openS.ktl }

/-- Memory that holds numbers: address, bytes, value. -/
def memOf (l : List (Nat × Nat × Nat)) : List Host.Cell :=
  l.foldl (fun m x => memPutAll m ((leBytes x.2.1 x.2.2).mapIdx fun i b => (x.1 + i, b))) []
def actAt (n code target arg16 : Nat) : Action := { issued := n, code := code, target := target, arg16 := arg16, arg64 := 0 }
def act := actAt 0
def act8 := actAt 8
def act100 := actAt 100

/-- Bank 1 is VALID and fits the plan. -/
def bankS : State := onK fun k => { k with
  count := 2200, up := 2200, planStartLo := 6
  banks := updAt k.banks 1 fun b => { b with valid := true, recLen := 33333, recSteps := 1 } }

/-- A plan runs from tick 3,300 with the entry of bank 1 due now. -/
def runS : State := onK fun k => { k with
  count := 3300, up := 3300, planState := .running, activeBank := 1, cycleStart := 3300, cycleLen := 33333
  banks := updAt k.banks 1 fun b => { b with
    words := updAt (updAt b.words 1 fun _ => 5#32) 5 fun _ => 0xff#32, valid := true } }

/-- The last tick of a cycle. -/
def lastS (p : PlanState) (disc : Bool) : State := onK fun k => { k with
  count := 36666299, up := 36666299, planState := p, cycleLen := 33333, discEn := disc, ppsLock := disc
  ppsLast := some 36666000 }

def epochS (d : Option Bool) (b : Nat) (t : Nat) : State := onK fun k => { k with
  count := BitVec.ofNat 64 t, up := t
  epoch := some { target := 2 ^ 44, beat := some b, planned := false, byCap := false, decision := d } }

/-- The Kettle switches to bank 2 at beat 9. -/
def swapS : State := onK fun k => { k with
  count := 9900, up := 9900, planState := .running, shBank := some 2, shPlan := some true, forced := true
  epoch := some { target := 2 ^ 32, beat := some 9, planned := false, byCap := false, decision := some true } }

def plannedS : State := onK fun k => { k with
  count := 8, up := 8, net := [act8 7 0 0]
  epoch := some { target := 1, beat := none, planned := true, byCap := false, decision := none } }

def lineS (en : Bool) (i : Option Nat) : State := onK fun k => { k with
  count := 100, up := 100, net := [act100 5 3 0]
  fsync := updAt k.fsync 3 fun l => { l with cfg := if en then 1#32 ||| l.cfg else l.cfg, issued := i } }

def inputS (n : Nat) (x : InFilter) : State := onK fun k => { k with
  count := 5000, up := 5000, inputs := updAt k.inputs n fun _ => x }
/-- A list of bytes as cells from an address, the zero bytes left out. -/
def cellsAt (a : Nat) (bs : List Byte) : List Host.Cell :=
  (bs.mapIdx fun i b => (a + i, b)).filter fun c => c.2 != 0

/-- A tensor descriptor without aux, strides as dense as can be. -/
def mkDesc (base ty alloc n h w c s : Nat) : Nat :=
  base + ty * 2 ^ 48 + alloc * 2 ^ 64 + n * 2 ^ 96 + h * 2 ^ 128 + w * 2 ^ 160 + c * 2 ^ 192 +
  s * 2 ^ 224 + w * s * 2 ^ 256 + h * w * s * 2 ^ 288

/-- An image for core 3 of one END, whose CRC is given. -/
def image (fb : Bool) (crc : Nat) : List Byte :=
  leBytes 4 jobMagic ++ leBytes 2 1 ++ leBytes 2 128 ++ leBytes 4 7 ++ leBytes 4 (if fb then 1 else 0) ++
  leBytes 4 0x80 ++ leBytes 4 1 ++ leBytes 4 0xc0 ++ leBytes 4 1 ++ leBytes 4 0 ++ leBytes 4 256 ++
  leBytes 8 0 ++ leBytes 4 0 ++ leBytes 4 8 ++ leBytes 4 0 ++ leBytes 4 100000 ++ leBytes 4 9 ++
  List.replicate 56 0 ++ leBytes 4 crc ++ leBytes 32 31 ++ List.replicate 32 0 ++
  leBytes 64 (mkDesc 0x10000 0 1 1 1 1 1 64)

def job3 : Job := { ctx := 2, slot := 5, startTick := 1000, heldFrom := 1000, cplRing := 9 }

/-- Slot 5 of context 2 holds a job on core 3, whose sequencer is before one macro-instruction. -/
def jobS (m : Nat) (j : Job) : State :=
  { openS with
    ktl := { openS.ktl with count := 5000, up := 5000 }
    sched := { openS.sched with ctxs := updAt openS.sched.ctxs 2 fun c =>
      { c with enabled := true, stateBase := 0x8000
               slots := updAt c.slots 5 fun k => { k with state := .active, image := 0x1000 } } }
    cores := updAt openS.cores 3 fun c => { c with job := some j, phase := .run, store := { macros := [m] } } }

/-- `jobS` with another core 3. -/
def coreS (j : Job) (f : Core → Core) : State :=
  { jobS 0 j with cores := updAt (jobS 0 j).cores 3 f }

/-- `jobS` with the job's image in memory at 0x1000. -/
def imgS (fb : Bool) (crc : Nat) : State := { jobS 0 job3 with mem := cellsAt 0x1000 (image fb crc) }

/-- Slot 5 of context 2 is VALID for core 3, and its JOB_START is delivered. -/
def startS (en : Bool) (busy : Option Job) (held : Nat) : State :=
  { openS with
    ktl := { openS.ktl with count := 5000, up := 5000, net := [{ issued := 4992, code := 1, target := 2, arg16 := 5, arg64 := 0 }] }
    sched := { openS.sched with
      held := updAt openS.sched.held 3 fun _ => List.replicate held (1, 1)
      ctxs := updAt openS.sched.ctxs 2 fun c =>
        { c with enabled := en, stateBase := 0x8000
                 slots := updAt c.slots 5 fun k => { k with state := .valid, image := 0x1000, coreMask := 8 } } }
    cores := updAt openS.cores 3 fun c => { c with job := busy } }

def startAct : Action := { issued := 4992, code := 1, target := 2, arg16 := 5, arg64 := 0 }


def saveS : State := { coreS job3 (fun c => { c with phase := .save }) with fuse := { openS.fuse with accFence := 1024 } }
def spareS : State :=
  { openS with mgt := { openS.mgt with
      coreMap := (List.range 24).map fun i => { phys := i }, coreSpares := [24, 25, 26, 27] } }
/-- Ring 9 takes records. -/
def ringUp (s : State) : State :=
  { s with spt := { s.spt with rings := updAt s.spt.rings 9 fun r => { r with cfg := 0x80000006#32 } } }

def onCore3 (f : Core → Core) (s : State) : State := { s with cores := updAt s.cores 3 f }

/-- `s` with its launch network empty. -/
def netless (s : State) : State := { s with ktl := { s.ktl with net := [] } }
def slotX (f : Slot → Slot) (s : State) : State := { s with sched := { s.sched with
  ctxs := updAt s.sched.ctxs 2 fun c => { c with slots := updAt c.slots 5 f } } }

def saved3 : Saved :=
  { job := { job3 with mi := 1 }, store := { base := 0x1000, hdr := parseHdr (image false 3529945521), macros := [0, 31] }, mask := none, maskAll := false
    batch := 0, sat := [], plane0 := {}, plane1 := {}, walk := none, drains := [], ring := 0, chain := none, red := []
    core := 3, frame := 1 }

/-- `jobS` with a header at 0x1000 that names only its size. -/
def tinyS (crc : Nat) : State := { jobS 0 job3 with mem := memOf [(0x1024, 1, 128), (0x107c, 4, crc)] }

def loadS (crc : Nat) : State := ringUp (onCore3 (fun c => { c with phase := .fallbackLoad, store := { c.store with hdr := { c.store.hdr with fallback := 0x1000 } } }) (tinyS crc))

/-- Core 3 restores the job that slot 5 of context 2 saved. -/
def restoreS (crc : Nat) : State :=
  ringUp <| onCore3 (fun c => { c with phase := .restore, frames := [false, true, false, false] }) <|
    slotX (fun k => { k with saved := some saved3 }) (tinyS crc)

/-- The job of core 3 is verified; its slot names a batch entry. -/
def verifyS (crc batch : Nat) : State :=
  ringUp <| onCore3 (fun c => { c with phase := .verify, due := 5000 }) <|
    slotX (fun k => { k with batch := batch }) (imgS false crc)

def badImg : State := ringUp (onCore3 (fun c => { c with phase := .verify, due := 5000 }) (tinyS 0))

/-- The deadline of the job on core 3 is missed before the macro-instruction. -/
def missS (m : Nat) (missed : Bool) : State :=
  { onCore3 (fun c => { c with store := { c.store with hdr := { c.store.hdr with deadline := 1, rwtOff := 64, fallback := 0x1000 }, rwt := [(5000, 0)] } })
      (jobS m { job3 with missed := missed }) with
    hif := { openS.hif with partSched := updAt openS.hif.partSched 0 fun _ => 5#32 } }

def fullCpl (m : Nat) : State := { jobS m job3 with spt := { openS.spt with rings := updAt openS.spt.rings 9 (fun r => { r with cfg := 0x80000006#32 }), store := List.replicate 256 { who := 1, ring := 9, cpl := true, bytes := [], tick := 0 } } }
def missJ : Job := { job3 with missed := true }
def skipS : State := { coreS { job3 with skipped := 2 } (fun c => { c with walk := some { t := 4 }, drains := [{ t := 3 }] }) with mgt := spareS.mgt }
def emptyStart : State := slotX (fun k => { k with state := .empty }) (startS true none 0)
def askS (w : StopWhy) (f : Core → Core) : State := ringUp (coreS job3 fun c => f { c with stopWhy := w })
def sigS (m : Nat) : State := onCore3 (fun c => { c with job := some { job3 with begun := true } }) (jobS m job3)

def acctOn (s : State) : State := { s with hif := { s.hif with acctLo := 0x9001#32 } }

theorem trip_pair {α β γ : Type} {x : α × β × γ} {a : α} {b : β} (h : x.1 = a) (k : x.2.1 = b) :
    x = (a, b, x.2.2) := by rw [← h, ← k]
theorem bs_pair {α β γ : Type} {x : α × β × γ} {a : α} (h : x.1 = a) : x = (a, x.2.1, x.2.2) := by rw [← h]
theorem fst_pair {α β : Type} {x : α × β} {a : α} (h : x.1 = a) : x = (a, x.2) := by rw [← h]
theorem frame_fits : (writeAll (coreSrc 3) ((frameBytes 3 saveS).1.map fun r =>
    (frameBase saveS 3 (saveS.core 3).saveFrame + r.1, r.2)) (frameBytes 3 saveS).2).1 = .ok := by
  have hb : frameBase saveS 3 (saveS.core 3).saveFrame = 0 := by decide +kernel
  have hf := frameBytes_in (n := 3) (s := saveS) (by decide +kernel) (by decide +kernel) (by decide +kernel)
    (by decide +kernel)
  refine writeAll_hbm (fun r hr => ?_) ?_ ?_
  · obtain ⟨q, hq, rfl⟩ := List.mem_map.1 hr
    have h := hf q hq
    rw [hb]
    simp only [hbmEnd]
    omega
  · exact (show hbmRefuses saveS = false by decide +kernel)
  · exact (show saveS.badWords = [] by decide +kernel)

/-- Core 3 before a macro-instruction with descriptors. -/
def macS (m : Nat) (ds : List Nat) (w : Option Walk) (f : Core → Core) : State :=
  coreS { job3 with begun := true } fun c => f { c with store := { macros := [m, 31], descs := ds }, walk := w }

def one (base ty : Nat) : Nat := mkDesc base ty 1 1 1 1 1 64
def mmDescs : List Nat := [one 0x10000 6, one 0x10040 0, one 0x10080 0]
def mmWord (op : Nat) : Nat := op + 1 * 2 ^ 26 + 2 * 2 ^ 36 + (if op = 2 then 2 ^ (128 + 48) else 0)
def walk0 : Walk := { loaded := true }
def job3b : Job := { job3 with begun := true }

def mm8 : List Nat := [mkDesc 0x10000 6 8 1 1 8 1 64, mkDesc 0x10200 0 8 1 1 8 1 64, one 0x10400 0]

/-- A row of a MATMUL enters on core 3; there are spare cores. -/
def parS : State := { macS (mmWord 1) mmDescs (some { loaded := true }) (fun c => { c with job := some { job3b with tile := 1 } }) with mgt := spareS.mgt }

def tileS (m : Nat) (ds : List Nat) : State := macS m ds none id
def tileX (op m : Nat) (ds : List Nat) : TileOp := tileOp op (tileS m ds) ((tileS m ds).core 3) m
def tileV (op m : Nat) (ds : List Nat) : State :=
  touchAll 3 (wholeLines ((tileX op m ds).reads (tileRegs op 3 (tileS m ds)) 0))
    (noteOor 3 0 (tileX op m ds) (tileRegs op 3 (tileS m ds)))
def tileU (op m : Nat) (ds : List Nat) : State :=
  (writeCells (coreSrc 3) (mergeWrites (tileV op m ds)
    (((tileX op m ds).give (tileV op m ds) 0).flatMap (·.writes))) (tileV op m ds)).2

/-- The arrays of core 3 are at a pass of the oldest macro-instruction. -/
def passS (m : Nat) (ds : List Nat) (w : Walk) (c : Option Chain) : State := macS m ds (some w) fun x => { x with chain := c }
def arr3 (s : State) : Arr := arrOf 3 (s.core 3) 0
def fullChain (p : Nat) (blk : Nat × Nat × Nat) : Chain := { per := [(1, 1), (0, 0), (0, 0), (0, 0)], blk := blk, mi := 0, plane := p }
def loadMm (c : Option Chain) : State := passS (mmWord 1) mmDescs {} c

/-- A CONV2D of two groups whose second column block serves one of them. -/
def gcDescs : List Nat := [mkDesc 0x10000 6 6 1 1 2 48 192, mkDesc 0x10200 0 2 1 1 2 2 64, mkDesc 0x10400 0 48 48 1 1 1 64]
def gcS : State := passS (2 + 1 * 2 ^ 26 + 2 * 2 ^ 36 + 2 * 2 ^ (128 + 48)) gcDescs { loaded := true, cb := 1, kr := 1 } none

def drainS (m : Nat) (ds : List Nat) : State := macS m ds none fun x => { x with drains := [{}] }
def drainU (m : Nat) (ds : List Nat) : State := (writeCells (coreSrc 3)
  (mergeWrites (drainS m ds) (((arr3 (drainS m ds)).drainResults (drainS m ds) ((drainS m ds).core 3) {}).flatMap (·.writes))) (drainS m ds)).2
def distMin : Nat := mmWord 4 + 2 * 2 ^ 64 + 1 * 2 ^ 67

/-- The last row of the last pass is about to enter, and what it leaves. -/
def endS (op : Nat) : State := macS (mmWord op) mmDescs (some walk0) fun x => { x with job := some { job3b with tile := 1 } }
def endV (op : Nat) : State :=
  { endS op with
    mem := memPutAll (endS op).mem ((arr3 (endS op)).rowCells (endS op) ((endS op).core 3) walk0 0)
    cores := updAt (endS op).cores 3 fun x => { x with
      walk := none, drains := [{ walk0 with row := 0 }]
      job := some { job3b with tile := (arr3 (endS op)).liveFrom ((endS op).core 3) 1 } } }
def endU (op : Nat) : State := (writeCells (coreSrc 3)
  (mergeWrites (endV op) (((arr3 (endS op)).drainResults (endV op) ((endV op).core 3) { walk0 with row := 0 }).flatMap (·.writes))) (endV op)).2

def t3 : List Nat := [one 0x10000 0, one 0x10040 0, one 0x10080 0]
def dwWord : Nat := 3 + 1 * 2 ^ 26 + 2 * 2 ^ 36 + 2 ^ (128 + 48)
def poolWord : Nat := 6 + 1 * 2 ^ 26
def eltWord : Nat := 5 + 1 * 2 ^ 26 + 2 * 2 ^ 36
def rqDescs : List Nat := [one 0x10000 0, one 0x10040 6, mkDesc 0x10080 6 1 1 1 1 2 64]
def rqWord : Nat := 7 + 1 * 2 ^ 26 + 2 * 2 ^ 36
/-- A REQUANT fused behind a MATMUL that has written nothing. -/
def fuseS : State := onCore3 (fun x => { x with store := { macros := [mmWord 1 + 2 ^ 9, rqWord + 2 ^ 8, 31], descs := rqDescs } }) (macS 0 [] none id)

def nmsDescs : List Nat := [one 0x10000 1, mkDesc 0x10040 6 1 1 1 1 2 64]
def nmsWord : Nat := 8 + 1 * 2 ^ 26
def gaDescs : List Nat := [one 0x10000 0, one 0x10040 0, one 0x10080 6]
def gaWord : Nat := 9 + 1 * 2 ^ 26 + 2 * 2 ^ 36
def scWord : Nat := 10 + 1 * 2 ^ 26 + 2 * 2 ^ 36
def cpWord : Nat := 11 + 1 * 2 ^ 26

def mseS : State := coreS job3 fun c => { c with mse := updAt c.mse 2 fun m =>
  { m with cSum := 2 ^ 40 + 5, cCnt := 3, unread := true, overrun := true } }

/-- A context descriptor: fields below bit 64, queue base, state base. -/
def ctxDesc (lo q st : Nat) : Nat := lo + q * 2 ^ 64 + st * 2 ^ 128
def ctxLo : Nat := 2 ^ 16 + 8

/-- The context table at 0x10000 with a descriptor for context 255; context 7 is as given. -/
def ctxS (d : Nat) (x7 : Ctx) (en : Bool) : State :=
  { openS with
    mem := memOf [(0x10000 + 64 * 255, 64, d)]
    hif := { openS.hif with ctxTableLo := 0x10000 }
    sched := { openS.sched with ctxs := updAt (updAt openS.sched.ctxs 255 fun c => { c with enabled := en }) 7 fun _ => x7 } }
def ctxGood : Nat := ctxDesc ctxLo 0x20000 0x30000

def ctxOnS (f : Ctx → Ctx) (g : State → State) : State :=
  g { openS with
    ktl := { openS.ktl with count := 5000, up := 5000 }
    sched := { openS.sched with ctxs := updAt openS.sched.ctxs 2 fun c => f { c with
      enabled := true, queueBase := 0x20000, stateBase := 0x30000 } } }

/-- The command register of job contexts is busy. -/
def ctxBusyS : State := { openS with hif := { openS.hif with ctxCmd := { done := false } } }

def heldJob : Job := { ctx := 2, slot := 63, startTick := 1000, heldFrom := 1000 }
def busyS : State := ctxOnS (fun c => { c with slots := updAt c.slots 63 fun k => { k with state := .active } })
  fun s => { s with cores := updAt s.cores 4 fun x => { x with job := some heldJob, phase := .run } }

/-- A doorbell value for slot 5 waits; its queue entry names the image at 0x1000. -/
def dbS (st : SlotState) (safe : Bool) : State := ctxOnS (fun c => { c with slots := updAt c.slots 5 fun k => { k with state := st } })
  fun s => { s with mem := memOf [(0x20000 + 160, 2, 0x1000), (0x1034, 1, 8)], hif := { s.hif with dbOut := [(2, 32)] }
                    mgt := { s.mgt with safe := safe } }
def dbU (st : SlotState) (safe : Bool) : State := { dbS st safe with hif := { (dbS st safe).hif with dbOut := [] } }

def queueS : State := ctxOnS (fun c => { c with slots := updAt c.slots 5 fun k => { k with state := .valid, coreMask := 8 } })
  fun s => { s with sched := { s.sched with held := updAt s.sched.held 3 fun _ => [(2, 5), (9, 9)] } }

/-- Partition 0 shares its cores; context 2 has a VALID job that may use cores 3 and 5. -/
def shareS (urgent : Bool) : State :=
  ctxOnS (fun c => { c with urgent := urgent, deficit := 1, slots := updAt c.slots 5 fun k => { k with state := .valid, coreMask := 40 } })
  fun s => { s with hif := { s.hif with partSched := updAt s.hif.partSched 0 fun v => v ||| 1#32 } }
/-- Slot 5 of context 2 was suspended on core 3. -/
def suspS : State := ctxOnS (fun c => { c with slots := updAt c.slots 5 fun k => { k with state := .suspended, order := 7, saved := some saved3 } }) id

/-- An URGENT start for core 3, which runs a PREEMPTIBLE job of a NORMAL context. -/
def urgentS : State :=
  let s := startS true (some { job3 with ctx := 9 }) 0
  { s with
    sched := { s.sched with ctxs := updAt (updAt s.sched.ctxs 9 fun c => { c with preempt := true }) 2 fun c => { c with urgent := true } }
    cores := updAt s.cores 3 fun c => { c with phase := .run, saveLo := 1 } }

def free24 : List Nat := List.range 24
def ringS (cfg : W32) (f : Clu → Clu) : State :=
  { openS with
    ktl := { openS.ktl with count := 90000, up := 90000 }
    clus := updAt openS.clus 6 fun c => f { c with ringCfg := cfg } }

def sauBase : Nat := 0x800003000000
/-- A 1x1 convolution of one element: command word, descriptors and done word in cluster 6. -/
def sauCmdWord : Nat :=
  (sauBase + 0x1000) * 2 ^ 64 + (sauBase + 0x1040) * 2 ^ 128 + (sauBase + 0x1080) * 2 ^ 192 +
  (sauBase + 0x10c0) * 2 ^ 256 + 0x40000 * 2 ^ 384 + 77 * 2 ^ 448
def sauS (f : Clu → Clu) : State :=
  { ringS 0x80020000 f with mem := memOf [(sauBase, 64, sauCmdWord), (sauBase + 0x1000, 64, mkDesc (sauBase + 0x2000) 0 1 1 1 1 1 64),
       (sauBase + 0x1040, 64, mkDesc (sauBase + 0x2040) 0 1 1 1 1 1 64),
       (sauBase + 0x1080, 64, mkDesc (sauBase + 0x2080) 6 1 1 1 1 2 64),
       (sauBase + 0x10c0, 64, mkDesc (sauBase + 0x20c0) 0 1 1 1 1 1 64), (sauBase + 0x2000, 1, 3), (sauBase + 0x2040, 1, 5)] }
def sauRun : SauCmd := { addr := sauBase, streamed := false, started := 1000, status := 0, readable := true }
def sauRunS : State := sauS fun c => { c with prod := 1, cmd := some sauRun }
def sauStr : SauStream := { cmd := sauBase, arrived := 5, data := [3, 4], ended := true, endAt := 2000 }
def sauStrW : Nat := sauCmdWord + 2 ^ 22
def sauStrS : State :=
  let s := sauS fun c => { c with cmd := some { sauRun with streamed := true }, streams := [sauStr] }
  { s with mem := memPutAll s.mem (memOf [(sauBase, 64, sauStrW)]) }
def sauBadS : State := sauS fun c => { c with prod := 1, cmd := some { sauRun with status := 1 } }
def sauU (n : Nat) (s : State) : State :=
  (sauWrite 6 (sauOf s (peekNat s sauBase 64)) (sauData s 6 { sauRun with streamed := true }) n 0 s).2.2
def fbNum (k : Nat) : Nat :=
  (0x70000 + 0x2000 * k) + (0x71000 + 0x2000 * k) * 2 ^ 64 + 64 * 2 ^ 128 + 16 * 2 ^ 160 + 16 * 2 ^ 176 +
  (0x71800 + 0x2000 * k) * 2 ^ 192 + 2 ^ 256
/-- A decode descriptor of 16 by 16 pictures; `n` frame buffers, the ring at `ring`. -/
def decNum (n ring : Nat) : Nat :=
  1 * 2 ^ 8 + 8 * 2 ^ 16 + 16 * 2 ^ 32 + 16 * 2 ^ 48 + ring * 2 ^ 64 + 0x30000 * 2 ^ 128 + 16 * 2 ^ 192 +
  0x40000 * 2 ^ 256 + n * 2 ^ 304 + 0x50000 * 2 ^ 320 + 0x60000 * 2 ^ 384
def fbMem (n : Nat) : List (Nat × Nat × Nat) := (List.range n).map fun k => (0x40000 + 64 * k, 64, fbNum k)
def decTabS (d : Nat) (m : List (Nat × Nat × Nat)) (en : Bool) : State :=
  { openS with mem := memOf ((0x10000 + 64 * 127, 64, d) :: m)
               dec := { openS.dec with tableLo := 0x10000, ctxs := updAt openS.dec.ctxs 127 fun x => { x with enabled := en } } }

/-- Context 127 as given, with one frame-buffer set, at tick 2,000,000. -/
def decS (x : DecCtx) (g : State → State) : State :=
  g { openS with
    ktl := { openS.ktl with count := 2000000, up := 2000000 }
    dec := { openS.dec with act := updAt openS.dec.act 127 fun _ => 0x3#32, ctxs := updAt openS.dec.ctxs 127 fun _ => x } }
def decX : DecCtx := { enabled := true, desc := parseDec (decNum 3 0x20000), fbs := (List.range 3).map fun k => parseFb (fbNum k) }
def decP : DecPic := { startAt := 5 }
def netS (a : Action) (s : State) : State := { s with ktl := { s.ktl with net := [a] } }
def dbOutS (d v : Nat) (s : State) : State := { s with hif := { s.hif with dbOut := [(d, v)] } }
def entry16 : Nat := 0x30000 + 64 * 2 ^ 64 + 99 * 2 ^ 128

def decA : Action := actAt 1999992 2 127 0
def seq16 : SeqInfo :=
  { profile := .avcHigh, chroma := .c420, bitDepth := 8, tools := [], level := 51, width := 16, height := 16
    tileRows := 1, tileCols := 1, buffering := none, maxDpbMbs := 1, maxFrameNum := 16, block := 16 }
def blk16 : Block := { x := 0, y := 0, off := 0, bins := 2 ^ 9 }
def au16 : AuInfo := { (default : AuInfo) with rap := .idr, parts := [[blk16]], outs := [0], keeps := [0] }
def decPDone : DecPic :=
  { startAt := 5, cores := [0], owners := [0], admitted := true, consumed := true, buf := some 0, data := (0x30000, 64)
    picCount := 4, au := { au16 with parts := [[{ blk16 with bins := 7 }]] } }
def doneX (p : DecPic) : DecCtx := { decX with pic := some p, seqInfo := some seq16, units := [([], [])] }
def doneS (p : DecPic) : State :=
  decS (doneX p) fun s => { s with
    dec := { s.dec with busy := updAt s.dec.busy 0 fun _ => some 127 }
    spt := { s.spt with rings := updAt s.spt.rings 0 fun r => { r with cfg := 0x80000006#32 } } }
def errP : DecPic := { decPDone with errs := [{ code := 10, addr := 0, core := some 0, blocks := [(0, 0)] }], stopped := [(0, 8)] }
def cleanEnd : DecEnd := { errs := [], copied := [], lost := [], predicted := [] }
def errEnd : DecEnd := (pictureEnd (doneX errP) seq16 errP (doneS errP)).1
def claimedP : DecPic := { decP with cores := [0] }
def admS (e : Nat) : State :=
  decS { decX with pic := some claimedP, prod := 1 } fun s => { s with mem := memOf [(0x20000, 32, e), (0x50000, 1, 9)] }
def admR (e : Nat) : State := (readMem .strainer 0x20000 32 (admS e)).2.2
def admV (e : Nat) : State := storeNat .strainer 0x50000 4 10 (admR e)
def autoX : DecCtx := { decX with desc := { decX.desc with auto := true }, prod := 1 }

def dbOutN (l : List (Nat × Nat)) (s : State) : State := { s with hif := { s.hif with dbOut := l } }
def doneU (p : DecPic) (d : DecEnd) : State :=
  let x := doneX p
  let v := (pictureEnd x seq16 p (doneS p)).2
  let f := x.fbs.getD 0 {}
  (writeAll (decSrc 0) (pictureRows f 16 16 (picSample v x seq16 p.au d 0) (fun k => picSample v x seq16 p.au d (k + 1)) ++
    [(f.mvBase, (picMotion x seq16 f d).take (f.mvLines * 64))]) v).2
def busyD (s : State) : State := { s with dec := { s.dec with busy := [some 1, some 1] } }
/-! Encoders. -/
def encFb (k : Nat) : Nat :=
  (0x70000 + 0x8000 * k) + (0x74000 + 0x8000 * k) * 2 ^ 64 + 128 * 2 ^ 128 + 64 * 2 ^ 160 + 64 * 2 ^ 176 +
  (0x77000 + 0x8000 * k) * 2 ^ 192 + 4 * 2 ^ 256
def encNum (maxPic : Nat) : Nat :=
  2 ^ 8 + 64 * 2 ^ 32 + 64 * 2 ^ 48 + 2 ^ 96 + 2 ^ 112 + 0x100000 * 2 ^ 128 + 128 * 2 ^ 192 + maxPic * 2 ^ 224 +
  0x110000 * 2 ^ 256 + 0x40000 * 2 ^ 320 + 3 * 2 ^ 384 + 1 * 2 ^ 432 + 51 * 2 ^ 456
def encTabS (d : Nat) (bad : Nat) (base : Nat) (en : Bool) : State :=
  { openS with mem := memOf [(0x10000 + 64 * 15, 64, d), (0x40000, 64, encFb 0 + base), (0x40040, 64, encFb 1 + bad)]
               enc := { openS.enc with tableLo := 0x10000, ctxs := updAt openS.enc.ctxs 15 fun x => { x with enabled := en, picCount := 7 } } }
def encX : EncCtx := { enabled := true, desc := parseEnc (encNum 4096), recon := [parseFb (encFb 0), parseFb (encFb 1)], picCount := 2 ^ 32 - 1 }
def capD : Nat := 5 * 2 ^ 3 + 16 * 2 ^ 32 + 16 * 2 ^ 48 + 0x40000 * 2 ^ 64 + 3 * 2 ^ 112 + 0x60000 * 2 ^ 128 + 1100 * 2 ^ 224
def capX : CapCh := { enabled := true, desc := parseCap capD, fbs := (List.range 3).map fun k => parseFb (fbNum k), nextSeq := 2 ^ 32 - 1 }
def capF : CapFrame := { seq := 4, pts := 100, from_ := 100, buf := some 2, lines := 15 }
/-- Channel 3, encode context 15 as given, at tick 5,000. -/
def videoS (h : CapCh) (x : EncCtx) (g : State → State) : State :=
  g { openS with
    ktl := { openS.ktl with count := 5000, up := 5000 }
    csi := { openS.csi with chs := updAt openS.csi.chs 3 fun _ => h }
    enc := { openS.enc with act := updAt openS.enc.act 15 fun _ => 1#32, ctxs := updAt openS.enc.ctxs 15 fun _ => x } }
def encAct : Action := actAt 4992 3 15 0
def encP : EncPic :=
  { startAt := 7, picNo := 3, pts := 5, srcSeq := 4, srcBuf := some 2, fb := parseFb (encFb 0), bad := false, idr := true
    pos := 0, offset := 64, cores := [0], owners := [0] }
def encQ : EncPic := { encP with srcBuf := none, bad := true }
def enc0 (s : State) : State := { s with
  spt := { s.spt with rings := updAt s.spt.rings 0 fun r => { r with cfg := 0x80000006#32 } } }
def encBusy (k : Nat) (s : State) : State := { s with enc := { s.enc with busy := updAt s.enc.busy k fun _ => some 15 } }
def capXF : CapCh := { capX with latest := some capF }
def encW : Resp × State :=
  let s := videoS capXF { encX with pic := some encQ } enc0
  let r := encResult s { encX with pic := some encQ } encQ
  writeAll (encSrc 0) ((encX.desc.outBase + 64, r.au) :: r.rows) s
def encSpareS : State := { openS with mgt := { openS.mgt with encSpares := [4] } }

def capTabS (d : Nat) (n : Nat) (other : CapCh) (port : W32) (en : Bool) : State :=
  { openS with mem := memOf ((0x10000 + 64 * 15, 64, d) :: fbMem n)
               csi := { openS.csi with tableLo := 0x10000, ports := updAt openS.csi.ports 7 fun _ => port
                                       chs := updAt (updAt openS.csi.chs 15 fun h => { h with enabled := en }) 3 fun _ => other } }

def sclE : Nat := 2 * 2 ^ 13 + 0x300000 * 2 ^ 96 + 4 * 2 ^ 160 + 4 * 2 ^ 176
def sclW : Nat := 1 + 3 * 2 ^ 2 + 2 ^ 10 + 0x310000 * 2 ^ 128 + 55 * 2 ^ 192
def sclAct : Action := { issued := 4992, code := 4, target := 2, arg16 := 0, arg64 := 0x320000 }
def sclMem (s : State) : State := { s with mem := memOf [(0x320000, 64, sclW), (0x320040, 64, sclE), (0x300000, 64, mkDesc 0x200000 1 16 1 4 4 1 64), (0x72000, 4, 0x01020304)] }
def sclS (h : CapCh) : State := videoS h {} (fun s => netS sclAct (sclMem s))
def sclU (h : CapCh) : State := videoS h {} sclMem
def sclC : SclCmd := { addr := 0x320000, started := 5, status := 0, capSrc := true, src := 3, buf := some (parseFb (fbNum 2)), bufNo := 2, words := [sclW, sclE]
                       seq := 4, pts := 100, crop := (0, 0, 16, 16), depth := 8, format := 0, flagCon := false, flagCor := false, flagRx := false
                       stream := 0, steer := {}, next := 0, doneMsk := 0 }
def sclRun (c : SclCmd) : State := videoS capXF {} fun s => { sclMem s with scl := { s.scl with units := updAt s.scl.units 2 fun u => { u with cmd := some c } } }
def openX : CapCh := { capX with openF := some capF }
def rgbX : CapCh := { openX with desc := { openX.desc with format := 2 } }
def autoE : EncCtx := { encX with desc := { encX.desc with auto := true, srcStream := 3 }, pic := some encP }
def ring0 (s : State) : State := { s with spt := { s.spt with rings := updAt s.spt.rings 0 fun r => { r with cfg := 0x80000006#32 } } }
def onMgt0 (f : Mgt → Mgt) (s : State) : State := { s with mgt := f s.mgt }
def sclDone : SclCmd := { sclC with next := 1, doneMsk := 1 }
def sclPriv : SclCmd := { sclC with next := 1, doneMsk := 1, buf := none, words := [sclW + 2 ^ 15, sclE] }
def privOn (v : W32) (s : State) : State := { s with scl := { s.scl with priv := updAt s.scl.priv 0 fun _ => v } }
/-- A batch of 16 samples at 0x330000; the entry is its sample 5. -/
def sclB : SclCmd := { sclC with words := [sclW, sclE + 0x330000 * 2 ^ 192 + 5 * 2 ^ 240] }
/-- A partition descriptor: 32 entries from `base`, steering set 2. -/
def partD (base nConf emb : Nat) : Nat :=
  base + 2 * 2 ^ 24 + 2 ^ 40 + nConf * 2 ^ 64 + 2 * 2 ^ 68 + 3 * 2 ^ 72 + 2 ^ 96 + 2 ^ 128 + emb * 2 ^ 192 + 0x210000 * 2 ^ 256 +
  7 * 2 ^ 320 + 31 * 2 ^ 49

/-- The partition table at 0x10000 with a descriptor for 255; partition 3 as given. -/
def partTabS (d : Nat) (p3 : CdyPart) (en : Bool) : State :=
  { openS with
    mem := memOf [(0x10000 + 64 * 255, 64, d)]
    cdy := { openS.cdy with tableLo := 0x10000, parts := updAt (updAt openS.cdy.parts 255 fun x => { x with enabled := en }) 3 fun _ => p3 } }

def partX : CdyPart := { enabled := true, known := true, desc := { parsePart (partD 0 1 0x200000) with count := 2 } }
def cdyNowS (f : Cdy → Cdy) : State := { openS with ktl := { openS.ktl with count := 5000, up := 5000 }, cdy := f openS.cdy }
def cdyRun : CdyNow := { due := 5000, done := some 0x50000, value := 99, status := 0, created := 70000, deleted := 2, notCr := 3, ring := 7 }

def cringS (n : Nat) (r : CdyRing) : State := { openS with cdy := { openS.cdy with rings := updAt openS.cdy.rings n fun _ => r } }

/-- An UPDATE of one detection against one candidate row, for partition 3. -/
def updW : Nat := 1 + 3 * 2 ^ 8 + 2 ^ 27 + 0x300000 * 2 ^ 64 + 0x301000 * 2 ^ 128 + 0x302000 * 2 ^ 192 + 0x303000 * 2 ^ 256 +
  5 * 2 ^ 304 + 0x304000 * 2 ^ 384 + 77 * 2 ^ 448
def emitW : Nat := 2 + 9 * 2 ^ 32 + 0x300000 * 2 ^ 64 + 0x303000 * 2 ^ 256 + 5 * 2 ^ 304 + 0x305000 * 2 ^ 320 + 64 * 2 ^ 368 + 0x304000 * 2 ^ 384 + 77 * 2 ^ 448
/-- Ring 1 holds a command at 0x20000; sample 5 of the batch is valid or not. -/
def cdyCmdS (w : Nat) (valid : Bool) : State :=
  { openS with
    mem := memOf [(0x20000, 64, w), (0x303000, 8, if valid then 32 else 0), (0x303010, 8, 6), (0x303040 + 80, 16, 100 + 4 * 2 ^ 64)
                  , (0x300000, 16, 0x00100020 + 5 * 2 ^ 64), (0x300010, 16, candEnd)]
    cdy := { openS.cdy with
      parts := updAt openS.cdy.parts 3 fun _ => partX
      rings := updAt openS.cdy.rings 1 fun r => { r with cfg := 0x80000003#32, baseLo := 0x20000, prod := 1, fallb := [true] } } }
def cdyUpd (valid : Bool) : State := cdyCmdS updW valid
def cdyEs : List Nat := (List.range 2).map fun i => peekNat (cdyUpd true) (entryAddr partX.desc i) 128
def cdyBusy : State := cdyNowS fun d => { d with now := some cdyRun }
def endPlan : CdyPlan :=
  { part := some 3, entries := [1, 2], nextId := some 8, steer := some { gen := 4 } }
def endNow (x : CdyNow) (w : Option W32) : State :=
  cdyNowS fun d => { d with now := some x, waitCmd := w, parts := updAt d.parts 3 fun _ => partX }
def recN (n ring : Nat) (cpl : Bool) : Rec := { who := 1, ring := ring, cpl := cpl, bytes := List.replicate (64 * n) 7, tick := 4 }
def ringR : SptRing := { cfg := 0xc1002a06#32, baseLo := 0x1000, baseHi := 5, wbLo := 0x40, prod := 2 ^ 32 - 1, cons := 2 ^ 32 - 1, dropped := 65535 }
/-- Ring `n` as given; bus mastering on; tick 5,000. -/
def sptS (n : Nat) (r : SptRing) (arr store : List Rec) : State :=
  { openS with
    ktl := { openS.ktl with count := 5000, up := 5000 }
    hif := { openS.hif with bme := true, msixEnable := true, msix := updAt openS.hif.msix 0x2a fun v => { v with masked := false } }
    spt := { openS.spt with rings := updAt openS.spt.rings n fun _ => r, arriving := arr, store := store } }
def flushA : Action := actAt 4992 6 63 0
def flushS : State := let s := sptS 63 { ringR with unsig := 1, unsigAt := some 4 } [] []
  { s with ktl := { s.ktl with net := [flushA] } }
def wbR (u : Nat) : SptRing := { ringR with unsig := u, wbAt := some 4000, coal := 5#32 }
def beatR : SptRing := { ringR with coal := 0x00030005#32, unsig := 2, unsigAt := some 1700 }
def partS (k : Nat) (s : State) : State := { s with spt := { s.spt with part := k, partAt := if k = 0 then none else some 4900 } }
def noBme (s : State) : State := { s with hif := { s.hif with bme := false } }
def flushAllS : State :=
  let s := sptS 63 { ringR with unsig := 0 } [] []
  { s with ktl := { s.ktl with net := [actAt 4992 6 255 0] } }
def flushU : State := sptS 63 { ringR with unsig := 1, unsigAt := some 4 } [] []
/-- Tick 5,000, with memory, the memory controller and the mesh as given. -/
def memS (mem : List Host.Cell) (f : Hbm → Hbm) (g : Mesh → Mesh) : State :=
  { openS with
    mem := mem, ktl := { openS.ktl with count := 5000, up := 5000 }, hbm := f openS.hbm, mesh := g openS.mesh }
def allOnes : List Host.Cell := memOf [(0x20000000, 64, 2 ^ 512 - 1)]
def windowS : State :=
  { openS with
    ktl := { openS.ktl with count := 7700, up := 7700, planState := .running, cycleStart := 3300, cycleNo := 8, cycleLen := 33333 }
    hbm := { openS.hbm with retrain := 0x01800009#32, nextPc := 31 } }
def activeS : State := { openS with sched := { openS.sched with ctxs := updAt openS.sched.ctxs 255 fun c =>
  { c with slots := updAt c.slots 63 fun k => { k with state := .active } } } }
def srS (f : Hbm → Hbm) : State :=
  { openS with
    mem := allOnes, ktl := { openS.ktl with count := 6600, up := 6600 }, hbm := f openS.hbm }
/-- A core's flit at tick 5,000, with the entry of its injection slot. -/
def flitS (w : W32) (l : List Flit) : State :=
  memS [] id fun m => { m with active := [(tabKey 8 1 600, w), (tabKey 8 4 600, 0x4801#32)], flits := l }
def flitF : Flit := { cls := .planned, who := .core 3, kind := .read, addr := 0x100, src := 8, dest := 2, agent := 3, part := some 0, at_ := 8, inp := 5, due := 5000 }
def flitE : Flit := { cls := .planned, who := .core 3, kind := .response, addr := 0x100, src := 2, dest := 8, agent := 0, part := some 0, at_ := 8, inp := 1, due := 5000 }
def meshStS (f : Mesh → Mesh) : State := memS [] id f
def oneCore (m : Mesh) : Mesh := { m with part := 0x7f7fffff#32 :: [0, 0x00800000#32, 0, 0, 0, 0, 0] }
/-- Partition 3 of the Caddy holds entries 0 to 31. -/
def partRam : State := memS [] id id |> fun s => { s with cdy := { s.cdy with parts := updAt s.cdy.parts 3 fun _ => partX } }
def depWaitS : State :=
  let s := coreS job3 fun c => { c with phase := .verify }
  { s with sched := { s.sched with ctxs := updAt s.sched.ctxs 2 fun c =>
    { c with slots := updAt c.slots 5 fun k => { k with depEn := true, depAddr := 0x9000 } } } }
def depSlot : Slot := depWaitS.slot 2 5
def decCutP : DecPic := { decPDone with data := (0x40030, 64) }
def decCutS : State :=
  decS (doneX decCutP) fun s => { s with dec := { s.dec with busy := updAt s.dec.busy 7 fun _ => some 127 } }
def openMesh : State :=
  let s := flitS 0x235 []
  { s with hif := { s.hif with partSched := 1#32 :: List.replicate 7 0 } }
def hifS (mem : List Host.Cell) (f : Hif → Hif) : State :=
  { openS with mem := mem, ktl := { openS.ktl with count := 5000, up := 5000 }, hif := f { openS.hif with bme := true, msixEnable := true } }
/-- Window 63 covers 2 MiB of BAR2 from 2 MiB on and gives device addresses from 0x20000000. -/
def winOf (wr : Bool) : Win := { cfg := 0x00010055#32 ||| (if wr then 2#32 else 0#32), tgtLo := 0x20000000#32 }
def winS (wr : Bool) : State := hifS allOnes fun h => { h with wins := updAt h.wins 63 fun _ => winOf wr }
def dbAt (d : Nat) (x : Doorbell) : State := hifS [] fun h => { h with doorbells := updAt h.doorbells d fun _ => x }
def dmaX : DmaCh := { cfg := 0x80000001#32, state := .run, cons := 65535, prod := 1, pos := 1, ringLo := 0x40000, wbLo := 0x1000 }
def dmaS (x : DmaCh) (d : Nat) : State := hifS (memOf [(0x40020, 32, d), (0x50000, 8, 0x0102030405060708)]) fun h => { h with dma := updAt h.dma 7 fun _ => x }
def hdD (op bytes bus dev data : Nat) : Nat := op + bytes * 2 ^ 32 + bus * 2 ^ 64 + dev * 2 ^ 128 + data * 2 ^ 192
def rdX : DmaRead := { dev := 0x50000, bytes := 3, since := 100 }
def dmaDb (l : List (Nat × Nat)) : State := { dmaS { dmaX with state := .idle, prod := 65535 } 0 with hif := { (dmaS { dmaX with state := .idle, prod := 65535 } 0).hif with dbOut := l } }
def dmaLate : State := { dmaS { dmaX with reads := [rdX, rdX] } 0 with ktl := { openS.ktl with count := 55100, up := 55100 } }
def hbmBusyS (r : List Reissue) (n : Nat) : State :=
  { hifS [] (fun h => { h with wins := updAt h.wins 63 fun _ => winOf false, reissue := r }) with
    ktl := { openS.ktl with count := BitVec.ofNat 64 n, up := n }
    hbm := { openS.hbm with window := some (0, 2000000), queue := List.replicate 32 (2000000, 128) } }
def lateAt (n : Nat) (s : State) : State := { s with ktl := { s.ktl with count := BitVec.ofNat 64 n, up := n } }
def noMse : State := { openS with hif := { openS.hif with mse := false } }
def stormS (n : Nat) (s : State) : State := { s with hif := { s.hif with stormBeat := some (n / 1100) } }
def depD : Nat := hdD 9 4096 0x100000ffa 0x50000 0 + 127 * 2 ^ 8 + 63 * 2 ^ 16 + 2 ^ 22
def depDS : State :=
  let s := dmaS { dmaX with prod := 0 } depD
  { s with
    spt := { s.spt with rings := updAt s.spt.rings 0 fun r => { r with cfg := 0x80000006#32 } }
    sched := { s.sched with ctxs := updAt s.sched.ctxs 127 fun c => { c with enabled := true, slots := updAt c.slots 63 fun k =>
      { k with state := .valid, image := 0x1000 } } } }
def msiS (f : Vec → Vec) (req : List Nat) : State := hifS [] fun h => { h with msixReq := req, msix := updAt h.msix 255 f }
def intD : DmaCh := { dmaX with cfg := 0xc0ff0001#32, ahead := 1 }
def intS : State :=
  let s := dmaS intD (hdD 2 8 0 0 7 + 32)
  { s with hif := { s.hif with msix := updAt s.hif.msix 255 fun v => { v with masked := false } } }
def timeS (t : Nat) (f : State → State) : State := f { openS with ktl := { openS.ktl with count := BitVec.ofNat 64 t, up := t } }
def goodWin : WindowMeas := ⟨750, 750, 750, 1800, 1800, 1100, 400, 25000, -40, 105, 15⟩
def badWin : WindowMeas := { goodWin with hbm04 := 421 }
def someFw : FwImage := { magic := 0x46574c42, version := 1, bodyBytes := 1, svn := 0, resvZero := true, pubKey := [], sig := [], head := [], body := [7], release := 9 }
def bootB (fw : Bool) : BootInfo := { bootSel := 2, slotA := if fw then some someFw else none, slotB := none, pllLock := true, window := goodWin, fails := [], fuseOk := true, ucodeOk := true }
def offS : State := { State.reset with fuse := { State.reset.fuse with badCore := 2 ^ 27 + 15 - 8, variant := 2 } }
/-- A machine that has booted: every unit mapped, four spare cores and one spare codec core each. -/
def unitS (f : State → State) : State := timeS 6600 fun s => f { s with
  mgt := { s.mgt with
    coreMap := mapUnits 24 (List.range 28), coreSpares := [24, 25, 26, 27], decMap := mapUnits 8 (List.range 9), decSpares := [8]
    encMap := mapUnits 4 (List.range 5), encSpares := [4] } }
def takeX (u : Unit') (st : TakeStage) : Takeover := { target := u, cause := 3, detected := 5, failed := 23, spare := some 24, stage := st, goodAt := 6600, saveDone := true, hasJob := false, mapBeat := none }
def takeS (u : Unit') (st : TakeStage) : State := unitS fun s => { s with mgt := { s.mgt with takeover := [takeX u st] }, cores := updAt s.cores 23 fun c => { c with mgmtFence := true } }
def sliceX (k i : Nat) (st : Bool) : Slice := { kind := k, index := i, segment := if k < 2 then 15 else 7, preserve := false, due := 0, started := st, saved := [] }
def sliceS (x : Option Slice) (f : State → State) : State := unitS fun s => f { s with bist := { s.bist with slice := x } }
def defX : Defect := { kind := 1, phys := 3, cause := 2, boots := 5, tick := 9 }
def flashS : State := timeS 5000 fun s => { s with flash := { s.flash with copyA := { seq := 6, entries := [defX], valid := true }, copyB := { seq := 7, entries := [], valid := true }, unsaved := [defX], boots := 3 } }
def workS : State := unitS fun s => { s with
  cores := updAt s.cores 23 fun x => { x with job := some { ctx := 2, slot := 5, startTick := 1000, heldFrom := 1000, cplRing := 9 }, phase := .run }
  sched := { s.sched with ctxs := updAt s.sched.ctxs 2 fun c => { c with enabled := true, slots := updAt c.slots 5 fun k => { k with state := .active } } }
  hif := { s.hif with bme := true, msixEnable := true, msixReq := [255], dma := updAt s.hif.dma 7 fun c => { c with cfg := 0x80000001#32, state := .run, reads := [{ dev := 0x50000, bytes := 3, since := 100 }] } } }
def capS (f : Mgt → Mgt) : State := timeS 5000 fun s => { s with mgt := f s.mgt }
def secS (f : Sec → Sec) (g : Fuse → Fuse) : State := { openS with ktl := { openS.ktl with count := 5000, up := 5000 }, sec := f openS.sec, fuse := g openS.fuse }
def inSess (f : Fuse → Fuse) : State := secS (fun c => { c with session := some .smbus }) f
def own (n : Nat) (v : List Byte) (f : Fuse) : Fuse := { f with owner := updAt f.owner n fun _ => some v }
def hdrS (f : State → State) : State := f { openS with ktl := { openS.ktl with count := 5000, up := 5000 }, hdrs := openS.hdrs.map fun h => { h with ready := true } }
def armedS (t : Nat) : State := hdrS fun s => { s with ktl := { s.ktl with epoch := some { target := t, beat := some 99, planned := false, byCap := false, decision := none } } }



def noLink : State := { openS with hif := { openS.hif with linkUp := false } }
def badF : BootFail := { step := 6, kind := 13, num := 0 }
def bootF : BootInfo := { bootB true with fails := [badF] }
def sliceMX : Slice := { kind := 0, index := 23, segment := 16, preserve := true, due := 0, started := true, saved := [(coreBase + 23 * 0x1000000 + 4, 9)] }
def sliceM : State := unitS fun s => { s with
  bist := { s.bist with slice := some sliceMX }, mem := memOf [(0x40, 4, 77), (coreBase + 23 * 0x1000000, 4, 3)] }
def noDecSpare : State := { (takeS (.dec 7) .testing) with mgt := { (takeS (.dec 7) .testing).mgt with decSpares := [] } }
def takeEpoch : State := { (takeS (.core 23) .mapping) with ktl := { (takeS (.core 23) .mapping).ktl with
  epoch := some { target := 1, beat := some 6, planned := false, byCap := false, decision := none } } }
def flashFull : State := { flashS with flash := { flashS.flash with copyB := { seq := 7, entries := List.replicate 254 defX, valid := true } } }
def capE : State :=
  let s := capS fun m => { m with div := 1 }
  { s with ktl := { s.ktl with epoch := some { target := 1, beat := some 90, planned := false, byCap := false, decision := none } } }

/-! ## States and operands that meet the hypotheses -/

theorem witness_CountReadGivesWholeCount :
    ∃ s : State, barOpen s = true := by
  refine ⟨onK fun k => { k with count := 0x123456789abc }, ?_⟩ <;> decide +kernel

theorem witness_HostTimeLoad :
    (∃ (s : State) (v : W32), sized s = true ∧ barWr s = true ∧ s.ktl.planState ≠ .stopped ∧
       (s.hdr .ktl).shadowSel = false) ∧
    (∃ (s : State) (v : W32), barWr s = true ∧ s.ktl.planState = .stopped ∧ (s.hdr .ktl).shadowSel = false
       ∧ rbit v 3 = false) ∧
    (∃ (s : State) (v : W32), rbit v 3 = true) ∧
    (∃ (s : State) (v at_ : Nat), sized s = true ∧ s.ktl.loadPending = some (v, at_) ∧ at_ < s.up ∧ s.now %
       3300 = 0 ∧ v < 2 ^ 64) ∧
    (∃ s : State, s.now % 3300 ≠ 0) := by
  refine ⟨?_, ?_, ?_, ?_, ?_⟩
  · refine ⟨runS, 0x30, ?_, ?_, ?_, ?_⟩ <;> decide +kernel
  · refine ⟨onK fun k => { k with countLoadLo := 7, countLoadHi := 1 }, 0x35, ?_, ?_, ?_, ?_⟩ <;> decide +kernel
  · refine ⟨bankS, 9, ?_⟩ <;> decide +kernel
  · refine ⟨onK fun k => { k with loadPending := some (10000, 0), count := 3300, up := 3300, refreshed := some 3 },
        10000, 0, ?_, ?_, ?_, ?_, ?_⟩ <;> decide +kernel
  · refine ⟨onK fun k => { k with loadPending := some (10000, 0), count := 3299, up := 3300 }, ?_⟩ <;> decide +kernel

theorem witness_PlanRuns :
    (∃ (s : State) (v : W32), barWr s = true ∧ s.ktl.planState = .stopped ∧ (s.hdr .ktl).shadowSel = false
       ∧ rbit v 4 = false ∧ bankFits s (rfld v 2 0) s.ktl.planLen = true ∧ planStartBeatOf s % 3 = 0 ∧
       s.beat + 2 ≤ planStartBeatOf s) ∧
    (∃ (s : State) (v : W32), sized s = true ∧ barWr s = true ∧ s.ktl.planState = .stopped ∧
       (s.hdr .ktl).shadowSel = false ∧ rbit v 4 = false ∧ rbit v 5 = false ∧ (s.bank
       (rfld v 2 0)).valid = true ∧ (bankFits s (rfld v 2 0) s.ktl.planLen = false ∨ planStartBeatOf s %
       3 ≠ 0 ∨ planStartBeatOf s < s.beat + 2)) ∧
    (∃ (s : State) (v : W32), sized s = true ∧ barWr s = true ∧ (s.hdr .ktl).shadowSel = false ∧ (rbit v
       4 = true ∨ s.ktl.planState ≠ .stopped ∨ (s.bank (rfld v 2 0)).valid = false)) ∧
    (∃ (s : State), s.ktl.planState = .startPending ∧ s.now = s.ktl.pendingStart * 1100) ∧
    (∃ (s : State) (v : W32), barWr s = true ∧ (s.hdr .ktl).shadowSel = false ∧ rfld v 2 0 = s.ktl.planBank
       ∧ rbit v 3 = false ∧ rbit v 5 = false) ∧
    (∃ (s : State) (v : W32), sized s = true ∧ barWr s = true ∧ (s.hdr .ktl).shadowSel = false ∧ ((rfld v 2
       0 ≠ s.ktl.planBank ∧ s.ktl.planState ≠ .stopped) ∨ rbit v 3 = true)) ∧
    (∃ (s : State) (v : W32) (i : Instr), i ∈ [Instr.start v, .stop v, .load v] ∧ sized s = true ∧ barWr
       s = true ∧ (s.hdr .ktl).shadowSel = true ∧ locked s .ktl = false) ∧
    (∃ (s : State), s.now + 1 = s.ktl.cycleStart + s.ktl.cycleLen * 1100 ∧ s.ktl.planState = .stopping) ∧
    (∃ (s : State), s.now + 1 = s.ktl.cycleStart + s.ktl.cycleLen * 1100 ∧ s.ktl.planState = .running ∧
       (s.ktl.discEn && s.ktl.ppsLock) = false) ∧
    (∃ (s : State) (r : Nat) (anchor target m err : Int), s.now + 1 = s.ktl.cycleStart + s.ktl.cycleLen *
       1100 ∧ s.ktl.planState = .running ∧ s.ktl.discEn = true ∧ s.ktl.ppsLock = true ∧ 1 ≤
       s.ktl.ppsMeasured ∧ r = s.ktl.discCycles - (s.ktl.cycleNo + 1) % s.ktl.discCycles ∧ anchor = s.now +
       1 + r * s.ktl.planLen * 1100 ∧ target = s.ktl.ppsLast.getD 0 + s.ktl.discPhase + m *
       s.ktl.ppsMeasured ∧ err = anchor - target ∧ 2 * err < s.ktl.ppsMeasured ∧ -s.ktl.ppsMeasured < 2 *
       err) ∧
    (∃ s : State, s.now + 1 = s.ktl.cycleStart + s.ktl.cycleLen * 1100 ∧ s.ktl.planState = .running ∧ 3 *
       s.ktl.discMaxSteps ≤ s.ktl.planLen) := by
  refine ⟨?_, ?_, ?_, ?_, ?_, ?_, ?_, ?_, ?_, ?_, ?_⟩
  · refine ⟨bankS, 0x29, ?_, ?_, ?_, ?_, ?_, ?_, ?_⟩ <;> decide +kernel
  · refine ⟨{ bankS with ktl := { bankS.ktl with planStartLo := 3 } }, 9, ?_, ?_, ?_, ?_, ?_, ?_, ?_, ?_⟩ <;> decide +kernel
  · refine ⟨runS, 1, ?_, ?_, ?_, ?_⟩ <;> decide +kernel
  · refine ⟨onK fun k =>
        { k with planState := .startPending, planBank := 2, pendingStart := 6, count := 6600, up := 6600 },
        ?_, ?_⟩ <;> decide +kernel
  · refine ⟨runS, 0x10, ?_, ?_, ?_, ?_, ?_⟩ <;> decide +kernel
  · refine ⟨runS, 0x11, ?_, ?_, ?_, ?_⟩ <;> decide +kernel
  · refine ⟨{ bankS with hdrs := updAt bankS.hdrs (pageIdx .ktl) fun h => { h with shadowSel := true, complete := true } },
        6, .stop 6, ?_, ?_, ?_, ?_, ?_⟩ <;> decide +kernel
  · refine ⟨lastS .stopping false, ?_, ?_⟩ <;> decide +kernel
  · refine ⟨lastS .running false, ?_, ?_, ?_⟩ <;> decide +kernel
  · refine ⟨{ lastS .running true with ktl := { (lastS .running true).ktl with ppsMeasured := 36671000 } }, 1,
        73332600, 73337000, 1, -4400, ?_, ?_, ?_, ?_, ?_, ?_, ?_, ?_, ?_, ?_, ?_⟩ <;> decide +kernel
  · refine ⟨lastS .running true, ?_, ?_, ?_⟩ <;> decide +kernel

theorem witness_LaunchBanks :
    (∃ (s : State) (i e : Nat), entryDue s = some (i, e) ∧ (entAction e = 5 ∨ suppressing s = false)) ∧
    (∃ (s : State) (i e : Nat), entryDue s = some (i, e) ∧ entAction e ≠ 5 ∧ s.mgt.safe = true) ∧
    (∃ (s u : State) (lat code : Nat) (p : Action → Bool) (a : Action), takeAction s lat code p = some
       (a, u)) ∧
    (∃ (s : State) (v : W32), barWr s = true ∧ bankBusy s (rfld v 2 0) = false) ∧
    (∃ (s : State) (v : W32), barWr s = true ∧ rbit v 3 = false ∧ bankBusy s (rfld v 2 0) = false) ∧
    (∃ (s : State) (v : W32), rbit v 3 = true) ∧
    (∃ (s : State) (w : W32), barWr s = true ∧ bankBusy s (s.ktl.ltAddr / 8192) = false) ∧
    (∃ (s : State), barOpen s = true) := by
  refine ⟨?_, ?_, ?_, ?_, ?_, ?_, ?_, ?_⟩
  · refine ⟨{ runS with mgt := { runS.mgt with safe := true } }, 0, 5 * 2 ^ 32, ?_, ?_⟩ <;> decide +kernel
  · refine ⟨{ runS with mgt := { runS.mgt with safe := true }, ktl := { runS.ktl with banks := updAt runS.ktl.banks 1 fun b => { b with words := updAt b.words 1 fun _ => 1#32 } } },
        0, 2 ^ 32, ?_, ?_, ?_⟩ <;> decide +kernel
  · refine ⟨plannedS, { plannedS with ktl := { plannedS.ktl with net := [] } }, 0, 7, fun _ => true, act8 7 0 0, rfl⟩
  · refine ⟨bankS, 0x19, ?_, ?_⟩ <;> decide +kernel
  · refine ⟨bankS, 0x11, ?_, ?_, ?_⟩ <;> decide +kernel
  · refine ⟨bankS, 9, ?_⟩ <;> decide +kernel
  · refine ⟨onK fun k => { k with ltAddr := 65532 }, 0xabc, ?_, ?_⟩ <;> decide +kernel
  · refine ⟨{ bankS with ktl := { bankS.ktl with ltAddr := 8192 } }, ?_⟩ <;> decide +kernel

theorem witness_BusyBankKeepsItsContents :
    (∃ (s : State) (w : W32), sized s = true ∧ barWr s = true ∧ bankBusy s (s.ktl.ltAddr / 8192) = true) ∧
    (∃ (s : State) (v : W32) (i : Instr), i ∈ [Instr.commit v, .invalidate v] ∧ sized s = true ∧ barWr
       s = true ∧ bankBusy s (rfld v 2 0) = true) := by
  refine ⟨?_, ?_⟩
  · refine ⟨{ runS with ktl := { runS.ktl with ltAddr := 8196 } }, 6, ?_, ?_, ?_⟩ <;> decide +kernel
  · refine ⟨runS, 0x9, .commit 0x9, ?_, ?_, ?_, ?_⟩ <;> decide +kernel

theorem witness_RefreshAndTemperature :
    (∃ s : State, s.power.booted = true ∧ s.now % 1100 = 0 ∧ s.hbm.inSr = false ∧ s.ktl.resumeBeat ≤ s.beat
       ∧ (s.ktl.hot = true ∨ (s.ktl.forced = true ∧ s.ktl.forcedFrom ≤ s.beat) ∨ s.beat % 3 = 0)) ∧
    (∃ s : State, (s.now % 1100 ≠ 0 ∨ s.hbm.inSr = true ∨ (s.ktl.hot = false ∧ s.ktl.forced = false ∧
       s.beat % 3 ≠ 0))) ∧
    (∃ (s : State) (c : BitVec 8), s.power.booted = true ∧ refreshes s s.beat = true ∧ s.now % 1100 < 484 ∧
       s.hbm.tempBlock ≠ some (s.beat / 1000) ∧ (s.ktl.hot = true ∨ (c.toInt < s.ktl.hotWarnC ∧
       (c.toInt ≤ 85 ∨ s.ktl.forced = true)))) ∧
    (∃ (s : State) (c : BitVec 8), sized s = true ∧ s.power.booted = true ∧ refreshes s s.beat = true ∧
       s.now % 1100 < 484 ∧ s.hbm.tempBlock ≠ some (s.beat / 1000) ∧ s.ktl.hot = false ∧
       ((s.ktl.hotWarnC : Int) ≤ c.toInt ∨ (85 < c.toInt ∧ s.ktl.forced = false))) ∧
    (∃ (s : State) (c : BitVec 8), (484 ≤ s.now % 1100 ∨ s.hbm.inSr = true)) := by
  refine ⟨?_, ?_, ?_, ?_, ?_⟩
  · refine ⟨onK fun k => { k with count := 4400, up := 4400, forced := true, forcedFrom := 4 }, ?_, ?_, ?_, ?_, ?_⟩ <;> decide +kernel
  · refine ⟨onK fun k => { k with count := 4400, up := 4400 }, ?_⟩ <;> decide +kernel
  · refine ⟨openS, 79, ?_, ?_, ?_, ?_, ?_⟩ <;> decide +kernel
  · refine ⟨openS, 86, ?_, ?_, ?_, ?_, ?_, ?_, ?_⟩ <;> decide +kernel
  · refine ⟨onK (fun k => { k with count := 484, up := 484 }), 86, ?_⟩ <;> decide +kernel

theorem witness_Epochs :
    (∃ (s : State) (v : W32), barWr s = true ∧ s.ktl.epoch = none ∧ rbit v 1 = false ∧ epochTgtOf s < 2 ^
       46 ∧ (rbit v 2 = true ∨ (s.beat + 2 ≤ epochBeatOf s ∧ ((epochTgtOf s).testBit 32 = true →
       epochBeatOf s % 3 = 0)))) ∧
    (∃ (s : State) (v : W32), barWr s = true ∧ rbit v 1 = false ∧ (s.ktl.epoch.isSome = true ∨ 2 ^
       46 ≤ epochTgtOf s ∨ (rbit v 2 = false ∧ (epochBeatOf s < s.beat + 2 ∨ ((epochTgtOf s).testBit
       32 = true ∧ epochBeatOf s % 3 ≠ 0))))) ∧
    (∃ (s : State) (v : W32) (e : Epoch), sized s = true ∧ barWr s = true ∧ s.ktl.epoch = some e ∧ sampled
       s e = false ∧ rbit v 0 = false) ∧
    (∃ (s : State) (v : W32), barWr s = true ∧ (∀ e ∈ s.ktl.epoch, sampled s e = true) ∧ rbit v 0 = false) ∧
    (∃ (s : State) (v : W32), rbit v 0 = true) ∧
    (∃ (s : State) (e : Epoch) (b : Nat), s.ktl.epoch = some e ∧ e.beat = some b ∧ e.decision = none ∧
       s.now + 8 = b * 1100) ∧
    (∃ (s u : State) (e : Epoch) (a : Action), takeAction s 0 7 (fun _ => true) = some (a, u) ∧
       s.ktl.epoch = some e) ∧
    (∃ (s u : State) (a : Action), takeAction s 0 7 (fun _ => true) = some (a, u) ∧ s.ktl.epoch = none) ∧
    (∃ (s : State) (e : Epoch) (b : Nat), sized s = true ∧ s.ktl.epoch = some e ∧ e.beat = some b ∧
       e.decision = some false ∧ e.byCap = false ∧ s.now = b * 1100) ∧
    (∃ (s : State) (e : Epoch) (b : Nat), sized s = true ∧ s.ktl.epoch = some e ∧ e.beat = some b ∧
       e.decision = some true ∧ e.byCap = false ∧ e.target = 2 ^ 44 ∧ s.now = b * 1100) ∧
    (∃ (s : State) (e : Epoch) (b : Nat), sized s = true ∧ s.ktl.epoch = some e ∧ e.beat = some b ∧
       e.decision = some true ∧ e.byCap = false ∧ e.target = 2 ^ 32 ∧ s.now = b * 1100 ∧
       s.ktl.planState = .running ∧ (s.ktl.discEn && s.ktl.ppsLock) = false) := by
  refine ⟨?_, ?_, ?_, ?_, ?_, ?_, ?_, ?_, ?_, ?_, ?_⟩
  · refine ⟨onK fun k => { k with epochBeatLo := 3, epochTgtHi := 1, count := 1100, up := 1100 }, 1, ?_, ?_, ?_, ?_,
        ?_⟩ <;> decide +kernel
  · refine ⟨onK fun k => { k with epochBeatLo := 4, epochTgtHi := 1, count := 1100, up := 1100 }, 1, ?_, ?_, ?_⟩ <;> decide +kernel
  · refine ⟨epochS none 9 8791, 2,
        { target := 2 ^ 44, beat := some 9, planned := false, byCap := false, decision := none }, ?_, ?_,
        ?_, ?_, ?_⟩ <;> decide +kernel
  · refine ⟨epochS none 9 9892, 6, ?_, ?_, ?_⟩ <;> decide +kernel
  · refine ⟨epochS none 9 9892, 5, ?_⟩ <;> decide +kernel
  · refine ⟨epochS none 9 9892,
        { target := 2 ^ 44, beat := some 9, planned := false, byCap := false, decision := none }, 9, ?_, ?_,
        ?_, ?_⟩ <;> decide +kernel
  · refine ⟨plannedS, { plannedS with ktl := { plannedS.ktl with net := [] } },
        { target := 1, beat := none, planned := true, byCap := false, decision := none }, act8 7 0 0, rfl,
        ?_⟩ <;> decide +kernel
  · refine ⟨{ plannedS with ktl := { plannedS.ktl with epoch := none } },
        { plannedS with ktl := { plannedS.ktl with epoch := none, net := [] } }, act8 7 0 0, rfl, ?_⟩ <;> decide +kernel
  · refine ⟨epochS (some false) 9 9900,
        { target := 2 ^ 44, beat := some 9, planned := false, byCap := false, decision := some false }, 9,
        ?_, ?_, ?_, ?_, ?_, ?_⟩ <;> decide +kernel
  · refine ⟨epochS (some true) 9 9900,
        { target := 2 ^ 44, beat := some 9, planned := false, byCap := false, decision := some true }, 9,
        ?_, ?_, ?_, ?_, ?_, ?_, ?_⟩ <;> decide +kernel
  · refine ⟨swapS, { target := 2 ^ 32, beat := some 9, planned := false, byCap := false, decision := some true }, 9,
        ?_, ?_, ?_, ?_, ?_, ?_, ?_, ?_, ?_⟩ <;> decide +kernel

theorem witness_FsyncLines :
    (∃ (s u : State) (n : Fin 16) (a : Action) (l : FsyncLine), l = s.line n.val ∧ takeAction s 0 5
       (fun x => x.target == n.val) = some (a, u) ∧ rbit l.cfg 0 = true ∧ (∀ i ∈ l.issued, i + lineWidth l
       + 1 ≤ a.issued)) ∧
    (∃ (s u : State) (n : Fin 16) (a : Action) (l : FsyncLine) (i : Nat), l = s.line n.val ∧ takeAction s 0
       5 (fun x => x.target == n.val) = some (a, u) ∧ rbit l.cfg 0 = true ∧ l.issued = some i ∧
       a.issued < i + lineWidth l + 1) ∧
    (∃ (s u : State) (n : Fin 16) (a : Action), takeAction s 0 5 (fun x => x.target == n.val) = some (a, u)
       ∧ rbit (s.line n.val).cfg 0 = false) ∧
    (∃ (s : State) (n : Fin 16) (i : Nat), (s.line n.val).issued = some i ∧ i + 6 + lineWidth
       (s.line n.val) ≤ s.up) ∧
    (∃ (s : State) (n : Fin 16) (i : Nat), s.power.booted = true ∧ s.power.perst = false ∧
       s.power.railsOk = true ∧ (s.line n.val).driven = true ∧ (s.line n.val).issued = some i) ∧
    (∃ (s : State) (n : Fin 16) (v : W32), barWr s = true ∧ rfld v 21 2 ≠ 0) ∧
    (∃ (s : State) (n : Fin 16) (v : W32), sized s = true ∧ barWr s = true ∧ rfld v 21 2 = 0) := by
  refine ⟨?_, ?_, ?_, ?_, ?_, ?_, ?_⟩
  · refine ⟨lineS true none, { lineS true none with ktl := { (lineS true none).ktl with net := [] } }, 3, act100 5 3
        0, (lineS true none).line 3, ?_, rfl, ?_, ?_⟩ <;> decide +kernel
  · refine ⟨lineS true (some 0), { lineS true (some 0) with ktl := { (lineS true (some 0)).ktl with net := [] } }, 3,
        act100 5 3 0, (lineS true (some 0)).line 3, 0, ?_, rfl, ?_, ?_, ?_⟩ <;> decide +kernel
  · refine ⟨lineS false none, { lineS false none with ktl := { (lineS false none).ktl with net := [] } }, 3, act100 5
        3 0, rfl, ?_⟩ <;> decide +kernel
  · refine ⟨{ lineS true (some 0) with ktl := { (lineS true (some 0)).ktl with up := 11006 } }, 3, 0, ?_, ?_⟩ <;> decide +kernel
  · refine ⟨{ lineS true (some 0) with ktl := { (lineS true (some 0)).ktl with up := 11005, fsync := updAt (lineS true (some 0)).ktl.fsync 3 fun l => { l with driven := true } } },
        3, 0, ?_, ?_, ?_, ?_, ?_⟩ <;> decide +kernel
  · refine ⟨lineS true (some 0), 3, 0xffe, ?_, ?_⟩ <;> decide +kernel
  · refine ⟨lineS true (some 0), 3, 2, ?_, ?_, ?_⟩ <;> decide +kernel

theorem witness_NarrowLevelsAreIgnored :
    ∃ (s : State) (n : Fin 5) (l e : Nat), (s.input n.val).lead = some l ∧ (s.input n.val).ended = some e
      ∧ (s.input n.val).stuck = false ∧ (s.input n.val).judged = false ∧ e - l < (s.input n.val).minWidth := by
  refine ⟨inputS 4 { lead := some 4000, ended := some 4109 }, 4, 4000, 4109, ?_, ?_, ?_, ?_, ?_⟩ <;> decide +kernel

theorem witness_InputPulses :
    (∃ (s : State) (n : Fin 5) (l : Nat) (f : InFilter), f = s.input n.val ∧ n.val < 4 ∧ f.lead = some l ∧
       f.stuck = false ∧ f.judged = false ∧ s.up = qualifyAt f l ∧ (∀ e ∈ f.ended, l + f.minWidth ≤ e ∧
       s.up ≤ e) ∧ (∀ a ∈ f.lastAcc, a + f.minPeriod ≤ l)) ∧
    (∃ (s : State) (n : Fin 5) (l a : Nat) (f : InFilter), sized s = true ∧ f = s.input n.val ∧
       f.lead = some l ∧ f.stuck = false ∧ f.judged = false ∧ s.up = qualifyAt f l ∧ (∀ e ∈ f.ended, l +
       f.minWidth ≤ e ∧ s.up ≤ e) ∧ f.lastAcc = some a ∧ l < a + f.minPeriod) ∧
    (∃ (s : State) (n : Fin 5) (b : Bool), s.power.perst = false ∧ s.power.railsOk = true ∧
       (s.input n.val).level = !b ∧ (s.input n.val).stuck = false ∧ n.val < s.ktl.inputs.length) ∧
    (∃ (s : State) (n : Fin 5) (l : Nat), sized s = true ∧ (s.input n.val).lead = some l ∧
       (s.input n.val).ended = none ∧ (s.input n.val).stuck = false ∧ l + (s.input n.val).maxActive ≤ s.up) ∧
    (∃ (s : State) (n : Fin 5) (b : Bool), s.power.perst = false ∧ s.power.railsOk = true ∧
       (s.input n.val).level = !b ∧ (s.input n.val).stuck = true ∧ n.val < s.ktl.inputs.length) ∧
    (∃ (s : State) (n : Fin 5) (i : Nat), (s.input n.val).stuck = true ∧ (s.input n.val).idleFrom = some i
       ∧ i + (s.input n.val).release ≤ s.up) ∧
    (∃ (s : State) (n : Fin 5) (i : Instr), i ∈ [Instr.inputQualify n, .narrow n, .stuck n] ∧
       (s.input n.val).stuck = true) := by
  refine ⟨?_, ?_, ?_, ?_, ?_, ?_, ?_⟩
  · refine ⟨inputS 3 { lead := some 4890, leadTs := 77 }, 3, 4890, { lead := some 4890, leadTs := 77 }, ?_, ?_, ?_,
        ?_, ?_, ?_, ?_, ?_⟩ <;> decide +kernel
  · refine ⟨inputS 4 { lead := some 4890, lastAcc := some 4889 }, 4, 4890, 4889,
        { lead := some 4890, lastAcc := some 4889 }, ?_, ?_, ?_, ?_, ?_, ?_, ?_, ?_, ?_⟩ <;> decide +kernel
  · refine ⟨inputS 2 { polarity := true }, 2, true, ?_, ?_, ?_, ?_, ?_⟩ <;> decide +kernel
  · refine ⟨inputS 4 { lead := some 3900, maxActive := 1100 }, 4, 3900, ?_, ?_, ?_, ?_, ?_⟩ <;> decide +kernel
  · refine ⟨inputS 2 { stuck := true }, 2, true, ?_, ?_, ?_, ?_, ?_⟩ <;> decide +kernel
  · refine ⟨inputS 0 { stuck := true, idleFrom := some 3900, release := 1100 }, 0, 3900, ?_, ?_, ?_⟩ <;> decide +kernel
  · refine ⟨inputS 0 { stuck := true }, 0, .narrow 0, ?_, ?_⟩ <;> decide +kernel

theorem witness_TimestampsAndPps :
    (∃ (s : State) (n : Fin 4), sized s = true ∧ barOpen s = true) ∧
    (∃ (s : State) (l : Nat) (f : InFilter) (k : Ktl), f = s.input 4 ∧ f.lead = some l ∧ f.stuck = false ∧
       f.judged = false ∧ s.up = qualifyAt f l ∧ (∀ e ∈ f.ended, l + f.minWidth ≤ e ∧ s.up ≤ e) ∧ (∀ a ∈
       f.lastAcc, a + f.minPeriod ≤ l) ∧ k =
       { s.ktl with inputs := updAt s.ktl.inputs 4 fun f => { f with judged := true, lastAcc := some l }, ppsLast := some f.leadTs, ppsRef := s.up, ppsEcho := if s.ktl.ppsMode = 2 then some (s.up + 4) else none }) ∧
    (∃ s : State, sized s = true ∧ s.power.booted = true ∧ s.ktl.ppsRef + 2200000000 ≤ s.up ∧
       s.ktl.ppsLostSent = false) ∧
    (∃ s : State, s.power.booted = true ∧ s.ktl.ppsMode = 1 ∧ s.ktl.ppsPhase < 2 ^ 32 ∧ ((s.now : Int) -
       s.ktl.ppsPhase) % 1100000000 = 0) ∧
    (∃ s : State, s.power.booted = true ∧ s.ktl.ppsMode = 2 ∧ s.ktl.ppsEcho = some s.up) ∧
    (∃ (s : State) (e : Nat), s.ktl.ppsOutEnd = some e ∧ e ≤ s.up) := by
  refine ⟨?_, ?_, ?_, ?_, ?_, ?_⟩
  · refine ⟨onK (fun k => { k with fifos := updAt k.fifos 3 fun f => { f with ts := [2 ^ 33 + 5, 9] } }), 3, ?_, ?_⟩ <;> decide +kernel
  · refine ⟨inputS 4 { lead := some 1100004890, leadTs := 77, lastAcc := some 4000, since := 5000 } |> fun s =>
        { s with ktl := { s.ktl with up := 1100005000 } }, 1100004890,
        { lead := some 1100004890, leadTs := 77, lastAcc := some 4000, since := 5000 }, (inputS 4
        { lead := some 1100004890, leadTs := 77, lastAcc := some 4000, since := 5000 }).ktl |> fun k =>
        { k with up := 1100005000, inputs := updAt k.inputs 4 fun f => { f with judged := true, lastAcc := some 1100004890 }, ppsLast := some 77, ppsRef := 1100005000 },
        ?_, ?_, ?_, ?_, ?_, ?_, ?_, ?_⟩ <;> decide +kernel
  · refine ⟨onK fun k => { k with count := 2200000000, up := 2200000000 }, ?_, ?_, ?_, ?_⟩ <;> decide +kernel
  · refine ⟨onK fun k => { k with count := 1100000007, up := 1100000007, ppsMode := 1, ppsPhase := 7 }, ?_, ?_, ?_,
        ?_⟩ <;> decide +kernel
  · refine ⟨onK fun k => { k with count := 10, up := 10, ppsMode := 2, ppsEcho := some 10 }, ?_, ?_, ?_⟩ <;> decide +kernel
  · refine ⟨onK (fun k => { k with up := 10, ppsOutEnd := some 9 }), 9, ?_, ?_⟩ <;> decide +kernel

theorem witness_FixedPlanJobs :
    (∃ (s u : State) (c : Fin 256) (k : Fin 64) (a : Action) (n : Nat) (h : JobHdr), sized s = true ∧
       takeAction s 8 1 (fun a => a.target == c.val && a.arg16 == k.val) = some (a, u) ∧
       (s.ctx c.val).enabled = true ∧ ctxHeld s c.val = false ∧ ctxShare s c.val = false ∧
       (s.ctx c.val).onValid = false ∧ (s.slot c.val k.val).state = .valid ∧ n = maskCore
       (s.slot c.val k.val).coreMask ∧ coreFree s n = true ∧ h = parseHdr (peek s
       (s.slot c.val k.val).image 128)) ∧
    (∃ (s u : State) (c : Fin 256) (k : Fin 64) (a : Action) (n : Nat), takeAction s 8 1 (fun a => a.target
       == c.val && a.arg16 == k.val) = some (a, u) ∧ (s.ctx c.val).enabled = true ∧ ctxHeld s c.val = false
       ∧ ctxShare s c.val = false ∧ (s.ctx c.val).onValid = false ∧ (s.slot c.val k.val).state = .valid ∧
       n = maskCore (s.slot c.val k.val).coreMask ∧ coreFree s n = false ∧ (s.ctx c.val).urgent = false) ∧
    (∃ (s u : State) (c : Fin 256) (k : Fin 64) (a : Action), takeAction s 8 1 (fun a => a.target == c.val
       && a.arg16 == k.val) = some (a, u) ∧ ((s.ctx c.val).enabled = false ∨ ctxHeld s c.val = true ∨
       ctxShare s c.val = true ∨ (s.ctx c.val).onValid = true)) ∧
    (∃ (s u : State) (c : Fin 256) (k : Fin 64) (a : Action), takeAction s 8 1 (fun a => a.target == c.val
       && a.arg16 == k.val) = some (a, u) ∧ (s.ctx c.val).enabled = true ∧ ctxHeld s c.val = false ∧
       ctxShare s c.val = false ∧ (s.ctx c.val).onValid = false ∧ (s.slot c.val k.val).state ≠ .valid) ∧
    (∃ (s : State) (n : Fin 24) (j : Job) (k : Slot), (s.core n.val).job = some j ∧
       (s.core n.val).phase = .verify ∧ (s.core n.val).due ≤ s.up ∧ k = s.slot j.ctx j.slot ∧ jobFail s
       { core := n.val, fixed := !ctxShare s j.ctx, part := (s.ctx j.ctx).part, bad := j.badReads } k j.div
       j.planId = none ∧ k.batch = 0) ∧
    (∃ (s : State) (n : Fin 24) (j : Job) (k : Slot), (s.core n.val).job = some j ∧
       (s.core n.val).phase = .verify ∧ (s.core n.val).due ≤ s.up ∧ k = s.slot j.ctx j.slot ∧ jobFail s
       { core := n.val, fixed := !ctxShare s j.ctx, part := (s.ctx j.ctx).part, bad := j.badReads } k j.div
       j.planId = none ∧ k.batch ≠ 0 ∧ readable s (coreSrc n.val) k.batch 64 = true) ∧
    (∃ (s : State) (n : Fin 24) (j : Job) (r : Reject), (s.core n.val).job = some j ∧
       (s.core n.val).phase = .verify ∧ (s.core n.val).due ≤ s.up ∧ jobFail s
       { core := n.val, fixed := !ctxShare s j.ctx, part := (s.ctx j.ctx).part, bad := j.badReads }
       (s.slot j.ctx j.slot) j.div j.planId = some r ∧ s.sched.after.getD n.val none = none ∧ takesCpl s
       j.cplRing = true) := by
  refine ⟨?_, ?_, ?_, ?_, ?_, ?_, ?_⟩
  · refine ⟨startS true none 0, netless (startS true none 0), 2, 5, startAct, 3, {}, ?_, rfl, ?_, ?_, ?_, ?_, ?_, ?_,
        ?_, ?_⟩ <;> decide +kernel
  · refine ⟨startS true (some job3) 8, netless (startS true (some job3) 8), 2, 5, startAct, 3, rfl, ?_, ?_, ?_, ?_,
        ?_, ?_, ?_, ?_⟩ <;> decide +kernel
  · refine ⟨startS false none 0, netless (startS false none 0), 2, 5, startAct, rfl, ?_⟩ <;> decide +kernel
  · refine ⟨emptyStart, netless emptyStart, 2, 5, startAct, rfl, ?_, ?_, ?_, ?_, ?_⟩ <;> decide +kernel
  · refine ⟨verifyS 3529945521 0, 3, job3, (verifyS 3529945521 0).slot 2 5, ?_, ?_, ?_, ?_, ?_, ?_⟩ <;> decide +kernel
  · refine ⟨verifyS 3529945521 0x3000, 3, job3, (verifyS 3529945521 0x3000).slot 2 5, ?_, ?_, ?_, ?_, ?_, ?_, ?_⟩ <;> decide +kernel
  · refine ⟨badImg, 3, job3, ⟨1, 0xffff, false, none⟩, ?_, ?_, ?_, ?_, ?_, ?_⟩ <;> decide +kernel

theorem witness_WaitBeatWaits :
    (∃ (s : State) (n : Fin 24) (j : Job) (m b : Nat), atMacro s n.val opWait = some (j, m) ∧ passes s
       n.val j = true ∧ waitsFor s j m b = true ∧ s.now < b * 1100) ∧
    (∃ (s : State) (n : Fin 24) (j : Job) (m b : Nat), rbit s.hif.acctLo 0 = false ∧ atMacro s n.val
       opWait = some (j, m) ∧ passes s n.val j = true ∧ waitsFor s j m b = true ∧ b * 1100 ≤ s.now) ∧
    (∃ (s : State) (n : Fin 24) (j : Job) (m : Nat), rbit s.hif.acctLo 0 = false ∧ atMacro s n.val
       opWait = some (j, m) ∧ passes s n.val j = true ∧ bitAt (mP0 m) 32 = false ∧
       s.ktl.planState ≠ .running ∧ s.ktl.planState ≠ .stopping) ∧
    (∃ (s : State) (n : Fin 24) (j : Job) (b : Nat), rbit s.hif.acctLo 0 = false ∧
       (s.core n.val).job = some j ∧ (s.core n.val).phase = .run ∧ (s.core n.val).stopWhy = .none ∧
       (s.core n.val).wait = some b ∧ b ≤ s.now) ∧
    (∃ (s : State) (n : Fin 24) (b : Nat), (s.core n.val).wait = some b ∧ s.now < b) ∧
    (∃ (up : Nat) (j : Job), (∀ a ∈ j.ahead, a.mi ≠ j.mi + 1)) := by
  refine ⟨?_, ?_, ?_, ?_, ?_, ?_⟩
  · refine ⟨jobS (16 + (2 ^ 32 + 5) * 2 ^ 64) job3, 3, job3, 16 + (2 ^ 32 + 5) * 2 ^ 64, 5, ?_, ?_, ?_, ?_⟩ <;> decide +kernel
  · refine ⟨jobS (16 + (2 ^ 32 + 4) * 2 ^ 64) job3, 3, job3, 16 + (2 ^ 32 + 4) * 2 ^ 64, 4, ?_, ?_, ?_, ?_, ?_⟩ <;> decide +kernel
  · refine ⟨jobS (16 + 4 * 2 ^ 64) job3, 3, job3, 16 + 4 * 2 ^ 64, ?_, ?_, ?_, ?_, ?_, ?_⟩ <;> decide +kernel
  · refine ⟨coreS job3 (fun c => { c with wait := some 5000 }), 3, job3, 5000, ?_, ?_, ?_, ?_, ?_, ?_⟩ <;> decide +kernel
  · refine ⟨coreS job3 (fun c => { c with wait := some 5001 }), 3, 5001, ?_, ?_⟩ <;> decide +kernel
  · refine ⟨7, { job3 with ahead := [{ mi := 2 }] }, ?_⟩ <;> decide +kernel

theorem witness_SignalFenceEnd :
    (∃ (s v u : State) (n : Fin 24) (j : Job) (m : Nat), rbit s.hif.acctLo 0 = false ∧ atMacro s n.val
       opSignal = some (j, m) ∧ passes s n.val j = true ∧ v =
       { s with cores := updAt s.cores n.val fun x => { x with job := some { j with begun := true } } } ∧
       (if fld (mP0 m) 49 48 = 0 then writeMem (coreSrc n.val) (fld (mP0 m) 47 0) (leBytes 8 (mP1 m))
       j.inFallback v else modify64 (coreSrc n.val) (fld (mP0 m) 47 0) j.inFallback (add64 (mP1 m)) v) =
       (.ok, u)) ∧
    (∃ (s : State) (n : Fin 24) (j : Job) (m : Nat), rbit s.hif.acctLo 0 = false ∧ atMacro s n.val
       opFence = some (j, m) ∧ passes s n.val j = true) ∧
    (∃ (s : State) (n : Fin 24) (j : Job) (m a : Nat), rbit s.hif.acctLo 0 = true ∧ atMacro s n.val
       opFence = some (j, m) ∧ passes s n.val j = true ∧ a = pairAddr s.hif.acctLo s.hif.acctHi 6 + 32 *
       j.ctx ∧ a + 8 ≤ hbmEnd ∧ readable s .sched a 8 = true) ∧
    (∃ (s : State) (n : Fin 24) (j : Job) (m : Nat), atMacro s n.val opEnd = some (j, m) ∧ passes s n.val
       j = true ∧ cplRoom s j.cplRing = true ∧ s.sched.after.getD n.val none = none) ∧
    (∃ (s : State) (n : Fin 24) (j : Job) (m : Nat), atMacro s n.val opEnd = some (j, m) ∧ passes s n.val
       j = true ∧ cplRoom s j.cplRing = false) ∧
    (∃ (s : State) (n : Fin 24) (i : Instr) (op : Nat) (j : Job) (m : Nat) (h : JobHdr), (i, op) ∈
       [(Instr.waitBeat n, opWait), (.signal n, opSignal), (.fence n, opFence), (.jobEnd n, opEnd)] ∧
       atMacro s n.val op = some (j, m) ∧ j.begun = false ∧ mFuseIn m = false ∧ missPredicted s
       (s.core n.val) j = true ∧ (s.core n.val).store.hdr.fallback ≠ 0 ∧ j.missed = true ∧ h = parseHdr
       (peek s (s.core n.val).store.hdr.fallback 128)) ∧
    (∃ (s : State) (n : Fin 24) (i : Instr) (op : Nat) (j : Job) (m : Nat), (i, op) ∈
       [(Instr.waitBeat n, opWait), (.signal n, opSignal), (.fence n, opFence), (.jobEnd n, opEnd)] ∧
       atMacro s n.val op = some (j, m) ∧ j.begun = false ∧ mFuseIn m = false ∧ missPredicted s
       (s.core n.val) j = true ∧ (s.core n.val).store.hdr.fallback ≠ 0 ∧ j.missed = false ∧ readable s
       .sched ((s.ctx j.ctx).stateBase + 0x18) 4 = true) := by
  refine ⟨?_, ?_, ?_, ?_, ?_, ?_, ?_⟩
  · refine ⟨jobS (17 + 0x2000 * 2 ^ 64 + 77 * 2 ^ 128) job3, sigS (17 + 0x2000 * 2 ^ 64 + 77 * 2 ^ 128), (writeMem
        (coreSrc 3) 0x2000 (leBytes 8 77) false (sigS (17 + 0x2000 * 2 ^ 64 + 77 * 2 ^ 128))).2, 3, job3, 17
        + 0x2000 * 2 ^ 64 + 77 * 2 ^ 128, ?_, ?_, ?_, ?_, fst_pair (by decide +kernel)⟩ <;> decide +kernel
  · refine ⟨jobS 18 job3, 3, job3, 18, ?_, ?_, ?_⟩ <;> decide +kernel
  · refine ⟨acctOn (jobS 18 job3), 3, job3, 18, 0x9040, ?_, ?_, ?_, ?_, ?_, ?_⟩ <;> decide +kernel
  · refine ⟨ringUp (jobS 31 job3), 3, job3, 31, ?_, ?_, ?_, ?_⟩ <;> decide +kernel
  · refine ⟨fullCpl 31, 3, job3, 31, ?_, ?_, ?_⟩ <;> decide +kernel
  · refine ⟨missS 18 true, 3, .fence 3, opFence, missJ, 18, {}, ?_, ?_, ?_, ?_, ?_, ?_, ?_, ?_⟩ <;> decide +kernel
  · refine ⟨missS 16 false, 3, .waitBeat 3, opWait, job3, 16, ?_, ?_, ?_, ?_, ?_, ?_, ?_, ?_⟩ <;> decide +kernel

theorem witness_JobsChangeState :
    (∃ (s : State) (n : Fin 24) (b : Nat), (s.core n.val).phase = .fallbackLoad ∧ (s.core n.val).due ≤ s.up
       ∧ b = (s.core n.val).store.hdr.fallback ∧ readable s (coreSrc n.val) b 128 = true ∧ readable s
       (coreSrc n.val) b (parseHdr (peek s b 128)).imageBytes = true ∧ crcOk s b (parseHdr
       (peek s b 128)) = true) ∧
    (∃ (s : State) (n : Fin 24) (j : Job) (b : Nat), (s.core n.val).job = some j ∧
       (s.core n.val).phase = .fallbackLoad ∧ (s.core n.val).due ≤ s.up ∧ b =
       (s.core n.val).store.hdr.fallback ∧ readable s (coreSrc n.val) b 128 = true ∧ readable s
       (coreSrc n.val) b (parseHdr (peek s b 128)).imageBytes = true ∧ crcOk s b (parseHdr
       (peek s b 128)) = false ∧ takesCpl s j.cplRing = true ∧ s.sched.after.getD n.val none = none) ∧
    (∃ (s : State) (n : Fin 24) (j : Job) (f : Nat), (s.core n.val).job = some j ∧
       (s.core n.val).phase = .run ∧ rbit (s.core n.val).saveLo 0 = true ∧
       ((s.core n.val).stopWhy = .preempt ∧ freeFrameOf s n.val = some f ∨
       (s.core n.val).stopWhy = .takeover ∧ f = 3)) ∧
    (∃ (s : State) (n : Fin 24), (s.core n.val).phase = .run ∧ (s.core n.val).stopWhy = .preempt ∧
       (freeFrameOf s n.val = none ∨ rbit (s.core n.val).saveLo 0 = false) ∧ s.sched.after.getD n.val
       none = none) ∧
    (∃ (s : State) (n : Fin 24) (j : Job), (s.core n.val).job = some j ∧ (s.core n.val).phase = .run ∧
       (s.core n.val).stopWhy = .takeover ∧ rbit (s.core n.val).saveLo 0 = false ∧ takesCpl s
       j.cplRing = true ∧ s.sched.after.getD n.val none = none) ∧
    (∃ (s v u : State) (n : Fin 24) (j : Job) (x : Core) (fr : List (Nat × List Byte)), rbit s.hif.acctLo
       0 = false ∧ x = s.core n.val ∧ x.job = some j ∧ x.phase = .save ∧ x.due ≤ s.up ∧ sized s = true ∧
       j.ctx < 256 ∧ j.slot < 64 ∧ (∀ r ∈ saveNeeds s n.val, badAt s r.1 r.2 = false) ∧ frameBytes n.val s
       = (fr, v) ∧ writeAll (coreSrc n.val) (fr.map fun r => (frameBase s n.val x.saveFrame + r.1, r.2)) v
       = (.ok, u) ∧ inTakeover s n.val = false ∧ s.sched.after.getD n.val none = none) ∧
    (∃ (s : State) (n : Fin 24) (j : Job) (v : Saved) (h : JobHdr) (b : Nat) (img : List Byte), sized
       s = true ∧ (s.core n.val).job = some j ∧ (s.core n.val).phase = .restore ∧ (s.core n.val).due ≤ s.up
       ∧ (s.slot j.ctx j.slot).saved = some v ∧ h = parseHdr (peek s v.store.base 128) ∧ 128 ≤ h.imageBytes
       ∧ h.imageBytes ≤ 2 ^ 20 ∧ readable s (coreSrc n.val) v.store.base h.imageBytes = true ∧ crcOk s
       v.store.base h = true ∧ b = frameBase s v.core v.frame ∧ readable s (coreSrc n.val) b 0xb6000 = true
       ∧ img = peek s b 0xb6000 ∧ saveLines (loadStore s v.store.base) = 0 ∧
       (loadStore s v.store.base).save = []) ∧
    (∃ (s : State) (n : Fin 24) (j : Job) (v : Saved) (h : JobHdr), (s.core n.val).job = some j ∧
       (s.core n.val).phase = .restore ∧ (s.core n.val).due ≤ s.up ∧ (s.slot j.ctx j.slot).saved = some v ∧
       h = parseHdr (peek s v.store.base 128) ∧ 128 ≤ h.imageBytes ∧ h.imageBytes ≤ 2 ^ 20 ∧ readable s
       (coreSrc n.val) v.store.base h.imageBytes = true ∧ crcOk s v.store.base h = false ∧ takesCpl s
       j.cplRing = true ∧ s.sched.after.getD n.val none = none) := by
  refine ⟨?_, ?_, ?_, ?_, ?_, ?_, ?_, ?_⟩
  · refine ⟨loadS 2726580048, 3, 0x1000, ?_, ?_, ?_, ?_, ?_, ?_⟩ <;> decide +kernel
  · refine ⟨loadS 1, 3, job3, 0x1000, ?_, ?_, ?_, ?_, ?_, ?_, ?_, ?_, ?_⟩ <;> decide +kernel
  · refine ⟨askS .preempt fun c => { c with saveLo := 1 }, 3, job3, 0, ?_, ?_, ?_, ?_⟩ <;> decide +kernel
  · refine ⟨askS .preempt fun c => { c with frames := [true, true, true, false] }, 3, ?_, ?_, ?_, ?_⟩ <;> decide +kernel
  · refine ⟨askS .takeover id, 3, job3, ?_, ?_, ?_, ?_, ?_, ?_⟩ <;> decide +kernel
  · refine ⟨saveS, (frameBytes 3 saveS).2, _, 3, job3, saveS.core 3, (frameBytes 3 saveS).1, ?_, ?_, ?_, ?_, ?_, ?_,
        ?_, ?_, ?_, fst_pair rfl, fst_pair frame_fits, ?_, ?_⟩ <;> decide +kernel
  · refine ⟨restoreS 2726580048, 3, job3, saved3, parseHdr (peek (restoreS 2726580048) 0x1000 128), frameBase
        (restoreS 2726580048) 3 1, peek (restoreS 2726580048) (frameBase (restoreS 2726580048) 3 1) 0xb6000,
        ?_, ?_, ?_, ?_, ?_, ?_, ?_, ?_, ?_, ?_, ?_, ?_, rfl, ?_, ?_⟩ <;> decide +kernel
  · refine ⟨restoreS 1, 3, job3, saved3, parseHdr (peek (restoreS 1) 0x1000 128), ?_, ?_, ?_, ?_, ?_, ?_, ?_, ?_, ?_,
        ?_, ?_⟩ <;> decide +kernel

theorem witness_MseAndCoreFailure :
    (∃ (s : State) (n : Fin 24) (c : Fin 4) (m : MseCh), barOpen s = true ∧ m = (s.core n.val).mse.getD
       c.val {}) ∧
    (∃ (s : State) (n : Fin 24) (c : Fin 4) (v : W32), barWr s = true) ∧
    (∃ (s : State) (n : Fin 24) (a : BitVec 48) (off : Nat), sized s = true ∧ regionOf a.toNat = .core
       n.val off ∧ coreAbsent s n.val = false ∧ inTakeover s n.val = false ∧ s.mgt.coreMap.length = 24 ∧
       (chooseSpare s (physCore s n.val)).isSome = true) ∧
    (∃ (s : State) (n : Fin 24) (a : BitVec 48) (off : Nat) (j : Job), sized s = true ∧ regionOf
       a.toNat = .core n.val off ∧ coreAbsent s n.val = false ∧ inTakeover s n.val = false ∧ (chooseSpare s
       (physCore s n.val)).isSome = true ∧ (s.core n.val).job = some j ∧ (s.core n.val).phase = .run) ∧
    (∃ (s : State) (n : Fin 24) (k : Fin 32) (a : Arr) (mi i : Nat) (w : Walk), sized s = true ∧ unitTurn
       (s.core n.val) 0 = some mi ∧ a = arrOf n.val (s.core n.val) mi ∧ (s.core n.val).walk = some w ∧
       w.loaded = true ∧ nextRow a (s.core n.val) w.g w.row = some i ∧ slotsHeld a (s.core n.val) w
       s = false ∧ (a.blk w.kr w.cb).empty = false ∧ k.val < (planeOf (s.core n.val) w.plane).parity.length
       ∧ rangesFail n.val s (a.rowReads s (s.core n.val) w i) = none ∧ (a.rowScale s (a.blk w.kr w.cb)
       (a.firstRow w.g + i)).all (fun k => k.2.2 == k.1 % 256) = true ∧ coreAbsent s n.val = false ∧
       inTakeover s n.val = false ∧ (chooseSpare s (physCore s n.val)).isSome = true ∧ s.badWords = []) := by
  refine ⟨?_, ?_, ?_, ?_, ?_⟩
  · refine ⟨mseS, 3, 2, (mseS.core 3).mse.getD 2 {}, ?_, ?_⟩ <;> decide +kernel
  · refine ⟨mseS, 3, 2, 0x00020007, ?_⟩ <;> decide +kernel
  · refine ⟨spareS, 23, 0x800117000000, 0, ?_, ?_, ?_, ?_, ?_, ?_⟩ <;> decide +kernel
  · refine ⟨skipS, 3, 0x800103000000, 0, { job3 with skipped := 2 }, ?_, ?_, ?_, ?_, ?_, ?_, ?_⟩ <;> decide +kernel
  · refine ⟨parS, 3, 31, arrOf 3 (parS.core 3) 0, 0, 0, { loaded := true }, ?_, ?_, ?_, ?_, ?_, ?_, ?_, ?_, ?_, ?_,
        ?_, ?_, ?_, ?_, ?_⟩ <;> decide +kernel

theorem witness_ArrayPasses :
    (∃ (s : State) (n : Fin 24) (mi : Nat) (a : Arr) (w : Walk) (x : Core), x = s.core n.val ∧ unitTurn x
       0 = some mi ∧ a = arrOf n.val x mi ∧ x.walk = some w ∧ w.loaded = false ∧ x.chain = none ∧
       rangesFail n.val s (a.loadRanges x (a.blk w.kr w.cb) w.cb) = none ∧ a.loadSkew s (a.blk w.kr w.cb)
       w.cb = none) ∧
    (∃ (s : State) (n : Fin 24) (mi : Nat) (a : Arr) (w : Walk) (x : Core) (c : Chain), x = s.core n.val ∧
       unitTurn x 0 = some mi ∧ a = arrOf n.val x mi ∧ x.walk = some w ∧ w.loaded = false ∧ x.chain = some
       c ∧ c.blk ≠ a.blkId w.kr w.cb ∧ rangesFail n.val s (a.loadRanges x (a.blk w.kr w.cb) w.cb) = none ∧
       a.loadSkew s (a.blk w.kr w.cb) w.cb = none) ∧
    (∃ (s : State) (n : Fin 24) (mi : Nat) (a : Arr) (w : Walk) (x : Core) (c : Chain), x = s.core n.val ∧
       unitTurn x 0 = some mi ∧ a = arrOf n.val x mi ∧ x.walk = some w ∧ w.loaded = false ∧ x.chain = some
       c ∧ c.blk = a.blkId w.kr w.cb ∧ mi ≤ c.mi + 1) ∧
    (∃ (s : State) (n : Fin 24) (mi i k : Nat) (a : Arr) (w : Walk) (x : Core), x = s.core n.val ∧ unitTurn
       x 0 = some mi ∧ a = arrOf n.val x mi ∧ s.badWords = [] ∧ x.walk = some w ∧ w.loaded = true ∧
       slotsHeld a x w s = false ∧ (planeOf x w.plane).parity.all id = true ∧ nextRow a x w.g w.row = some
       i ∧ nextRow a x w.g (i + 1) = some k ∧ (a.blk w.kr w.cb).empty = false ∧ rangesFail n.val s
       (a.rowReads s x w i) = none ∧ (a.rowScale s (a.blk w.kr w.cb) (a.firstRow w.g + i)).all
       (fun k => k.2.2 == k.1 % 256) = true) ∧
    (∃ (s : State) (n : Fin 24) (mi i : Nat) (a : Arr) (w : Walk) (x : Core), x = s.core n.val ∧ unitTurn x
       0 = some mi ∧ a = arrOf n.val x mi ∧ s.badWords = [] ∧ x.walk = some w ∧ w.loaded = true ∧ slotsHeld
       a x w s = false ∧ (planeOf x w.plane).parity.all id = true ∧ nextRow a x w.g w.row = some i ∧
       nextRow a x w.g (i + 1) = none ∧ (a.blk w.kr w.cb).empty = false ∧ rangesFail n.val s
       (a.rowReads s x w i) = none ∧ (a.rowScale s (a.blk w.kr w.cb) (a.firstRow w.g + i)).all
       (fun k => k.2.2 == k.1 % 256) = true) ∧
    (∃ (s : State) (n : Fin 24) (mi i k : Nat) (a : Arr) (w : Walk) (x : Core), x = s.core n.val ∧ unitTurn
       x 0 = some mi ∧ a = arrOf n.val x mi ∧ x.walk = some w ∧ w.loaded = true ∧ slotsHeld a x w s = false
       ∧ (planeOf x w.plane).parity.all id = true ∧ nextRow a x w.g w.row = some i ∧ nextRow a x w.g
       (i + 1) = some k ∧ (a.blk w.kr w.cb).empty = true) := by
  refine ⟨?_, ?_, ?_, ?_, ?_, ?_⟩
  · refine ⟨loadMm none, 3, 0, arr3 (loadMm none), {}, (loadMm none).core 3, ?_, ?_, ?_, ?_, ?_, ?_, ?_, ?_⟩ <;> decide +kernel
  · refine ⟨loadMm (some (fullChain 0 (7, 0, 0))), 3, 0, arr3 (loadMm (some (fullChain 0 (7, 0, 0)))), {}, (loadMm
        (some (fullChain 0 (7, 0, 0)))).core 3, fullChain 0 (7, 0, 0), ?_, ?_, ?_, ?_, ?_, ?_, ?_, ?_, ?_⟩ <;> decide +kernel
  · refine ⟨loadMm (some (fullChain 1 ((arr3 (loadMm none)).blkId 0 0))), 3, 0, arr3 (loadMm (some (fullChain 1
        ((arr3 (loadMm none)).blkId 0 0)))), {}, (loadMm (some (fullChain 1 ((arr3 (loadMm none)).blkId 0
        0)))).core 3, fullChain 1 ((arr3 (loadMm none)).blkId 0 0), ?_, ?_, ?_, ?_, ?_, ?_, ?_, ?_⟩ <;> decide +kernel
  · refine ⟨passS (mmWord 1) mm8 walk0 none, 3, 0, 0, 1, arr3 (passS (mmWord 1) mm8 walk0 none), walk0, (passS
        (mmWord 1) mm8 walk0 none).core 3, ?_, ?_, ?_, ?_, ?_, ?_, ?_, ?_, ?_, ?_, ?_, ?_, ?_⟩ <;> decide +kernel
  · refine ⟨passS (mmWord 1) mmDescs walk0 none, 3, 0, 0, arr3 (passS (mmWord 1) mmDescs walk0 none), walk0, (passS
        (mmWord 1) mmDescs walk0 none).core 3, ?_, ?_, ?_, ?_, ?_, ?_, ?_, ?_, ?_, ?_, ?_, ?_, ?_⟩ <;> decide +kernel
  · refine ⟨gcS, 3, 0, 0, 1, arr3 gcS, { loaded := true, cb := 1, kr := 1 }, gcS.core 3, ?_, ?_, ?_, ?_, ?_, ?_, ?_,
        ?_, ?_, ?_⟩ <;> decide +kernel

theorem witness_MacrosEnd :
    (∃ (s u : State) (n : Fin 24) (x : Core) (a : Arr) (w : Walk) (ds : List Walk) (rs : List Res), x =
       s.core n.val ∧ issuing x = true ∧ x.drains = w :: ds ∧ a = arrOf n.val x w.mi ∧ a.reduces = false ∧
       w.row + 1 < trgOf a.geo w.g ∧ rangesFail n.val s (a.drainReads s x w) = none ∧ rs = a.drainResults s
       x w ∧ writeCells (coreSrc n.val) (mergeWrites s (rs.flatMap (·.writes))) s = (.ok, u)) ∧
    (∃ (s : State) (n : Fin 24) (x : Core) (a : Arr) (w : Walk) (ds : List Walk), x = s.core n.val ∧
       issuing x = true ∧ x.drains = w :: ds ∧ a = arrOf n.val x w.mi ∧ a.reduces = true ∧ (w.row +
       1 < trgOf a.geo w.g ∨ w.cb + 1 < a.geo.ncb) ∧ rangesFail n.val s (a.drainReads s x w) = none) ∧
    (∃ (s v u : State) (n : Fin 24) (i : Instr) (op m k : Nat) (j : Job) (x : Core) (a : Arr) (w : Walk),
       (i, op) ∈ [(Instr.matmul n, opMatmul), (.conv2d n, opConv2d), (.dist n, opDist)] ∧ rbit s.hif.acctLo
       0 = false ∧ x = s.core n.val ∧ x.job = some j ∧ j.ahead = [] ∧ turn s n.val op = some (j.mi, m) ∧
       a = arrOf n.val x j.mi ∧ a.reduces = false ∧ (op = opDist → distGate a.m = 0) ∧ s.badWords = [] ∧
       x.walk = some w ∧ w.mi = j.mi ∧ x.drains = [] ∧ w.loaded = true ∧ w.kr + 1 = a.geo.kb ∧ trgOf a.geo
       w.g ≤ 1 ∧ a.tiles ≤ a.liveFrom x (w.t + 1) ∧ (planeOf x w.plane).parity.all id = true ∧ nextRow a x
       w.g w.row = some k ∧ nextRow a x w.g (k + 1) = none ∧ (a.blk w.kr w.cb).empty = false ∧ rangesFail
       n.val s (a.rowReads s x w k) = none ∧ (a.rowScale s (a.blk w.kr w.cb) (a.firstRow w.g + k)).all
       (fun k => k.2.2 == k.1 % 256) = true ∧ v =
       { s with mem := memPutAll s.mem (a.rowCells s x w k), cores := updAt s.cores n.val fun x => { x with walk := none, drains := [{ w with row := 0 }], job := some { j with tile := a.liveFrom x (w.t + 1) } } }
       ∧ rangesFail n.val v (a.drainReads v (v.core n.val) { w with row := 0 }) = none ∧ writeCells
       (coreSrc n.val) (mergeWrites v ((a.drainResults v (v.core n.val) { w with row := 0 }).flatMap
       (·.writes))) v = (.ok, u)) ∧
    (∃ (s v u : State) (n : Fin 24) (i : Instr) (op m : Nat) (j : Job) (o : TileOp), (i, op) ∈
       [(Instr.dwconv n, opDwconv), (.pool n, opPool), (.eltwise n, opEltwise), (.requant n, opRequant),
       (.nms n, opNms), (.gather n, opGather), (.scatter n, opScatter), (.copy n, opCopy)] ∧ rbit
       s.hif.acctLo 0 = false ∧ (s.core n.val).job = some j ∧ turn s n.val op = some (j.mi, m) ∧
       j.begun = true ∧ j.ahead = [] ∧ o = tileOp op s (s.core n.val) m ∧ o.tiles = j.tile + 1 ∧ covered
       (s.core n.val) j.mi j.tile = true ∧ rangesFail n.val (tileRegs op n.val s) (wholeLines (o.reads
       (tileRegs op n.val s) j.tile)) = none ∧ v = touchAll n.val (wholeLines (o.reads
       (tileRegs op n.val s) j.tile)) (noteOor n.val j.tile o (tileRegs op n.val s)) ∧ writeCells
       (coreSrc n.val) (mergeWrites v ((o.give v j.tile).flatMap (·.writes))) v = (.ok, u)) ∧
    (∃ (s : State) (n : Fin 24) (i : Instr) (op mi m : Nat) (j : Job), (i, op) ∈
       [(Instr.dwconv n, opDwconv), (.requant n, opRequant)] ∧ (s.core n.val).job = some j ∧ turn s n.val
       op = some (mi, m) ∧ mi ≠ j.mi ∧ mFuseIn m = true ∧ (j.act mi).tile < (tileOp op s (s.core n.val)
       m).tiles ∧ covered (s.core n.val) mi (j.act mi).tile = false) := by
  refine ⟨?_, ?_, ?_, ?_, ?_⟩
  · refine ⟨drainS (mmWord 1) mm8, drainU (mmWord 1) mm8, 3, (drainS (mmWord 1) mm8).core 3, arr3 (drainS (mmWord 1)
        mm8), {}, [], (arr3 (drainS (mmWord 1) mm8)).drainResults (drainS (mmWord 1) mm8) ((drainS
        (mmWord 1) mm8).core 3) {}, ?_, ?_, ?_, ?_, ?_, ?_, ?_, ?_, fst_pair (by decide +kernel)⟩ <;> decide +kernel
  · refine ⟨drainS distMin mm8, 3, (drainS distMin mm8).core 3, arr3 (drainS distMin mm8), {}, [], ?_, ?_, ?_, ?_,
        ?_, ?_, ?_⟩ <;> decide +kernel
  · refine ⟨endS 1, endV 1, endU 1, 3, .matmul 3, 1, mmWord 1, 0, { job3b with tile := 1 }, (endS 1).core 3, arr3
        (endS 1), walk0, ?_, ?_, ?_, ?_, ?_, ?_, ?_, ?_, ?_, ?_, ?_, ?_, ?_, ?_, ?_, ?_, ?_, ?_, ?_, ?_, ?_,
        ?_, ?_, ?_, ?_, fst_pair (by decide +kernel)⟩ <;> decide +kernel
  · refine ⟨tileS eltWord t3, tileV 5 eltWord t3, tileU 5 eltWord t3, 3, .eltwise 3, 5, eltWord, job3b, tileX 5
        eltWord t3, ?_, ?_, ?_, ?_, ?_, ?_, rfl, ?_, ?_, ?_, rfl, fst_pair (by decide +kernel)⟩ <;> decide +kernel
  · refine ⟨fuseS, 3, .requant 3, 7, 1, rqWord + 2 ^ 8, job3b, ?_, ?_, ?_, ?_, ?_, ?_, ?_⟩ <;> decide +kernel

theorem witness_ContextCommands :
    (∃ (s : State) (c : Fin 256) (d : Nat), sized s = true ∧ barWr s = true ∧ s.hif.ctxCmd.done = true ∧
       readable s .sched (pairAddr s.hif.ctxTableLo s.hif.ctxTableHi 6 + 64 * c.val) 64 = true ∧
       d = peekNat s (pairAddr s.hif.ctxTableLo s.hif.ctxTableHi 6 + 64 * c.val) 64) ∧
    (∃ (s : State) (c : Fin 256), sized s = true ∧ barWr s = true ∧ s.hif.ctxCmd.done = true ∧
       (s.ctx c.val).enabled = true ∧ (s.sched.after.all (·.isNone)) = true ∧ s.spt.waitCpl = [] ∧
       ((s.spt.arriving ++ s.spt.store).filter (·.cpl)).length ≤ 192 ∧ (∀ k < 64,
       (s.slot c.val k).state = .active → ∃ n < 24, ∃ j ∈ (s.core n).job, j.ctx = c.val ∧ j.slot = k) ∧ (∀
       k < 64, (s.slot c.val k).state = .suspended → (s.slot c.val k).saved.isSome = true) ∧ (∀ k < 64, ∀ v
       ∈ (s.slot c.val k).saved, v.job.ctx = c.val ∧ v.job.slot = k)) ∧
    (∃ (s : State) (c : Fin 256), sized s = true ∧ barWr s = true ∧ s.hif.ctxCmd.done = true ∧
       (s.ctx c.val).enabled = true ∧ (s.ctx c.val).held = false) ∧
    (∃ (s : State) (c : Fin 256), barWr s = true ∧ s.hif.ctxCmd.done = true ∧ (s.ctx c.val).enabled = true) ∧
    (∃ (s : State) (c : Fin 256) (i : Instr) (op : Nat), (i, op) ∈ [(Instr.ctxDisable c, 1), (.hold c, 2),
       (.unhold c, 3)] ∧ barWr s = true ∧ s.hif.ctxCmd.done = true ∧ (s.ctx c.val).enabled = false) ∧
    (∃ (s : State) (c : Fin 256) (i : Instr), i ∈ [Instr.ctxEnable c, .ctxDisable c, .hold c, .unhold c] ∧
       sized s = true ∧ barWr s = true ∧ s.hif.ctxCmd.done = false) := by
  refine ⟨?_, ?_, ?_, ?_, ?_, ?_⟩
  · refine ⟨ctxS ctxGood {} false, 255, ctxGood, ?_, ?_, ?_, ?_, ?_⟩ <;> decide +kernel
  · refine ⟨busyS, 2, ?_, ?_, ?_, ?_, ?_, ?_, ?_, ?_, ?_, ?_⟩ <;> decide +kernel
  · refine ⟨busyS, 2, ?_, ?_, ?_, ?_, ?_⟩ <;> decide +kernel
  · refine ⟨busyS, 2, ?_, ?_, ?_⟩ <;> decide +kernel
  · refine ⟨openS, 255, .hold 255, 2, ?_, ?_, ?_, ?_⟩ <;> decide +kernel
  · refine ⟨ctxBusyS, 255, .unhold 255, ?_, ?_, ?_, ?_⟩ <;> decide +kernel

theorem witness_JobsReachCores :
    (∃ (s u : State) (c : Fin 256) (k : Fin 64) (e : Nat) (h : JobHdr), takeDb c.val s = some
       (2 ^ k.val, u) ∧ s.mgt.safe = false ∧ (s.ctx c.val).enabled = true ∧
       (s.slot c.val k.val).state = .empty ∧ (s.ctx c.val).onValid = false ∧ readable s .sched
       ((s.ctx c.val).queueBase + 32 * k.val) 32 = true ∧ e = peekNat s ((s.ctx c.val).queueBase + 32 *
       k.val) 32 ∧ fld e 47 0 % 64 = 0 ∧ fld e 47 0 + 128 ≤ hbmEnd ∧ readable s .sched (fld e 47 0)
       128 = true ∧ h = parseHdr (peek s (fld e 47 0) 128) ∧ coreMaskBad (!partShare s (s.ctx c.val).part)
       h.dlb h.coreMask = false ∧ maskAbsent s (s.ctx c.val).part h.coreMask = false) ∧
    (∃ (s u : State) (c : Fin 256) (k : Fin 64), takeDb c.val s = some (2 ^ k.val, u) ∧ s.mgt.safe = false
       ∧ (s.ctx c.val).enabled = true ∧ (s.slot c.val k.val).state ≠ .empty) ∧
    (∃ (s u : State) (c : Fin 256) (v : Nat), takeDb c.val s = some (v, u) ∧ s.mgt.safe = true) ∧
    (∃ (s u : State) (d v : Nat), takeDb d s = some (v, u)) ∧
    (∃ (s u : State) (c : Fin 256) (k : Fin 64) (a : Action) (n : Nat), takeAction s 8 1 (fun a => a.target
       == c.val && a.arg16 == k.val) = some (a, u) ∧ (s.ctx c.val).enabled = true ∧ ctxHeld s c.val = false
       ∧ ctxShare s c.val = false ∧ (s.ctx c.val).onValid = false ∧ (s.slot c.val k.val).state = .valid ∧
       n = maskCore (s.slot c.val k.val).coreMask ∧ (s.ctx c.val).urgent = true ∧ isVictim s n = true ∧
       (s.core n).phase = .run ∧ (s.core n).stopWhy = .none ∧ canSave s n = true) ∧
    (∃ (s : State) (n : Fin 24) (c k : Nat) (v : Saved), coreFree s n.val = true ∧ partShare s
       (partOfCore s n.val) = false ∧ c < 256 ∧ k < 64 ∧ (s.slot c k).state = .suspended ∧
       (s.ctx c).enabled = true ∧ ctxHeld s c = false ∧ ctxShare s c = false ∧ (s.slot c k).saved = some v
       ∧ v.core = n.val ∧ (∀ d < 256, ∀ i < 64, (s.slot d i).state = .suspended → (d, i) ≠ (c, k) →
       (s.slot d i).order < (s.slot c k).order)) ∧
    (∃ (s : State) (n : Fin 24) (c k : Nat) (q : List (Nat × Nat)), coreFree s n.val = true ∧ partShare s
       (partOfCore s n.val) = false ∧ (∀ x ∈ s.sched.ctxs, ∀ y ∈ x.slots, y.state ≠ .suspended) ∧
       s.sched.held.getD n.val [] = (c, k) :: q ∧ (s.ctx c).enabled = true ∧ (s.slot c k).state = .valid ∧
       ctxHeld s c = false) ∧
    (∃ (s : State) (p : Fin 8) (urgent : Bool) (free l : List Nat) (c k n : Nat), partShare s p.val = true
       ∧ free = (List.range 24).filter (fun n => coreFree s n && partOfCore s n == p.val) ∧ (urgent = false
       → choices s p.val true free = []) ∧ l = choices s p.val urgent free ∧ c ∈ l ∧ (∀ d ∈ l, d ≠ c →
       (s.ctx d).deficit < (s.ctx c).deficit ∨ ((s.ctx d).deficit = (s.ctx c).deficit ∧ c < d)) ∧ 0 <
       (s.ctx c).deficit ∧ eligible s c = some k ∧ free.find? (fun n => mayUse s p.val c k n) = some n ∧
       (s.slot c k).state = .valid) := by
  refine ⟨?_, ?_, ?_, ?_, ?_, ?_, ?_, ?_⟩
  · refine ⟨dbS .empty false, dbU .empty false, 2, 5, 0x1000, parseHdr (peek (dbS .empty false) 0x1000 128), rfl, ?_,
        ?_, ?_, ?_, ?_, ?_, ?_, ?_, ?_, ?_, ?_, ?_⟩ <;> decide +kernel
  · refine ⟨dbS .valid false, dbU .valid false, 2, 5, rfl, ?_, ?_, ?_⟩ <;> decide +kernel
  · refine ⟨dbS .empty true, dbU .empty true, 2, 32, rfl, ?_⟩ <;> decide +kernel
  · refine ⟨dbS .empty true, dbU .empty true, 2, 32, rfl⟩
  · refine ⟨urgentS, netless urgentS, 2, 5, startAct, 3, rfl, ?_, ?_, ?_, ?_, ?_, ?_, ?_, ?_, ?_, ?_, ?_⟩ <;> decide +kernel
  · refine ⟨suspS, 3, 2, 5, saved3, ?_, ?_, ?_, ?_, ?_, ?_, ?_, ?_, ?_, ?_, ?_⟩ <;> decide +kernel
  · refine ⟨queueS, 3, 2, 5, [(9, 9)], ?_, ?_, ?_, ?_, ?_, ?_, ?_⟩ <;> decide +kernel
  · refine ⟨shareS true, 0, true, free24, [2], 2, 5, 3, ?_, ?_, ?_, ?_, ?_, ?_, ?_, ?_, ?_, ?_⟩ <;> decide +kernel

theorem witness_SaucerRings :
    (∃ (s : State) (m : Fin 7) (v : W32), barWr s = true ∧ rbit (s.clu m.val).ringCfg 31 = false ∧ rbit v
       31 = true) ∧
    (∃ (s : State) (m : Fin 7) (v : W32), barWr s = true ∧ (rbit v 31 = false ∨ rbit (s.clu m.val).ringCfg
       31 = true) ∧ (rbit (s.clu m.val).ringCfg 31 = false ∨ ((s.clu m.val).ringCfg ^^^ v) &&&
       0x01ffffff#32 = 0#32)) ∧
    (∃ (s : State) (m : Fin 7) (v : W32), sized s = true ∧ barWr s = true ∧ rbit (s.clu m.val).ringCfg
       31 = true ∧ ((s.clu m.val).ringCfg ^^^ v) &&& 0x01ffffff#32 ≠ 0#32) ∧
    (∃ (s : State) (m : Fin 7) (v k : Nat) (q : List Nat), (s.clu m.val).dbPend = v :: q ∧ rbit
       (s.clu m.val).ringCfg 31 = true ∧ k = (v + 65536 - (s.clu m.val).cons) % 65536 ∧ k ≤ rfld
       (s.clu m.val).ringCfg 24 17 + 1) ∧
    (∃ (s : State) (m : Fin 7) (v : Nat) (q : List Nat), sized s = true ∧ (s.clu m.val).dbPend = v :: q ∧
       rbit (s.clu m.val).ringCfg 31 = true ∧ rfld (s.clu m.val).ringCfg 24 17 + 1 < (v + 65536 -
       (s.clu m.val).cons) % 65536) ∧
    (∃ (s : State) (m : Fin 7) (v : Nat) (q : List Nat), (s.clu m.val).dbPend = v :: q ∧ rbit
       (s.clu m.val).ringCfg 31 = false) := by
  refine ⟨?_, ?_, ?_, ?_, ?_, ?_⟩
  · refine ⟨ringS 0x00020000 id, 6, 0x80020003, ?_, ?_, ?_⟩ <;> decide +kernel
  · refine ⟨ringS 0x80020000 id, 6, 0x80020000, ?_, ?_, ?_⟩ <;> decide +kernel
  · refine ⟨ringS 0x80020000 id, 6, 0x80040000, ?_, ?_, ?_, ?_⟩ <;> decide +kernel
  · refine ⟨ringS 0x81fe0000 (fun c => { c with cons := 65535, dbPend := [255, 8] }), 6, 255, 256, [8], ?_, ?_, ?_,
        ?_⟩ <;> decide +kernel
  · refine ⟨ringS 0x81fe0000 (fun c => { c with cons := 65535, dbPend := [256, 8] }), 6, 256, [8], ?_, ?_, ?_, ?_⟩ <;> decide +kernel
  · refine ⟨ringS 0x01fe0000 (fun c => { c with dbPend := [1, 8] }), 6, 1, [8], ?_, ?_⟩ <;> decide +kernel

theorem witness_SaucerCommands_1 :
    (∃ (s : State) (m : Fin 7) (k : Nat), (s.clu m.val).cmd = none ∧ s.mgt.safe = false ∧
       s.mgt.quiesce = false ∧ haltOn s (.clu m) = false ∧ (s.mesh.rstBusy = false ∨ partOfClu s m.val ≠
       s.mesh.rstPart) ∧ (∀ x ∈ (s.clu m.val).streams.head?, k < x.arrived) ∧ rbit (s.clu m.val).ringCfg
       31 = true ∧ (s.clu m.val).cons ≠ (s.clu m.val).prod ∧ (s.clu m.val).ticks.head? = some k ∧ k ≤ s.up
       ∧ readable s (.saucer m) (sauEntry s m.val) 64 = true) ∧
    (∃ (s : State) (m : Fin 7) (x : SauStream), (s.clu m.val).cmd = none ∧ s.mgt.safe = false ∧
       s.mgt.quiesce = false ∧ haltOn s (.clu m) = false ∧ (s.mesh.rstBusy = false ∨ partOfClu s m.val ≠
       s.mesh.rstPart) ∧ (s.clu m.val).streams.head? = some x ∧ x.arrived ≤ s.up ∧ (rbit
       (s.clu m.val).ringCfg 31 = true → (s.clu m.val).cons ≠ (s.clu m.val).prod → ∀ k ∈
       (s.clu m.val).ticks.head?, x.arrived ≤ k) ∧ readable s (.saucer m) x.cmd 64 = true) ∧
    (∃ (s : State) (m : Fin 7), ((s.clu m.val).cmd.isSome = true ∨ s.mgt.safe = true ∨ s.mgt.quiesce =
       true)) := by
  refine ⟨?_, ?_, ?_⟩
  · refine ⟨sauS (fun c => { c with prod := 1, ticks := [5] }), 6, 5, ?_, ?_, ?_, ?_, ?_, ?_, ?_, ?_, ?_, ?_, ?_⟩ <;> decide +kernel
  · refine ⟨sauS (fun c => { c with prod := 1, ticks := [5], streams := [sauStr] }), 6, sauStr, ?_, ?_, ?_, ?_, ?_,
        ?_, ?_, ?_, ?_⟩ <;> decide +kernel
  · refine ⟨sauRunS, 6, ?_⟩ <;> decide +kernel

theorem witness_SaucerCommands_2 :
    (∃ (s u v : State) (m : Fin 7) (c : SauCmd) (x : Sau) (w rows : Nat), (s.clu m.val).cmd = some c ∧
       c.status = 0 ∧ c.streamed = false ∧ c.readable = true ∧ x = sauOf s (peekNat s c.addr 64) ∧
       s.badWords = [] ∧ (sauRowEnds s m.val c x).getLastD 0 ≤ s.up ∧ sauWrite m.val x [] (sauRows x) 0 s =
       (rows, false, u) ∧ w = peekNat u c.addr 64 ∧ v = store (.saucer m) (sDone w) (leBytes 8
       (fld w 511 448) ++ leBytes 8 (rows * 2 ^ 32)) u) ∧
    (∃ (s u v : State) (m : Fin 7) (c : SauCmd) (x : Sau) (y : SauStream) (w rows n status : Nat),
       (s.clu m.val).cmd = some c ∧ c.status = 0 ∧ c.streamed = true ∧ c.readable = true ∧
       (s.clu m.val).streams.head? = some y ∧ y.ended = true ∧ x = sauOf s (peekNat s c.addr 64) ∧
       s.badWords = [] ∧ (sauRowEnds s m.val c x).getLastD 0 ≤ s.up ∧ n = dH x.src * dW x.src * dC x.src ∧
       status = (if y.data.length < n then 2 else if n < y.data.length then 3 else 0) ∧ sauWrite m.val x
       y.data (sauRows x) 0 s = (rows, false, u) ∧ w = peekNat u c.addr 64 ∧ v = store (.saucer m)
       (sDone w) (leBytes 8 (fld w 511 448) ++ leBytes 8 (status + rows * 2 ^ 32)) u) ∧
    (∃ (s v : State) (m : Fin 7) (c : SauCmd) (w : Nat), (s.clu m.val).cmd = some c ∧ c.status ≠ 0 ∧
       c.streamed = false ∧ c.readable = true ∧ w = peekNat s c.addr 64 ∧ v = store (.saucer m) (sDone w)
       (leBytes 8 (fld w 511 448) ++ leBytes 8 c.status) s) := by
  refine ⟨?_, ?_, ?_⟩
  · refine ⟨sauRunS, _, _, 6, sauRun, _, sauCmdWord, 1, ?_, ?_, ?_, ?_, rfl, ?_, ?_, trip_pair
        (x := sauWrite _ _ _ _ _ _) (a := 1) (b := false) ?_ ?_, ?_, rfl⟩ <;> decide +kernel
  · refine ⟨sauStrS, _, _, 6, { sauRun with streamed := true }, _, sauStr, sauStrW, 1, 1, 3, ?_, ?_, ?_, ?_, ?_, ?_,
        rfl, ?_, ?_, ?_, ?_, trip_pair (x := sauWrite _ _ _ _ _ _) (a := 1) (b := false) ?_ ?_, ?_, rfl⟩ <;> decide +kernel
  · refine ⟨sauBadS, _, 6, { sauRun with status := 1 }, sauCmdWord, ?_, ?_, ?_, ?_, ?_, rfl⟩ <;> decide +kernel

theorem witness_SaucerCommands_3 :
    ∃ (s r u v : State) (m : Fin 7) (c : SauCmd) (x : Sau) (w row rows : Nat), sized s = true ∧
      (s.clu m.val).cmd = some c ∧ c.status = 0 ∧ c.streamed = false ∧ c.readable = true ∧ r = raise
      (.clu m) 3 none m.val s ∧ x = sauOf r (peekNat r c.addr 64) ∧ s.badWords = [] ∧ sauWrite m.val x []
      (min row (sauMost r m.val c x)) 0 r = (rows, false, u) ∧ w = peekNat u c.addr 64 ∧ v = store
      (.saucer m) (sDone w) (leBytes 8 (fld w 511 448) ++ leBytes 8 (4 + rows * 2 ^ 32)) u := by
  refine ⟨sauRunS, _, _, _, 6, sauRun, _, sauCmdWord, 0, 0, ?_, ?_, ?_, ?_, ?_, rfl, rfl, ?_, trip_pair
      (x := sauWrite _ _ _ _ _ _) (a := 0) (b := false) ?_ ?_, ?_, rfl⟩ <;> decide +kernel

theorem witness_DecodeContexts :
    (∃ (s : State) (c : Fin 128) (d : Nat) (x : DecDesc) (raw : List Nat), sized s = true ∧ barWr s = true
       ∧ s.dec.cmd.done = true ∧ readable s .strainer (pairAddr s.dec.tableLo s.dec.tableHi 6 + 64 * c.val)
       64 = true ∧ d = peekNat s (pairAddr s.dec.tableLo s.dec.tableHi 6 + 64 * c.val) 64 ∧ x = parseDec d
       ∧ readable s .strainer x.fbTable (64 * x.fbCount) = true ∧ raw = fbRaw s x.fbTable x.fbCount) ∧
    (∃ (s : State) (c : Fin 128), barWr s = true ∧ s.dec.cmd.done = true ∧ (s.decCtx c.val).enabled = true
       ∧ (s.decCtx c.val).pic = none) ∧
    (∃ (s : State) (c : Fin 128), barWr s = true ∧ s.dec.cmd.done = true ∧ (s.decCtx c.val).enabled = true
       ∧ (s.decCtx c.val).pic.isSome = true) ∧
    (∃ (s : State) (c : Fin 128), barWr s = true ∧ s.dec.cmd.done = true ∧ (s.decCtx c.val).enabled = true) ∧
    (∃ (s : State) (c : Fin 128) (b : Fin 32), barWr s = true ∧ s.dec.cmd.done = true ∧ b.val ∈
       (s.decCtx c.val).holds) ∧
    (∃ (s : State) (c : Fin 128) (b : Fin 32) (i : Instr) (op : Nat), (i, op) ∈ [(Instr.decDisable c, 256),
       (.discontinuity c, 512), (.release c b, b.val * 65536 + 768)] ∧ barWr s = true ∧
       s.dec.cmd.done = true ∧ (s.decCtx c.val).enabled = false ∧ (s.decCtx c.val).holds = []) ∧
    (∃ (s : State) (c : Fin 128) (b : Fin 32) (i : Instr), i ∈ [Instr.decEnable c, .decDisable c,
       .discontinuity c, .release c b] ∧ sized s = true ∧ barWr s = true ∧ s.dec.cmd.done = false) ∧
    (∃ (s : State) (c : Fin 128), (s.decCtx c.val).pic = none ∧ ((s.decCtx c.val).wantDis = true ∨
       (s.decCtx c.val).wantDisc = true) ∧ (s.decCtx c.val).heldStart = none) := by
  refine ⟨?_, ?_, ?_, ?_, ?_, ?_, ?_, ?_⟩
  · refine ⟨decTabS (decNum 3 0x20000) (fbMem 3) false, 127, _, _, _, ?_, ?_, ?_, ?_, rfl, rfl, ?_, rfl⟩ <;> decide +kernel
  · refine ⟨decS decX id, 127, ?_, ?_, ?_, ?_⟩ <;> decide +kernel
  · refine ⟨decS { decX with pic := some decP } id, 127, ?_, ?_, ?_, ?_⟩ <;> decide +kernel
  · refine ⟨decS { decX with refs := [(1, 2)] } id, 127, ?_, ?_, ?_⟩ <;> decide +kernel
  · refine ⟨decS { decX with holds := [31, 2] } id, 127, 31, ?_, ?_, ?_⟩ <;> decide +kernel
  · refine ⟨decS {} id, 127, 31, .release 127 31, 31 * 65536 + 768, ?_, ?_, ?_, ?_, ?_⟩ <;> decide +kernel
  · refine ⟨decS decX (fun s => { s with dec := { s.dec with cmd := { done := false } } }), 127, 3, .decEnable 127,
        ?_, ?_, ?_, ?_⟩ <;> decide +kernel
  · refine ⟨decS { decX with wantDisc := true, refs := [(1, 2)] } id, 127, ?_, ?_, ?_⟩ <;> decide +kernel

theorem witness_DecodeStarts :
    (∃ (s u : State) (c : Fin 128) (v : Nat), takeDb (256 + c.val) s = some (v, u) ∧ s.mgt.safe = false ∧
       (s.decCtx c.val).enabled = true ∧ (v % 65536 + 65536 - (s.decCtx c.val).cons) % 65536 ≤
       (s.decCtx c.val).desc.ringLenM1 + 1) ∧
    (∃ (s u : State) (c : Fin 128) (v : Nat), sized s = true ∧ takeDb (256 + c.val) s = some (v, u) ∧
       s.mgt.safe = false ∧ (s.decCtx c.val).enabled = true ∧ (s.decCtx c.val).desc.ringLenM1 + 1 < (v %
       65536 + 65536 - (s.decCtx c.val).cons) % 65536) ∧
    (∃ (s u : State) (c : Fin 128) (v : Nat), takeDb (256 + c.val) s = some (v, u) ∧ (s.mgt.safe = true ∨
       (s.decCtx c.val).enabled = false)) ∧
    (∃ (s u : State) (c : Fin 128) (a : Action) (x : DecCtx), x = s.decCtx c.val ∧ takeAction s 8 2
       (fun a => a.target == c.val) = some (a, u) ∧ x.enabled = true ∧ x.desc.auto = false ∧
       (x.pic.isSome = true ∨ x.wantDis = true ∨ x.wantDisc = true) ∧ x.heldStart = none) ∧
    (∃ (s u : State) (c : Fin 128) (a : Action) (x : DecCtx) (cs : List Nat), x = s.decCtx c.val ∧
       takeAction s 8 2 (fun a => a.target == c.val) = some (a, u) ∧ x.enabled = true ∧ x.desc.auto = false
       ∧ x.pic = none ∧ x.wantDis = false ∧ x.wantDisc = false ∧ s.mgt.safe = false ∧ s.mgt.quiesce = false
       ∧ x.cons ≠ x.prod ∧ decTakes s c.val = some cs) ∧
    (∃ (s u : State) (c : Fin 128) (a : Action) (x : DecCtx), x = s.decCtx c.val ∧ takeAction s 8 2
       (fun a => a.target == c.val) = some (a, u) ∧ x.enabled = true ∧ x.desc.auto = false ∧ x.pic = none ∧
       x.wantDis = false ∧ x.wantDisc = false ∧ s.mgt.safe = false ∧ s.mgt.quiesce = false ∧ x.cons ≠
       x.prod ∧ decTakes s c.val = none ∧ x.desc.fbCount ≠ 0) ∧
    (∃ (s u : State) (c : Fin 128) (a : Action) (x : DecCtx) (off : Nat), x = s.decCtx c.val ∧ takeAction s
       8 2 (fun a => a.target == c.val) = some (a, u) ∧ x.desc.fbCount ≠ 0 ∧ ((x.enabled = false ∨
       x.desc.auto = true) ∧ off = 0x18 ∨ x.enabled = true ∧ x.desc.auto = false ∧ x.pic.isSome = true ∧
       x.heldStart.isSome = true ∧ off = 8 ∨ x.enabled = true ∧ x.desc.auto = false ∧ x.pic = none ∧
       x.wantDis = false ∧ x.wantDisc = false ∧ x.cons = x.prod ∧ off = 4)) ∧
    (∃ (s : State) (c : Fin 128) (cs : List Nat), s.dec.lastAuto < 128 ∧ decAutoReady s c.val = true ∧ (∀ k
       < 128, decAutoReady s k = true → (c.val + 127 - s.dec.lastAuto) % 128 ≤ (k + 127 - s.dec.lastAuto) %
       128) ∧ decTakes s c.val = some cs) := by
  refine ⟨?_, ?_, ?_, ?_, ?_, ?_, ?_, ?_⟩
  · refine ⟨decS decX (dbOutS 383 0x10001), decS decX (dbOutN []), 127, 0x10001, rfl, ?_, ?_, ?_⟩ <;> decide +kernel
  · refine ⟨decS decX (dbOutS 383 2), decS decX (dbOutN []), 127, 2, ?_, rfl, ?_, ?_, ?_⟩ <;> decide +kernel
  · refine ⟨decS {} (dbOutS 383 2), decS {} (dbOutN []), 127, 2, rfl, ?_⟩ <;> decide +kernel
  · refine ⟨decS { decX with pic := some decP } (netS decA), decS { decX with pic := some decP } netless, 127, decA,
        _, rfl, rfl, ?_, ?_, ?_, ?_⟩ <;> decide +kernel
  · refine ⟨decS { decX with prod := 1 } (netS decA), decS { decX with prod := 1 } netless, 127, decA, _, [0], rfl,
        rfl, ?_, ?_, ?_, ?_, ?_, ?_, ?_, ?_, ?_⟩ <;> decide +kernel
  · refine ⟨decS { decX with prod := 1 } (fun s => busyD (netS decA s)), decS { decX with prod := 1 } (fun s => busyD
        (netless s)), 127, decA, _, rfl, rfl, ?_, ?_, ?_, ?_, ?_, ?_, ?_, ?_, ?_, ?_⟩ <;> decide +kernel
  · refine ⟨decS decX (netS decA), decS decX netless, 127, decA, decX, 4, ?_, rfl, ?_, ?_⟩ <;> decide +kernel
  · refine ⟨decS autoX id, 127, [0], ?_, ?_, ?_, ?_⟩ <;> decide +kernel

theorem witness_DecodeAdmission :
    (∃ (s : State) (c : Fin 128) (p : DecPic) (cs : List Nat), (s.decCtx c.val).pic = some p ∧ p.cores = []
       ∧ p.admitted = false ∧ decTakes s c.val = some cs ∧ cs ≠ []) ∧
    (∃ (s : State) (c : Fin 128) (p : DecPic), (s.decCtx c.val).pic = some p ∧ p.cores = [] ∧
       p.admitted = false ∧ p.waited = true ∧ decTakes s c.val = none ∧ (decCores s c.val).2 ≠ 0) ∧
    (∃ (s r v : State) (c : Fin 128) (p : DecPic) (x : DecCtx) (e n : Nat), x = s.decCtx c.val ∧
       x.pic = some p ∧ p.cores ≠ [] ∧ p.admitted = false ∧ readMem .strainer
       (x.desc.ringBase + 32 * x.pos) 32 s = (.ok, leBytes 32 e, r) ∧ e < 2 ^ 256 ∧ entryBad x.desc
       e = true ∧ bitAt e 96 = false ∧ n = peekNat s x.desc.stateBase 4 ∧ v = storeNat .strainer
       x.desc.stateBase 4 ((n + 1) % 2 ^ 32) r) ∧
    (∃ (s r v : State) (c : Fin 128) (p : DecPic) (x : DecCtx) (e n : Nat) (au : AuInfo) (us : List (List
       Byte × List (Nat × Nat))) (a : Admit × DecCtx) (w : DecCtx), x = s.decCtx c.val ∧ x.pic = some p ∧
       p.cores ≠ [] ∧ p.admitted = false ∧ p.errs = [] ∧ readMem .strainer (x.desc.ringBase + 32 * x.pos)
       32 s = (.ok, leBytes 32 e, r) ∧ e < 2 ^ 256 ∧ entryBad x.desc e = false ∧ bitAt e 96 = false ∧
       n = peekNat s x.desc.stateBase 4 ∧ v = storeNat .strainer x.desc.stateBase 4 ((n + 1) % 2 ^ 32) r ∧
       readable v .strainer x.desc.stateBase 65536 = true ∧ us = x.units ++ [(peek v (fld e 47 0)
       (fld e 95 64), [])] ∧ au = Config.readUnit x.desc.codec us ∧ a = admitAu ((decCores s c.val).2 != 0)
       au { x with pos := if x.pos ≥ x.desc.ringLenM1 then 0 else x.pos + 1, units := us } ∧ w = afterAdmit
       a
       { p with picCount := n, pts := fld e 191 128, admitted := true, data := (fld e 47 0, fld e 95 64), eos := bitAt e 97, au := au, tookAt := s.up }) ∧
    (∃ (s r : State) (c : Fin 128) (p : DecPic) (x : DecCtx) (bs : List Byte), x = s.decCtx c.val ∧
       x.pic = some p ∧ p.admitted = true ∧ p.consumed = false ∧ p.buf.isSome = true ∧ s.badWords = [] ∧
       readMem (decSrc (p.cores.headD 0)) p.data.1 p.data.2 s = (.ok, bs, r)) ∧
    (∃ (s : State) (c : Fin 128) (p : DecPic) (x : DecCtx), x = s.decCtx c.val ∧ x.pic = some p ∧
       p.admitted = true ∧ p.consumed = false ∧ p.buf = none) := by
  refine ⟨?_, ?_, ?_, ?_, ?_, ?_⟩
  · refine ⟨decS { decX with pic := some decP } id, 127, decP, [0], ?_, ?_, ?_, ?_, ?_⟩ <;> decide +kernel
  · refine ⟨decS { decX with pic := some { decP with waited := true } } busyD, 127, { decP with waited := true }, ?_,
        ?_, ?_, ?_, ?_, ?_⟩ <;> decide +kernel
  · refine ⟨admS (entry16 + 2 ^ 48), _, _, 127, claimedP, _, entry16 + 2 ^ 48, 9, rfl, ?_, ?_, ?_, trip_pair
        (x := readMem _ _ _ _) (a := .ok) (b := _) ?_ ?_, ?_, ?_, ?_, ?_, rfl⟩ <;> decide +kernel
  · refine ⟨admS entry16, _, _, 127, claimedP, _, entry16, 9, _, _, _, _, rfl, ?_, ?_, ?_, ?_, trip_pair
        (x := readMem _ _ _ _) (a := .ok) (b := _) ?_ ?_, ?_, ?_, ?_, ?_, rfl, ?_, rfl, rfl, rfl, rfl⟩ <;> decide +kernel
  · refine ⟨decS (doneX { decPDone with consumed := false }) id, _, 127, { decPDone with consumed := false }, _, _,
        rfl, ?_, ?_, ?_, ?_, ?_, bs_pair ?_⟩ <;> decide +kernel
  · refine ⟨decS (doneX { decPDone with consumed := false, buf := none }) id, 127,
        { decPDone with consumed := false, buf := none }, _, rfl, ?_, ?_, ?_, ?_⟩ <;> decide +kernel

theorem witness_DecodePicturesEnd :
    (∃ (s : State) (c : Fin 128) (core : Fin 8) (k n : Nat) (p : DecPic) (q : SeqInfo) (b : Block)
       (pre suf : List Block), (s.decCtx c.val).pic = some p ∧ (s.decCtx c.val).seqInfo = some q ∧ workAt p
       core.val = some k ∧ coreBlocks p k = pre ++ b :: suf ∧ n = cdiv ((s.decCtx c.val).desc.binBudget *
       shareOf q p k) 8 ∧ (pre.map (·.bins)).sum < n ∧ n ≤ (pre.map (·.bins)).sum + b.bins ∧ (∀ d ∈ pre,
       blockAddr (posOf d) ≠ blockAddr (posOf b))) ∧
    (∃ (s : State) (c : Fin 128) (core : Fin 8) (k last : Nat) (p : DecPic) (b : Block)
       (pre suf : List Block), sized s = true ∧ (s.decCtx c.val).pic = some p ∧ workAt p core.val = some k
       ∧ coreBlocks p k = pre ++ b :: suf ∧ p.tookAt ≤ last ∧ last + (if
       (s.decCtx c.val).desc.wdogTicks = 0 then 1100000 else (s.decCtx c.val).desc.wdogTicks) = s.up ∧
       s.dec.kat.getD core.val none = none ∧ (∀ d ∈ pre, blockAddr (posOf d) ≠ blockAddr (posOf b))) ∧
    (∃ (s v u : State) (c : Fin 128) (p : DecPic) (b : Nat) (q : SeqInfo) (x : DecCtx) (d : DecEnd)
       (n : Nat), x = s.decCtx c.val ∧ x.pic = some p ∧ p.buf = some b ∧ x.seqInfo = some q ∧ decReady s x
       p = true ∧ p.code = 0 ∧ x.desc.reportAll = false ∧ x.wantDis = false ∧ x.wantDisc = false ∧
       x.heldStart = none ∧ x.tainted = false ∧ rbit s.hif.acctLo 0 = false ∧ x.dpbOut = [] ∧ x.outq.length
       ≤ x.desc.outqM1 ∧ n = x.units.length - 1 ∧ p.au.outs = [n] ∧ p.au.waits = [] ∧ d =
       { errs := [], copied := [], lost := [], predicted := [] } ∧ pictureEnd x q p s = (d, v) ∧ writeAll
       (decSrc (p.cores.headD 0)) (pictureRows (x.fbs.getD b {}) q.width q.height
       (picSample v x q p.au d 0) (fun k => picSample v x q p.au d (k + 1)) ++ [((x.fbs.getD b {}).mvBase,
       (picMotion x q (x.fbs.getD b {}) d).take ((x.fbs.getD b {}).mvLines * 64))]) v = (.ok, u)) ∧
    (∃ (s v u : State) (c : Fin 128) (p : DecPic) (b : Nat) (q : SeqInfo) (x : DecCtx) (d : DecEnd)
       (e : DecCut) (l : List DecCut), x = s.decCtx c.val ∧ x.pic = some p ∧ p.buf = some b ∧
       x.seqInfo = some q ∧ decReady s x p = true ∧ p.code = 0 ∧ rbit s.hif.acctLo 0 = false ∧
       x.wantDis = false ∧ x.wantDisc = false ∧ x.heldStart = none ∧ x.dpbOut = [] ∧ x.outq.length ≤
       x.desc.outqM1 ∧ p.au.outs = [x.units.length - 1] ∧ p.au.waits = [] ∧ rbit
       (s.sptRing x.desc.statusRing).cfg 31 = true ∧ p.startAt ≤ s.up ∧ s.up < p.startAt + 2 ^ 32 ∧
       p.picCount < 2 ^ 32 ∧ e.code ≤ 14 ∧ e.addr < 2 ^ 32 ∧ concealedOf q d < 2 ^ 32 ∧ pictureEnd x q p s
       = (d, v) ∧ d.errs = e :: l ∧ writeAll (decSrc (p.cores.headD 0)) (pictureRows (x.fbs.getD b {})
       q.width q.height (picSample v x q p.au d 0) (fun k => picSample v x q p.au d (k + 1)) ++
       [((x.fbs.getD b {}).mvBase, (picMotion x q (x.fbs.getD b {}) d).take ((x.fbs.getD b {}).mvLines *
       64))]) v = (.ok, u)) ∧
    (∃ (s : State) (c : Fin 128) (p : DecPic) (x : DecCtx), x = s.decCtx c.val ∧ x.pic = some p ∧
       p.admitted = true ∧ p.consumed = true ∧ p.buf = none ∧ p.code ≠ 0 ∧ p.code ≤ 14 ∧ p.eos = false ∧
       rbit s.hif.acctLo 0 = false ∧ x.wantDis = false ∧ x.wantDisc = false ∧ x.heldStart = none ∧ rbit
       (s.sptRing x.desc.statusRing).cfg 31 = true ∧ p.picCount < 2 ^ 32) := by
  refine ⟨?_, ?_, ?_, ?_, ?_⟩
  · refine ⟨doneS { decPDone with au := au16 }, 127, 0, 0, 256, { decPDone with au := au16 }, seq16, blk16, [], [],
        ?_, ?_, ?_, ?_, ?_, ?_, ?_, ?_⟩ <;> decide +kernel
  · refine ⟨doneS decPDone, 127, 0, 0, 900000, decPDone, { blk16 with bins := 7 }, [], [], ?_, ?_, ?_, ?_, ?_, ?_,
        ?_, ?_⟩ <;> decide +kernel
  · refine ⟨doneS decPDone, _, _, 127, decPDone, 0, seq16, _, cleanEnd, 0, rfl, ?_, ?_, ?_, ?_, ?_, ?_, ?_, ?_, ?_,
        ?_, ?_, ?_, ?_, ?_, ?_, ?_, ?_, fst_pair ?_, fst_pair ?_⟩ <;> decide +kernel
  · refine ⟨doneS errP, _, _, 127, errP, 0, seq16, _, errEnd, errEnd.errs.headD { code := 0, addr := 0 }, [], rfl,
        ?_, ?_, ?_, ?_, ?_, ?_, ?_, ?_, ?_, ?_, ?_, ?_, ?_, ?_, ?_, ?_, ?_, ?_, ?_, ?_, fst_pair ?_, ?_,
        fst_pair ?_⟩ <;> decide +kernel
  · refine ⟨doneS { decPDone with buf := none, code := 6 }, 127, { decPDone with buf := none, code := 6 }, _, rfl,
        ?_, ?_, ?_, ?_, ?_, ?_, ?_, ?_, ?_, ?_, ?_, ?_, ?_⟩ <;> decide +kernel

theorem witness_EncodeContexts :
    (∃ (s : State) (c : Fin 16) (d : Nat) (x : EncDesc) (raw : List Nat), barWr s = true ∧
       s.enc.cmd.done = true ∧ readable s (encSrc 0) (pairAddr s.enc.tableLo s.enc.tableHi 6 + 64 * c.val)
       64 = true ∧ d = peekNat s (pairAddr s.enc.tableLo s.enc.tableHi 6 + 64 * c.val) 64 ∧ x = parseEnc d
       ∧ readable s (encSrc 0) x.reconTable 128 = true ∧ raw = fbRaw s x.reconTable 2) ∧
    (∃ (s : State) (c : Fin 16), barWr s = true ∧ s.enc.cmd.done = true ∧ (s.encCtx c.val).enabled = true) ∧
    (∃ (s : State) (c : Fin 16), barWr s = true ∧ s.enc.cmd.done = true ∧ (s.encCtx c.val).enabled = true) ∧
    (∃ (s : State) (c : Fin 16) (i : Instr) (op : Nat), (i, op) ∈ [(Instr.encDisable c, 256),
       (.refreshNow c, 512)] ∧ barWr s = true ∧ s.enc.cmd.done = true ∧ (s.encCtx c.val).enabled = false) ∧
    (∃ (s : State) (c : Fin 16) (i : Instr), i ∈ [Instr.encEnable c, .encDisable c, .refreshNow c] ∧ sized
       s = true ∧ barWr s = true ∧ s.enc.cmd.done = false) := by
  refine ⟨?_, ?_, ?_, ?_, ?_⟩
  · refine ⟨encTabS (encNum 4096) 0 0 false, 15, _, _, _, ?_, ?_, ?_, rfl, rfl, ?_, rfl⟩ <;> decide +kernel
  · refine ⟨videoS capXF encX id, 15, ?_, ?_, ?_⟩ <;> decide +kernel
  · refine ⟨videoS capXF encX id, 15, ?_, ?_, ?_⟩ <;> decide +kernel
  · refine ⟨videoS capXF {} id, 15, .refreshNow 15, 512, ?_, ?_, ?_, ?_⟩ <;> decide +kernel
  · refine ⟨videoS capXF {} (fun s => { s with enc := { s.enc with cmd := { done := false } } }), 15, .encEnable 15,
        ?_, ?_, ?_, ?_⟩ <;> decide +kernel

theorem witness_Encoders :
    (∃ (s u r : State) (c : Fin 16) (a : Action) (x : EncCtx) (f : EncSource) (off : Nat) (bs : List Byte)
       (free cs : List Nat), takeAction s 8 3 (fun a => a.target == c.val) = some (a, u) ∧ x = s.encCtx
       c.val ∧ x.enabled = true ∧ x.desc.auto = false ∧ x.pic = none ∧ s.mgt.safe = false ∧
       s.mgt.quiesce = false ∧ encSource s x = some f ∧ (encCores s c.val).2 ≠ 0 ∧ (∀ k < 16, ∀ q ∈
       (s.encCtx k).pic, q.cores ≠ []) ∧ readMem (encSrc 0) x.desc.consAddr 8 u = (.ok, bs, r) ∧ encPlace x
       (leNat bs) = some off ∧ free = (encCores s c.val).1.filter (encFree s) ∧ cs = (if
       (encCores s c.val).2 ≤ free.length then free.take (encCores s c.val).2 else [])) ∧
    (∃ (s u r : State) (c : Fin 16) (a : Action) (x : EncCtx) (bs : List Byte) (code : Nat), takeAction s 8
       3 (fun a => a.target == c.val) = some (a, u) ∧ x = s.encCtx c.val ∧ x.enabled = true ∧
       x.desc.auto = false ∧ x.pic = none ∧ s.mgt.safe = false ∧ s.mgt.quiesce = false ∧ rbit s.hif.acctLo
       0 = false ∧ rbit (s.sptRing x.desc.statusRing).cfg 31 = true ∧ x.picCount < 2 ^ 32 ∧ readMem
       (encSrc 0) x.desc.consAddr 8 u = (.ok, bs, r) ∧ (encSource s x = none ∧ code = 3 ∨
       (encSource s x).isSome = true ∧ (encCores s c.val).2 ≠ 0 ∧ encPlace x (leNat bs) = none ∧ code = 2)) ∧
    (∃ (s u : State) (c : Fin 16) (a : Action), takeAction s 8 3 (fun a => a.target == c.val) = some (a, u)
       ∧ (s.encCtx c.val).enabled = true ∧ (s.encCtx c.val).desc.auto = false ∧
       (s.encCtx c.val).pic.isSome = true) ∧
    (∃ (s u : State) (c : Fin 16) (a : Action), takeAction s 8 3 (fun a => a.target == c.val) = some (a, u)
       ∧ ((s.encCtx c.val).enabled = false ∨ (s.encCtx c.val).desc.auto = true)) ∧
    (∃ (s v : State) (c : Fin 16) (x : EncCtx) (p : EncPic) (res : EncResult) (w : Resp × State), x =
       s.encCtx c.val ∧ x.pic = some p ∧ p.cores ≠ [] ∧ x.held = [] ∧ x.wantDis = false ∧ rbit s.hif.acctLo
       0 = false ∧ rbit (s.sptRing x.desc.statusRing).cfg 31 = true ∧ (∀ k < 16, k ≠ c.val → ∀ q ∈
       (s.encCtx k).pic, q.cores ≠ []) ∧ readsFail (encSrc (p.cores.headD 0)) (encReads x p) s = (false, v)
       ∧ res = encResult v x p ∧ w = writeAll (encSrc (p.cores.headD 0))
       ((x.desc.outBase + p.offset, res.au) :: res.rows) v) ∧
    (∃ (s : State) (k : Fin 4), sized s = true ∧ s.mgt.encMap.length = 4 ∧ encState s k.val = .ok ∧
       s.mgt.encSpares ≠ [] ∧ s.enc.busy.getD k.val none = none) ∧
    (∃ (s : State) (k : Fin 4) (c : Nat) (p : EncPic) (x : EncCtx), sized s = true ∧
       s.mgt.encMap.length = 4 ∧ encState s k.val = .ok ∧ s.enc.busy.getD k.val none = some c ∧ c < 16 ∧ x
       = s.encCtx c ∧ x.pic = some p ∧ x.held = [] ∧ x.wantDis = false ∧ rbit s.hif.acctLo 0 = false ∧ rbit
       (s.sptRing x.desc.statusRing).cfg 31 = true ∧ p.picNo < 2 ^ 32 ∧ p.srcBuf = none ∧ (∀ i < 16, i ≠ c
       → ∀ q ∈ (s.encCtx i).pic, q.cores ≠ [])) := by
  refine ⟨?_, ?_, ?_, ?_, ?_, ?_, ?_⟩
  · refine ⟨videoS capXF encX (netS encAct), videoS capXF encX netless, _, 15, encAct, encX,
        { seq := 4, pts := 100, fb := parseFb (fbNum 2), buf := some 2, bad := false }, 0, _, [0], [0], rfl,
        ?_, ?_, ?_, ?_, ?_, ?_, ?_, ?_, ?_, bs_pair ?_, ?_, ?_, ?_⟩ <;> decide +kernel
  · refine ⟨videoS {} encX (fun s => enc0 (netS encAct s)), videoS {} encX (fun s => enc0 (netless s)), _, 15,
        encAct, encX, _, 3, rfl, ?_, ?_, ?_, ?_, ?_, ?_, ?_, ?_, ?_, bs_pair ?_, ?_⟩ <;> decide +kernel
  · refine ⟨videoS {} { encX with pic := some encP } (netS encAct), videoS {} { encX with pic := some encP } netless,
        15, encAct, rfl, ?_, ?_, ?_⟩ <;> decide +kernel
  · refine ⟨videoS {} {} (netS encAct), videoS {} {} netless, 15, encAct, rfl, ?_⟩ <;> decide +kernel
  · refine ⟨videoS capXF { encX with pic := some encQ } enc0, _, 15, _, encQ, _, _, rfl, ?_, ?_, ?_, ?_, ?_, ?_, ?_,
        fst_pair ?_, rfl, rfl⟩ <;> decide +kernel
  · refine ⟨encSpareS, 0, ?_, ?_, ?_, ?_, ?_⟩ <;> decide +kernel
  · refine ⟨videoS {} { encX with pic := some encQ } (fun s => enc0 (encBusy 3 s)), 3, 15, encQ, _, ?_, ?_, ?_, ?_,
        ?_, rfl, ?_, ?_, ?_, ?_, ?_, ?_, ?_, ?_⟩ <;> decide +kernel

theorem witness_CameraCommands :
    (∃ (s : State) (c : Fin 16) (d : Nat) (x : CapDesc) (raw : List Nat), barWr s = true ∧
       s.csi.cmd.done = true ∧ readable s .csi (pairAddr s.csi.tableLo s.csi.tableHi 6 + 64 * c.val)
       64 = true ∧ d = peekNat s (pairAddr s.csi.tableLo s.csi.tableHi 6 + 64 * c.val) 64 ∧ x = parseCap d
       ∧ readable s .csi x.fbTable (64 * x.fbCount) = true ∧ raw = fbRaw s x.fbTable x.fbCount) ∧
    (∃ (s : State) (c : Fin 16), barWr s = true ∧ s.csi.cmd.done = true ∧ (s.cap c.val).enabled = true) ∧
    (∃ (s : State) (c : Fin 16), barWr s = true ∧ s.csi.cmd.done = true ∧ (s.cap c.val).enabled = false) ∧
    (∃ (s : State) (c : Fin 16) (i : Instr), i ∈ [Instr.csiEnable c, .csiDisable c] ∧ sized s = true ∧
       barWr s = true ∧ s.csi.cmd.done = false) := by
  refine ⟨?_, ?_, ?_, ?_⟩
  · refine ⟨capTabS capD 3 {} 1 false, 15, capD, _, _, ?_, ?_, ?_, ?_, rfl, ?_, rfl⟩ <;> decide +kernel
  · refine ⟨videoS capXF {} id, 3, ?_, ?_, ?_⟩ <;> decide +kernel
  · refine ⟨videoS capXF {} id, 4, ?_, ?_, ?_⟩ <;> decide +kernel
  · refine ⟨videoS capXF {} (fun s => { s with csi := { s.csi with cmd := { done := false } } }), 4, .csiEnable 4,
        ?_, ?_, ?_, ?_⟩ <;> decide +kernel

theorem witness_Cameras :
    (∃ (s m : State) (c vc : Fin 16) (h : CapCh) (b : Option Nat), h = s.cap c.val ∧ h.enabled = true ∧
       s.mgt.safe = false ∧ vc.val = h.desc.vc ∧ h.openF = none ∧ b = (List.range h.desc.fbCount).find?
       (fun b => !capUsed h b) ∧ m = bump32 .csi h.desc.stateBase
       { s with csi := { s.csi with chs := updAt s.csi.chs c.val fun h => { h with nextSeq := (h.nextSeq + 1) % 2 ^ 32, openF := some { seq := h.nextSeq, pts := s.now, from_ := s.up, buf := b } } } }) ∧
    (∃ (s : State) (c vc : Fin 16) (h : CapCh) (f : CapFrame), sized s = true ∧ h = s.cap c.val ∧
       h.enabled = true ∧ s.mgt.safe = false ∧ vc.val = h.desc.vc ∧ h.openF = some f ∧ f.buf.isSome = true) ∧
    (∃ (s : State) (c vc : Fin 16) (dt : Fin 64) (crcOk overflow : Bool) (pl : List Byte) (h : CapCh)
       (f : CapFrame) (b : Nat), h = s.cap c.val ∧ h.enabled = true ∧ s.mgt.safe = false ∧ vc.val =
       h.desc.vc ∧ dt.val = dataType h.desc.format ∧ h.openF = some f ∧ f.buf = some b ∧ f.lines <
       h.desc.height) ∧
    (∃ (s v : State) (c vc : Fin 16) (h : CapCh) (f : CapFrame) (bad : Bool), h = s.cap c.val ∧
       h.enabled = true ∧ s.mgt.safe = false ∧ vc.val = h.desc.vc ∧ h.openF = some f ∧ f.buf.isSome = true
       ∧ (h.desc.format = 0 → ∀ k < 16, (s.encCtx k).enabled = true → (s.encCtx k).desc.auto = true →
       (s.encCtx k).desc.srcStream ≠ c.val) ∧ bad = (f.rxErr || decide (f.lines ≠ h.desc.height)) ∧ v = (if
       bad then bump32 .csi (h.desc.stateBase + 4) s else s)) ∧
    (∃ (s : State) (c vc : Fin 16) (h : CapCh) (f : CapFrame) (k : Nat), sized s = true ∧ h = s.cap c.val ∧
       h.enabled = true ∧ s.mgt.safe = false ∧ s.mgt.quiesce = false ∧ vc.val = h.desc.vc ∧ h.openF = some
       f ∧ f.buf.isSome = true ∧ h.desc.format = 0 ∧ k < 16 ∧ (s.encCtx k).enabled = true ∧
       (s.encCtx k).desc.auto = true ∧ (s.encCtx k).desc.srcStream = c.val ∧ (s.encCtx k).pic.isSome = true
       ∧ (∀ q ∈ (s.encCtx k).pic, q.cores ≠ [])) ∧
    (∃ (s v : State) (c : Fin 16) (h : CapCh) (f : CapFrame), h = s.cap c.val ∧ h.openF = some f ∧
       f.buf.isSome = true ∧ f.from_ + h.desc.timeout ≤ s.up ∧ h.desc.format ≠ 0 ∧ v = bump32 .csi
       (h.desc.stateBase + 4) (bump32 .csi (h.desc.stateBase + 0xc) s)) ∧
    (∃ (s : State) (c vc : Fin 16) (dt : Fin 64) (crcOk overflow : Bool) (pl : List Byte) (i : Instr)
       (off : Nat), (s.cap c.val).enabled = true ∧ s.mgt.safe = false ∧ (i ∈ [Instr.csiFrameStart c vc
       .good, .csiLine c vc dt .good crcOk overflow pl, .csiFrameEnd c vc .good] ∧ vc.val ≠
       (s.cap c.val).desc.vc ∧ off = 0x14 ∨ i = .csiLine c vc dt .good crcOk overflow pl ∧ vc.val =
       (s.cap c.val).desc.vc ∧ dt.val ≠ dataType (s.cap c.val).desc.format ∧ off = 0x18)) ∧
    (∃ (s : State) (c vc : Fin 16) (dt : Fin 64) (crcOk overflow : Bool) (pl : List Byte) (i j : Instr),
       (s.cap c.val).enabled = true ∧ s.mgt.safe = false ∧ (i, j) ∈ [(Instr.csiFrameStart c vc .corrected,
       Instr.csiFrameStart c vc .good), (.csiLine c vc dt .corrected crcOk overflow pl, .csiLine c vc dt
       .good crcOk overflow pl), (.csiFrameEnd c vc .corrected, .csiFrameEnd c vc .good)]) ∧
    (∃ (s : State) (c vc : Fin 16) (dt : Fin 64) (crcOk overflow : Bool) (pl : List Byte) (i : Instr),
       (s.cap c.val).enabled = true ∧ s.mgt.safe = false ∧ i ∈ [Instr.csiFrameStart c vc .bad, .csiLine c
       vc dt .bad crcOk overflow pl, .csiFrameEnd c vc .bad]) := by
  refine ⟨?_, ?_, ?_, ?_, ?_, ?_, ?_, ?_, ?_⟩
  · refine ⟨videoS capXF encX id, _, 3, 5, capXF, _, ?_, ?_, ?_, ?_, ?_, rfl, rfl⟩ <;> decide +kernel
  · refine ⟨videoS openX encX id, 3, 5, openX, capF, ?_, ?_, ?_, ?_, ?_, ?_, ?_⟩ <;> decide +kernel
  · refine ⟨videoS openX encX id, 3, 5, 0x18, true, false, List.replicate 31 7, openX, capF, 2, ?_, ?_, ?_, ?_, ?_,
        ?_, ?_, ?_⟩ <;> decide +kernel
  · refine ⟨videoS openX encX id, _, 3, 5, openX, capF, true, ?_, ?_, ?_, ?_, ?_, ?_, ?_, ?_, rfl⟩ <;> decide +kernel
  · refine ⟨videoS openX autoE id, 3, 5, openX, capF, 15, ?_, ?_, ?_, ?_, ?_, ?_, ?_, ?_, ?_, ?_, ?_, ?_, ?_, ?_, ?_⟩ <;> decide +kernel
  · refine ⟨videoS rgbX encX id, _, 3, rgbX, capF, ?_, ?_, ?_, ?_, ?_, rfl⟩ <;> decide +kernel
  · refine ⟨videoS capX encX id, 3, 5, 0x19, true, false, [], .csiLine 3 5 0x19 .good true false [], 0x18, ?_, ?_,
        ?_⟩ <;> decide +kernel
  · refine ⟨videoS openX encX id, 3, 5, 0x18, true, false, [], .csiFrameEnd 3 5 .corrected, .csiFrameEnd 3 5 .good,
        ?_, ?_, ?_⟩ <;> decide +kernel
  · refine ⟨videoS openX encX id, 3, 5, 0x18, true, false, [], .csiFrameEnd 3 5 .bad, ?_, ?_, ?_⟩ <;> decide +kernel

theorem witness_ScalerStarts :
    (∃ (s u : State) (n : Fin 4) (a : Action) (w : Nat) (ws : List Nat) (x : Option SclSrc) (y : SclSrc),
       (s.sclUnit n.val).cmd = none ∧ takeAction s 8 4 (fun a => a.target == n.val) = some (a, u) ∧
       readable s (.scaler n) a.arg64 64 = true ∧ w = peekNat s a.arg64 64 ∧ readable s (.scaler n)
       (a.arg64 + 64) (64 * min 17 (hCount w)) = true ∧ ws = w :: (List.range (min 17 (hCount w))).map (fun
       i => peekNat s (a.arg64 + 64 * (i + 1)) 64) ∧ sclStopped s n.val = false ∧ sclCmdBad s ws = false ∧
       inHbmClu a.arg64 (64 * (hCount w + 1)) = true ∧ shapeBad s ws = false ∧ x = sclSource s w ∧ x.all
       (fun y => !sourceBad ws y) = true ∧ y = x.getD
       { fb := {}, bufNo := 0, seq := 0, pts := 0, crop := (0, 0, 0, 0), depth := 8, format := 8, con := false, cor := false, rx := false, stream := if hKind w = 0 then (s.decCtx (hSrc w)).desc.streamId else (s.cap (hSrc w)).desc.streamId }) ∧
    (∃ (s u : State) (n : Fin 4) (a : Action) (w st : Nat) (ws : List Nat), sized s = true ∧
       (s.sclUnit n.val).cmd = none ∧ takeAction s 8 4 (fun a => a.target == n.val) = some (a, u) ∧
       readable s (.scaler n) a.arg64 64 = true ∧ w = peekNat s a.arg64 64 ∧ readable s (.scaler n)
       (a.arg64 + 64) (64 * min 17 (hCount w)) = true ∧ ws = w :: (List.range (min 17 (hCount w))).map (fun
       i => peekNat s (a.arg64 + 64 * (i + 1)) 64) ∧ (sclStopped s n.val = true ∧ st = 5 ∨ sclStopped s
       n.val = false ∧ st = 1 ∧ (sclCmdBad s ws = true ∨ inHbmClu a.arg64 (64 * (hCount w + 1)) = false ∨
       shapeBad s ws = true ∨ (sclSource s w).any (fun y => sourceBad ws y) = true))) ∧
    (∃ (s : State) (n : Fin 4), (s.sclUnit n.val).cmd.isSome = true) := by
  refine ⟨?_, ?_, ?_⟩
  · refine ⟨sclS capXF, _, 2, sclAct, sclW, _, _, _, ?_, rfl, ?_, ?_, ?_, rfl, ?_, ?_, ?_, ?_, rfl, ?_, rfl⟩ <;> decide +kernel
  · refine ⟨onMgt0 (fun m => { m with quiesce := true }) (sclS capXF), _, 2, sclAct, sclW, 5, _, ?_, ?_, rfl, ?_, ?_,
        ?_, rfl, ?_⟩ <;> decide +kernel
  · refine ⟨sclRun sclC, 2, ?_⟩ <;> decide +kernel

theorem witness_ScalerCommands :
    (∃ (s u v : State) (n : Fin 4) (c : SclCmd) (e : Nat), (s.sclUnit n.val).cmd = some c ∧ c.status ≠ 1 ∧
       c.status < 4 ∧ c.next < hCount (sclHdr c) ∧ c.started + ticksTo s c c.next ≤ s.up ∧
       ((sauIndex c).any (· ≤ c.next) && streamWaits s (sclHdr c)) = false ∧ (hPriv (sclHdr c) = false ∨
       c.status = 0) ∧ e = sclEntry c c.next ∧ eKind e ≠ 2 ∧ s.badWords = [] ∧ entryRun n.val c e 8192 s =
       (.ok, u) ∧ (v = (if eBatch e = 0 ∨ hPriv (sclHdr c) = true then u else (modify64 (.scaler n)
       (eBatch e) false (if c.status = 0 ∧ (entryImage c e).isSome then set64 (2 ^ eSlot e) else clear64
       (2 ^ eSlot e)) (modify64 (.scaler n) (eBatch e + 8) false (set64 (2 ^ eSlot e)) (store (.scaler n)
       (eBatch e + 0x40 + 16 * eSlot e) (leBytes 8 c.pts ++ leBytes 4 c.seq ++ leBytes 2 c.stream ++
       leBytes 2 (b2n c.flagCon + 2 * b2n c.flagCor + 4 * b2n c.flagRx + 8 * b2n (c.status = 0 &&
       (entryImage c e).isNone) + 16 * b2n (c.status = 2))) u)).2).2))) ∧
    (∃ (s : State) (n : Fin 4) (c : SclCmd), (s.sclUnit n.val).cmd = some c ∧ (c.status = 2 ∨ c.status = 3)
       ∧ c.next < hCount (sclHdr c) ∧ c.started + ticksTo s c c.next ≤ s.up ∧ ((sauIndex c).any
       (· ≤ c.next) && streamWaits s (sclHdr c)) = false ∧ hPriv (sclHdr c) = true) ∧
    (∃ (s v : State) (n : Fin 4) (c : SclCmd), (s.sclUnit n.val).cmd = some c ∧ c.status = 0 ∧ hCount
       (sclHdr c) ≤ c.next ∧ hPriv (sclHdr c) = false ∧ c.words ≠ [] ∧ hSaucer (sclHdr c) = 0 ∧
       c.buf.isSome = true ∧ c.capSrc = true ∧ rbit s.hif.acctLo 0 = false ∧ v = store (.scaler n) (hDone
       (sclHdr c)) (leBytes 8 (fld (sclHdr c) 255 192) ++ leBytes 8 (c.doneMsk * 65536))
       { s with csi := { s.csi with chs := updAt s.csi.chs c.src fun h => { h with readers := h.readers.erase c.bufNo } } }) ∧
    (∃ (s v : State) (n : Fin 4) (c : SclCmd) (r : List Rec), (s.sclUnit n.val).cmd = some c ∧
       (c.status = 2 ∨ c.status = 3) ∧ hCount (sclHdr c) ≤ c.next ∧ hPriv (sclHdr c) = false ∧ c.words ≠ []
       ∧ hSaucer (sclHdr c) = 0 ∧ c.buf = none ∧ rbit s.hif.acctLo 0 = false ∧ s.spt.arriving = [] ∧ rbit
       (s.sptRing (hRing (sclHdr c))).cfg 31 = true ∧ r =
       [{ who := 34 + n.val, ring := hRing (sclHdr c), cpl := false, tick := s.now, bytes := recHead c.seq 7 0 c.stream 0 c.flagCon false false s.now ++ leBytes 8 c.pts ++ leBytes 4 (c.status + n.val * 256 + b2n c.capSrc * 65536 + c.src * 2 ^ 24) ++ leBytes 4 0 ++ leBytes 8 (eBatch ((c.words.tail.find? fun e => eBatch e != 0).getD (sclEntry c 0))) ++ leBytes 8 (eSlot ((c.words.tail.find? fun e => eBatch e != 0).getD (sclEntry c 0))) ++ List.replicate 16 0 }]
       ∧ v = store (.scaler n) (hDone (sclHdr c)) (leBytes 8 (fld (sclHdr c) 255 192) ++ leBytes 8
       (c.status + c.doneMsk * 65536)) { s with spt := { s.spt with arriving := r } }) ∧
    (∃ (s p v : State) (n : Fin 4) (c : SclCmd) (b : W32), (s.sclUnit n.val).cmd = some c ∧ c.status = 0 ∧
       hCount (sclHdr c) ≤ c.next ∧ hPriv (sclHdr c) = true ∧ c.words ≠ [] ∧ hSaucer (sclHdr c) = 0 ∧
       c.buf = none ∧ rbit s.hif.acctLo 0 = false ∧ b = s.scl.priv.getD (hPrivIdx (sclHdr c)) 0 ∧ rbit b
       31 = true ∧ privFinish n.val c s = (.ok, p) ∧ v = store (.scaler n) (hDone (sclHdr c)) (leBytes 8
       (fld (sclHdr c) 255 192) ++ leBytes 8 (256 + c.doneMsk * 65536)) (validateMask (rfld b 7 0)
       (2 ^ rfld b 13 8) p)) ∧
    (∃ (s v : State) (n : Fin 4) (c : SclCmd), (s.sclUnit n.val).cmd = some c ∧ c.status < 4 ∧ c.status ≠ 1
       ∧ hCount (sclHdr c) ≤ c.next ∧ hPriv (sclHdr c) = true ∧ c.words ≠ [] ∧ hSaucer (sclHdr c) = 0 ∧
       c.buf = none ∧ rbit s.hif.acctLo 0 = false ∧ rbit (s.scl.priv.getD (hPrivIdx (sclHdr c)) 0)
       31 = false ∧ v = store (.scaler n) (hDone (sclHdr c)) (leBytes 8 (fld (sclHdr c) 255 192) ++ leBytes
       8 (1 + c.doneMsk * 65536)) s) ∧
    (∃ (s : State) (n : Fin 4) (c : SclCmd), sized s = true ∧ (s.sclUnit n.val).cmd = some c ∧ c.words ≠ []) ∧
    (∃ (s r v : State) (n : Fin 4) (c : SclCmd), sized s = true ∧ (s.sclUnit n.val).cmd = some c ∧
       c.status = 0 ∧ hCount (sclHdr c) ≤ c.next ∧ hPriv (sclHdr c) = true ∧ c.words ≠ [] ∧ hSaucer
       (sclHdr c) = 0 ∧ c.buf = none ∧ rbit s.hif.acctLo 0 = false ∧ r = raise (.scl n) 3 none n.val s ∧
       v = store (.scaler n) (hDone (sclHdr c)) (leBytes 8 (fld (sclHdr c) 255 192) ++ leBytes 8
       (4 + c.doneMsk * 65536)) { r with free := r.free + 1 }) := by
  refine ⟨?_, ?_, ?_, ?_, ?_, ?_, ?_, ?_⟩
  · refine ⟨sclRun sclB, _, _, 2, sclB, _, ?_, ?_, ?_, ?_, ?_, ?_, ?_, rfl, ?_, ?_, fst_pair ?_, rfl⟩ <;> decide +kernel
  · refine ⟨sclRun { sclPriv with next := 0, status := 2 }, 2, { sclPriv with next := 0, status := 2 }, ?_, ?_, ?_,
        ?_, ?_, ?_⟩ <;> decide +kernel
  · refine ⟨sclRun sclDone, _, 2, sclDone, ?_, ?_, ?_, ?_, ?_, ?_, ?_, ?_, ?_, rfl⟩ <;> decide +kernel
  · refine ⟨ring0 (sclRun { sclDone with status := 2, buf := none }), _, 2,
        { sclDone with status := 2, buf := none }, _, ?_, ?_, ?_, ?_, ?_, ?_, ?_, ?_, ?_, ?_, rfl, rfl⟩ <;> decide +kernel
  · refine ⟨privOn 0x80000000 (sclRun sclPriv), _, _, 2, sclPriv, 0x80000000, ?_, ?_, ?_, ?_, ?_, ?_, ?_, ?_, ?_, ?_,
        fst_pair ?_, rfl⟩ <;> decide +kernel
  · refine ⟨sclRun sclPriv, _, 2, sclPriv, ?_, ?_, ?_, ?_, ?_, ?_, ?_, ?_, ?_, ?_, rfl⟩ <;> decide +kernel
  · refine ⟨sclRun sclC, 2, sclC, ?_, ?_, ?_⟩ <;> decide +kernel
  · refine ⟨sclRun sclPriv, _, _, 2, sclPriv, ?_, ?_, ?_, ?_, ?_, ?_, ?_, ?_, ?_, rfl, rfl⟩ <;> decide +kernel

theorem witness_CaddyPartitions :
    (∃ (s r v : State) (p : Fin 256) (d code : Nat) (x : PartDesc), barWr s = true ∧ s.cdy.now = none ∧
       s.cdy.cmd.done = true ∧ readMem .caddy (pairAddr s.cdy.tableLo s.cdy.tableHi 6 + 64 * p.val) 64 s =
       (.ok, leBytes 64 d, r) ∧ d < 2 ^ 512 ∧ x = parsePart d ∧ (code = (if partBad d then 1 else if meets
       (mirrors x) ∨ (∃ q : Fin 256, q ≠ p ∧ (s.cdyPart q.val).enabled = true ∧ (overlaps x.base x.count
       (s.cdyPart q.val).desc.base (s.cdyPart q.val).desc.count = true ∨ areasMeet (mirrors x) (mirrors
       (s.cdyPart q.val).desc) = true)) then 3 else if (s.cdyPart p.val).enabled then 4 else 0)) ∧ v = (if
       code = 0 then (writeMirrors x
       { r with cdy := { s.cdy with cmd := { s.cdy.cmd with cmd := BitVec.ofNat 32 p.val }, parts := updAt s.cdy.parts p.val fun y => { enabled := true, known := true, desc := x, nextId := y.nextId } } }).2
       else r)) ∧
    (∃ (s : State) (p : Fin 256), barWr s = true ∧ s.cdy.now = none ∧ s.cdy.cmd.done = true ∧
       (s.cdyPart p.val).enabled = true) ∧
    (∃ (s v : State) (p : Fin 256) (y : CdyPart), barWr s = true ∧ s.cdy.now = none ∧ s.cdy.cmd.done = true
       ∧ y = s.cdyPart p.val ∧ y.known = true ∧ v = (writeMirrors y.desc
       { poke (entryAddr y.desc 0) (List.replicate (128 * y.desc.count) 0) s with cdy := { s.cdy with cmd := { s.cdy.cmd with cmd := BitVec.ofNat 32 (512 + p.val) }, parts := updAt s.cdy.parts p.val fun z => { z with nextId := some z.desc.firstId } } }).2) ∧
    (∃ (s : State) (p : Fin 256) (i : Instr) (op : Nat), (i, op) ∈ [(Instr.cdyPartDisable p, 256),
       (.clear p, 512)] ∧ barWr s = true ∧ s.cdy.now = none ∧ s.cdy.cmd.done = true ∧
       (s.cdyPart p.val).enabled = false ∧ (s.cdyPart p.val).known = false) ∧
    (∃ (s : State) (p : Fin 256) (i : Instr) (op : Nat), (i, op) ∈ [(Instr.cdyPartEnable p, 0),
       (.cdyPartDisable p, 1), (.clear p, 2)] ∧ barWr s = true ∧ s.cdy.now.isSome = true ∧
       s.cdy.cmd.done = true) ∧
    (∃ (s : State) (p : Fin 256) (i : Instr), i ∈ [Instr.cdyPartEnable p, .cdyPartDisable p, .clear p] ∧
       sized s = true ∧ barWr s = true ∧ s.cdy.cmd.done = false) := by
  refine ⟨?_, ?_, ?_, ?_, ?_, ?_⟩
  · refine ⟨partTabS (partD 1 1 0x200000) {} false, _, _, 255, partD 1 1 0x200000, 0, _, ?_, ?_, ?_, trip_pair
        (x := readMem _ _ _ _) (a := .ok) (b := _) ?_ ?_, ?_, rfl, ?_, rfl⟩ <;> decide +kernel
  · refine ⟨cdyNowS (fun d => { d with parts := updAt d.parts 3 fun _ => partX }), 3, ?_, ?_, ?_, ?_⟩ <;> decide +kernel
  · refine ⟨cdyNowS (fun d => { d with parts := updAt d.parts 3 fun _ => partX }), _, 3, partX, ?_, ?_, ?_, ?_, ?_,
        rfl⟩ <;> decide +kernel
  · refine ⟨openS, 255, .clear 255, 512, ?_, ?_, ?_, ?_, ?_, ?_⟩ <;> decide +kernel
  · refine ⟨cdyBusy, 255, .clear 255, 2, ?_, ?_, ?_, ?_⟩ <;> decide +kernel
  · refine ⟨cdyNowS fun d => { d with cmd := { done := false } }, 255, .clear 255, ?_, ?_, ?_, ?_⟩ <;> decide +kernel

theorem witness_CaddyStarts :
    (∃ (s : State) (n : Fin 8) (v : W32), barWr s = true ∧ rbit (s.cdyRing n.val).cfg 31 = false ∧ rbit v
       31 = true) ∧
    (∃ (s : State) (n : Fin 8) (v : W32), barWr s = true ∧ (rbit v 31 = false ∨ rbit (s.cdyRing n.val).cfg
       31 = true) ∧ (rbit (s.cdyRing n.val).cfg 31 = false ∨ rfld (s.cdyRing n.val).cfg 7 0 = rfld v 7 0)) ∧
    (∃ (s : State) (n : Fin 8) (v : W32), sized s = true ∧ barWr s = true ∧ rbit (s.cdyRing n.val).cfg
       31 = true ∧ rfld (s.cdyRing n.val).cfg 7 0 ≠ rfld v 7 0) ∧
    (∃ (s : State) (n : Fin 8) (v k : Nat) (fb : Bool) (q : List (Nat × Bool)), (s.cdyRing n.val).dbPend =
       (v, fb) :: q ∧ rbit (s.cdyRing n.val).cfg 31 = true ∧ k = (v + 65536 - (s.cdyRing n.val).cons) %
       65536 ∧ k ≤ rfld (s.cdyRing n.val).cfg 7 0 + 1) ∧
    (∃ (s : State) (n : Fin 8) (v : Nat) (fb : Bool) (q : List (Nat × Bool)), sized s = true ∧
       (s.cdyRing n.val).dbPend = (v, fb) :: q ∧ rbit (s.cdyRing n.val).cfg 31 = true ∧ rfld
       (s.cdyRing n.val).cfg 7 0 + 1 < (v + 65536 - (s.cdyRing n.val).cons) % 65536) ∧
    (∃ (s : State) (n : Fin 8) (v : Nat) (fb : Bool) (q : List (Nat × Bool)), (s.cdyRing n.val).dbPend =
       (v, fb) :: q ∧ rbit (s.cdyRing n.val).cfg 31 = false) ∧
    (∃ (s : State) (n w id : Nat) (x : PartDesc) (q : Sample) (dets es fin : List Nat) (a : Assoc),
       nextRing s = some n ∧ cdyIdle s = true ∧ s.badWords = [] ∧ readable s .caddy (ringCmdAddr s n)
       64 = true ∧ w = peekNat s (ringCmdAddr s n) 64 ∧ cOp w = 1 ∧ cdyWordBad w = false ∧ readable s
       .caddy (cBatch w) 64 = true ∧ cdyBatchBad s w = false ∧ (s.cdyPart (cPart w)).enabled = true ∧ x =
       (s.cdyPart (cPart w)).desc ∧ readable s .caddy (cBatch w + 0x40 + 16 * cSlot w) 16 = true ∧
       q = sampleOf s w ∧ (∀ r ∈ cdyInputs x w q.valid, readable s .caddy r.1 r.2 = true) ∧ es =
       (List.range x.count).map (fun i => peekNat s (entryAddr x i) 128) ∧ id = (s.cdyPart
       (cPart w)).nextId.getD x.firstId ∧ dets = (if q.valid then detections s w else []) ∧ a = (if q.valid
       then associate s x w q.seq q.stream id dets es else { es := es, nextId := id }) ∧ fin = a.es.map
       (fun e => if isLive e then predictEntry x q.valid e else e)) ∧
    (∃ (s : State) (n w : Nat) (q : Sample), nextRing s = some n ∧ cdyIdle s = true ∧ readable s .caddy
       (ringCmdAddr s n) 64 = true ∧ w = peekNat s (ringCmdAddr s n) 64 ∧ cOp w = 2 ∧ cdyWordBad w = false
       ∧ readable s .caddy (cBatch w) 64 = true ∧ cdyBatchBad s w = false ∧ readable s .caddy
       (cBatch w + 0x40 + 16 * cSlot w) 16 = true ∧ q = sampleOf s w ∧ (∀ r ∈ cdyInputs {} w true, readable
       s .caddy r.1 r.2 = true)) ∧
    (∃ (s : State) (n w : Nat) (i : Instr), nextRing s = some n ∧ cdyIdle s = true ∧ readable s .caddy
       (ringCmdAddr s n) 64 = true ∧ w = peekNat s (ringCmdAddr s n) 64 ∧ cDone w % 16 = 0 ∧ inHbmClu
       (cDone w) 16 = true ∧ (i = .update ∧ cOp w ≠ 2 ∨ i = .emit ∧ cOp w = 2) ∧ cdyWordBad w = true) ∧
    (∃ (s : State) (n w : Nat), nextRing s = some n ∧ cdyIdle s = true ∧ readable s .caddy
       (ringCmdAddr s n) 64 = true ∧ w = peekNat s (ringCmdAddr s n) 64 ∧ cOp w = 1 ∧ cdyWordBad w = false
       ∧ readable s .caddy (cBatch w) 64 = true ∧ cdyBatchBad s w = false ∧ (s.cdyPart
       (cPart w)).enabled = false) ∧
    (∃ (s : State) (i : Instr), i ∈ [Instr.update, .emit] ∧ (nextRing s = none ∨ cdyIdle s = false)) := by
  refine ⟨?_, ?_, ?_, ?_, ?_, ?_, ?_, ?_, ?_, ?_, ?_⟩
  · refine ⟨cringS 7 { cfg := 3, cons := 5, prod := 6, pos := 2, fallb := [true] }, 7, 0x80000007, ?_, ?_, ?_⟩ <;> decide +kernel
  · refine ⟨cringS 7 { cfg := 0x80000003#32 }, 7, 3, ?_, ?_, ?_⟩ <;> decide +kernel
  · refine ⟨cringS 7 { cfg := 0x80000003#32 }, 7, 0x80000004, ?_, ?_, ?_, ?_⟩ <;> decide +kernel
  · refine ⟨cringS 7 { cfg := 0x80000003#32, cons := 65534, prod := 65534, dbPend := [(2, true)] }, 7, 2, 4, true,
        [], ?_, ?_, ?_, ?_⟩ <;> decide +kernel
  · refine ⟨cringS 7 { cfg := 0x80000003#32, cons := 65534, prod := 65534, dbPend := [(3, true)] }, 7, 3, true, [],
        ?_, ?_, ?_, ?_⟩ <;> decide +kernel
  · refine ⟨cringS 7 { cfg := 3, dbPend := [(3, true)] }, 7, 3, true, [], ?_, ?_⟩ <;> decide +kernel
  · refine ⟨cdyUpd true, 1, updW, 7, partX.desc, _, _, _, _, _, ?_, ?_, ?_, ?_, ?_, ?_, ?_, ?_, ?_, ?_, ?_, ?_, rfl,
        ?_, rfl, ?_, rfl, rfl, rfl⟩ <;> decide +kernel
  · refine ⟨cdyCmdS emitW true, 1, emitW, _, ?_, ?_, ?_, ?_, ?_, ?_, ?_, ?_, ?_, rfl, ?_⟩ <;> decide +kernel
  · refine ⟨cdyCmdS (updW + 2 ^ 30) true, 1, _, .update, ?_, ?_, ?_, rfl, ?_, ?_, ?_, ?_⟩ <;> decide +kernel
  · refine ⟨cdyCmdS (updW + 2 ^ 8) true, 1, _, ?_, ?_, ?_, rfl, ?_, ?_, ?_, ?_, ?_⟩ <;> decide +kernel
  · refine ⟨openS, .emit, ?_, ?_⟩ <;> decide +kernel

theorem witness_CaddyEnds :
    (∃ (s p v : State) (x : CdyNow) (a : Nat) (r : Resp), s.cdy.now = some x ∧ s.up = x.due ∧ x.done = some
       a ∧ s.cdy.waitCmd = none ∧ runPlan x.plan s = (r, p) ∧ v = store .caddy a (leBytes 8 x.value ++
       leBytes 8 ((if r = .ok then x.status else 3) + min 65535 x.created * 2 ^ 16 + min 65535 x.deleted *
       2 ^ 32 + min 65535 x.notCr * 2 ^ 48)) p) ∧
    (∃ (s : State) (x : CdyNow), s.cdy.now = some x ∧ s.up ≠ x.due) ∧
    (∃ (s : State) (x : CdyNow) (p : Fin 256), s.cdy.now = some x ∧ s.up = x.due ∧ x.done = none ∧ x.plan =
       {} ∧ s.cdy.waitCmd = some (cmdWord 1 p.val) ∧ (s.cdyPart p.val).enabled = true ∧ haltOn s
       .cdy = false ∧ s.mgt.safe = false) ∧
    (∃ (s : State) (x : CdyNow) (k : Nat) (y : PartDesc) (set : SteerSet), sized s = true ∧
       s.cdy.now = some x ∧ s.up = x.due ∧ s.cdy.waitCmd = none ∧ x.plan.part = some k ∧ k < 256 ∧ y =
       (s.cdyPart k).desc ∧ x.plan.entries.length = y.count ∧ y.base + y.count ≤ 131072 ∧
       x.plan.steer = some set ∧ y.steerSlot < s.scl.steer.length ∧ ((mirrors y).all fun r => inHbmClu r.1
       r.2) = true ∧ (x.done.all fun a => inHbmClu a 16) = true) ∧
    (∃ (s : State) (n : Nat) (a : BitVec 48), sized s = true ∧ nextRing s = some n ∧ cdyIdle s = true ∧
       s.badWords = [] ∧ respRange s .caddy (ringCmdAddr s n) 64 = .ok ∧ ringCmdAddr s n % 64 = 0 ∧
       ringCmdAddr s n ≤ a.toNat ∧ a.toNat < ringCmdAddr s n + 64 ∧ cOp (peekNat s (ringCmdAddr s n)
       64) ≠ 2) ∧
    (∃ (s : State) (n w i : Nat) (x : PartDesc) (a : BitVec 48), sized s = true ∧ nextRing s = some n ∧
       cdyIdle s = true ∧ s.badWords = [] ∧ readable s .caddy (ringCmdAddr s n) 64 = true ∧ w = peekNat s
       (ringCmdAddr s n) 64 ∧ cOp w = 1 ∧ cdyWordBad w = false ∧ readable s .caddy (cBatch w) 64 = true ∧
       cdyBatchBad s w = false ∧ (s.cdyPart (cPart w)).enabled = true ∧ x = (s.cdyPart (cPart w)).desc ∧
       readable s .caddy (cBatch w + 0x40 + 16 * cSlot w) 16 = true ∧ ((cdyInputs x w
       (sampleOf s w).valid).all fun r => readable s .caddy r.1 r.2) = true ∧ x.base + x.count ≤ 131072 ∧ i
       < x.count ∧ entryAddr x i ≤ a.toNat ∧ a.toNat < entryAddr x i + 128) ∧
    (∃ (s : State) (a : BitVec 48), (nextRing s = none ∨ cdyIdle s = false)) := by
  refine ⟨?_, ?_, ?_, ?_, ?_, ?_, ?_⟩
  · refine ⟨endNow { cdyRun with plan := endPlan } none, _, _, { cdyRun with plan := endPlan }, 0x50000, .ok, ?_, ?_,
        ?_, ?_, fst_pair ?_, rfl⟩ <;> decide +kernel
  · refine ⟨endNow { cdyRun with due := 5001 } none, { cdyRun with due := 5001 }, ?_, ?_⟩ <;> decide +kernel
  · refine ⟨endNow { cdyRun with done := none } (some (cmdWord 1 3)), { cdyRun with done := none }, 3, ?_, ?_, ?_,
        ?_, ?_, ?_, ?_, ?_⟩ <;> decide +kernel
  · refine ⟨endNow { cdyRun with plan := endPlan } none, { cdyRun with plan := endPlan }, 3, partX.desc,
        { gen := 4 }, ?_, ?_, ?_, ?_, ?_, ?_, ?_, ?_, ?_, ?_, ?_, ?_, ?_⟩ <;> decide +kernel
  · refine ⟨cdyUpd true, 1, 0x2003f, ?_, ?_, ?_, ?_, ?_, ?_, ?_, ?_, ?_⟩ <;> decide +kernel
  · refine ⟨cdyUpd true, 1, updW, 1, partX.desc, BitVec.ofNat 48 (entryAddr partX.desc 1 + 127), ?_, ?_, ?_, ?_, ?_,
        ?_, ?_, ?_, ?_, ?_, ?_, ?_, ?_, ?_, ?_, ?_, ?_, ?_⟩ <;> decide +kernel
  · refine ⟨openS, 0x2003f, ?_⟩ <;> decide +kernel

theorem witness_SpoutRecords :
    (∃ (s : State) (q : Rec) (l : List Rec), s.spt.arriving = q :: l ∧ q.tick ≠ s.now ∧ ringOn
       (s.sptRing q.ring) = true ∧ (if q.cpl then cplLines s < 256 else storeLines s + ringLines q ≤ 3840 ∧
       (heldLines s q.ring [q] ≤ ringHold (s.sptRing q.ring) ∨ heldLines s q.ring [q] ≤ heldLines s q.ring
       []))) ∧
    (∃ (s : State) (q : Rec) (l : List Rec), sized s = true ∧ s.spt.arriving = q :: l ∧ q.tick ≠ s.now ∧
       q.ring < 64 ∧ (ringOn (s.sptRing q.ring) = false ∨ q.cpl = false ∧ (3840 < storeLines s + ringLines
       q ∨ ringHold (s.sptRing q.ring) < heldLines s q.ring [q] ∧ heldLines s q.ring [] < heldLines s
       q.ring [q]))) ∧
    (∃ (s : State) (q : Rec) (l : List Rec), s.spt.arriving = q :: l ∧ (q.tick = s.now ∨ ringOn
       (s.sptRing q.ring) = true ∧ q.cpl = true ∧ 256 ≤ cplLines s)) ∧
    (∃ (s : State) (q : Rec) (r : SptRing), busOpen s = true ∧ s.spt.part = 0 ∧ s.spt.waitCpl = [] ∧
       (s.spt.lastIssue.all fun t => t + 16 ≤ s.up) = true ∧ nextRec s [] s.spt.store = some q ∧ r =
       s.sptRing q.ring ∧ ringLines q = 1 ∧ q.ring < 64) ∧
    (∃ (s : State) (q : Rec) (l : List Rec) (r : SptRing), busOpen s = true ∧ s.spt.part = 0 ∧
       (s.spt.lastIssue.all fun t => t + 16 ≤ s.up) = true ∧ s.spt.store = q :: l ∧ nextRec s []
       s.spt.store = some q ∧ r = s.sptRing q.ring ∧ 1 < ringLines q) ∧
    (∃ (s : State) (q : Rec) (l : List Rec) (r : SptRing) (k : Nat), busOpen s = true ∧ s.spt.waitCpl = []
       ∧ (s.spt.lastIssue.all fun t => t + 16 ≤ s.up) = true ∧ s.spt.store = q :: l ∧ s.spt.part = k ∧
       k ≠ 0 ∧ r = s.sptRing q.ring ∧ ringLines q ≤ ringSize r - r.prod % ringSize r ∧ k + 1 = ringLines q) ∧
    (∃ s : State, (busOpen s = false ∨ ∃ t ∈ s.spt.lastIssue, s.up < t + 16)) := by
  refine ⟨?_, ?_, ?_, ?_, ?_, ?_, ?_⟩
  · refine ⟨sptS 63 { ringR with cfg := 0xc0022a06#32, prod := 64, cons := 0 } [recN 2 63 false, recN 1 0 false]
        [recN 1 0 false], recN 2 63 false, [recN 1 0 false], ?_, ?_, ?_, ?_⟩ <;> decide +kernel
  · refine ⟨sptS 63 { ringR with cfg := 0xc0022a06#32, prod := 64, cons := 0 } [recN 2 63 false] [recN 1 63 false],
        recN 2 63 false, [], ?_, ?_, ?_, ?_, ?_⟩ <;> decide +kernel
  · refine ⟨sptS 63 ringR [{ recN 2 63 false with tick := 5000 }] [], { recN 2 63 false with tick := 5000 }, [], ?_,
        ?_⟩ <;> decide +kernel
  · refine ⟨sptS 63 ringR [] [recN 1 63 false, recN 2 63 false], recN 1 63 false, ringR, ?_, ?_, ?_, ?_, ?_, ?_, ?_,
        ?_⟩ <;> decide +kernel
  · refine ⟨sptS 63 ringR [] [recN 2 63 false], recN 2 63 false, [], ringR, ?_, ?_, ?_, ?_, ?_, ?_, ?_⟩ <;> decide +kernel
  · refine ⟨partS 1 (sptS 63 { ringR with prod := 64, cons := 64 } [] [recN 2 63 false]), recN 2 63 false, [], _, 1,
        ?_, ?_, ?_, ?_, ?_, ?_, rfl, ?_, ?_⟩ <;> decide +kernel
  · refine ⟨noBme (sptS 63 ringR [] []), ?_⟩ <;> decide +kernel

theorem witness_SpoutSignals :
    (∃ (s : State) (n : Fin 64) (r : SptRing), r = s.sptRing n.val ∧ ringOn r = true ∧ r.wbAt.isSome = true
       ∧ busOpen s = true ∧ (ringInt r = false ∨ r.unsig < rfld r.coal 15 0 ∧ r.flush = false)) ∧
    (∃ (s : State) (n : Fin 64) (r : SptRing), r = s.sptRing n.val ∧ ringOn r = true ∧ r.wbAt.isSome = true
       ∧ busOpen s = true ∧ ringInt r = true ∧ rfld r.coal 15 0 ≤ r.unsig ∧ s.spt.part = 0 ∧
       s.spt.partAt = none ∧ vecOpen s (rfld r.cfg 15 8) = true) ∧
    (∃ (s : State) (n : Fin 64) (r : SptRing) (a : Nat), r = s.sptRing n.val ∧ ringOn r = true ∧ ringInt
       r = true ∧ rfld r.coal 31 16 ≠ 0 ∧ busOpen s = true ∧ r.unsigAt = some a ∧ r.unsig ≠ 0 ∧ a + rfld
       r.coal 31 16 * 1100 ≤ s.up ∧ s.spt.partAt = none ∧ vecOpen s (rfld r.cfg 15 8) = true) ∧
    (∃ (s u : State) (f : Fin 256) (a : Action) (r : SptRing), f.val < 64 ∧ takeAction s 8 6
       (fun a => a.target == f.val) = some (a, u) ∧ r = s.sptRing f.val ∧ ringOn r = true ∧ busOpen
       s = true ∧ ringInt r = true ∧ r.unsig ≠ 0 ∧ s.spt.partAt = none ∧ vecOpen s (rfld r.cfg 15 8) = true) ∧
    (∃ (s u : State) (a : Action), sized s = true ∧ takeAction s 8 6 (fun a => a.target == 255) = some
       (a, u) ∧ busOpen s = true ∧ (∀ n < 64, ringInt (s.sptRing n) = false ∨ (s.sptRing n).unsig = 0)) ∧
    (∃ (s u : State) (f : Fin 256) (a : Action) (r : SptRing), f.val < 64 ∧ takeAction s 8 6
       (fun a => a.target == f.val) = some (a, u) ∧ r = s.sptRing f.val ∧ ringOn r = true ∧ busOpen
       s = false ∧ ringInt r = true ∧ r.unsig ≠ 0) ∧
    (∃ (s : State) (n : Fin 64) (v : W32) (r : SptRing), barWr s = true ∧ r = s.sptRing n.val) ∧
    (∃ (s : State) (n : Fin 64) (v : W32) (r : SptRing), barWr s = true ∧ r = s.sptRing n.val ∧ ringOn
       r = false ∧ rbit v 31 = true ∧ 6 ≤ rfld v 4 0 ∧ rfld v 4 0 ≤ 16 ∧ rfld v 28 16 ≤ 4096 ∧ busOpen
       s = true) ∧
    (∃ (s : State) (n : Fin 64) (v : W32), sized s = true ∧ barWr s = true ∧ ringOn
       (s.sptRing n.val) = true ∧ rfld (s.sptRing n.val).cfg 4 0 ≠ rfld v 4 0) ∧
    (∃ (s : State) (n : Fin 64) (v : W32), sized s = true ∧ barWr s = true ∧ ringOn
       (s.sptRing n.val) = false ∧ rbit v 31 = false ∧ (rfld v 4 0 < 6 ∨ 16 < rfld v 4 0) ∧ rfld v 28
       16 ≤ 4096) ∧
    (∃ (s : State) (n : Fin 64) (v : W32) (r : SptRing), sized s = true ∧ barWr s = true ∧ r = s.sptRing
       n.val ∧ ringOn r = true ∧ rbit v 31 = false ∧ rfld v 4 0 = rfld r.cfg 4 0 ∧ 6 ≤ rfld v 4 0 ∧ rfld v
       4 0 ≤ 16 ∧ rfld v 28 16 ≤ 4096 ∧ s.spt.waitCpl = [] ∧ r.dropped ≤ 65535) ∧
    (∃ (s : State) (n : Fin 64) (v : W32) (r : SptRing), barWr s = true ∧ r = s.sptRing n.val ∧ ringOn
       r = rbit v 31 ∧ (ringOn r = true → rfld v 4 0 = rfld r.cfg 4 0) ∧ 6 ≤ rfld v 4 0 ∧ rfld v 4 0 ≤ 16 ∧
       rfld v 28 16 ≤ 4096) := by
  refine ⟨?_, ?_, ?_, ?_, ?_, ?_, ?_, ?_, ?_, ?_, ?_, ?_⟩
  · refine ⟨sptS 63 (wbR 1) [] [], 63, _, rfl, ?_, ?_, ?_, ?_⟩ <;> decide +kernel
  · refine ⟨sptS 63 (wbR 5) [] [], 63, _, rfl, ?_, ?_, ?_, ?_, ?_, ?_, ?_, ?_⟩ <;> decide +kernel
  · refine ⟨sptS 63 beatR [] [], 63, beatR, 1700, ?_, ?_, ?_, ?_, ?_, ?_, ?_, ?_, ?_, ?_⟩ <;> decide +kernel
  · refine ⟨flushS, _, 63, flushA, _, ?_, rfl, rfl, ?_, ?_, ?_, ?_, ?_, ?_⟩ <;> decide +kernel
  · refine ⟨flushAllS, _, actAt 4992 6 255 0, ?_, rfl, ?_, ?_⟩ <;> decide +kernel
  · refine ⟨noBme flushS, _, 63, flushA, _, ?_, rfl, rfl, ?_, ?_, ?_, ?_⟩ <;> decide +kernel
  · refine ⟨sptS 63 { ringR with prod := 3, cons := 2 ^ 32 - 2 } [] [], 63, 3, _, ?_, rfl⟩ <;> decide +kernel
  · refine ⟨sptS 63 { ringR with cfg := 6 } [] [], 63, 0xd0000010, _, ?_, rfl, ?_, ?_, ?_, ?_, ?_, ?_⟩ <;> decide +kernel
  · refine ⟨sptS 63 ringR [] [], 63, 0x81002a07, ?_, ?_, ?_, ?_⟩ <;> decide +kernel
  · refine ⟨sptS 63 { ringR with cfg := 6 } [] [], 63, 0x1f, ?_, ?_, ?_, ?_, ?_, ?_⟩ <;> decide +kernel
  · refine ⟨sptS 63 ringR [recN 1 63 true] [recN 2 0 false, recN 2 63 false], 63, 0x01002a06, ringR, ?_, ?_, ?_, ?_,
        ?_, ?_, ?_, ?_, ?_, ?_, ?_⟩ <;> decide +kernel
  · refine ⟨sptS 63 ringR [] [recN 2 63 false], 63, 0xc2002b06, ringR, ?_, ?_, ?_, ?_, ?_, ?_, ?_⟩ <;> decide +kernel

theorem witness_HbmMapAndRetraining :
    (∃ (s : State) (v : W32), barWr s = true ∧ s.hbm.lock = false ∧ rfld v 1 0 ≠ 3) ∧
    (∃ (s : State) (v : W32), barWr s = true ∧ s.hbm.lock = true ∧ rfld v 1 0 = s.hbm.map ∧ rfld v 1 0 ≠ 3) ∧
    (∃ (s : State) (v : W32), sized s = true ∧ barWr s = true ∧ s.hbm.lock = true ∧ rfld v 1 0 ≠ s.hbm.map) ∧
    (∃ (s : State) (v : W32), sized s = true ∧ barWr s = true ∧ s.hbm.lock = false ∧ rfld v 1 0 = 3) ∧
    (∃ s : State, rbit s.hbm.retrain 0 = true ∧ (s.ktl.planState = .running ∨ s.ktl.planState = .stopping)
       ∧ s.ktl.cycleNo % (rfld s.hbm.retrain 30 23 + 1) = 0 ∧ rfld s.hbm.retrain 22 1 + 2 ≤ s.ktl.cycleLen
       ∧ s.now = s.ktl.cycleStart + rfld s.hbm.retrain 22 1 * 1100 ∧ (∀ w ∈ s.hbm.window, w.2 ≤ s.up) ∧
       hbmRefuses s = false) ∧
    (∃ s : State, (rbit s.hbm.retrain 0 = false ∨ s.ktl.planState = .stopped ∨ s.ktl.cycleNo %
       (rfld s.hbm.retrain 30 23 + 1) ≠ 0 ∨ s.ktl.cycleLen < rfld s.hbm.retrain 22 1 + 2 ∨ s.now ≠
       s.ktl.cycleStart + rfld s.hbm.retrain 22 1 * 1100 ∨ hbmRefuses s = true)) ∧
    (∃ (s : State) (pc lat : Nat), s.hbm.window = some (pc, s.up)) ∧
    (∃ (s : State) (pc lat : Nat), sized s = true ∧ s.hbm.window = some (pc, s.up)) ∧
    (∃ (s : State) (b : Bool) (lat : Nat), (∀ w ∈ s.hbm.window, w.2 ≠ s.up)) ∧
    (∃ (s : State) (v : W32), barWr s = true ∧ s.ktl.planState = .stopped ∧ anyActive s = false ∧ srBusy
       s = false ∧ s.hbm.inSr = false) ∧
    (∃ (s : State) (v : W32), sized s = true ∧ barWr s = true ∧ srBusy s = false ∧
       (s.ktl.planState ≠ .stopped ∨ anyActive s = true)) ∧
    (∃ (s : State) (v : W32) (i : Instr), barWr s = true ∧ srBusy s = true ∧ i ∈ [Instr.enter v, .exit v]) ∧
    (∃ (s : State) (a : Nat), sized s = true ∧ s.hbm.entering = some a ∧ a < s.up ∧ s.now % 3300 = 0 ∧
       (∀ q ∈ s.hbm.queue, q.1 ≤ s.up)) ∧
    (∃ s : State, (s.hbm.entering = none ∨ s.now % 3300 ≠ 0 ∨ ∃ q ∈ s.hbm.queue, s.up < q.1)) ∧
    (∃ (s : State) (v : W32), barWr s = true ∧ s.hbm.inSr = true ∧ srBusy s = false ∧ rbit v 8 = false) ∧
    (∃ (s : State) (a : Nat), sized s = true ∧ s.hbm.exiting = some a ∧ a < s.up) ∧
    (∃ s : State, s.hbm.exiting = none) := by
  refine ⟨?_, ?_, ?_, ?_, ?_, ?_, ?_, ?_, ?_, ?_, ?_, ?_, ?_, ?_, ?_, ?_, ?_⟩
  · refine ⟨openS, 0x80000002, ?_, ?_, ?_⟩ <;> decide +kernel
  · refine ⟨memS [] (fun h => { h with lock := true, map := 1 }) id, 0x1, ?_, ?_, ?_, ?_⟩ <;> decide +kernel
  · refine ⟨memS [] (fun h => { h with lock := true, map := 1 }) id, 0x2, ?_, ?_, ?_, ?_⟩ <;> decide +kernel
  · refine ⟨openS, 0x80000003, ?_, ?_, ?_, ?_⟩ <;> decide +kernel
  · refine ⟨windowS, ?_, ?_, ?_, ?_, ?_, ?_, ?_⟩ <;> decide +kernel
  · refine ⟨{ windowS with ktl := { windowS.ktl with cycleNo := 7 } }, ?_⟩ <;> decide +kernel
  · refine ⟨{ windowS with hbm := { windowS.hbm with window := some (31, 7700) } }, 31, 9, ?_⟩ <;> decide +kernel
  · refine ⟨{ windowS with hbm := { windowS.hbm with window := some (31, 7700), fails := 65535 } }, 31, 9, ?_, ?_⟩ <;> decide +kernel
  · refine ⟨{ windowS with hbm := { windowS.hbm with window := some (31, 7701), fails := 65535 } }, false, 9, ?_⟩ <;> decide +kernel
  · refine ⟨openS, 0x11, ?_, ?_, ?_, ?_, ?_⟩ <;> decide +kernel
  · refine ⟨windowS, 0x11, ?_, ?_, ?_, ?_⟩ <;> decide +kernel
  · refine ⟨srS (fun h => { h with entering := some 6599, keep := 0x11 }), 0x111, .exit 0x111, ?_, ?_, ?_⟩ <;> decide +kernel
  · refine ⟨srS (fun h => { h with entering := some 6599, keep := 0x11 }), 6599, ?_, ?_, ?_, ?_, ?_⟩ <;> decide +kernel
  · refine ⟨srS (fun h => { h with keep := 0x11 }), ?_⟩ <;> decide +kernel
  · refine ⟨srS (fun h => { h with inSr := true }), 0x11, ?_, ?_, ?_, ?_⟩ <;> decide +kernel
  · refine ⟨srS (fun h => { h with inSr := true, exiting := some 6599 }), 6599, ?_, ?_, ?_⟩ <;> decide +kernel
  · refine ⟨srS (fun h => { h with inSr := true }), ?_⟩ <;> decide +kernel

theorem witness_MemoryOperations :
    (∃ (s : State) (src : Src) (a : BitVec 48) (mask : W64) (data : List Byte) (l : Nat), l = a.toNat / 64
       * 64 ∧ s.badWords = [] ∧ s.hbm.window = none ∧ s.ktl.refreshed ≠ some s.beat ∧ respRange s src l
       64 = .ok ∧ (src = .bar2 → ∀ i < 64, inPart s (l + i) = false)) ∧
    (∃ (s : State) (src : Src) (a : BitVec 48) (v : W64) (i : Instr) (w x : Nat), w = a.toNat / 8 * 8 ∧
       s.badWords = [] ∧ s.hbm.window = none ∧ s.ktl.refreshed ≠ some s.beat ∧ respRange s src
       (a.toNat / 64 * 64) 64 = .ok ∧ (src = .bar2 → inPart s w = false) ∧ x = peekNat s w 8 ∧ i ∈
       [Instr.memAdd src a v .clean, .memBitSet src a v .clean, .memBitClear src a v .clean]) ∧
    (∃ (s : State) (a : BitVec 48) (v mask : W64) (data : List Byte) (i : Instr), sized s = true ∧
       s.hbm.window = none ∧ s.ktl.refreshed ≠ some s.beat ∧ inPart s (a.toNat / 8 * 8) = true ∧
       mask.toNat = 2 ^ (a.toNat % 64) ∧ a.toNat < caddyBase + 0x1000000 ∧ (inPart s a.toNat = true) ∧ i ∈
       [Instr.memWrite .bar2 a mask data .clean, .memAdd .bar2 a v .clean, .memBitSet .bar2 a v .clean,
       .memBitClear .bar2 a v .clean]) := by
  refine ⟨?_, ?_, ?_⟩
  · refine ⟨memS allOnes id id, .core 23, 0x20000008, 0x80000000000000ff, List.replicate 63 0x55 ++ [0], _, rfl, ?_,
        ?_, ?_, ?_, ?_⟩ <;> decide +kernel
  · refine ⟨memS allOnes id id, .core 23, 0x20000009, 0xf000000000000000, .memBitClear (.core 23) 0x20000009
        0xf000000000000000 .clean, _, _, rfl, ?_, ?_, ?_, ?_, ?_, rfl, ?_⟩ <;> decide +kernel
  · refine ⟨partRam, BitVec.ofNat 48 (caddyBase + 0x80), 1, 1, [5], .memAdd .bar2 (BitVec.ofNat 48
        (caddyBase + 0x80)) 1 .clean, ?_, ?_, ?_, ?_, ?_, ?_, ?_, ?_⟩ <;> decide +kernel

theorem witness_NegativeAnswers :
    (∃ (s : State) (src : Src) (a : BitVec 48) (r : Resp) (v mask : W64) (data : List Byte) (ecc : Ecc)
       (i : Instr), respRange s src (a.toNat / 64 * 64) 64 = r ∧ r ≠ .ok ∧ i ∈ [Instr.memRead src a 1 ecc,
       .memWrite src a mask data ecc, .memAdd src a v ecc, .memBitSet src a v ecc, .memBitClear src a v
       ecc]) ∧
    (∃ (s : State) (src : Src) (a : BitVec 48) (v mask : W64) (data : List Byte) (ecc : Ecc) (i : Instr),
       respRange s src (a.toNat / 64 * 64) 64 = .ok ∧ toQueues (a.toNat / 64 * 64) 1 s = none ∧ i ∈
       [Instr.memRead src a 1 ecc, .memWrite src a mask data ecc, .memAdd src a v ecc, .memBitSet src a v
       ecc, .memBitClear src a v ecc]) ∧
    (∃ (s : State) (src : Src) (a : BitVec 48) (v : W64) (i : Instr), sized s = true ∧ respRange s src
       (a.toNat / 64 * 64) 64 = .ok ∧ s.hbm.window = none ∧ s.ktl.refreshed ≠ some s.beat ∧ src ≠ .bar2 ∧ i
       ∈ [Instr.memRead src a 1 .uncorrectable, .memAdd src a v .uncorrectable, .memBitSet src a v
       .uncorrectable, .memBitClear src a v .uncorrectable]) ∧
    (∃ (s : State) (src : Src) (a : BitVec 48) (mask : W64) (data : List Byte) (l w : Nat) (i j : Fin 8),
       sized s = true ∧ l = a.toNat / 64 * 64 ∧ respRange s src l 64 = .ok ∧ s.hbm.window = none ∧
       s.ktl.refreshed ≠ some s.beat ∧ src ≠ .bar2 ∧ w < 8 ∧ mask.getLsbD (8 * w + i.val) = true ∧
       mask.getLsbD (8 * w + j.val) = false ∧ (∀ v < w, ∀ k < 8, mask.getLsbD (8 * v + k) = mask.getLsbD
       (8 * v))) ∧
    (∃ (s : State) (src : Src) (a : BitVec 48), sized s = true ∧ s.badWords = [] ∧ respRange s src
       (a.toNat / 64 * 64) 64 = .ok ∧ s.hbm.window = none ∧ s.ktl.refreshed ≠ some s.beat) ∧
    (∃ (s : State) (n : Fin 24) (r : Resp) (a : BitVec 48) (j : Job), sized s = true ∧ r ≠ .ok ∧
       r ≠ .poison ∧ respDropped s (.core n) = false ∧ (s.core n.val).job = some j ∧
       (s.core n.val).phase = .run ∧ (0 < j.mi ∨ j.begun = true) ∧ s.sched.after.getD n.val none = none ∧
       takesCpl s j.cplRing = true) ∧
    (∃ (s : State) (n : Fin 24) (r : Resp) (a : BitVec 48) (j : Job) (k : Slot), sized s = true ∧ r ≠ .ok ∧
       r ≠ .poison ∧ respDropped s (.core n) = false ∧ (s.core n.val).job = some j ∧
       (s.core n.val).phase = .verify ∧ k = s.slot j.ctx j.slot ∧ k.depEn = true ∧ a.toNat / 64 = k.depAddr
       / 64 ∧ fbLine (fbOf s j) (a.toNat / 64) = false) ∧
    (∃ (s : State) (c : Fin 8) (r : Resp) (a : BitVec 48), sized s = true ∧ r ≠ .ok ∧
       (s.dma c.val).state = .run) ∧
    (∃ (s : State) (n : Fin 8) (c : Nat) (r : Resp) (a : BitVec 48) (p : DecPic), sized s = true ∧ r ≠ .ok
       ∧ r ≠ .poison ∧ s.dec.busy.getD n.val none = some c ∧ c < 128 ∧ (s.decCtx c).pic = some p ∧ overlaps
       (a.toNat / 64 * 64) 64 p.data.1 p.data.2 = true) ∧
    (∃ (s : State) (src : Src) (r : Resp) (a : BitVec 48), sized s = true ∧ r ≠ .ok ∧ r ≠ .poison ∧ src ∈
       [Src.strainer, .spout, .mgmt, .sched, .csi]) ∧
    (∃ (s : State) (src : Src) (r : Resp) (a : BitVec 48), (r = .ok ∨ respDropped s src = true)) := by
  refine ⟨?_, ?_, ?_, ?_, ?_, ?_, ?_, ?_, ?_, ?_, ?_⟩
  · refine ⟨memS [] (fun h => { h with inSr := true }) id, .core 0, 0, .hbmSelfRefresh, 1, 1, [], .clean, .memWrite
        (.core 0) 0 1 [] .clean, ?_, ?_, ?_⟩ <;> decide +kernel
  · refine ⟨memS [] (fun h => { h with window := some (pcOf 0 64, 10000), queue := List.replicate 32 (10000, 128) })
        id, .core 0, 64, 1, 1, [], .clean, .memAdd (.core 0) 64 1 .clean, ?_, ?_, ?_⟩ <;> decide +kernel
  · refine ⟨memS allOnes id id, .core 0, BitVec.ofNat 48 (coreWin 23 + 12), 1, .memBitClear (.core 0) (BitVec.ofNat
        48 (coreWin 23 + 12)) 1 .uncorrectable, ?_, ?_, ?_, ?_, ?_, ?_⟩ <;> decide +kernel
  · refine ⟨memS allOnes id id, .core 0, 0x20000009, 0x8000000000007fff, List.replicate 64 3, _, 1, 0, 7, ?_, rfl,
        ?_, ?_, ?_, ?_, ?_, ?_, ?_, ?_⟩ <;> decide +kernel
  · refine ⟨memS allOnes id id, .strainer, 0x20000009, ?_, ?_, ?_, ?_, ?_⟩ <;> decide +kernel
  · refine ⟨ringUp (jobS 31 { job3 with begun := true }), 3, .targetFenced, 0x8000, { job3 with begun := true }, ?_,
        ?_, ?_, ?_, ?_, ?_, ?_, ?_, ?_⟩ <;> decide +kernel
  · refine ⟨depWaitS, 3, .targetFenced, 0x9038, job3, depSlot, ?_, ?_, ?_, ?_, ?_, ?_, ?_, ?_, ?_, ?_⟩ <;> decide +kernel
  · refine ⟨{ openS with hif := { openS.hif with dma := updAt openS.hif.dma 7 fun c => { c with cfg := 0x80000000#32, state := .run } } },
        7, .poison, 0, ?_, ?_, ?_⟩ <;> decide +kernel
  · refine ⟨decCutS, 7, 127, .hbmBusy, 0x40008, decCutP, ?_, ?_, ?_, ?_, ?_, ?_, ?_⟩ <;> decide +kernel
  · refine ⟨openS, .csi, .addrUnmapped, 0x1000, ?_, ?_, ?_, ?_⟩ <;> decide +kernel
  · refine ⟨openS, .csi, .ok, 0x1000, ?_⟩ <;> decide +kernel

theorem witness_FlitsHop :
    (∃ (s : State) (src : Src) (k : FlitKind) (a : BitVec 48) (f : Flit) (n : Nat), newFlit s src k a.toNat
       false = some f ∧ f.cls = .planned ∧ plannedEntry s f (entryNow s f.src (flitOut f)) = true ∧ outFree
       s f.src (flitOut f) = true ∧ f.at_ = f.src ∧ neighbour f.src (flitOut f) = some n) ∧
    (∃ (s : State) (src : Src) (k : FlitKind) (a : BitVec 48) (f : Flit) (o : Bool), newFlit s src k
       a.toNat o = some f ∧ (f.cls = .opened ∧ (∀ p ∈ f.part, partShare s p = true) ∨ f.cls = .relocated) ∧
       bufRoom s f.cls f.src 5 = true) ∧
    (∃ (s : State) (i n : Nat) (f : Flit), s.mesh.flits[i]? = some f ∧ (f.cls = .planned ∧ f.due = s.up ∧
       plannedEntry s f (entryNow s f.at_ (flitOut f)) = true ∨ f.cls ≠ .planned ∧ isServed s i f = true ∧
       creditOk s f = true) ∧ outFree s f.at_ (flitOut f) = true ∧ neighbour f.at_ (flitOut f) = some n) ∧
    (∃ (s : State) (i : Nat) (f : Flit), s.mesh.flits[i]? = some f ∧ f.at_ = f.dest ∧ (f.cls = .planned ∧
       f.due = s.up ∧ plannedEntry s f (entryNow s f.at_ 4) = true ∨ f.cls ≠ .planned ∧ isServed s i f =
       true) ∧ outFree s f.at_ 4 = true) ∧
    (∃ (s : State) (i : Nat) (f : Flit) (e : Ecc), s.mesh.flits[i]? = some f ∧ (f.cls = .planned ∧ (f.due ≠
       s.up ∨ plannedEntry s f (entryNow s f.at_ (flitOut f)) = false) ∨ f.cls ≠ .planned ∧ (isServed s i
       f = false ∨ creditOk s f = false) ∨ outFree s f.at_ (flitOut f) = false)) ∧
    (∃ (s : State) (i : Nat) (f : Flit), s.mesh.flits[i]? = some f ∧ f.cls = .planned ∧ f.due = s.up ∧
       plannedEntry s f (entryNow s f.at_ (flitOut f)) = true ∧ outFree s f.at_ (flitOut f) = true ∧
       f.addr < 2 ^ 48) ∧
    (∃ (s : State) (i : Nat) (f : Flit), sized s = true ∧ s.mesh.flits[i]? = some f ∧ f.cls = .planned ∧
       f.due = s.up ∧ plannedEntry s f (entryNow s f.at_ (flitOut f)) = true ∧ outFree s f.at_
       (flitOut f) = true) := by
  refine ⟨?_, ?_, ?_, ?_, ?_, ?_, ?_⟩
  · refine ⟨flitS 0x235 [], .core 3, .read, 0x100, flitF, 9, ?_, ?_, ?_, ?_, ?_, ?_⟩ <;> decide +kernel
  · refine ⟨openMesh, .core 3, .read, 0x100, { flitF with cls := .opened }, true, ?_, ?_, ?_⟩ <;> decide +kernel
  · refine ⟨flitS 0x235 [flitF], 0, 9, flitF, ?_, ?_, ?_, ?_⟩ <;> decide +kernel
  · refine ⟨flitS 0x235 [flitE], 0, flitE, ?_, ?_, ?_, ?_⟩ <;> decide +kernel
  · refine ⟨flitS 0x235 [{ flitE with due := 5001 }], 0, { flitE with due := 5001 }, .clean, ?_, ?_⟩ <;> decide +kernel
  · refine ⟨flitS 0x235 [flitE], 0, flitE, ?_, ?_, ?_, ?_, ?_, ?_⟩ <;> decide +kernel
  · refine ⟨flitS 0x235 [flitE], 0, flitE, ?_, ?_, ?_, ?_, ?_, ?_⟩ <;> decide +kernel

theorem witness_MeshTables :
    (∃ (s : State), barOpen s = true) ∧
    (∃ (s : State) (w : W32), barWr s = true ∧ s.mesh.checking = false ∧ s.mesh.stActive = false ∧ locked s
       .mesh = false) ∧
    (∃ (s : State) (w : W32), barWr s = true ∧ s.mesh.checking = false ∧ (s.mesh.stActive = true ∨ locked s
       .mesh = true ∧ w = tabGet s.mesh.shadow (tabKey s.mesh.stStop s.mesh.stPort s.mesh.stSlot))) ∧
    (∃ (s : State) (w : W32), sized s = true ∧ barWr s = true ∧ (s.mesh.checking = true ∨
       s.mesh.stActive = false ∧ locked s .mesh = true ∧ w ≠ tabGet s.mesh.shadow (tabKey s.mesh.stStop
       s.mesh.stPort s.mesh.stSlot))) ∧
    (∃ (s : State) (v : W32), barWr s = true ∧ s.mesh.checking = false ∧ locked s .mesh = false) ∧
    (∃ (s : State) (v : W32), sized s = true ∧ barWr s = true ∧ (s.mesh.checking = true ∨ locked s .mesh =
       true)) ∧
    (∃ s : State, sized s = true ∧ s.mesh.checking = true ∧ firstFailing s.mesh.shadow = none) ∧
    (∃ (s : State) (k c : Nat), sized s = true ∧ s.mesh.checking = true ∧ firstFailing s.mesh.shadow = some
       (k, c)) ∧
    (∃ (s : State) (v : W32) (p : Nat), sized s = true ∧ barWr s = true ∧ s.mesh.rstBusy = false ∧ p = rfld
       v 2 0 ∧ (∀ c < 256, (s.ctx c).enabled = true → (s.ctx c).part ≠ p) ∧ (∀ m < 7, partOfClu s m = p →
       (s.clu m).cmd = none)) ∧
    (∃ (s : State) (v : W32), sized s = true ∧ barWr s = true ∧ s.mesh.rstBusy = false) ∧
    (∃ (s : State) (v : W32), barWr s = true ∧ s.mesh.rstBusy = true) ∧
    (∃ s : State, sized s = true ∧ s.mesh.rstBusy = true ∧ s.mesh.rstAt + 22000 ≤ s.up) ∧
    (∃ s : State, (s.mesh.rstBusy = false ∨ s.up < s.mesh.rstAt + 22000)) := by
  refine ⟨?_, ?_, ?_, ?_, ?_, ?_, ?_, ?_, ?_, ?_, ?_, ?_, ?_⟩
  · refine ⟨meshStS fun m =>
        { m with stStop := 31, stPort := 4, stSlot := 1099, active := [(tabKey 31 4 1099, 6#32)], stActive := true },
        ?_⟩ <;> decide +kernel
  · refine ⟨meshStS (fun m => { m with stStop := 31, stPort := 4, stSlot := 1099 }), 6, ?_, ?_, ?_, ?_⟩ <;> decide +kernel
  · refine ⟨meshStS (fun m => { m with stStop := 31, stPort := 4, stSlot := 1099, stActive := true }), 6, ?_, ?_, ?_⟩ <;> decide +kernel
  · refine ⟨meshStS (fun m => { m with stStop := 31, stPort := 4, stSlot := 1098, checking := true }), 6, ?_, ?_, ?_⟩ <;> decide +kernel
  · refine ⟨openS, 77, ?_, ?_, ?_⟩ <;> decide +kernel
  · refine ⟨meshStS (fun m => { m with checking := true }), 77, ?_, ?_, ?_⟩ <;> decide +kernel
  · refine ⟨meshStS fun m => { m with checking := true, stCtrl := 77, shadow := [(tabKey 31 4 1099, 6#32)] }, ?_, ?_,
        ?_⟩ <;> decide +kernel
  · refine ⟨meshStS (fun m => { m with checking := true, stCtrl := 77, shadow := [(tabKey 31 4 1099, 0x106#32)] }),
        (tabKey 31 4 1099), 1, ?_, ?_, ?_⟩ <;> decide +kernel
  · refine ⟨meshStS oneCore, 2, _, ?_, ?_, ?_, rfl, ?_, ?_⟩ <;> decide +kernel
  · refine ⟨meshStS oneCore, 2, ?_, ?_, ?_⟩ <;> decide +kernel
  · refine ⟨meshStS (fun m => { m with rstBusy := true }), 7, ?_, ?_⟩ <;> decide +kernel
  · refine ⟨{ meshStS (fun m => { m with rstBusy := true, rstAt := 3000 }) with ktl := { openS.ktl with count := 25000, up := 25000 } },
        ?_, ?_, ?_⟩ <;> decide +kernel
  · refine ⟨meshStS fun m => { m with rstAt := 4000 }, ?_⟩ <;> decide +kernel

theorem witness_HostAccesses :
    (∃ (s : State) (w : Bool) (off size : Nat), sized s = true ∧ barOpen s = true ∧ sizeOk off size = false) ∧
    (∃ (s : State) (w : Bool) (off size : Nat), sized s = true ∧ barOpen s = true ∧ sizeOk off size = true
       ∧ pageOf off = none ∧ off < doorbellBase) ∧
    (∃ (s : State) (w : Bool) (off size : Nat), barOpen s = true ∧ sizeOk off size = true ∧
       ((pageOf off).isSome = true ∨ doorbellBase ≤ off)) ∧
    (∃ (s : State) (off o : Nat) (p : Page), sized s = true ∧ barOpen s = true ∧ pageOf off = some (p, o) ∧
       p ≠ .mgt) ∧
    (∃ (s : State) (off o : Nat), barOpen s = true ∧ pageOf off = some (.mgt, o)) ∧
    (∃ (s : State) (i : Instr) (w : Bool) (off size : Nat) (o2 : BitVec 36) (n : Fin 4097), barOpen
       s = false ∧ s.hif.linkUp = true ∧ s.power.perst = false ∧ i ∈ [Instr.bar0AccessInvalid w off size,
       .bar0Timeout off, .bar2Read o2 n]) ∧
    (∃ (s : State) (o2 : BitVec 36) (bs : List Byte), barWr s = false) ∧
    (∃ (s : State) (off : BitVec 36) (n : Fin 4097) (w : Win) (a : Nat), barWr s = true ∧ winFor s
       off.toNat n.val = some (w, a) ∧ respRange s .bar2 a n.val = .ok ∧ badAt s a n.val = false ∧
       s.hif.reissue = [] ∧ s.hbm.window = none ∧ s.ktl.refreshed ≠ some s.beat) ∧
    (∃ (s : State) (off : BitVec 36) (bs : List Byte) (w : Win) (a : Nat), barWr s = true ∧ winFor s
       off.toNat bs.length = some (w, a) ∧ winWr w = true ∧ respRange s .bar2 a bs.length = .ok ∧ (∀ i <
       bs.length, inPart s (a + i) = false) ∧ (∀ i < bs.length, respOf s .bar2 (a + i) = .ok) ∧ s.badWords
       = [] ∧ s.hif.reissue = [] ∧ s.hbm.window = none ∧ s.ktl.refreshed ≠ some s.beat) ∧
    (∃ (s : State) (off : BitVec 36) (n : Fin 4097) (bs : List Byte), sized s = true ∧ barWr s = true ∧
       winFor s off.toNat n.val = none ∧ (∀ p ∈ winFor s off.toNat bs.length, winWr p.1 = false)) ∧
    (∃ (s : State) (off : BitVec 36) (n : Fin 4097) (w : Win) (a : Nat), sized s = true ∧ barWr s = true ∧
       winFor s off.toNat n.val = some (w, a) ∧ s.hif.reissue = [] ∧ respRange s .bar2 a n.val ≠ .ok) ∧
    (∃ (s : State) (off : BitVec 36) (n : Fin 4097) (w : Win) (a : Nat), sized s = true ∧ barWr s = true ∧
       winFor s off.toNat n.val = some (w, a) ∧ s.hif.reissue = [] ∧ respRange s .bar2 a n.val = .ok ∧
       toQueues a (lineStarts a n.val).length s = none) ∧
    (∃ (s : State) (off : BitVec 36) (n : Fin 4097) (w : Win) (a : Nat), barWr s = true ∧ winFor s
       off.toNat n.val = some (w, a) ∧ s.hif.reissue ≠ [] ∧ regionOf a = .hbm) ∧
    (∃ (s : State) (a n at_ : Nat), s.hif.reissue = [{ what := .read a n, since := at_ }] ∧ s.now %
       1100 = 0 ∧ respRange s .bar2 a n = .ok ∧ badAt s a n = false ∧ s.hbm.window = none ∧
       s.ktl.refreshed ≠ some s.beat) ∧
    (∃ (s : State) (a n at_ : Nat), sized s = true ∧ s.hif.reissue = [{ what := .read a n, since := at_ }]
       ∧ s.now % 1100 = 0 ∧ respRange s .bar2 a n = .ok ∧ toQueues a (lineStarts a n).length s = none) ∧
    (∃ s : State, s.now % 1100 ≠ 0) := by
  refine ⟨?_, ?_, ?_, ?_, ?_, ?_, ?_, ?_, ?_, ?_, ?_, ?_, ?_, ?_, ?_, ?_⟩
  · refine ⟨openS, false, 2, 4, ?_, ?_, ?_⟩ <;> decide +kernel
  · refine ⟨openS, false, 0xfffff8, 8, ?_, ?_, ?_, ?_, ?_⟩ <;> decide +kernel
  · refine ⟨openS, true, 0x301ffc, 4, ?_, ?_, ?_⟩ <;> decide +kernel
  · refine ⟨openS, 0x301ffc, 0xffc, .fuse, ?_, ?_, ?_, ?_⟩ <;> decide +kernel
  · refine ⟨openS, 0x800, 0x800, ?_, ?_⟩ <;> decide +kernel
  · refine ⟨noMse, .bar2Read 0 1, false, 0, 4, 0, 1, ?_, ?_, ?_, ?_⟩ <;> decide +kernel
  · refine ⟨noMse, 0, [1], ?_⟩ <;> decide +kernel
  · refine ⟨winS false, 0x3ff000, 4096, winOf false, 0x201ff000, ?_, ?_, ?_, ?_, ?_, ?_, ?_⟩ <;> decide +kernel
  · refine ⟨winS true, 0x200007, [1, 2, 255], winOf true, 0x20000007, ?_, ?_, ?_, ?_, ?_, ?_, ?_, ?_, ?_, ?_⟩ <;> decide +kernel
  · refine ⟨winS true, 0x3fffff, 2, [1, 2], ?_, ?_, ?_, ?_⟩ <;> decide +kernel
  · refine ⟨{ winS false with hbm := { openS.hbm with inSr := true } }, 0x200000, 5, winOf false, 0x20000000, ?_, ?_,
        ?_, ?_, ?_⟩ <;> decide +kernel
  · refine ⟨hbmBusyS [] 5000, 0x200000, 5, winOf false, 0x20000000, ?_, ?_, ?_, ?_, ?_, ?_⟩ <;> decide +kernel
  · refine ⟨hbmBusyS [{ what := .read 0x40 5, since := 9 }] 5000, 0x200000, 5, winOf false, 0x20000000, ?_, ?_, ?_,
        ?_⟩ <;> decide +kernel
  · refine ⟨lateAt 4400 (hifS [] (fun h => { h with reissue := [{ what := .read 0x40 5, since := 9 }] })), 0x40, 5,
        9, ?_, ?_, ?_, ?_, ?_, ?_⟩ <;> decide +kernel
  · refine ⟨hbmBusyS [{ what := .read 0x10 5, since := 1100 }] 1101100, 0x10, 5, 1100, ?_, ?_, ?_, ?_, ?_⟩ <;> decide +kernel
  · refine ⟨hifS [] id, ?_⟩ <;> decide +kernel

theorem witness_WindowsAndDoorbells :
    (∃ (s : State) (w : Fin 64) (v : W32), barWr s = true ∧ (rbit v 0 = false ∨ winOn (s.win w.val) = false
       ∧ winOk s w.val v = true)) ∧
    (∃ (s : State) (w : Fin 64) (v : W32), sized s = true ∧ barWr s = true ∧ rbit v 0 = true ∧ winOn
       (s.win w.val) = false ∧ winOk s w.val v = false) ∧
    (∃ (s : State) (w : Fin 64) (v : W32), sized s = true ∧ barWr s = true ∧ rbit v 0 = true ∧ winOn
       (s.win w.val) = true) ∧
    (∃ (s : State) (off : BitVec 26) (b : Bool) (v : W64) (d x : Nat), barWr s = true ∧ doorbellBase ≤
       off.toNat ∧ sizeOk off.toNat (if b then 8 else 4) = true ∧ dbOf (off.toNat - doorbellBase) = some d
       ∧ writeWaits s.hif.reissue = false ∧ (s.doorbell d).pending = none ∧ (s.hif.minGap = 0 ∨ ∀ t ∈
       (s.doorbell d).last, t + s.hif.minGap ≤ s.up) ∧ x = (if b then v.toNat else if off.toNat % 8 = 0
       then v.toNat % 2 ^ 32 else v.toNat % 2 ^ 32 * 2 ^ 32)) ∧
    (∃ (s : State) (off : BitVec 26) (v : W64) (d t0 : Nat), barWr s = true ∧ doorbellBase ≤ off.toNat ∧
       off.toNat % 8 = 0 ∧ dbOf (off.toNat - doorbellBase) = some d ∧ writeWaits s.hif.reissue = false ∧
       (s.doorbell d).last = some t0 ∧ s.up < t0 + s.hif.minGap ∧ s.hif.stormBeat = some s.beat) ∧
    (∃ (s : State) (off : BitVec 26) (v : W64) (d t0 : Nat), sized s = true ∧ barWr s = true ∧ doorbellBase
       ≤ off.toNat ∧ off.toNat % 8 = 0 ∧ dbOf (off.toNat - doorbellBase) = some d ∧ writeWaits
       s.hif.reissue = false ∧ (s.doorbell d).last = some t0 ∧ s.up < t0 + s.hif.minGap ∧
       s.hif.stormBeat ≠ some s.beat) ∧
    (∃ (s : State) (off : BitVec 26) (v : W64) (d : Nat), barWr s = true ∧ doorbellBase ≤ off.toNat ∧
       off.toNat % 8 = 0 ∧ dbOf (off.toNat - doorbellBase) = some d ∧ writeWaits s.hif.reissue = true) ∧
    (∃ (s : State) (off : BitVec 26) (b : Bool) (v : W64), sized s = true ∧ barWr s = true ∧ doorbellBase ≤
       off.toNat ∧ (sizeOk off.toNat (if b then 8 else 4) = false ∨ dbOf (off.toNat - doorbellBase) = none)) ∧
    (∃ (s : State) (d : Fin 392) (v t0 : Nat), (s.doorbell d.val).pending = some v ∧
       (s.doorbell d.val).last = some t0 ∧ t0 + s.hif.minGap ≤ s.up) ∧
    (∃ (s : State) (d : Fin 392), ((s.doorbell d.val).pending = none ∨ ∃ t ∈ (s.doorbell d.val).last,
       s.up < t + s.hif.minGap)) := by
  refine ⟨?_, ?_, ?_, ?_, ?_, ?_, ?_, ?_, ?_, ?_⟩
  · refine ⟨hifS [] id, 63, 0x00010057, ?_, ?_⟩ <;> decide +kernel
  · refine ⟨winS true, 62, 0x00010057, ?_, ?_, ?_, ?_, ?_⟩ <;> decide +kernel
  · refine ⟨winS true, 63, 0x00010057, ?_, ?_, ?_, ?_⟩ <;> decide +kernel
  · refine ⟨dbAt 391 { last := some 4890, pending := none }, 0x1000c3c, false, 0x10005, 391, _, ?_, ?_, ?_, ?_, ?_,
        ?_, ?_, rfl⟩ <;> decide +kernel
  · refine ⟨stormS 5000 (dbAt 255 { last := some 4891, pending := some 4 }), 0x10007f8, 3, 255, 4891, ?_, ?_, ?_, ?_,
        ?_, ?_, ?_, ?_⟩ <;> decide +kernel
  · refine ⟨dbAt 256 { last := some 4891, pending := some 4 }, 0x1000800, 3, 256, 4891, ?_, ?_, ?_, ?_, ?_, ?_, ?_,
        ?_, ?_⟩ <;> decide +kernel
  · refine ⟨hbmBusyS [{ what := .write 0x40 [5], since := 9 }] 5000, 0x1000800, 3, 256, ?_, ?_, ?_, ?_, ?_⟩ <;> decide +kernel
  · refine ⟨hifS [] id, 0x1000c40, true, 1, ?_, ?_, ?_, ?_⟩ <;> decide +kernel
  · refine ⟨dbAt 391 { last := some 4890, pending := some 0x10005 }, 391, 0x10005, 4890, ?_, ?_, ?_⟩ <;> decide +kernel
  · refine ⟨dbAt 391 { last := some 4891, pending := some 0x10005 }, 391, ?_⟩ <;> decide +kernel

theorem witness_HostDma :
    (∃ (s : State) (c : Fin 8) (v : W32) (i : Instr), barWr s = true ∧ dmaOn (s.dma c.val) = false ∧ rbit v
       31 = true ∧ i ∈ [Instr.hdmaCfgWrite c v, .resume c v]) ∧
    (∃ (s : State) (c : Fin 8) (v : W32), barWr s = true ∧ dmaOn (s.dma c.val) = true ∧ rbit v 31 = false ∧
       dmaLen (s.dma c.val) = rfld v 9 0) ∧
    (∃ (s : State) (c : Fin 8) (v : W32), barWr s = true ∧ dmaOn (s.dma c.val) = rbit v 31 ∧ (rbit v
       31 = true → dmaLen (s.dma c.val) = rfld v 9 0 ∧ rbit v 29 = false)) ∧
    (∃ (s : State) (c : Fin 8) (v : W32), sized s = true ∧ barWr s = true ∧ dmaOn (s.dma c.val) = true ∧
       dmaLen (s.dma c.val) ≠ rfld v 9 0) ∧
    (∃ (s : State) (c : Fin 8) (v : W32) (x : DmaCh), barWr s = true ∧ x = s.dma c.val ∧ dmaOn x = true ∧
       rbit v 31 = true ∧ dmaLen x = rfld v 9 0 ∧ s.mgt.safe = false ∧ (x.state = .haltErr ∨ x.state =
       .haltBme)) ∧
    (∃ (s u : State) (c : Fin 8) (v : Nat) (x : DmaCh), takeDb (384 + c.val) s = some (v, u) ∧ x = s.dma
       c.val ∧ s.mgt.safe = false ∧ dmaOn x = true ∧ (v % 65536 + 65536 - x.cons) % 65536 ≤ dmaLen x + 1) ∧
    (∃ (s u : State) (c : Fin 8) (v : Nat), takeDb (384 + c.val) s = some (v, u) ∧ (s.mgt.safe = true ∨
       dmaOn (s.dma c.val) = false)) ∧
    (∃ (s u : State) (c : Fin 8) (v : Nat), sized s = true ∧ takeDb (384 + c.val) s = some (v, u) ∧
       s.mgt.safe = false ∧ dmaOn (s.dma c.val) = true ∧ dmaLen (s.dma c.val) + 1 < (v % 65536 + 65536 -
       (s.dma c.val).cons) % 65536) ∧
    (∃ (s : State) (c : Fin 8) (x : DmaCh) (a d n : Nat), x = s.dma c.val ∧ dmaRuns s c.val = true ∧
       x.ahead < hdPending x ∧ a = hdAddr x x.ahead ∧ readable s (.hdma c) a 32 = true ∧ d = peekNat s a 32
       ∧ hdBad d = false ∧ (x.ahead = 0 ∨ x.issued ≠ 0 ∨ bitAt d 4 = false) ∧ x.issued < hdBytes d ∧ hdOp
       d = 0 ∧ n = chunk s.hif.maxRead (hdBus d + x.issued) (hdBytes d - x.issued) ∧ x.reads.length < 64 ∧
       (s.hif.dma.map fun x => x.reads.length + x.stale.length).sum < 512) ∧
    (∃ (s : State) (c : Fin 8) (x : DmaCh) (a d n : Nat) (bs : List Byte) (i : Instr), x = s.dma c.val ∧
       dmaRuns s c.val = true ∧ dmaTurn s c.val = true ∧ x.ahead < hdPending x ∧ a = hdAddr x x.ahead ∧
       readable s (.hdma c) a 32 = true ∧ d = peekNat s a 32 ∧ hdBad d = false ∧ (x.ahead = 0 ∨
       x.issued ≠ 0 ∨ bitAt d 4 = false ∧ hdOp d = 1) ∧ x.issued < hdBytes d ∧ n = chunk s.hif.maxPayload
       (hdBus d + x.issued) (hdBytes d - x.issued) ∧ (i = .hdmaOut c ∧ hdOp d = 1 ∧ readable s (.hdma c)
       (hdDev d + x.issued) n = true ∧ bs = peek s (hdDev d + x.issued) n ∨ i = .hdmaWrite c ∧ hdOp d = 2 ∧
       bs = ((leBytes 8 (hdData d)).drop x.issued).take n)) ∧
    (∃ (s : State) (c : Fin 8) (x : DmaCh) (a d : Nat) (i : Instr), x = s.dma c.val ∧ dmaRuns s
       c.val = true ∧ a = hdAddr x 0 ∧ d = peekNat s a 32 ∧ (bitAt d 5 = true → rbit x.cfg 30 = false) ∧
       (i = .hdmaDescComplete c ∧ x.ahead ≠ 0 ∧ (∀ r ∈ x.reads, r.desc ≠ 0) ∨ i = .hdmaNop c ∧ x.ahead = 0
       ∧ hdPending x ≠ 0 ∧ hdOp d = 3 ∧ hdBad d = false ∧ readable s (.hdma c) a 32 = true)) ∧
    (∃ (s : State) (c : Fin 8) (x : DmaCh), x = s.dma c.val ∧ dmaRuns s c.val = true ∧ bitAt (peekNat s
       (hdAddr x 0) 32) 5 = true ∧ rbit x.cfg 30 = true ∧ vecOpen s (rfld x.cfg 23 16) = true ∧ x.ahead ≠ 0
       ∧ (∀ r ∈ x.reads, r.desc ≠ 0)) ∧
    (∃ (s : State) (c : Fin 8) (x : DmaCh) (d : Nat), x = s.dma c.val ∧ dmaRuns s c.val = true ∧
       x.ahead ≠ 0 ∧ x.ahead < hdPending x ∧ readable s (.hdma c) (hdAddr x x.ahead) 32 = true ∧
       d = peekNat s (hdAddr x x.ahead) 32 ∧ hdBad d = false ∧ hdOp d = 3 ∧ bitAt d 4 = false) ∧
    (∃ (s : State) (c : Fin 8) (i : Instr), dmaRuns s c.val = false ∧ i ∈ [Instr.hdmaIn c, .hdmaOut c,
       .hdmaWrite c, .hdmaNop c, .hdmaDescComplete c]) := by
  refine ⟨?_, ?_, ?_, ?_, ?_, ?_, ?_, ?_, ?_, ?_, ?_, ?_, ?_, ?_⟩
  · refine ⟨dmaS { dmaX with cfg := 5 } 0, 7, 0x80000001, .resume 7 0x80000001, ?_, ?_, ?_, ?_⟩ <;> decide +kernel
  · refine ⟨dmaS { dmaX with reads := [rdX] } 0, 7, 1, ?_, ?_, ?_, ?_⟩ <;> decide +kernel
  · refine ⟨dmaS dmaX 0, 7, 0xc0ff0001, ?_, ?_, ?_⟩ <;> decide +kernel
  · refine ⟨dmaS dmaX 0, 7, 0x80000002, ?_, ?_, ?_, ?_⟩ <;> decide +kernel
  · refine ⟨dmaS { dmaX with state := .haltErr, err := 3 } 0, 7, 0x80000001, _, ?_, rfl, ?_, ?_, ?_, ?_, ?_⟩ <;> decide +kernel
  · refine ⟨dmaDb [(3, 3), (391, 65537)], _, 7, 65537, _, rfl, rfl, ?_, ?_, ?_⟩ <;> decide +kernel
  · refine ⟨{ dmaDb [(3, 3), (391, 65537)] with mgt := { openS.mgt with safe := true } }, _, 7, 65537, rfl, ?_⟩ <;> decide +kernel
  · refine ⟨dmaDb [(3, 3), (391, 65539)], _, 7, 65539, ?_, rfl, ?_, ?_, ?_⟩ <;> decide +kernel
  · refine ⟨dmaS { dmaX with issued := 6 } (hdD 0 4096 0x100000ffa 0x50000 0), 7, _, 0x40020, _, 512, rfl, ?_, ?_,
        ?_, ?_, rfl, ?_, ?_, ?_, ?_, ?_, ?_, ?_⟩ <;> decide +kernel
  · refine ⟨dmaS dmaX (hdD 1 5 0x100000ffa 0x50000 0), 7, dmaX, 0x40020, _, 5, [8, 7, 6, 5, 4], .hdmaOut 7, ?_, ?_,
        ?_, ?_, ?_, ?_, rfl, ?_, ?_, ?_, ?_, ?_⟩ <;> decide +kernel
  · refine ⟨dmaS { dmaX with prod := 0 } (hdD 3 0 0 0 0), 7, _, 0x40020, _, .hdmaNop 7, rfl, ?_, ?_, rfl, ?_, ?_⟩ <;> decide +kernel
  · refine ⟨intS, 7, intD, ?_, ?_, ?_, ?_, ?_, ?_, ?_⟩ <;> decide +kernel
  · refine ⟨dmaS { dmaX with ahead := 1, pos := 0 } (hdD 3 0 0 0 0), 7, _, _, rfl, ?_, ?_, ?_, ?_, rfl, ?_, ?_, ?_⟩ <;> decide +kernel
  · refine ⟨noBme (dmaS dmaX (hdD 3 0 0 0 0)), 7, .hdmaNop 7, ?_, ?_⟩ <;> decide +kernel

theorem witness_LinkWork :
    (∃ (s u : State) (c : Fin 8) (x : DmaCh) (r : DmaRead) (l : List DmaRead) (bs : List Byte),
       s.power.perst = false ∧ s.hif.linkUp = true ∧ x = s.dma c.val ∧ x.stale = [] ∧ x.reads = r :: l ∧
       bs.length ≤ r.bytes ∧ writeMem (.hdma c) r.dev bs false s = (.ok, u)) ∧
    (∃ (s : State) (c : Fin 8) (x : DmaCh) (r : DmaRead) (l : List DmaRead) (bs : List Byte)
       (st : CplStatus), sized s = true ∧ s.power.perst = false ∧ s.hif.linkUp = true ∧ x = s.dma c.val ∧
       x.stale = [] ∧ x.reads = r :: l ∧ r.desc = 0 ∧ st ≠ .sc ∧ (∀ i < hdPending x, bitAt (peekNat s
       (hdAddr x i) 32) 22 = false)) ∧
    (∃ (s : State) (c : Fin 8) (x : DmaCh) (r : DmaRead) (l : List DmaRead), sized s = true ∧ x = s.dma
       c.val ∧ x.reads = r :: l ∧ r.desc = 0 ∧ s.hif.cplOff = false ∧ r.since + cplTicks s.hif.cplRange ≤
       s.up ∧ (∀ i < hdPending x, bitAt (peekNat s (hdAddr x i) 32) 22 = false)) ∧
    (∃ (s : State) (c : Fin 8), (∀ r ∈ (s.dma c.val).reads.head?, s.up < r.since + cplTicks s.hif.cplRange)) ∧
    (∃ (s : State) (c : Fin 8) (y : DmaStale) (l : List DmaStale) (bs : List Byte), s.power.perst = false ∧
       s.hif.linkUp = true ∧ (s.dma c.val).stale = y :: l ∧ y.late = false ∧ bs.length < y.bytes) ∧
    (∃ (s : State) (c : Fin 8) (x : DmaCh) (i : Instr) (d j k : Nat), sized s = true ∧ x = s.dma c.val ∧
       dmaRuns s c.val = true ∧ x.ahead = 0 ∧ hdPending x = 1 ∧ readable s (.hdma c) (hdAddr x 0) 32 = true
       ∧ d = peekNat s (hdAddr x 0) 32 ∧ hdBad d = true ∧ bitAt d 22 = true ∧ j = fld d 15 8 ∧ k = fld d 21
       16 ∧ (s.slot j k).state = .valid ∧ i ∈ [Instr.hdmaIn c, .hdmaNop c]) ∧
    (∃ (s : State) (v : Nat) (l : List Nat), s.hif.msixReq = v :: l ∧ vecOpen s v = true ∧ linkOpen
       s = true) ∧
    (∃ (s : State) (v : Nat) (l : List Nat), s.hif.msixReq = v :: l ∧ vecOpen s v = false) ∧
    (∃ s : State, (s.hif.msixReq = [] ∨ linkOpen s = false ∧ ∃ v ∈ s.hif.msixReq.head?, vecOpen s v = true)) ∧
    (∃ (s : State) (v : Fin 256), sized s = true ∧ barWr s = true ∧ (∀ k < 256, k ≠ v.val →
       (s.vec k).pending = true → vecOpen s k = false)) ∧
    (∃ s : State, cfgOpen s = true ∧ s.hif.bme = true ∧ (∀ k < 8, (s.dma k).state ≠ .run)) ∧
    (∃ s : State, sized s = true ∧ cfgOpen s = true ∧ s.hif.bme = true) ∧
    (∃ s : State, sized s = true ∧ cfgOpen s = true ∧ s.hif.bme = false) ∧
    (∃ s : State, (cfgOpen s = false ∨ s.hif.bme = false)) ∧
    (∃ s : State, (cfgOpen s = false ∨ s.hif.bme = true)) := by
  refine ⟨?_, ?_, ?_, ?_, ?_, ?_, ?_, ?_, ?_, ?_, ?_, ?_, ?_, ?_, ?_⟩
  · refine ⟨dmaS { dmaX with reads := [rdX, rdX] } 0, _, 7, _, rdX, [rdX], [1, 2], ?_, ?_, rfl, ?_, ?_, ?_, fst_pair
        ?_⟩ <;> decide +kernel
  · refine ⟨dmaS { dmaX with reads := [rdX, rdX] } 0, 7, _, rdX, [rdX], [1, 2, 3], .ca, ?_, ?_, ?_, rfl, ?_, ?_, ?_,
        ?_, ?_⟩ <;> decide +kernel
  · refine ⟨dmaLate, 7, _, rdX, [rdX], ?_, rfl, ?_, ?_, ?_, ?_, ?_⟩ <;> decide +kernel
  · refine ⟨dmaS { dmaX with reads := [{ rdX with since := 4990 }] } 0, 7, ?_⟩ <;> decide +kernel
  · refine ⟨dmaS { dmaX with stale := [{ bytes := 4, counts := true, late := false }] } 0, 7,
        { bytes := 4, counts := true, late := false }, [], [1, 2, 3], ?_, ?_, ?_, ?_, ?_⟩ <;> decide +kernel
  · refine ⟨depDS, 7, _, .hdmaNop 7, depD, 127, 63, ?_, rfl, ?_, ?_, ?_, ?_, ?_, ?_, ?_, ?_, ?_, ?_, ?_⟩ <;> decide +kernel
  · refine ⟨msiS (fun x => { x with masked := false }) [255, 1], 255, [1], ?_, ?_, ?_⟩ <;> decide +kernel
  · refine ⟨msiS (fun x => { x with masked := true }) [255, 1], 255, [1], ?_, ?_⟩ <;> decide +kernel
  · refine ⟨msiS id [], ?_⟩ <;> decide +kernel
  · refine ⟨msiS (fun x => { x with masked := true, pending := true }) [1], 255, ?_, ?_, ?_⟩ <;> decide +kernel
  · refine ⟨msiS id [1, 2], ?_, ?_, ?_⟩ <;> decide +kernel
  · refine ⟨dmaS { dmaX with reads := [rdX] } 0, ?_, ?_, ?_⟩ <;> decide +kernel
  · refine ⟨noBme (msiS (fun x => { x with masked := false, pending := true }) []), ?_, ?_, ?_⟩ <;> decide +kernel
  · refine ⟨noBme (msiS id [1]), ?_⟩ <;> decide +kernel
  · refine ⟨msiS id [1], ?_⟩ <;> decide +kernel

theorem witness_Resets :
    (∃ s : State, s.power.perst = false) ∧
    (∃ s : State, s.power.perst = true) ∧
    (∃ (s : State) (i : Instr) (hot : Bool), sized s = true ∧ (i = .functionLevelReset ∧ hot = false ∧
       cfgOpen s = true ∨ i = .hotReset ∧ hot = true ∧ s.power.booted = true ∧ s.power.perst = false ∧
       s.hif.linkUp = true)) ∧
    (∃ (s : State) (i : Instr) (hot : Bool), sized s = true ∧ (i = .functionLevelReset ∧ hot = false ∧
       cfgOpen s = true ∨ i = .hotReset ∧ hot = true ∧ s.power.booted = true ∧ s.power.perst = false ∧
       s.hif.linkUp = true)) ∧
    (∃ s : State, sized s = true ∧ cfgOpen s = true ∧ (∀ u < 4, (s.sclUnit u).cmd = none) ∧ (∀ m < 7,
       (s.clu m).cmd = none) ∧ s.bist.slice = none ∧ s.mgt.takeover = []) ∧
    (∃ s : State, cfgOpen s = false) ∧
    (∃ (s : State) (h : Bool), s.power.reset = some h ∧ s.ktl.epoch = none) ∧
    (∃ s : State, (s.ktl.epoch.isSome = true ∨ s.power.reset = none)) ∧
    (∃ s : State, sized s = true ∧ s.hif.linkUp = true ∧ s.power.booted = true ∧ s.mgt.safe = false ∧ (∀ n
       < 24, s.sched.after.getD n none = none)) ∧
    (∃ s : State, sized s = true ∧ s.hif.linkUp = true ∧ s.power.booted = true ∧ s.mgt.safe = false ∧ (∀ n
       < 24, (s.core n).job = none) ∧ (∀ k < 8, (s.dma k).state ≠ .run)) ∧
    (∃ s : State, s.hif.linkUp = false) ∧
    (∃ s : State, s.power.perst = false ∧ s.fuse.life ≠ .scrap) ∧
    (∃ s : State, (s.power.perst = true ∨ s.fuse.life = .scrap)) := by
  refine ⟨?_, ?_, ?_, ?_, ?_, ?_, ?_, ?_, ?_, ?_, ?_, ?_, ?_⟩
  · refine ⟨{ workS with mem := memOf [(0x40, 4, 77), (0x300000000, 1, 3)], hbm := { workS.hbm with inSr := true, keep := 0 } },
        ?_⟩ <;> decide +kernel
  · refine ⟨State.reset, ?_⟩ <;> decide +kernel
  · refine ⟨workS, .hotReset, true, ?_, ?_⟩ <;> decide +kernel
  · refine ⟨workS, .functionLevelReset, false, ?_, ?_⟩ <;> decide +kernel
  · refine ⟨workS, ?_, ?_, ?_, ?_, ?_, ?_⟩ <;> decide +kernel
  · refine ⟨noLink, ?_⟩ <;> decide +kernel
  · refine ⟨{ openS with power := { openS.power with reset := some true } }, true, ?_, ?_⟩ <;> decide +kernel
  · refine ⟨timeS 5000 fun s =>
        { s with ktl := { s.ktl with epoch := some { target := 1, beat := none, planned := true, byCap := false, decision := none } } },
        ?_⟩ <;> decide +kernel
  · refine ⟨workS, ?_, ?_, ?_, ?_, ?_⟩ <;> decide +kernel
  · refine ⟨openS, ?_, ?_, ?_, ?_, ?_, ?_⟩ <;> decide +kernel
  · refine ⟨noLink, ?_⟩ <;> decide +kernel
  · refine ⟨{ noLink with hif := { noLink.hif with badLanes := 0x20 } }, ?_, ?_⟩ <;> decide +kernel
  · refine ⟨State.reset, ?_⟩ <;> decide +kernel

theorem witness_Bringup :
    (∃ (s : State) (b : BootInfo) (bad : List Defect) (f : FwImage) (sl : Bool), sized s = true ∧
       s.power.perst = true ∧ b.fuseOk = true ∧ badCount s.fuse.badCore ≤ 4 ∧ s.fuse.variant ≠ 3 ∧
       s.fuse.nextLife.getD s.fuse.life ≠ .scrap ∧ b.pllLock = true ∧ windowFail b.window = none ∧ b.fails
       = [] ∧ b.ucodeOk = true ∧ bad = (match defectCopy s.flash with | some c => c.entries | none => []) ∧
       goodUnits 1 28 s.fuse.badCore bad [] 14 ≠ [] ∧ goodUnits 2 9 s.fuse.badDec bad [] 14 ≠ []) ∧
    (∃ (s : State) (b : BootInfo), s.power.perst = true ∧ b.slotA = none ∧ b.slotB = none) ∧
    (∃ (s : State) (b : BootInfo) (st cd : Nat), s.power.perst = true ∧ (b.fuseOk = false ∧ st = 3 ∧ cd = 3
       ∨ b.fuseOk = true ∧ badCount s.fuse.badCore ≤ 4 ∧ s.fuse.variant ≠ 3 ∧ s.fuse.nextLife.getD
       s.fuse.life ≠ .scrap ∧ b.pllLock = false ∧ st = 4 ∧ cd = 7)) ∧
    (∃ (s : State) (b : BootInfo) (f : WindowFail), s.power.perst = true ∧ b.fuseOk = true ∧ badCount
       s.fuse.badCore ≤ 4 ∧ s.fuse.variant ≠ 3 ∧ s.fuse.nextLife.getD s.fuse.life ≠ .scrap ∧
       b.pllLock = true ∧ windowFail b.window = some f) ∧
    (∃ (s : State) (b : BootInfo), s.power.perst = false) ∧
    (∃ (s : State) (m : WindowMeas) (n : Nat) (b : BootInfo) (f : WindowFail), s.power.window = some (n, b)
       ∧ windowFail m = some f ∧ n + 1 < 100) ∧
    (∃ (s : State) (m : WindowMeas) (n : Nat) (b : BootInfo) (f : WindowFail), s.power.window = some (n, b)
       ∧ windowFail m = some f ∧ 100 ≤ n + 1) ∧
    (∃ (s : State) (m : WindowMeas) (n : Nat) (b : BootInfo) (x : BootFail), s.power.window = some (n, b) ∧
       windowFail m = none ∧ s.mgt.bootQuick = false ∧ b.fails = [x] ∧ 6 ≤ x.step ∧ x.step ≤ 8 ∧ spared
       x = false ∧ laneOnly x = false) ∧
    (∃ (s : State) (m : WindowMeas), s.power.window = none) := by
  refine ⟨?_, ?_, ?_, ?_, ?_, ?_, ?_, ?_, ?_⟩
  · refine ⟨offS, bootB true, _, someFw, false, ?_, ?_, ?_, ?_, ?_, ?_, ?_, ?_, ?_, ?_, rfl, ?_, ?_⟩ <;> decide +kernel
  · refine ⟨State.reset, bootB false, ?_, ?_, ?_⟩ <;> decide +kernel
  · refine ⟨offS, { bootB true with pllLock := false }, 4, 7, ?_, ?_⟩ <;> decide +kernel
  · refine ⟨offS, { bootB true with window := badWin }, ⟨4, 4, 18, 421⟩, ?_, ?_, ?_, ?_, ?_, ?_, ?_⟩ <;> decide +kernel
  · refine ⟨openS, bootB true, ?_⟩ <;> decide +kernel
  · refine ⟨{ State.reset with power := { State.reset.power with perst := false, window := some (98, bootB true) } },
        badWin, 98, bootB true, ⟨4, 4, 18, 421⟩, ?_, ?_, ?_⟩ <;> decide +kernel
  · refine ⟨{ State.reset with power := { State.reset.power with perst := false, window := some (99, bootB true) } },
        badWin, 99, bootB true, ⟨4, 4, 18, 421⟩, ?_, ?_, ?_⟩ <;> decide +kernel
  · refine ⟨{ State.reset with power := { State.reset.power with perst := false, window := some (3, bootF) } },
        goodWin, 3, bootF, badF, ?_, ?_, ?_, ?_, ?_, ?_, ?_, ?_⟩ <;> decide +kernel
  · refine ⟨State.reset, goodWin, ?_⟩ <;> decide +kernel

theorem witness_SelfTestSlices :
    (∃ (s : State) (v : W32), barWr s = true ∧ s.bist.slice = none ∧ rfld v 2 0 < 6 ∧ (isField s = false ∨
       s.sec.session.isSome = true)) ∧
    (∃ (s : State) (v : W32), sized s = true ∧ barWr s = true ∧ s.bist.slice.isSome = true) ∧
    (∃ (s : State) (v : W32), barWr s = true ∧ s.bist.slice = none ∧ rfld v 2 0 < 6 ∧ isField s = true ∧
       s.sec.session = none) ∧
    (∃ (s : State) (v : W32), sized s = true ∧ barWr s = true ∧ s.bist.slice = none ∧ 6 ≤ rfld v 2 0 ∧
       isField s = true ∧ s.sec.session = none) ∧
    (∃ (s : State) (x : Slice), s.bist.slice = some x ∧ x.started = false ∧ (x.due = 0 ∨ s.now = x.due) ∧
       s.mgt.safe = false ∧ sliceTargetOk s x = true ∧ sliceBusyNow s x = false ∧
       (x.preserve = true → x.segment ≠ 16)) ∧
    (∃ (s : State) (x : Slice), s.bist.slice = some x ∧ x.started = false ∧ (x.due = 0 ∨ s.now = x.due) ∧
       (s.mgt.safe = true ∨ sliceTargetOk s x = true ∧ sliceBusyNow s x = true)) ∧
    (∃ (s : State) (x : Slice), s.bist.slice = some x ∧ x.started = false ∧ (x.due = 0 ∨ s.now = x.due) ∧
       s.mgt.safe = false ∧ sliceTargetOk s x = false) ∧
    (∃ (s : State) (x : Slice), sized s = true ∧ s.bist.slice = some x ∧ x.started = true ∧ x.kind ≤ 1 ∧
       x.segment ≠ 16) ∧
    (∃ (s : State) (x : Slice) (p : Nat), sized s = true ∧ s.bist.slice = some x ∧ x.started = true ∧
       x.kind = 0 ∧ x.segment = 16 ∧ p = physCore s x.index) ∧
    (∃ (s : State) (x : Slice), sized s = true ∧ s.bist.slice = some x ∧ x.started = true ∧ x.kind = 0 ∧
       x.segment ≠ 16 ∧ x.index < 24 ∧ inTakeover s x.index = false ∧ coreAbsent s x.index = false ∧
       s.mgt.coreMap.length = 24 ∧ (chooseSpare s (physCore s x.index)).isSome = true) ∧
    (∃ (s : State) (x : Slice), sized s = true ∧ s.bist.slice = some x ∧ x.started = true ∧ x.kind = 3) ∧
    (∃ s : State, s.bist.slice = none) ∧
    (∃ (s : State) (b : Bool), s.bist.slice = none) := by
  refine ⟨?_, ?_, ?_, ?_, ?_, ?_, ?_, ?_, ?_, ?_, ?_, ?_, ?_⟩
  · refine ⟨sliceS none id, 0x6ff8, ?_, ?_, ?_, ?_⟩ <;> decide +kernel
  · refine ⟨sliceS (some (sliceX 0 23 false)) id, 0, ?_, ?_, ?_⟩ <;> decide +kernel
  · refine ⟨sliceS none (fun s => { s with fuse := { s.fuse with life := .field } }), 0, ?_, ?_, ?_, ?_, ?_⟩ <;> decide +kernel
  · refine ⟨sliceS none (fun s => { s with fuse := { s.fuse with life := .field } }), 7, ?_, ?_, ?_, ?_, ?_, ?_⟩ <;> decide +kernel
  · refine ⟨sliceS (some (sliceX 0 23 false)) id, sliceX 0 23 false, ?_, ?_, ?_, ?_, ?_, ?_, ?_⟩ <;> decide +kernel
  · refine ⟨sliceS (some (sliceX 0 23 false)) (fun s => { s with cores := workS.cores }), sliceX 0 23 false, ?_, ?_,
        ?_, ?_⟩ <;> decide +kernel
  · refine ⟨sliceS (some (sliceX 0 24 false)) id, sliceX 0 24 false, ?_, ?_, ?_, ?_, ?_⟩ <;> decide +kernel
  · refine ⟨sliceS (some (sliceX 0 23 true)) id, sliceX 0 23 true, ?_, ?_, ?_, ?_, ?_⟩ <;> decide +kernel
  · refine ⟨sliceM, sliceMX, 23, ?_, ?_, ?_, ?_, ?_, ?_⟩ <;> decide +kernel
  · refine ⟨sliceS (some (sliceX 0 23 true)) id, sliceX 0 23 true, ?_, ?_, ?_, ?_, ?_, ?_, ?_, ?_, ?_, ?_⟩ <;> decide +kernel
  · refine ⟨sliceS (some (sliceX 3 8 true)) id, sliceX 3 8 true, ?_, ?_, ?_, ?_⟩ <;> decide +kernel
  · refine ⟨workS, ?_⟩ <;> decide +kernel
  · refine ⟨workS, true, ?_⟩ <;> decide +kernel

theorem witness_SparesAndDefects :
    (∃ (s : State) (u : Unit') (x : Takeover), takeoverOf s u = some x ∧ x.stage = .powering ∧
       x.spare.isSome = true) ∧
    (∃ (s : State) (u : Unit') (x : Takeover), takeoverOf s u = some x ∧ x.stage = .testing ∧ x.goodAt ≤
       s.up) ∧
    (∃ (s : State) (u : Unit'), ((takeoverOf s u).all fun x => x.stage != .powering ||
       x.spare.isNone) = true) ∧
    (∃ (s : State) (u : Unit') (b : Bool), ((takeoverOf s u).all fun x => x.stage != .testing || decide
       (s.up < x.goodAt)) = true) ∧
    (∃ (s : State) (n : Fin 24) (x : Takeover), sized s = true ∧ takeoverOf s (.core n) = some x ∧
       x.stage = .testing ∧ x.goodAt ≤ s.up ∧ (chooseSpare s x.failed).isSome = true ∧ (∀ y ∈
       s.mgt.takeover, y.target = .core n → y = x)) ∧
    (∃ (s : State) (k : Fin 8) (x : Takeover), sized s = true ∧ takeoverOf s (.dec k) = some x ∧
       x.stage = .testing ∧ x.goodAt ≤ s.up ∧ s.mgt.decSpares = [] ∧ s.mgt.decMap.length = 8) ∧
    (∃ (s : State) (u : Unit') (x : Takeover) (sp : Nat), sized s = true ∧ takeoverOf s u = some x ∧
       x.stage = .mapping ∧ x.saveDone = true ∧ x.spare = some sp ∧ x.hasJob = false ∧ s.now % 1100 = 0 ∧
       (∀ e ∈ s.ktl.epoch, e.beat ≠ some s.beat) ∧ (s.ktl.epoch = none → s.ktl.epochLast ≠ some s.up) ∧
       s.mgt.coreMap.length = 24 ∧ s.mgt.decMap.length = 8 ∧ s.mgt.encMap.length = 4) ∧
    (∃ (s : State) (u : Unit') (x : Takeover), takeoverOf s u = some x ∧ (x.stage ≠ .mapping ∨
       x.saveDone = false ∨ s.now % 1100 ≠ 0 ∨ (∃ e ∈ s.ktl.epoch, e.beat = some s.beat) ∨
       s.ktl.epoch = none ∧ s.ktl.epochLast = some s.up)) ∧
    (∃ (s : State) (k : Fin 8) (e : Nat), s.dec.kat.getD k.val none = some e ∧ e ≤ s.up) ∧
    (∃ (s : State) (k : Fin 8) (b : Bool), (∀ e ∈ s.dec.kat.getD k.val none, s.up < e)) ∧
    (∃ (s : State) (k : Fin 8) (e : Nat), sized s = true ∧ s.dec.kat.getD k.val none = some e ∧ e ≤ s.up ∧
       s.mgt.decMap.length = 8 ∧ decState s k.val = .ok ∧ s.mgt.decSpares ≠ [] ∧ s.dec.busy.getD k.val
       none = none) ∧
    (∃ (s : State) (c d : DefectCopy), s.power.booted = true ∧ recordDue s.flash = true ∧ defectCopy
       s.flash = some c ∧ c.entries.length + s.flash.unsaved.length ≤ 254 ∧ d =
       { seq := (max s.flash.copyA.seq s.flash.copyB.seq + 1) % 2 ^ 32, entries := c.entries ++ s.flash.unsaved, valid := true }) ∧
    (∃ (s : State) (c : DefectCopy), sized s = true ∧ s.power.booted = true ∧ recordDue s.flash = true ∧
       defectCopy s.flash = some c ∧ 254 ≤ c.entries.length) ∧
    (∃ s : State, sized s = true ∧ s.power.booted = true ∧ recordDue s.flash = true) ∧
    (∃ (s : State) (i : Instr), (s.power.booted = false ∨ recordDue s.flash = false) ∧ i ∈
       [Instr.defectRecordWrite, .flashTimeout]) := by
  refine ⟨?_, ?_, ?_, ?_, ?_, ?_, ?_, ?_, ?_, ?_, ?_, ?_, ?_, ?_, ?_⟩
  · refine ⟨takeS (.enc 3) .powering, .enc 3, takeX (.enc 3) .powering, ?_, ?_, ?_⟩ <;> decide +kernel
  · refine ⟨takeS (.dec 7) .testing, .dec 7, takeX (.dec 7) .testing, ?_, ?_, ?_⟩ <;> decide +kernel
  · refine ⟨takeS (.dec 7) .testing, .dec 7, ?_⟩ <;> decide +kernel
  · refine ⟨takeS (.dec 7) .powering, .dec 7, true, ?_⟩ <;> decide +kernel
  · refine ⟨takeS (.core 23) .testing, 23, takeX (.core 23) .testing, ?_, ?_, ?_, ?_, ?_, ?_⟩ <;> decide +kernel
  · refine ⟨noDecSpare, 7, takeX (.dec 7) .testing, ?_, ?_, ?_, ?_, ?_, ?_⟩ <;> decide +kernel
  · refine ⟨takeS (.core 23) .mapping, .core 23, takeX (.core 23) .mapping, 24, ?_, ?_, ?_, ?_, ?_, ?_, ?_, ?_, ?_,
        ?_, ?_, ?_⟩ <;> decide +kernel
  · refine ⟨takeEpoch, .core 23, takeX (.core 23) .mapping, ?_, ?_⟩ <;> decide +kernel
  · refine ⟨unitS (fun s => { s with dec := { s.dec with kat := updAt s.dec.kat 7 fun _ => some 6600 } }), 7, 6600,
        ?_, ?_⟩ <;> decide +kernel
  · refine ⟨unitS (fun s => { s with dec := { s.dec with kat := updAt s.dec.kat 7 fun _ => some 6601 } }), 7, false,
        ?_⟩ <;> decide +kernel
  · refine ⟨unitS (fun s => { s with dec := { s.dec with kat := updAt s.dec.kat 7 fun _ => some 6600 } }), 7, 6600,
        ?_, ?_, ?_, ?_, ?_, ?_, ?_⟩ <;> decide +kernel
  · refine ⟨flashS, { seq := 7, entries := [], valid := true }, _, ?_, ?_, ?_, ?_, rfl⟩ <;> decide +kernel
  · refine ⟨flashFull, { seq := 7, entries := List.replicate 254 defX, valid := true }, ?_, ?_, ?_, ?_, ?_⟩ <;> decide +kernel
  · refine ⟨flashS, ?_, ?_, ?_⟩ <;> decide +kernel
  · refine ⟨timeS 5000 id, .flashTimeout, ?_, ?_⟩ <;> decide +kernel

theorem witness_FaultsAndSafeState :
    (∃ (s : State) (p : Page), barWr s = true) ∧
    (∃ s : State, barWr s = true) ∧
    (∃ (s : State) (p : Page) (b : Fin 32), sized s = true ∧ s.power.booted = true ∧ s.power.perst = false
       ∧ hwCond p b.val = true) ∧
    (∃ (s : State) (p : Page) (b : Fin 32), (s.power.booted = false ∨ s.power.perst = true ∨ hwCond p b.val
       = false)) ∧
    (∃ (s : State) (a c : Nat), sized s = true ∧ s.mgt.safeDue = some (a, c) ∧ (∀ n < 24,
       s.sched.after.getD n none = none)) ∧
    (∃ s : State, s.mgt.safeDue = none) ∧
    (∃ (s : State) (n : Fin 32) (c : BitVec 8), sized s = true ∧ 115 ≤ c.toInt ∧ s.power.railsOk = true ∧
       s.power.perst = false ∧ s.power.therm = false ∧ s.mgt.safe = false) ∧
    (∃ (s : State) (n : Fin 32) (c : BitVec 8), (c.toInt < 115 ∨ s.power.therm = true ∨ s.power.perst =
       true)) ∧
    (∃ s : State, sized s = true ∧ barWr s = true ∧ s.mgt.quiesce = false ∧ (∀ n < 24, s.sched.after.getD n
       none = none)) ∧
    (∃ s : State, barWr s = true ∧ s.mgt.quiesce = true) ∧
    (∃ s : State, s.mgt.quiesce = true ∧ allIdle s = true) ∧
    (∃ s : State, (s.mgt.quiesce = false ∨ allIdle s = false)) ∧
    (∃ (s : State) (n : Fin 32) (c : BitVec 8) (w : BitVec 16), s.power.booted = true ∧ s.mgt.capEn = false) ∧
    (∃ (s : State) (n : Fin 32) (c : BitVec 8) (w : BitVec 16), sized s = true ∧ s.power.booted = true ∧
       s.mgt.capEn = true ∧ s.ktl.epoch = none ∧ s.mgt.div < 3 ∧ (s.mgt.capC ≤ c.toInt ∨ powerLimit s ≤
       w.toNat)) ∧
    (∃ (s : State) (n : Fin 32) (c : BitVec 8) (w : BitVec 16), s.power.booted = true ∧ s.mgt.capEn = true
       ∧ s.ktl.epoch.isSome = true ∧ s.mgt.div < 3 ∧ (∀ e ∈ s.ktl.epoch, e.byCap = false) ∧ (s.mgt.capC ≤
       c.toInt ∨ powerLimit s ≤ w.toNat)) ∧
    (∃ (s : State) (d a : Nat), sized s = true ∧ s.power.booted = true ∧ s.mgt.capEn = true ∧
       s.mgt.capWait = some (d, a) ∧ a ≤ s.up ∧ s.ktl.epoch = none ∧ s.mgt.div ≤ d) ∧
    (∃ s : State, (s.mgt.capWait = none ∨ s.ktl.epoch.isSome = true)) ∧
    (∃ s : State, s.power.booted = true) ∧
    (∃ (s : State) (v i : Nat), s.power.booted = true) ∧
    (∃ (s : State) (mv : Nat), s.power.booted = true ∧ s.power.pmRetry = false ∧ 600 ≤ mv ∧ mv ≤ 800 ∧ mv ≤
       s.power.vddMv + 10 ∧ s.power.vddMv ≤ mv + 10 ∧ s.power.vddAt + 110000 ≤ s.up ∧ (s.mgt.vddRaise = 1 →
       s.power.vddMv ≤ mv) ∧ (s.mgt.vddLower = true → mv ≤ s.power.vddMv)) ∧
    (∃ (s : State) (mv : Nat), (mv < 600 ∨ 800 < mv ∨ s.power.vddMv + 10 < mv ∨ mv + 10 < s.power.vddMv ∨
       s.up < s.power.vddAt + 110000)) := by
  refine ⟨?_, ?_, ?_, ?_, ?_, ?_, ?_, ?_, ?_, ?_, ?_, ?_, ?_, ?_, ?_, ?_, ?_, ?_, ?_, ?_, ?_⟩
  · refine ⟨timeS 5000 (fun s => raise .fuse 0 (some 7#32) 3 s), .fuse, ?_⟩ <;> decide +kernel
  · refine ⟨timeS 5000 fun s => raise .fuse 0 (some 7#32) 3 s, ?_⟩ <;> decide +kernel
  · refine ⟨workS, .ktl, 3, ?_, ?_, ?_, ?_⟩ <;> decide +kernel
  · refine ⟨workS, .ktl, 4, ?_⟩ <;> decide +kernel
  · refine ⟨{ workS with mgt := { workS.mgt with safeDue := some (6600, 3) } }, 6600, 3, ?_, ?_, ?_⟩ <;> decide +kernel
  · refine ⟨workS, ?_⟩ <;> decide +kernel
  · refine ⟨workS, 31, 115, ?_, ?_, ?_, ?_, ?_, ?_⟩ <;> decide +kernel
  · refine ⟨workS, 31, 114, ?_⟩ <;> decide +kernel
  · refine ⟨workS, ?_, ?_, ?_, ?_⟩ <;> decide +kernel
  · refine ⟨timeS 5000 fun s => { s with mgt := { s.mgt with quiesce := true } }, ?_, ?_⟩ <;> decide +kernel
  · refine ⟨timeS 5000 fun s => { s with mgt := { s.mgt with quiesce := true } }, ?_, ?_⟩ <;> decide +kernel
  · refine ⟨workS, ?_⟩ <;> decide +kernel
  · refine ⟨capS (fun m => { m with capEn := false }), 31, 0x80, 65535, ?_, ?_⟩ <;> decide +kernel
  · refine ⟨capS (fun m => { m with div := 1, bank9 := 7, bank9En := true }), 31, 100, 0, ?_, ?_, ?_, ?_, ?_, ?_⟩ <;> decide +kernel
  · refine ⟨capE, 31, 100, 0, ?_, ?_, ?_, ?_, ?_, ?_⟩ <;> decide +kernel
  · refine ⟨capS (fun m => { m with div := 1, capWait := some (2, 5000) }), 2, 5000, ?_, ?_, ?_, ?_, ?_, ?_, ?_⟩ <;> decide +kernel
  · refine ⟨capE, ?_⟩ <;> decide +kernel
  · refine ⟨openS, ?_⟩ <;> decide +kernel
  · refine ⟨openS, 760, 5, ?_⟩ <;> decide +kernel
  · refine ⟨timeS 110000 id, 740, ?_, ?_, ?_, ?_, ?_, ?_, ?_, ?_, ?_⟩ <;> decide +kernel
  · refine ⟨timeS 110000 id, 761, ?_⟩ <;> decide +kernel

theorem witness_IdentityAndSessions :
    (∃ (s : State) (p : Port), sized s = true ∧ portOpen s p = true ∧ s.fuse.life ≠ .scrap ∧
       s.fuse.seedLock = true) ∧
    (∃ (s : State) (p : Port), sized s = true ∧ portOpen s p = true ∧ (s.fuse.life = .field ∨ s.fuse.life =
       .return_) ∧ s.sec.mboxLen = 64 ∧ s.sec.mbox.length = 2048) ∧
    (∃ (s : State) (p : Port) (i : Instr) (o r : Nat), sized s = true ∧ portOpen s p = true ∧
       (i = .getIdentity p ∧ o = 1 ∧ (s.fuse.life = .scrap ∧ r = 2 ∨ s.fuse.life ≠ .scrap ∧
       s.fuse.seedLock = false ∧ r = 7) ∨ i = .attest p ∧ o = 2 ∧ (s.fuse.life = .scrap ∧ r = 2 ∨
       s.fuse.life = .test ∧ r = 2 ∨ (s.fuse.life = .field ∨ s.fuse.life = .return_) ∧ s.sec.mboxLen ≠ 64 ∧
       r = 3))) ∧
    (∃ (s : State) (w : W32), barWr s = true) ∧
    (∃ s : State, barOpen s = true) ∧
    (∃ (s : State) (p : Port) (n : Nat), sized s = true ∧ portOpen s p = true ∧ s.sec.session = none ∧
       s.sec.lockUntil ≤ s.up ∧ 32 ≤ s.sec.mboxLen ∧ s.sec.mboxLen ≤ 256 ∧ ownerSlot s = some n ∧
       s.fuse.owner.getD n none = some (digest (secArg s))) ∧
    (∃ (s : State) (p : Port) (k : Nat), sized s = true ∧ portOpen s p = true ∧ s.sec.session = none ∧
       s.sec.lockUntil ≤ s.up ∧ 32 ≤ s.sec.mboxLen ∧ s.sec.mboxLen ≤ 256 ∧ (∀ n ∈ ownerSlot s,
       s.fuse.owner.getD n none ≠ some (digest (secArg s))) ∧ k = min 255 (s.sec.fails + 1)) ∧
    (∃ (s : State) (p : Port) (r : Nat), sized s = true ∧ portOpen s p = true ∧
       (s.sec.session.isSome = true ∧ r = 2 ∨ s.sec.session = none ∧ s.up < s.sec.lockUntil ∧ r = 4 ∨
       s.sec.session = none ∧ s.sec.lockUntil ≤ s.up ∧ (s.sec.mboxLen < 32 ∨ 256 < s.sec.mboxLen) ∧ r = 3)) ∧
    (∃ (s : State) (p : Port), sized s = true ∧ portOpen s p = true ∧ s.sec.session = some p) := by
  refine ⟨?_, ?_, ?_, ?_, ?_, ?_, ?_, ?_, ?_⟩
  · refine ⟨secS (fun c => { c with mboxLen := 3 }) (fun f => { f with seedLock := true }), .smbus, ?_, ?_, ?_, ?_⟩ <;> decide +kernel
  · refine ⟨secS (fun c => { c with mboxLen := 64 }) (fun f => { f with life := .field }), .bar0, ?_, ?_, ?_, ?_, ?_⟩ <;> decide +kernel
  · refine ⟨secS (fun c => { c with mboxLen := 65 }) (fun f => { f with life := .return_ }), .bar0, .attest .bar0, 2,
        3, ?_, ?_, ?_⟩ <;> decide +kernel
  · refine ⟨secS (fun c => { c with mboxAddr := 2047 }) id, 0xffffffff, ?_⟩ <;> decide +kernel
  · refine ⟨secS (fun c => { c with mboxAddr := 2047, mbox := updAt c.mbox 2047 fun _ => 7#32 }) id, ?_⟩ <;> decide +kernel
  · refine ⟨secS (fun c => { c with mboxLen := 32, fails := 3 }) (own 3 (digest (secArg (secS (fun c =>
        { c with mboxLen := 32, fails := 3 }) id)))), .smbus, 3, ?_, ?_, ?_, ?_, ?_, ?_, ?_, rfl⟩ <;> decide +kernel
  · refine ⟨secS (fun c => { c with mboxLen := 256, fails := 255 }) id, .bar0, 255, ?_, ?_, ?_, ?_, ?_, ?_, ?_, ?_⟩ <;> decide +kernel
  · refine ⟨secS (fun c => { c with lockUntil := 5001 }) id, .bar0, 4, ?_, ?_, ?_⟩ <;> decide +kernel
  · refine ⟨secS (fun c => { c with session := some .smbus }) id, .smbus, ?_, ?_, ?_⟩ <;> decide +kernel

theorem witness_FusesAreBurned :
    (∃ (s : State) (p : Port) (w : FuseWrite) (l : Life) (i : Instr) (o : Nat), sized s = true ∧ portOpen s
       p = true ∧ s.sec.session ≠ some p ∧ (i, o) ∈ [(Instr.closeSession p, 0x11), (.advanceSvn p, 0x21),
       (.fuseWrite p w, 0x22), (.setLifeCycle p l, 0x30), (.debugUnlock p, 0x31),
       (.clearDefectRecord p, 0x41)]) ∧
    (∃ (s : State) (p : Port) (n : Nat), sized s = true ∧ portOpen s p = true ∧ s.sec.mboxLen = 64 ∧
       (s.sec.session = some p ∨ (∀ o ∈ s.fuse.owner, o = none) ∧ s.fuse.life ≠ .field) ∧ n < 4 ∧
       s.fuse.owner.getD n none = none ∧ (∀ k < n, s.fuse.owner.getD k none ≠ none)) ∧
    (∃ (s : State) (p : Port) (r : Nat), sized s = true ∧ portOpen s p = true ∧ (s.fuse.life = .field ∨ ∃ o
       ∈ s.fuse.owner, o.isSome = true) ∧ (s.sec.session ≠ some p ∧ r = 1 ∨ s.sec.session = some p ∧
       s.sec.mboxLen ≠ 64 ∧ r = 3)) ∧
    (∃ (s : State) (p : Port), sized s = true ∧ portOpen s p = true ∧ s.sec.session = some p) ∧
    (∃ (s : State) (p : Port) (w : FuseWrite), sized s = true ∧ portOpen s p = true ∧ s.sec.session = some
       p ∧ s.fuse.life = .test) ∧
    (∃ (s : State) (p : Port) (l : Life), sized s = true ∧ portOpen s p = true ∧ s.sec.session = some p ∧
       (l = .scrap ∨ l = .return_ ∧ s.fuse.nextLife.getD s.fuse.life = .field ∨ l = .field ∧
       s.fuse.nextLife.getD s.fuse.life = .test ∧ s.fuse.seedLock = true ∧ ∃ o ∈ s.fuse.owner, o.isSome =
       true)) ∧
    (∃ (s : State) (p : Port), sized s = true ∧ portOpen s p = true ∧ s.sec.session = some p ∧
       (s.fuse.life = .field ∨ s.fuse.life = .return_)) ∧
    (∃ (s : State) (p : Port), sized s = true ∧ portOpen s p = true ∧ s.sec.session = some p ∧
       s.fuse.life = .test) ∧
    (∃ (s : State) (p : Port), sized s = true ∧ portOpen s p = true ∧ s.sec.session = some p ∧
       (s.fuse.life = .test ∨ s.fuse.life = .return_) ∧ max s.flash.copyA.seq s.flash.copyB.seq + 1 < 2 ^
       32) ∧
    (∃ (s : State) (p : Port) (w : FuseWrite) (l : Life) (i : Instr) (o : Nat), sized s = true ∧ portOpen s
       p = true ∧ s.sec.session = some p ∧ (i = .fuseWrite p w ∧ o = 0x22 ∧ s.fuse.life ≠ .test ∨
       i = .setLifeCycle p l ∧ o = 0x30 ∧ lifeOk s l = false ∨ i = .debugUnlock p ∧ o = 0x31 ∧
       s.fuse.life = .scrap ∨ i = .clearDefectRecord p ∧ o = 0x41 ∧ (s.fuse.life = .field ∨ s.fuse.life =
       .scrap))) := by
  refine ⟨?_, ?_, ?_, ?_, ?_, ?_, ?_, ?_, ?_, ?_⟩
  · refine ⟨inSess id, .bar0, .serial 7, .scrap, .clearDefectRecord .bar0, 0x41, ?_, ?_, ?_, ?_⟩ <;> decide +kernel
  · refine ⟨secS (fun c => { c with session := some .smbus, mboxLen := 64 }) (own 2 [1] ∘ own 1 [1] ∘ own 0 [1]),
        .smbus, 3, ?_, ?_, ?_, ?_, ?_, ?_, ?_⟩ <;> decide +kernel
  · refine ⟨secS (fun c => { c with session := some .smbus, mboxLen := 65 }) (own 2 [1]), .smbus, 3, ?_, ?_, ?_, ?_⟩ <;> decide +kernel
  · refine ⟨inSess (fun f => { f with svnFloor := 9 }), .smbus, ?_, ?_, ?_⟩ <;> decide +kernel
  · refine ⟨inSess id, .smbus, .seed [1, 2], ?_, ?_, ?_, ?_⟩ <;> decide +kernel
  · refine ⟨inSess (fun f => { f with life := .field }), .smbus, .return_, ?_, ?_, ?_, ?_⟩ <;> decide +kernel
  · refine ⟨inSess (fun f => { f with life := .field }), .smbus, ?_, ?_, ?_, ?_⟩ <;> decide +kernel
  · refine ⟨inSess id, .smbus, ?_, ?_, ?_, ?_⟩ <;> decide +kernel
  · refine ⟨inSess id, .smbus, ?_, ?_, ?_, ?_, ?_⟩ <;> decide +kernel
  · refine ⟨inSess (fun f => { f with life := .field }), .smbus, .seed [], .test, .setLifeCycle .smbus .test, 0x30,
        ?_, ?_, ?_, ?_⟩ <;> decide +kernel

theorem witness_BlockControl :
    (∃ (s : State) (p : Page) (on : Bool), sized s = true ∧ barWr s = true ∧ ctrlBad s p
       (ctrlWith s p 1 on) = false) ∧
    (∃ (s : State) (n : Fin 24), sized s = true ∧ barWr s = true ∧ ctrlBad s (.core n) (ctrlWith s
       (.core n) 1 true) = false ∧ haltOn s (.core n) = false ∧ s.sched.after.getD n.val none = none) ∧
    (∃ (s : State) (p : Page) (on : Bool) (b : Nat) (i : Instr), barWr s = true ∧ (i, b) ∈
       [(Instr.halt p on, 1), (.enable p on, 0)] ∧ ctrlBad s p (ctrlWith s p b on) = false ∧ p ∈ [Page.mgt,
       .sec, .ktl, .hif, .mesh, .hbm, .dec, .str, .spt, .csi 0, .csi 7]) ∧
    (∃ (s : State) (p : Page) (on : Bool), sized s = true ∧ barWr s = true ∧ ctrlBad s p
       (ctrlWith s p 0 on) = false) ∧
    (∃ (s : State) (p : Page) (on : Bool) (i : Instr), sized s = true ∧ barWr s = true ∧ (i = .halt p on ∧
       ctrlBad s p (ctrlWith s p 1 on) = true ∨ i = .enable p on ∧ ctrlBad s p (ctrlWith s p 0 on) = true)) ∧
    (∃ (s : State) (n : Fin 24) (on : Bool), barWr s = true ∧ ctrlBad s (.core n) (ctrlWith s (.core n) 2
       on) = false) ∧
    (∃ (s : State) (n : Fin 24), barWr s = true ∧ halted s (.core n) = true ∧ ctrlBad s (.core n) (ctrlWith
       s (.core n) 3 true) = false) ∧
    (∃ s : State, barWr s = true ∧ halted s .dec = true ∧ ctrlBad s .dec (ctrlWith s .dec 3 true) = false) ∧
    (∃ (s : State) (p : Page), sized s = true ∧ barWr s = true ∧ halted s p = false ∧ ctrlBad s p
       (ctrlWith s p 3 true) = false) ∧
    (∃ (s : State) (p : Page), barWr s = true ∧ bitAt (blkCaps p) 3 = true ∧ locked s p = false ∧ p ≠ .mesh) ∧
    (∃ s : State, barWr s = true ∧ locked s .mesh = false) ∧
    (∃ s : State, barWr s = true ∧ locked s .hbm = false) ∧
    (∃ s : State, barWr s = true ∧ locked s .ktl = false) ∧
    (∃ s : State, barWr s = true ∧ locked s .mesh = false) ∧
    (∃ (s : State) (p : Page), sized s = true ∧ barWr s = true ∧ bitAt (blkCaps p) 3 = true ∧ locked s
       p = false) ∧
    (∃ (s : State) (p : Page) (i : Instr), i ∈ [Instr.markComplete p, .discard p] ∧ sized s = true ∧ barWr
       s = true ∧ bitAt (blkCaps p) 3 = true ∧ locked s p = true) ∧
    (∃ (s : State) (p : Page) (i : Instr), i ∈ [Instr.markComplete p, .discard p] ∧ barWr s = true ∧ bitAt
       (blkCaps p) 3 = false) := by
  refine ⟨?_, ?_, ?_, ?_, ?_, ?_, ?_, ?_, ?_, ?_, ?_, ?_, ?_, ?_, ?_, ?_, ?_⟩
  · refine ⟨hdrS id, .cdy, true, ?_, ?_, ?_⟩ <;> decide +kernel
  · refine ⟨hdrS (fun s => { s with cores := updAt s.cores 23 fun x => { x with job := some job3, phase := .run } }),
        23, ?_, ?_, ?_, ?_, ?_⟩ <;> decide +kernel
  · refine ⟨hdrS id, .dec, true, 1, .halt .dec true, ?_, ?_, ?_, ?_⟩ <;> decide +kernel
  · refine ⟨hdrS id, .scl 3, false, ?_, ?_, ?_⟩ <;> decide +kernel
  · refine ⟨hdrS id, .fuse, true, .halt .fuse true, ?_, ?_, ?_⟩ <;> decide +kernel
  · refine ⟨hdrS (fun s => { s with cores := updAt s.cores 23 fun x => { x with drvFence := true } }), 23, false, ?_,
        ?_⟩ <;> decide +kernel
  · refine ⟨hdrS (fun s =>
        { s with hdrs := s.hdrs.map fun h => { h with halt := true }, cores := updAt s.cores 23 fun x => { x with stall := 5 } }),
        23, ?_, ?_, ?_⟩ <;> decide +kernel
  · refine ⟨hdrS (fun s => { s with hdrs := s.hdrs.map fun h => { h with halt := true } }), ?_, ?_, ?_⟩ <;> decide +kernel
  · refine ⟨hdrS id, .fuse, ?_, ?_, ?_, ?_⟩ <;> decide +kernel
  · refine ⟨hdrS id, .spt, ?_, ?_, ?_, ?_⟩ <;> decide +kernel
  · refine ⟨hdrS id, ?_, ?_⟩ <;> decide +kernel
  · refine ⟨hdrS (fun s => { s with hbm := { s.hbm with shRetrain := some 5 } }), ?_, ?_⟩ <;> decide +kernel
  · refine ⟨hdrS id, ?_, ?_⟩ <;> decide +kernel
  · refine ⟨hdrS id, ?_, ?_⟩ <;> decide +kernel
  · refine ⟨hdrS id, .spt, ?_, ?_, ?_, ?_⟩ <;> decide +kernel
  · refine ⟨armedS (2 ^ 45), .hif, .markComplete .hif, ?_, ?_, ?_, ?_, ?_⟩ <;> decide +kernel
  · refine ⟨hdrS id, .fuse, .markComplete .fuse, ?_, ?_, ?_⟩ <;> decide +kernel

theorem witness_HeadersAndPorts :
    (∃ (s : State) (p : Page) (v : W32), sized s = true ∧ barWr s = true) ∧
    (∃ (s : State) (p : Page) (off : Nat) (v : W32), barWr s = true ∧ off % 4 = 0 ∧ off < doorbellBase ∧
       pageOf off = some (p, 0x014)) ∧
    (∃ (s : State) (p : Page) (off : Nat) (v : W32), barWr s = true ∧ off % 4 = 0 ∧ off < doorbellBase ∧
       pageOf off = some (p, 0x010)) ∧
    (∃ (s : State) (p : Page) (off : Nat) (v : W32), barWr s = true ∧ off % 4 = 0 ∧ off < doorbellBase ∧
       pageOf off = some (p, 0x020)) ∧
    (∃ (s : State) (p : Page) (off : Nat) (v : W32), barWr s = true ∧ off % 4 = 0 ∧ off < doorbellBase ∧
       pageOf off = some (p, 0x000)) ∧
    (∃ (s : State) (p : Page) (off : Nat) (v : W32), barOpen s = true ∧ off % 4 = 0 ∧ off < doorbellBase ∧
       pageOf off = some (p, 0x040)) ∧
    (∃ (s : State) (v : W32), cfgOpen s = true) ∧
    (∃ (s : State) (v : W32), cfgOpen s = true ∧ rbit v 2 = s.hif.bme) ∧
    (∃ (s : State) (off : Nat) (v : W32) (sp : RegSpace), cfgOpen s = false ∧ s.hif.linkUp = true ∧
       s.power.perst = false ∧ sp ∈ [RegSpace.pciCommand, .msixControl, .deviceControl, .deviceControl2,
       .configRead]) ∧
    (∃ (s : State) (n : Nat) (v : W32), barWr s = true ∧ n < 256) ∧
    (∃ (s : State) (off : BitVec 24) (p : Page) (v : W32), smbOpen s = true ∧ s.power.booted = true ∧
       off.toNat % 4 = 0 ∧ pageOf off.toNat = some (p, 0x020)) ∧
    (∃ (s : State) (off : BitVec 24) (v : W32), (smbOpen s = false ∨ s.power.booted = false)) ∧
    (∃ (s : State) (off : BitVec 24), smbOpen s = true) ∧
    (∃ (s : State) (p : Page), smbOpen s = true ∧ s.power.booted = true ∧ p ∈ [Page.mgt, .sec, .fuse] ∧
       pageOf s.mgt.readAddr = some (p, 0x000)) ∧
    (∃ s : State, smbOpen s = true ∧ ((pageOf s.mgt.readAddr).all fun q => !smbPage q.1 ||
       (!s.power.booted && q.1 != .mgt)) = true) ∧
    (∃ s : State, s.power.railsOk = true ∧ s.power.perst = false ∧ s.fuse.life ≠ .scrap) ∧
    (∃ s : State, (s.power.railsOk = false ∨ s.power.perst = true ∨ s.fuse.life = .scrap)) ∧
    (∃ (s : State) (e : TlpErr) (h : List W32) (b : Nat), s.hif.linkUp = true ∧ s.power.perst = false ∧
       (e, b) ∈ [(TlpErr.receiver, 0), (.badTlp, 6), (.badDllp, 7), (.replay, 8)]) ∧
    (∃ (s : State) (e : TlpErr) (h : List W32) (b : Nat), s.hif.linkUp = true ∧ s.power.perst = false ∧
       (e, b) ∈ [(TlpErr.malformed, 18), (.flowControl, 13), (.dataLink, 4), (.overflow, 17), (.ecrc, 19)]) ∧
    (∃ (s : State) (h : List W32), sized s = true ∧ s.hif.linkUp = true ∧ s.power.perst = false) ∧
    (∃ (s : State) (e : TlpErr) (h : List W32), (s.hif.linkUp = false ∨ s.power.perst = true)) := by
  refine ⟨?_, ?_, ?_, ?_, ?_, ?_, ?_, ?_, ?_, ?_, ?_, ?_, ?_, ?_, ?_, ?_, ?_, ?_, ?_, ?_, ?_⟩
  · refine ⟨hdrS id, .fuse, 0xffffffff, ?_, ?_⟩ <;> decide +kernel
  · refine ⟨hdrS id, .bist, 0x300014, 0xffffffff, ?_, ?_, ?_, ?_⟩ <;> decide +kernel
  · refine ⟨hdrS id, .bist, 0x300010, 0xffffffff, ?_, ?_, ?_, ?_⟩ <;> decide +kernel
  · refine ⟨hdrS (fun s => raise .fuse 0 (some 7#32) 3 s), .fuse, 0x301020, 1, ?_, ?_, ?_, ?_⟩ <;> decide +kernel
  · refine ⟨hdrS id, .fuse, 0x301000, 1, ?_, ?_, ?_, ?_⟩ <;> decide +kernel
  · refine ⟨hdrS (fun s => raise .fuse 0 (some 7#32) 3 s), .fuse, 0x301040, 1, ?_, ?_, ?_, ?_⟩ <;> decide +kernel
  · refine ⟨{ openS with hif := { openS.hif with subsys := 7 } }, 0, ?_⟩ <;> decide +kernel
  · refine ⟨openS, 0x2, ?_, ?_⟩ <;> decide +kernel
  · refine ⟨{ openS with power := { openS.power with booted := false } }, 4, 7, .configRead, ?_, ?_, ?_, ?_⟩ <;> decide +kernel
  · refine ⟨openS, 255, 77, ?_, ?_⟩ <;> decide +kernel
  · refine ⟨hdrS (fun s => raise .fuse 0 (some 7#32) 3 s), 0x301020, .fuse, 1, ?_, ?_, ?_, ?_⟩ <;> decide +kernel
  · refine ⟨{ openS with power := { openS.power with booted := false } }, 0x301020, 1, ?_⟩ <;> decide +kernel
  · refine ⟨openS, 0xffffff, ?_⟩ <;> decide +kernel
  · refine ⟨{ openS with mgt := { openS.mgt with readAddr := 0x301000 } }, .fuse, ?_, ?_, ?_, ?_⟩ <;> decide +kernel
  · refine ⟨{ openS with mgt := { openS.mgt with readAddr := 0x300000 } }, ?_, ?_⟩ <;> decide +kernel
  · refine ⟨openS, ?_, ?_, ?_⟩ <;> decide +kernel
  · refine ⟨State.reset, ?_⟩ <;> decide +kernel
  · refine ⟨openS, .replay, [1, 2, 3, 4, 5], 8, ?_, ?_, ?_⟩ <;> decide +kernel
  · refine ⟨openS, .ecrc, [1, 2, 3, 4, 5], 19, ?_, ?_, ?_⟩ <;> decide +kernel
  · refine ⟨openS, [1], ?_, ?_, ?_⟩ <;> decide +kernel
  · refine ⟨State.reset, .replay, [1], ?_⟩ <;> decide +kernel

theorem witness_StepRunsTheFront :
    (∃ s : State, s.pending = []) ∧
    (∃ s : State, s.pending = [] ∧ (∀ n < 24, (s.core n).memFail = false)) := by
  refine ⟨?_, ?_⟩
  · refine ⟨openS, ?_⟩ <;> decide +kernel
  · refine ⟨openS, ?_, ?_⟩ <;> decide +kernel

theorem witness_MemoryStaysCanonical :
    ∃ s t : State, Memory.wf s.mem = true ∧ step s = .next t := by
  refine ⟨{ State.reset with pending := [.msixSend] }, State.reset, ?_, rfl⟩ <;> decide +kernel

theorem witness_PartsStayInPlace :
    ∃ s t : State, sized s = true ∧ step s = .next t := by
  refine ⟨{ State.reset with pending := [.msixSend] }, State.reset, ?_, rfl⟩ <;> decide +kernel

theorem witness_ClosedToTheHost :
    ∃ (s : State) (i : Instr) (v : W32) (w : Option W32) (p : Page) (on : Bool) (n : Nat), barOpen
      s = false ∧ s.hif.linkUp = false ∧ i ∈ [Instr.start v, .stop v, .load v, .commit v, .invalidate v,
      .ktlLtDataAccess w, .arm v, .disarm v, .ctxEnable (Fin.ofNat 256 n), .ctxDisable (Fin.ofNat 256 n),
      .hold (Fin.ofNat 256 n), .unhold (Fin.ofNat 256 n), .hbmCfgWrite v, .enter v, .exit v,
      .meshStDataAccess w, .meshStCtrlWrite v, .meshPartResetGo v, .bar0AccessInvalid on n n, .bar0Timeout
      n, .quiesce, .pop, .errFirstClear p, .halt p on, .enable p on, .softInit p, .markComplete p,
      .discard p, .intForce p v, .registerWrite .bar0 n v, .registerWrite .bar4 n v, .secMboxDataAccess w,
      .go v, .getIdentity .bar0, .openSession .bar0, .sptRingConsWrite (Fin.ofNat 64 n) v, .hdmaCfgWrite
      (Fin.ofNat 8 n) v, .clear (Fin.ofNat 256 n), .bar2Read 0 (Fin.ofNat 4097 n), .bar2Write 0 [],
      .hifWinCfgWrite (Fin.ofNat 64 n) v, .registerWrite .pciCommand n v, .registerWrite .configRead n v,
      .functionLevelReset] := by
  refine ⟨State.reset, .start 7, 7, none, .ktl, true, 0, ?_, ?_, ?_⟩ <;> decide +kernel

end Sys2Proof.Tests
end

namespace Sys2Proof.Machine

/-! ## What reset leaves (R607, R618) -/

theorem hdr_reset (p : Page) : State.reset.hdr p = { errSeverity := severityReset (pageIdx p) } := by
  show hdrsReset.getD (pageIdx p) {} = _
  simp [hdrsReset, pageIdx_lt p]

theorem ctx_reset {c : Nat} (h : c < 256) : State.reset.ctx c = {} := List.getD_replicate _ h

theorem core_reset {n : Nat} (h : n < 24) : State.reset.core n = {} := List.getD_replicate _ h

theorem partOfCore_reset : ∀ n < 24, partOfCore State.reset n = 0 := by decide

theorem sized_reset : sized State.reset = true := by
  simp [sized, State.reset, hdrsReset, -List.reduceReplicate]

/-- Settles O57: each register by its reset value, each numbered part by the reset value all of its kind
have. -/
theorem resetState : Obligations.ResetState := by
  unfold Obligations.ResetState
  refine ⟨⟨rfl, rfl, rfl, rfl, rfl, rfl, rfl, rfl, rfl, ?_, ?_, partOfCore_reset, ?_⟩, rfl, sized_reset⟩
  · intro c hc; rw [ctx_reset hc]
  · intro n hn; rw [core_reset hn]
  · intro p; simp [hdr_reset]

end Sys2Proof.Machine

namespace Sys2Proof.Machine

/-! ## Counts beyond their registers

`satInc 65535` leaves a count above 65,535 as it stands, where a statement's `min 65535 (n + 1)` brings it
down to 65,535. No register shows such a count, but a state can hold one. -/

theorem raise_hbm (p : Page) (b : Nat) (d : Option W32) (u : Nat) (s : State) :
    (raise p b d u s).hbm = s.hbm := by
  have h := congrArg State.hbm (raise_log p b d u s); exact h

theorem setInt_bist (p : Page) (i : Nat) (s : State) : (setInt p i s).bist = s.bist := by
  have h := congrArg State.bist (setInt_int p i s); exact h

/-- A retraining window that fails at its end is counted and logged (R474). -/
theorem exec_hbmRetrainDone_fail {s : State} {pc : Nat} (lat : Nat) (h : s.hbm.window = some (pc, s.up)) :
    exec (.hbmRetrainDone false lat) s = .next (raise .hbm 10 none pc { s with hbm := { s.hbm with
      window := none, lastFail := true, fails := satInc 65535 s.hbm.fails } }) := by
  simp only [exec, execHbmRetrainDone, h, if_true]
  rfl

/-- A doorbell write within MIN_GAP of the last delivery merges and is counted (R512). -/
theorem ringDb_coalesced {s : State} {d t0 : Nat} (v : Nat) (hl : (s.doorbell d).last = some t0)
    (hg : s.hif.minGap ≠ 0) (hs : s.up < t0 + s.hif.minGap) (hb : s.hif.stormBeat = some s.beat) :
    (ringDb d v s).hif.coalesced = satInc 65535 s.hif.coalesced := by
  simp [ringDb, State.onDb, State.beat, State.now, hl, hg, hs, hb]

/-- An 8-byte write of a doorbell rings it when no BAR2 write waits before it (R502, R509). -/
theorem exec_doorbellWrite_rings {s : State} {off : BitVec 26} {d : Nat} (v : W64) (ho : barWr s = true)
    (hb : doorbellBase ≤ off.toNat) (ha : off.toNat % 8 = 0) (hd : dbOf (off.toNat - doorbellBase) = some d)
    (hw : writeWaits s.hif.reissue = false) :
    exec (.doorbellWrite off true v) s = .next (ringDb d v.toNat s) := by
  have size : sizeOk off.toNat 8 = true := by simp [sizeOk, ha]
  simp only [exec, execDoorbellWrite, hostWrite_of ho, if_neg (Nat.not_lt.2 hb), doorbellOp, if_true, size,
    Bool.not_true, Bool.false_eq_true, if_false, hd, hw]

theorem endSlice_bist {s : State} {x : Slice} (r : Nat) (h : s.bist.slice = some x) :
    (endSlice r s).bist = { s.bist with slice := none, result := r } := by
  unfold endSlice
  rw [h]
  dsimp only
  split
  · rfl
  · split <;> rfl

/-- A slice that is no memory test and passes is counted and tells so (R556). -/
theorem exec_sliceDone_pass {s : State} {x : Slice} (h : s.bist.slice = some x) (hs : x.started = true)
    (hm : x.segment ≠ 16) (hk : x.kind ≠ 4) :
    exec (.sliceDone true) s = .next (setInt .bist 8 ((endSlice slicePass s).onBist fun b =>
      { b with slices := satInc 65535 b.slices })) := by
  simp only [exec, execSliceDone, h, hs, if_true, sliceMemory, hm, and_false, if_false, hk]

/-- Refutes O38: a failure of retraining at a count of 65,536 leaves that count, where the statement has
65,535; HBM_RETRAIN_STAT.FAILS cannot show it, but the statement's conditions admit it. -/
theorem not_hbmMapAndRetraining : ¬ Obligations.HbmMapAndRetraining := by
  unfold Obligations.HbmMapAndRetraining
  rintro ⟨-, -, -, -, -, -, -, failed, -⟩
  obtain ⟨t, ht, -, hs⟩ := failed
    { State.reset with hbm := { window := some (0, 0), fails := 65536 } } 0 0 sized_reset rfl
  rw [exec_hbmRetrainDone_fail 0 rfl] at ht
  cases ht
  have count := congrArg (fun u : State => u.hbm.fails) hs
  simp only [sansLog, raise_hbm] at count
  exact absurd count (by decide)

/-- Refutes O44: a doorbell write that merges at a count of 65,536 leaves that count, where the statement
has 65,535; HIF_DB_STAT.COALESCED cannot show it, but the statement's conditions admit it. -/
theorem not_windowsAndDoorbells : ¬ Obligations.WindowsAndDoorbells := by
  unfold Obligations.WindowsAndDoorbells
  rintro ⟨-, -, -, -, merged, -⟩
  have h := merged
    { State.reset with
      power := { perst := false, booted := true }
      hif := { linkUp := true, mse := true, coalesced := 65536, stormBeat := some 0
               doorbells := List.replicate 392 { last := some 0 } } }
    0x1000000 0 0 0 rfl (by decide) rfl (by decide) rfl rfl (by decide) rfl
  rw [exec_doorbellWrite_rings (d := 0) 0 rfl (by decide) rfl (by decide) rfl] at h
  have count := congrArg (fun u : State => u.hif.coalesced) (Host.Outcome.next.inj h)
  simp only [ringDb_coalesced (t0 := 0) 0 rfl (by decide) (by decide) rfl] at count
  exact absurd count (by decide)

/-- Refutes O49: a slice that passes at a count of 65,536 leaves that count, where the statement has 65,535;
BIST_SLICE_RESULT.SLICES cannot show it, but the statement's conditions admit it. -/
theorem not_selfTestSlices : ¬ Obligations.SelfTestSlices := by
  unfold Obligations.SelfTestSlices
  rintro ⟨-, -, -, -, -, -, -, passed, -⟩
  obtain ⟨t, ht, -, hs⟩ := passed
    { State.reset with bist := { slices := 65536, slice := some {
        kind := 1, index := 24, segment := 0, preserve := false, due := 0, started := true, saved := [] } } }
    { kind := 1, index := 24, segment := 0, preserve := false, due := 0, started := true, saved := [] }
    sized_reset rfl rfl (by decide) (by decide)
  rw [exec_sliceDone_pass rfl rfl (by decide) (by decide)] at ht
  cases ht
  have count := congrArg (fun u : State => u.bist.slices) hs
  simp only [sansInt, setInt_bist, State.onBist_bist] at count
  rw [endSlice_bist slicePass rfl] at count
  exact absurd count (by decide)

end Sys2Proof.Machine

namespace Sys2Proof.Machine

/-! ## Conditions that arrive as a TLP (R530) -/

@[simp] theorem sansLog_raiseTlp (b : Nat) (s t : State) : sansLog s (raiseTlp b t) = sansLog s t :=
  sansLog_over (raiseTlp_log b t)

theorem errBit_raiseTlp {b : Nat} {s : State} (hb : b < 32) (hs : s.hdrs.length = 56) :
    errBit (raiseTlp b s) .hif b = true := errBit_raiseLog _ _ _ _ _ _ _ hb hs

@[simp] theorem setInt_reissue (p : Page) (i : Nat) (s : State) : (setInt p i s).hif.reissue = s.hif.reissue := by
  unfold setInt onIrq reqSource reqVector
  simp only
  split
  · split
    · split <;> rfl
    · rfl
  · rfl

@[simp] theorem logFault_reissue (p : Page) (b c : Nat) (d : W32) (s : State) :
    (logFault p b c d s).hif.reissue = s.hif.reissue := by
  unfold logFault
  simp only [setInt_reissue, State.onHif_hif, State.onMgt_hif]
  split
  · rfl
  · split <;> rfl

@[simp] theorem fatalDue_reissue (p : Page) (s : State) : (fatalDue p s).hif.reissue = s.hif.reissue := rfl

/-- Logging leaves the accesses that wait for a reissue. -/
@[simp] theorem raiseTlp_reissue (b : Nat) (s : State) : (raiseTlp b s).hif.reissue = s.hif.reissue := by
  unfold raiseTlp raiseLog
  simp only [apply_ite (fun t : State => t.hif.reissue), fatalDue_reissue, logFault_reissue, setInt_reissue,
    State.onHdr_hif, ite_self]

theorem raiseTlp_up (b : Nat) (s : State) : (raiseTlp b s).up = s.up := by
  have h := congrArg State.up (raiseTlp_log b s); exact h

/-! ## Accesses of BAR2 (R463, R507) -/

theorem bar2Status_eq (r : Resp) : bar2Status r = if r = .addrUnmapped then .ur else .ca := by
  cases r <;> rfl

theorem logResp_bar2 {r : Resp} (h : r ≠ .ok) (a : Nat) (s : State) : logResp .bar2 r a s = raiseTlp 11 s := by
  cases r with
  | ok => exact absurd rfl h
  | _ => rfl

/-- Outside a refresh and a retraining window no request waits at a pseudo-channel. -/
theorem toQueues_open {s : State} (a n : Nat) (hw : s.hbm.window = none) (hr : s.ktl.refreshed ≠ some s.beat) :
    toQueues a n s = some s := by
  have line : ∀ pc, enqueue pc 1 s = some s := by
    intro pc; simp [enqueue, pcWait, hw, hr]
  unfold toQueues
  induction List.range n with
  | nil => rfl
  | cons i l ih => simpa [line] using ih

theorem touch_bar2 (a : Nat) (s : State) :
    touch .bar2 a s = { s with hbm := { s.hbm with lock := s.hbm.lock || decide (regionOf a = .hbm) } } := by
  by_cases h : regionOf a = .hbm <;> simp [touch, h, State.onHbm]

/-- A read of a range that answers OK completes with its bytes. -/
theorem bar2Go_read_ok {s : State} {a n : Nat} (ho : respRange s .bar2 a n = .ok) (hb : badAt s a n = false)
    (hw : s.hbm.window = none) (hr : s.ktl.refreshed ≠ some s.beat) :
    bar2Go (.read a n) s = some (complete2 .sc (peek s a n) (touch .bar2 a s)) := by
  have hread : readMem .bar2 a n s = (.ok, peek s a n, touch .bar2 a s) :=
    readMem_of_readable (by simp [readable, ho, hb])
  simp [bar2Go, ho, toQueues_open _ _ hw hr, hread]

/-- A read that is answered otherwise, but for HBM_BUSY, completes with the status of the answer. -/
theorem bar2Go_read_refused {s : State} {a n : Nat} (h : respRange s .bar2 a n ≠ .ok) :
    bar2Go (.read a n) s = some (complete2 (bar2Status (respRange s .bar2 a n)) [] (raiseTlp 11 s)) := by
  rw [← logResp_bar2 h a s]
  cases hr : respRange s .bar2 a n with
  | ok => exact absurd hr h
  | _ => simp only [bar2Go, hr]

theorem bar2Go_read_busy {s : State} {a n : Nat} (ho : respRange s .bar2 a n = .ok)
    (hq : toQueues a (lineStarts a n).length s = none) : bar2Go (.read a n) s = none := by
  simp [bar2Go, ho, hq]

theorem bar2Send_go {s t : State} {a : Nat} {x : BusAccess} (hr : s.hif.reissue = [])
    (hg : bar2Go x s = some t) : bar2Send a x s = t := by
  simp [bar2Send, mustWait, hr, hg]

/-- An access answered HBM_BUSY is logged and waits. -/
theorem bar2Send_busy {s : State} {a : Nat} {x : BusAccess} (hr : s.hif.reissue = [])
    (hg : bar2Go x s = none) :
    bar2Send a x s = (raiseTlp 11 s).onHif fun h => { h with reissue := [{ what := x, since := s.up }] } := by
  simp [bar2Send, mustWait, hr, hg, logResp_bar2, raiseTlp_up, State.onHif]

/-- An access to HBM behind one that waits waits too. -/
theorem bar2Send_behind {s : State} {a : Nat} {x : BusAccess} (hr : s.hif.reissue ≠ [])
    (ha : regionOf a = .hbm) :
    bar2Send a x s = s.onHif fun h => { h with reissue := h.reissue ++ [{ what := x, since := s.up }] } := by
  simp [bar2Send, mustWait, hr, ha]

/-! ## Bytes that BAR2 writes -/

theorem mapIdx_updAt {α β : Type} {l : List α} {m : Nat} {f : α → α} {g : Nat → α → β}
    (h : ∀ i x, g i (f x) = g i x) : (updAt l m f).mapIdx g = l.mapIdx g := by
  apply List.ext_getElem?
  intro i
  by_cases e : m = i
  · cases k : l[i]? <;> simp [updAt, e, k, h]
  · simp [updAt, e]

/-- A count delivered to a command ring is among what the service of a request may touch. -/
theorem sansMem_ringDoorbells (hit : Nat → Bool) (fb : Bool) (s t : State) :
    sansMem s (ringDoorbells hit fb t) = sansMem s t := by
  have clu : ∀ (u : State) (m : Nat) (v : Nat),
      sansMem s (u.onClu m fun c => { c with dbPend := c.dbPend ++ [v] }) = sansMem s u := by
    intro u m v
    simp only [sansMem, State.onClu, mapIdx_updAt, implies_true]
  have ring : ∀ (u : State) (m : Nat) (v : Nat × Bool),
      sansMem s (u.onCdyRing m fun c => { c with dbPend := c.dbPend ++ [v] }) = sansMem s u := by
    intro u m v
    simp only [sansMem, State.onCdyRing, State.onCdy, mapIdx_updAt, implies_true]
  unfold ringDoorbells
  simp only
  refine (foldl_keeps (sansMem s) _ ?_ _ _).trans (foldl_keeps (sansMem s) _ ?_ _ _)
  · intro u r; split
    · exact ring _ _ _
    · rfl
  · intro u m; split
    · exact clu _ _ _
    · rfl

/-- Memory, the answer and the lock of the HBM map put back. -/
theorem sansMem_stored (s : State) (m : List Host.Cell) (b : Bool) :
    sansMem s { s with mem := m, hbm := { s.hbm with lock := b } } = s := by
  have clu : (s.clus.mapIdx fun i c => { c with dbPend := (s.clu i).dbPend }) = s.clus := by
    apply List.ext_getElem?
    intro i
    cases k : s.clus[i]? <;> simp [State.clu, k]
  have ring : (s.cdy.rings.mapIdx fun i r => { r with dbPend := (s.cdyRing i).dbPend }) = s.cdy.rings := by
    apply List.ext_getElem?
    intro i
    cases k : s.cdy.rings[i]? <;> simp [State.cdyRing, k]
  simp only [sansMem, State.clu, State.cdyRing] at clu ring ⊢
  rw [clu, ring]

theorem ringDoorbells_resp (hit : Nat → Bool) (fb : Bool) (s : State) : (ringDoorbells hit fb s).resp = s.resp := by
  have h := congrArg State.resp (ringDoorbells_keeps hit fb s); exact h

theorem putKeys_touch {s : State} (src : Src) (a : Nat) (cs : List Host.Cell) (hb : s.badWords = []) :
    putKeys [] cs (touch src a s) = { touch src a s with mem := memPutAll s.mem cs } := by
  rw [putKeys_good ((touch_badWords src a s).trans hb), touch_mem]

/-- A write of BAR2 to memory without errors and outside the enabled partitions stores its bytes; the access
of the first may lock the HBM map. -/
theorem serveCells_bar2 {s : State} {cs : List Host.Cell} (hp : ∀ c ∈ cs, inPart s c.1 = false)
    (hb : s.badWords = []) :
    ∃ b hit, serveCells .bar2 { cells := cs } s = (.ok, ringDoorbells hit false { s with
      mem := memPutAll s.mem (cs.map fun c => (physKey s c.1, c.2)), hbm := { s.hbm with lock := b } }) := by
  have kept : keptOf .bar2 { cells := cs } s = cs := by
    simpa [keptOf, List.filter_eq_self] using hp
  have nofault : partFault .bar2 (cs.map (·.1)) s = s := by
    have h : (cs.map (·.1)).any (inPart s) = false := by simpa using fun a b h => hp (a, b) h
    simp [partFault, h]
  refine ⟨match cs with | c :: _ => s.hbm.lock || decide (regionOf c.1 = .hbm) | [] => s.hbm.lock,
    fun w => cs.any fun c => w ≤ c.1 && c.1 < w + 8, ?_⟩
  unfold serveCells
  simp only [kept, nofault]
  cases cs with
  | nil => simp [partialBad, hb, putKeys_good hb]
  | cons c r =>
    simp only [physKey_touch, partialBad, touch_badWords, hb, List.filter_nil, if_true, List.map_nil,
      putKeys_touch .bar2 c.1 _ hb]
    rw [touch_bar2]

theorem bar2Go_write_ok {s : State} {a : Nat} {bs : List Byte} (ho : respRange s .bar2 a bs.length = .ok)
    (hp : ∀ i < bs.length, inPart s (a + i) = false) (hc : ∀ i < bs.length, respOf s .bar2 (a + i) = .ok)
    (hb : s.badWords = []) (hw : s.hbm.window = none) (hr : s.ktl.refreshed ≠ some s.beat) :
    ∃ b hit, bar2Go (.write a bs) s = some (ringDoorbells hit false { s with
      mem := memPutAll s.mem (bs.mapIdx fun i b => (physKey s (a + i), b))
      hbm := { s.hbm with lock := b } }) := by
  have cell : ∀ c ∈ bs.mapIdx fun i b => (a + i, b), ∃ i < bs.length, c.1 = a + i := by
    intro c hc
    obtain ⟨i, hi, rfl⟩ := List.mem_mapIdx.1 hc
    exact ⟨i, hi, rfl⟩
  obtain ⟨b, hit, hs⟩ := serveCells_bar2 (s := s) (cs := bs.mapIdx fun i b => (a + i, b))
    (fun c h => by obtain ⟨i, hi, e⟩ := cell c h; rw [e]; exact hp i hi) hb
  have answered : (bs.mapIdx fun i b => (a + i, b)).find? (fun c => respOf s .bar2 c.1 != .ok) = none := by
    rw [List.find?_eq_none]
    intro c h
    obtain ⟨i, hi, e⟩ := cell c h
    simp [e, hc i hi]
  have keys : (bs.mapIdx fun i b => (a + i, b)).map (fun c => (physKey s c.1, c.2)) =
      bs.mapIdx fun i b => (physKey s (a + i), b) := by
    apply List.ext_getElem <;> simp
  refine ⟨b, hit, ?_⟩
  simp only [bar2Go, ho, toQueues_open _ _ hw hr, Option.map_some, writeCells, answered, hs, keys]
  rfl

theorem exec_bar2Read_in {s : State} {off : BitVec 36} {n : Fin 4097} {w : Win} {a : Nat}
    (ho : barWr s = true) (hw : winFor s off.toNat n.val = some (w, a)) :
    exec (.bar2Read off n) s = .next (bar2Send a (.read a n.val) s) := by
  simp only [exec, execBar2Read, ho, hw, if_true]

theorem exec_bar2Read_out {s : State} {off : BitVec 36} {n : Fin 4097} (ho : barWr s = true)
    (hw : winFor s off.toNat n.val = none) :
    exec (.bar2Read off n) s = .next (raiseTlp 10 (complete2 .ur [] s)) := by
  simp only [exec, execBar2Read, ho, hw, if_true]

theorem exec_bar2Write_in {s : State} {off : BitVec 36} {bs : List Byte} {w : Win} {a : Nat}
    (ho : barWr s = true) (hw : winFor s off.toNat bs.length = some (w, a)) (he : winWr w = true) :
    exec (.bar2Write off bs) s = .next (bar2Send a (.write a bs) s) := by
  simp only [exec, execBar2Write, ho, hw, he, if_true]

theorem exec_bar2Write_out {s : State} {off : BitVec 36} {bs : List Byte} (ho : barWr s = true)
    (hw : ∀ p ∈ winFor s off.toNat bs.length, winWr p.1 = false) :
    exec (.bar2Write off bs) s = .next (raiseTlp 10 s) := by
  cases h : winFor s off.toNat bs.length with
  | none => simp only [exec, execBar2Write, ho, h, if_true]
  | some p => simp only [exec, execBar2Write, ho, h, hw p h, if_true, Bool.false_eq_true, if_false]

/-- The only access that waits goes out again at tick 0 of a beat and is done. -/
theorem exec_bar2Reissue_done {s t : State} {a n at_ : Nat}
    (h : s.hif.reissue = [{ what := .read a n, since := at_ }])
    (hn : s.now % 1100 = 0) (hg : bar2Go (.read a n) s = some t) :
    exec .bar2Reissue s = .next (t.onHif fun h => { h with reissue := [] }) := by
  simp [exec, execBar2Reissue, hn, h, reissueAll, hg]

/-- One that is answered HBM_BUSY again waits on, or is given up after 1 ms. -/
theorem exec_bar2Reissue_busy {s : State} {a n at_ : Nat}
    (h : s.hif.reissue = [{ what := .read a n, since := at_ }])
    (hn : s.now % 1100 = 0) (hg : bar2Go (.read a n) s = none) :
    exec .bar2Reissue s = .next (if at_ + 1100000 ≤ s.up
      then (complete2 .ca [] (raiseTlp 11 s)).onHif fun h => { h with reissue := [] }
      else (raiseTlp 11 s).onHif fun h => { h with reissue := s.hif.reissue }) := by
  by_cases old : at_ + 1100000 ≤ s.up <;>
    simp [exec, execBar2Reissue, hn, h, reissueAll, hg, logResp_bar2, old]

end Sys2Proof.Machine

namespace Sys2Proof.Machine

/-! ## Register accesses that fail (R502 to R504, R584) -/

theorem raiseTlp_logged {b : Nat} {s u : State} (hb : b < 32) (hs : sized s = true)
    (hh : u.hdrs = s.hdrs) : errBit (raiseTlp b u) .hif b = true := errBit_raiseTlp hb (hh ▸ hdrs_of_sized hs)

theorem exec_bar0AccessInvalid_size {s : State} {w : Bool} {off size : Nat} (hz : sized s = true)
    (ho : barOpen s = true) (hs : sizeOk off size = false) :
    ∃ t, exec (.bar0AccessInvalid w off size) s = .next t ∧ errBit t .hif 8 = true ∧
      sansLog s t = if w then s else { s with link := s.link ++ [.cpl .ca []], resp := [] } := by
  refine ⟨raiseTlp 8 (if w then s else { s.issue (.cpl .ca []) with resp := [] }), ?_, ?_, ?_⟩
  · simp [exec, execBar0AccessInvalid, hostRead_of ho, hs]
  · exact raiseTlp_logged (by decide) hz (by cases w <;> rfl)
  · rw [sansLog_raiseTlp]; cases w <;> rfl

theorem exec_bar0AccessInvalid_hole {s : State} {w : Bool} {off size : Nat} (hz : sized s = true)
    (ho : barOpen s = true) (hs : sizeOk off size = true) (hp : pageOf off = none) (hd : off < doorbellBase) :
    ∃ t, exec (.bar0AccessInvalid w off size) s = .next t ∧ errBit t .hif 8 = true ∧
      sansLog s t = if w then s else { s with resp := List.replicate size 0 } := by
  refine ⟨raiseTlp 8 (if w then s else { s with resp := List.replicate size 0 }), ?_, ?_, ?_⟩
  · simp [exec, execBar0AccessInvalid, hostRead_of ho, hs, hp, hd]
  · exact raiseTlp_logged (by decide) hz (by cases w <;> rfl)
  · rw [sansLog_raiseTlp]; cases w <;> rfl

theorem exec_bar0AccessInvalid_valid {s : State} {w : Bool} {off size : Nat} (ho : barOpen s = true)
    (hs : sizeOk off size = true) (hp : (pageOf off).isSome = true ∨ doorbellBase ≤ off) :
    exec (.bar0AccessInvalid w off size) s = .next s := by
  have h : ((pageOf off).isNone && decide (off < doorbellBase)) = false := by
    rcases hp with h | h
    · simp [Option.isSome_iff_ne_none.1 h]
    · simp [h]
  simp [exec, execBar0AccessInvalid, hostRead_of ho, hs, h]

theorem exec_bar0Timeout_page {s : State} {off o : Nat} {p : Page} (hz : sized s = true)
    (ho : barOpen s = true) (hp : pageOf off = some (p, o)) (hm : p ≠ .mgt) :
    ∃ t, exec (.bar0Timeout off) s = .next t ∧ errBit t .hif 9 = true ∧
      sansLog s t = { s with resp := [0xfe, 0xff, 0xff, 0xff] } := by
  refine ⟨raiseTlp 9 (s.answer 0xfffffffe#32), ?_, raiseTlp_logged (by decide) hz rfl, ?_⟩
  · simp only [exec, execBar0Timeout, hostRead_of ho, hp]
    cases p with
    | mgt => exact absurd rfl hm
    | _ => rfl
  · rw [sansLog_raiseTlp]; rfl

theorem exec_bar0Timeout_mgt {s : State} {off o : Nat} (ho : barOpen s = true)
    (hp : pageOf off = some (.mgt, o)) :
    exec (.bar0Timeout off) s =
      .next (if 0x800 ≤ o then { s with resp := [0xfe, 0xff, 0xff, 0xff] } else s) := by
  simp only [exec, execBar0Timeout, hostRead_of ho, hp]
  rfl

/-- A device that does not answer leaves the read as an Unsupported Request (R504). -/
theorem hostRead_closed {s : State} (f : State → State) (ho : barOpen s = false) (hl : s.hif.linkUp = true)
    (hp : s.power.perst = false) :
    hostRead f s = { s with link := s.link ++ [.cpl .ur []], resp := [] } := by
  simp [hostRead, ho, unclaimed, hl, hp, State.issue]

theorem barWr_of_closed {s : State} (h : barOpen s = false) : barWr s = false := by simp [barWr, h]

theorem exec_bar2Read_closed {s : State} (off : BitVec 36) (n : Fin 4097) (ho : barOpen s = false) :
    exec (.bar2Read off n) s = .next (hostRead id s) := by
  simp [exec, execBar2Read, barWr_of_closed ho, ho, hostRead]

/-! ## Accesses through windows (R463, R505 to R508) -/

theorem exec_bar2Read_refused {s : State} {off : BitVec 36} {n : Fin 4097} {w : Win} {a : Nat}
    (hz : sized s = true) (ho : barWr s = true) (hw : winFor s off.toNat n.val = some (w, a))
    (hr : s.hif.reissue = []) (hc : respRange s .bar2 a n.val ≠ .ok) :
    ∃ t, exec (.bar2Read off n) s = .next t ∧ errBit t .hif 11 = true ∧
      sansLog s t = { s with link := s.link ++
        [.cpl (if respRange s .bar2 a n.val = .addrUnmapped then .ur else .ca) []] } := by
  refine ⟨_, (exec_bar2Read_in ho hw).trans (congrArg _ (bar2Send_go hr (bar2Go_read_refused hc))),
    raiseTlp_logged (u := s) (by decide) hz rfl, ?_⟩
  rw [← bar2Status_eq]
  exact congrArg (complete2 _ []) (sansLog_raiseTlp 11 s s)

theorem exec_bar2Read_busy {s : State} {off : BitVec 36} {n : Fin 4097} {w : Win} {a : Nat}
    (hz : sized s = true) (ho : barWr s = true) (hw : winFor s off.toNat n.val = some (w, a))
    (hr : s.hif.reissue = []) (hc : respRange s .bar2 a n.val = .ok)
    (hq : toQueues a (lineStarts a n.val).length s = none) :
    ∃ t, exec (.bar2Read off n) s = .next t ∧ errBit t .hif 11 = true ∧
      t.hif.reissue = [{ what := .read a n.val, since := s.up }] ∧ sansLog s t = s :=
  ⟨_, (exec_bar2Read_in ho hw).trans (congrArg _ (bar2Send_busy hr (bar2Go_read_busy hc hq))),
    raiseTlp_logged (u := s) (by decide) hz rfl, rfl, sansLog_raiseTlp 11 s s⟩

theorem exec_bar2Write_stores {s : State} {off : BitVec 36} {bs : List Byte} {w : Win} {a : Nat}
    (ho : barWr s = true) (hf : winFor s off.toNat bs.length = some (w, a)) (he : winWr w = true)
    (hc : respRange s .bar2 a bs.length = .ok) (hp : ∀ i < bs.length, inPart s (a + i) = false)
    (hi : ∀ i < bs.length, respOf s .bar2 (a + i) = .ok) (hb : s.badWords = []) (hr : s.hif.reissue = [])
    (hw : s.hbm.window = none) (hn : s.ktl.refreshed ≠ some s.beat) :
    ∃ t, exec (.bar2Write off bs) s = .next t ∧
      t.mem = memPutAll s.mem (bs.mapIdx fun i b => (physKey s (a + i), b)) ∧
      memKept s t (fun k => ∃ i : Fin bs.length, k = physKey s (a + i.val)) ∧
      t.resp = s.resp ∧ sansMem s t = s := by
  obtain ⟨b, hit, hg⟩ := bar2Go_write_ok hc hp hi hb hw hn
  refine ⟨_, (exec_bar2Write_in ho hf he).trans (congrArg _ (bar2Send_go hr hg)), ringDoorbells_mem _ _ _, ?_,
    ringDoorbells_resp _ _ _, (sansMem_ringDoorbells _ _ _ _).trans (sansMem_stored _ _ _)⟩
  intro k hk
  rw [ringDoorbells_mem]
  refine memGet_memPutAll_other fun c hc e => hk ?_
  obtain ⟨i, hi, rfl⟩ := List.mem_mapIdx.1 hc
  exact ⟨⟨i, hi⟩, e.symm⟩

theorem exec_bar2Reissue_waits {s : State} {a n at_ : Nat} (hz : sized s = true)
    (h : s.hif.reissue = [{ what := .read a n, since := at_ }]) (hn : s.now % 1100 = 0)
    (hc : respRange s .bar2 a n = .ok) (hq : toQueues a (lineStarts a n).length s = none) :
    ∃ t, exec .bar2Reissue s = .next t ∧ errBit t .hif 11 = true ∧
      t.hif.reissue = (if at_ + 1100000 ≤ s.up then [] else s.hif.reissue) ∧
      sansLog s t = { s with link := if at_ + 1100000 ≤ s.up then s.link ++ [.cpl .ca []] else s.link } := by
  have logged : errBit (raiseTlp 11 s) .hif 11 = true := raiseTlp_logged (by decide) hz rfl
  refine ⟨_, exec_bar2Reissue_busy h hn (bar2Go_read_busy hc hq), ?_⟩
  by_cases old : at_ + 1100000 ≤ s.up
  · simp only [old, if_true]
    exact ⟨logged, rfl, congrArg (complete2 _ []) (sansLog_raiseTlp 11 s s)⟩
  · simp only [old, if_false]
    exact ⟨logged, rfl, sansLog_raiseTlp 11 s s⟩

/-- Settles O43, clause by clause: the answers of failing register accesses, then each way an access of BAR2
can go. -/
theorem hostAccesses : Obligations.HostAccesses := by
  unfold Obligations.HostAccesses
  refine ⟨fun s w off size => exec_bar0AccessInvalid_size, fun s w off size => exec_bar0AccessInvalid_hole,
    fun s w off size => exec_bar0AccessInvalid_valid, fun s off o p => exec_bar0Timeout_page,
    fun s off o => exec_bar0Timeout_mgt, ?_, ?_, ?_, fun s off bs w a => exec_bar2Write_stores, ?_,
    fun s off n w a => exec_bar2Read_refused, fun s off n w a => exec_bar2Read_busy, ?_, ?_,
    fun s a n at_ => exec_bar2Reissue_waits, ?_⟩
  · intro s i w off size o2 n ho hl hp hi
    simp only [List.mem_cons, List.not_mem_nil, or_false] at hi
    rcases hi with rfl | rfl | rfl
    · exact congrArg _ (hostRead_closed _ ho hl hp)
    · exact congrArg _ (hostRead_closed _ ho hl hp)
    · rw [exec_bar2Read_closed _ _ ho, hostRead_closed _ ho hl hp]
  · intro s o2 bs ho
    simp [exec, execBar2Write, ho]
  · intro s off n w a ho hw hc hb hr hq hn
    rw [exec_bar2Read_in ho hw, bar2Send_go hr (bar2Go_read_ok hc hb hq hn), touch_bar2]
    rfl
  · intro s off n bs hz ho hr hw
    exact ⟨_, _, exec_bar2Read_out ho hr, exec_bar2Write_out ho hw, raiseTlp_logged (by decide) hz rfl,
      raiseTlp_logged (by decide) hz rfl, sansLog_raiseTlp _ _ _, sansLog_raiseTlp _ _ _⟩
  · intro s off n w a ho hw hr ha
    rw [exec_bar2Read_in ho hw, bar2Send_behind hr ha]
    rfl
  · intro s a n at_ h hn hc hb hq hr
    rw [exec_bar2Reissue_done h hn (bar2Go_read_ok hc hb hq hr), touch_bar2]
    rfl
  · intro s hn
    simp [exec, execBar2Reissue, hn]

end Sys2Proof.Machine

namespace Sys2Proof.Machine

/-! ## The answer of a read -/

/-- Only the low 32 bits of a value reach the four bytes of an answer. -/
theorem leBytes_four_mod (v : Nat) : leBytes 4 (v % 2 ^ 32) = leBytes 4 v := by
  simp only [leBytes, List.cons.injEq, and_true]
  refine ⟨?_, ?_, ?_, ?_⟩ <;> apply BitVec.eq_of_toNat_eq <;> simp only [BitVec.toNat_ofNat] <;> omega

theorem answer_ofNat (v : Nat) (s : State) : s.answer (BitVec.ofNat 32 v) = { s with resp := leBytes 4 v } := by
  simp only [State.answer, BitVec.toNat_ofNat, leBytes_four_mod]

/-! ## Registers of the header (R607, R620) -/

/-- A change of a header's interrupt registers touches nothing but the headers and the host interface. -/
theorem onIrq_changes (p : Page) (f : Hdr → Hdr) (s : State) :
    (onIrq p f s).hdrs = updAt s.hdrs (pageIdx p) f ∧ sansInt s (onIrq p f s) = s :=
  ⟨hdrs_onIrq p f s, onIrq_int p f s⟩

/-- A write of the host to an offset of a page's header. -/
theorem exec_registerWrite_header {s : State} {p : Page} {off o : Nat} (v : W32) (ho : barWr s = true)
    (ha : off % 4 = 0) (hd : off < doorbellBase) (hp : pageOf off = some (p, o)) (hh : o < 0x100) :
    exec (.registerWrite .bar0 off v) s = .next (wrHeader p o v s) := by
  simp [exec, execRegisterWrite, hostWrite_of ho, bar0Write, ha, Nat.not_le.2 hd, hp, wrPage, hh]

theorem exec_registerWrite_read {s : State} {p : Page} {off o : Nat} (v : W32) (ho : barOpen s = true)
    (ha : off % 4 = 0) (hd : off < doorbellBase) (hp : pageOf off = some (p, o)) :
    exec (.registerWrite .bar0Read off v) s = .next (regRead p o s) := by
  simp [exec, execRegisterWrite, hostRead_of ho, bar0Read, ha, Nat.not_le.2 hd, hp]

theorem regRead_corrected (p : Page) (s : State) : regRead p 0x040 s = { s with
    resp := leBytes 4 (s.hdr p).cntCorr
    hdrs := updAt s.hdrs (pageIdx p) fun h => { h with cntCorr := 0 } } := by
  have value : regValue s p 0x040 = BitVec.ofNat 32 (s.hdr p).cntCorr := rfl
  rw [regRead, value, answer_ofNat]
  rfl

/-! ## Configuration space (R499, R525) -/

theorem cfgWrite_open {s : State} (f : State → State) (h : cfgOpen s = true) : cfgWrite f s = f s := if_pos h

theorem cfgWrite_closed {s : State} (f : State → State) (h : cfgOpen s = false) (hl : s.hif.linkUp = true)
    (hp : s.power.perst = false) : cfgWrite f s = { s with link := s.link ++ [.cfgRetry] } := by
  simp [cfgWrite, h, hl, hp, State.issue]

/-- A write of the Command register that leaves Bus Master Enable changes Memory Space Enable only. -/
theorem commandWrite_mse {s : State} {v : W32} (h : rbit v 2 = s.hif.bme) :
    commandWrite v s = { s with hif := { s.hif with mse := rbit v 1 } } := by
  unfold commandWrite bmeWrite
  split
  · rw [if_pos (by exact h.symm)]; rfl
  · rfl

/-! ## SMBus (R652) -/

theorem smbPage_iff (p : Page) : smbPage p = true ↔ p ∈ [Page.mgt, .sec, .fuse] := by
  cases p <;> simp [smbPage]

/-- The block identity of the page at the set address. -/
theorem exec_smbRegisterRead_id {s : State} {p : Page} (ho : smbOpen s = true) (hb : s.power.booted = true)
    (hp : p ∈ [Page.mgt, .sec, .fuse]) (ha : pageOf s.mgt.readAddr = some (p, 0x000)) :
    exec .smbRegisterRead s = .next { s with resp := leBytes 4 (blkId p) } := by
  have target : smbTarget s = some (p, 0x000) := by simp [smbTarget, ha, (smbPage_iff p).2 hp, hb]
  have value : regValue s p 0x000 = BitVec.ofNat 32 (blkId p) := rfl
  have still : ∀ t, readEffect p 0x000 t = t := by
    simp only [List.mem_cons, List.not_mem_nil, or_false] at hp
    rcases hp with rfl | rfl | rfl <;> exact fun _ => rfl
  simp only [exec, execSmbRegisterRead, ho, target, Nat.zero_mod, if_true, regRead, still, value, answer_ofNat]

/-- Outside the pages that the port serves a read gives ones. -/
theorem exec_smbRegisterRead_ones {s : State} (ho : smbOpen s = true)
    (h : ((pageOf s.mgt.readAddr).all fun q => !smbPage q.1 || (!s.power.booted && q.1 != .mgt)) = true) :
    exec .smbRegisterRead s = .next { s with resp := [0xff, 0xff, 0xff, 0xff] } := by
  have target : smbTarget s = none := by
    unfold smbTarget
    split
    · next p o hp =>
      rw [hp] at h
      rw [if_neg]
      cases k : smbPage p <;> cases b : s.power.booted <;> simp_all
    · rfl
  simp only [exec, execSmbRegisterRead, ho, target, if_true]
  rfl

/-! ## Received errors (R530) -/

theorem exec_badTlp_correctable {s : State} {e : TlpErr} {b : Nat} (h : List W32)
    (he : aerBit e = (true, some b)) (hl : s.hif.linkUp = true) (hp : s.power.perst = false) :
    exec (.badTlp e h) s = .next { s with hif := { s.hif with aerCorr := s.hif.aerCorr ||| 2 ^ b } } := by
  simp [exec, execBadTlp, he, hl, hp, State.onHif]

theorem exec_badTlp_uncorrectable {s : State} {e : TlpErr} {b : Nat} (h : List W32)
    (he : aerBit e = (false, some b)) (hl : s.hif.linkUp = true) (hp : s.power.perst = false) :
    exec (.badTlp e h) s = .next { s with hif := { s.hif with
      aerUncorr := s.hif.aerUncorr ||| 2 ^ b, hdrLog := if s.hif.hdrLog = [] then h.take 4 else s.hif.hdrLog } } := by
  simp [exec, execBadTlp, he, hl, hp, State.onHif]

theorem exec_badTlp_buffer {s : State} (h : List W32) (hl : s.hif.linkUp = true) (hp : s.power.perst = false) :
    exec (.badTlp .buffer h) s = .next (raise .hif 3 none 0 s) := by
  simp [exec, execBadTlp, aerBit, hl, hp]

/-- Settles O55, register by register and port by port. -/
theorem headersAndPorts : Obligations.HeadersAndPorts := by
  unfold Obligations.HeadersAndPorts
  refine ⟨?_, ?_, ?_, ?_, ?_, ?_, ?_, ?_, ?_, ?_, ?_, ?_, ?_, ?_, ?_, ?_, ?_, ?_, ?_, ?_, ?_⟩
  · intro s p v _ ho
    exact ⟨_, congrArg Host.Outcome.next (hostWrite_of ho), onIrq_changes p _ s⟩
  · intro s p off v ho ha hd hp
    exact ⟨_, exec_registerWrite_header v ho ha hd hp (by decide), onIrq_changes p _ s⟩
  · intro s p off v ho ha hd hp
    exact ⟨_, exec_registerWrite_header v ho ha hd hp (by decide), onIrq_changes p _ s⟩
  · intro s p off v ho ha hd hp
    exact exec_registerWrite_header v ho ha hd hp (by decide)
  · intro s p off v ho ha hd hp
    exact exec_registerWrite_header v ho ha hd hp (by decide)
  · intro s p off v ho ha hd hp
    rw [exec_registerWrite_read v ho ha hd hp, regRead_corrected]
  · intro s v ho
    constructor
    · exact congrArg _ (cfgWrite_open _ ho)
    · exact congrArg _ ((cfgWrite_open _ ho).trans (answer_ofNat _ s))
  · intro s v ho hb
    exact congrArg _ ((cfgWrite_open _ ho).trans (commandWrite_mse hb))
  · intro s off v sp ho hl hp hs
    simp only [List.mem_cons, List.not_mem_nil, or_false] at hs
    rcases hs with rfl | rfl | rfl | rfl | rfl <;> exact congrArg _ (cfgWrite_closed _ ho hl hp)
  · intro s n v ho hn
    have entry : (16 * n + 8) / 16 = n ∧ (16 * n + 8) % 16 = 8 ∧ 16 * n + 8 < 4096 := by omega
    obtain ⟨hi, hr, hl⟩ := entry
    simp [exec, execRegisterWrite, hostWrite_of ho, bar4Write, hi, hr, hl, State.onVec, State.onHif]
  · intro s off p v ho hb ha hp
    simp only [exec, execSmbRegisterWrite, ho, hb, ha, hp, beq_self_eq_true, Bool.and_self, if_true,
      ← smbPage_iff]
    rfl
  · intro s off v h
    rcases h with h | h <;> simp [exec, execSmbRegisterWrite, h]
  · intro s off ho
    simp [exec, execSmbSetReadAddress, ho, State.onMgt]
  · intro s p ho hb hp ha
    exact exec_smbRegisterRead_id ho hb hp ha
  · intro s ho h
    exact exec_smbRegisterRead_ones ho h
  · intro s hr hp hl
    have driven : (s.power.railsOk && !s.power.perst && s.fuse.life != .scrap) = true := by simp [hr, hp, hl]
    simp only [exec, execIdcode, driven, if_true, idcode, answer_ofNat, leBytes_four_mod]
  · intro s h
    have closed : (s.power.railsOk && !s.power.perst && s.fuse.life != .scrap) = false := by
      rcases h with h | h | h <;> simp [h]
    simp [exec, execIdcode, closed]
  · intro s e h b hl hp he
    simp only [List.mem_cons, Prod.mk.injEq, List.not_mem_nil, or_false] at he
    rcases he with ⟨rfl, rfl⟩ | ⟨rfl, rfl⟩ | ⟨rfl, rfl⟩ | ⟨rfl, rfl⟩ <;>
      exact exec_badTlp_correctable h rfl hl hp
  · intro s e h b hl hp he
    simp only [List.mem_cons, Prod.mk.injEq, List.not_mem_nil, or_false] at he
    rcases he with ⟨rfl, rfl⟩ | ⟨rfl, rfl⟩ | ⟨rfl, rfl⟩ | ⟨rfl, rfl⟩ | ⟨rfl, rfl⟩ <;>
      exact exec_badTlp_uncorrectable h rfl hl hp
  · intro s h hz hl hp
    exact ⟨_, exec_badTlp_buffer h hl hp, errBit_raise _ _ _ _ _ (by decide) (hdrs_of_sized hz),
      raise_log _ _ _ _ _⟩
  · intro s e h hc
    have closed : (s.hif.linkUp && !s.power.perst) = false := by rcases hc with h | h <;> simp [h]
    simp [exec, execBadTlp, closed]

end Sys2Proof.Machine

namespace Sys2Proof.Machine

/-! # Every step keeps every numbered part

`sized` compares the length of each list of numbered parts with its count. Nearly every function of the model
updates parts in place, so its rule says that it leaves `sized` as it was, whatever its value:
`sized (f … s) = sized s`. These are `simp` rules in the order of the model, and the rule of a function follows
from the rules of the functions it calls. A command's outcome is judged by `sizedOut`.

The few functions that put new parts in place of old ones (ENABLE of a job context, SOFT_INIT, the resets, and the
register writes that reach them) have a rule with the premise `sized s = true`. -/

/-! ## The count of each page's own parts -/

@[simp] abbrev Ktl.sized (k : Ktl) : Bool :=
  k.banks.length == 8 && k.fsync.length == 16 && k.inputs.length == 5 && k.fifos.length == 4

@[simp] abbrev Sched.sized (d : Sched) : Bool :=
  d.ctxs.length == 256 && d.held.length == 24 && d.after.length == 24 && d.ctxs.all fun c => c.slots.length == 64

@[simp] abbrev Hif.sized (h : Hif) : Bool := h.dma.length == 8 && h.msix.length == 256
@[simp] abbrev Dec.sized (d : Dec) : Bool := d.ctxs.length == 128
@[simp] abbrev Enc.sized (e : Enc) : Bool := e.ctxs.length == 16
@[simp] abbrev Csi.sized (c : Csi) : Bool := c.chs.length == 16
@[simp] abbrev Scl.sized (c : Scl) : Bool := c.units.length == 4
@[simp] abbrev Cdy.sized (d : Cdy) : Bool := d.parts.length == 256 && d.rings.length == 8
@[simp] abbrev Spt.sized (p : Spt) : Bool := p.rings.length == 64

theorem sized_eq (s : State) : sized s =
    (s.hdrs.length == 56 && s.cores.length == 24 && s.clus.length == 7 && s.ktl.sized && s.sched.sized &&
      s.hif.sized && s.dec.sized && s.enc.sized && s.csi.sized && s.scl.sized && s.cdy.sized && s.spt.sized) := by
  simp only [sized, Ktl.sized, Sched.sized, Hif.sized, Dec.sized, Enc.sized, Csi.sized, Scl.sized, Cdy.sized,
    Spt.sized]
  ac_rfl

@[simp] theorem length_updAt {α : Type} (l : List α) (i : Nat) (f : α → α) : (updAt l i f).length = l.length :=
  List.length_modify ..

theorem all_updAt {α : Type} {p : α → Bool} {f : α → α} (h : ∀ x, p (f x) = p x) (l : List α) (i : Nat) :
    (updAt l i f).all p = l.all p := by
  unfold updAt
  induction l generalizing i with
  | nil => cases i <;> rfl
  | cons a r ih => cases i with
    | zero => simp [h]
    | succ i => simp [ih]

theorem all_updAt_of {α : Type} {p : α → Bool} {f : α → α} (h : ∀ x, p (f x) = true) {l : List α}
    (hl : l.all p = true) (i : Nat) : (updAt l i f).all p = true := by
  unfold updAt
  induction l generalizing i with
  | nil => cases i <;> rfl
  | cons a r ih =>
    obtain ⟨ha, hr⟩ : p a = true ∧ r.all p = true := by simpa using hl
    cases i with
    | zero => simp [h, hr]
    | succ i => simp [ha, ih hr]

/-! ### Parts that are updated -/

section
variable (s : State)

@[simp] theorem sized_onKtl {f : Ktl → Ktl} (h : ∀ k, (f k).sized = k.sized) : sized (s.onKtl f) = sized s := by
  simp only [sized_eq, State.onKtl, h]
@[simp] theorem sized_onHif {f : Hif → Hif} (h : ∀ k, (f k).sized = k.sized) : sized (s.onHif f) = sized s := by
  simp only [sized_eq, State.onHif, h]
@[simp] theorem sized_onSched {f : Sched → Sched} (h : ∀ k, (f k).sized = k.sized) : sized (s.onSched f) = sized s := by
  simp only [sized_eq, State.onSched, h]
@[simp] theorem sized_onDec {f : Dec → Dec} (h : ∀ k, (f k).sized = k.sized) : sized (s.onDec f) = sized s := by
  simp only [sized_eq, State.onDec, h]
@[simp] theorem sized_onEnc {f : Enc → Enc} (h : ∀ k, (f k).sized = k.sized) : sized (s.onEnc f) = sized s := by
  simp only [sized_eq, State.onEnc, h]
@[simp] theorem sized_onCsi {f : Csi → Csi} (h : ∀ k, (f k).sized = k.sized) : sized (s.onCsi f) = sized s := by
  simp only [sized_eq, State.onCsi, h]
@[simp] theorem sized_onScl {f : Scl → Scl} (h : ∀ k, (f k).sized = k.sized) : sized (s.onScl f) = sized s := by
  simp only [sized_eq, State.onScl, h]
@[simp] theorem sized_onCdy {f : Cdy → Cdy} (h : ∀ k, (f k).sized = k.sized) : sized (s.onCdy f) = sized s := by
  simp only [sized_eq, State.onCdy, h]
@[simp] theorem sized_onSpt {f : Spt → Spt} (h : ∀ k, (f k).sized = k.sized) : sized (s.onSpt f) = sized s := by
  simp only [sized_eq, State.onSpt, h]
@[simp] theorem sized_onMgt (f : Mgt → Mgt) : sized (s.onMgt f) = sized s := by
  simp only [sized_eq, State.onMgt]
@[simp] theorem sized_onFuse (f : Fuse → Fuse) : sized (s.onFuse f) = sized s := by
  simp only [sized_eq, State.onFuse]
@[simp] theorem sized_onFlash (f : Flash → Flash) : sized (s.onFlash f) = sized s := by
  simp only [sized_eq, State.onFlash]
@[simp] theorem sized_onSec (f : Sec → Sec) : sized (s.onSec f) = sized s := by
  simp only [sized_eq, State.onSec]
@[simp] theorem sized_onStr (f : Str → Str) : sized (s.onStr f) = sized s := by
  simp only [sized_eq, State.onStr]
@[simp] theorem sized_onHbm (f : Hbm → Hbm) : sized (s.onHbm f) = sized s := by
  simp only [sized_eq, State.onHbm]
@[simp] theorem sized_onMesh (f : Mesh → Mesh) : sized (s.onMesh f) = sized s := by
  simp only [sized_eq, State.onMesh]
@[simp] theorem sized_onBist (f : Bist → Bist) : sized (s.onBist f) = sized s := by
  simp only [sized_eq, State.onBist]
@[simp] theorem sized_onPower (f : Power → Power) : sized (s.onPower f) = sized s := by
  simp only [sized_eq, State.onPower]
@[simp] theorem sized_onHdr (p : Page) (f : Hdr → Hdr) : sized (s.onHdr p f) = sized s := by
  simp only [sized_eq, State.onHdr, length_updAt]
@[simp] theorem sized_onCore (n : Nat) (f : Core → Core) : sized (s.onCore n f) = sized s := by
  simp only [sized_eq, State.onCore, length_updAt]
@[simp] theorem sized_onClu (n : Nat) (f : Clu → Clu) : sized (s.onClu n f) = sized s := by
  simp only [sized_eq, State.onClu, length_updAt]
@[simp] theorem sized_onCtx {c : Nat} {f : Ctx → Ctx} (h : ∀ x, (f x).slots.length = x.slots.length) :
    sized (s.onCtx c f) = sized s := by
  refine sized_onSched s fun d => ?_
  rw [Sched.sized, Sched.sized, length_updAt, all_updAt fun x => by rw [h]]
@[simp] theorem sized_onSlot (c k : Nat) (f : Slot → Slot) : sized (s.onSlot c k f) = sized s :=
  sized_onCtx s fun _ => length_updAt ..
@[simp] theorem sized_onBank (b : Nat) (f : Bank → Bank) : sized (s.onBank b f) = sized s :=
  sized_onKtl s fun _ => by simp only [Ktl.sized, length_updAt]
@[simp] theorem sized_onLine (n : Nat) (f : FsyncLine → FsyncLine) : sized (s.onLine n f) = sized s :=
  sized_onKtl s fun _ => by simp only [Ktl.sized, length_updAt]
@[simp] theorem sized_onInput (n : Nat) (f : InFilter → InFilter) : sized (s.onInput n f) = sized s :=
  sized_onKtl s fun _ => by simp only [Ktl.sized, length_updAt]
@[simp] theorem sized_onFifo (n : Nat) (f : TsFifo → TsFifo) : sized (s.onFifo n f) = sized s :=
  sized_onKtl s fun _ => by simp only [Ktl.sized, length_updAt]
@[simp] theorem sized_onDma (n : Nat) (f : DmaCh → DmaCh) : sized (s.onDma n f) = sized s :=
  sized_onHif s fun _ => by simp only [Hif.sized, length_updAt]
@[simp] theorem sized_onVec (n : Nat) (f : Vec → Vec) : sized (s.onVec n f) = sized s :=
  sized_onHif s fun _ => by simp only [Hif.sized, length_updAt]
@[simp] theorem sized_onDecCtx (n : Nat) (f : DecCtx → DecCtx) : sized (s.onDecCtx n f) = sized s :=
  sized_onDec s fun _ => by simp only [Dec.sized, length_updAt]
@[simp] theorem sized_onEncCtx (n : Nat) (f : EncCtx → EncCtx) : sized (s.onEncCtx n f) = sized s :=
  sized_onEnc s fun _ => by simp only [Enc.sized, length_updAt]
@[simp] theorem sized_onCap (n : Nat) (f : CapCh → CapCh) : sized (s.onCap n f) = sized s :=
  sized_onCsi s fun _ => by simp only [Csi.sized, length_updAt]
@[simp] theorem sized_onSclUnit (n : Nat) (f : SclUnit → SclUnit) : sized (s.onSclUnit n f) = sized s :=
  sized_onScl s fun _ => by simp only [Scl.sized, length_updAt]
@[simp] theorem sized_onCdyPart (n : Nat) (f : CdyPart → CdyPart) : sized (s.onCdyPart n f) = sized s :=
  sized_onCdy s fun _ => by simp only [Cdy.sized, length_updAt]
@[simp] theorem sized_onCdyRing (n : Nat) (f : CdyRing → CdyRing) : sized (s.onCdyRing n f) = sized s :=
  sized_onCdy s fun _ => by simp only [Cdy.sized, length_updAt]
@[simp] theorem sized_onSptRing (n : Nat) (f : SptRing → SptRing) : sized (s.onSptRing n f) = sized s :=
  sized_onSpt s fun _ => by simp only [Spt.sized, length_updAt]
@[simp] theorem sized_issue (t : Tlp) : sized (s.issue t) = sized s := by
  simp only [sized_eq, State.issue]
@[simp] theorem sized_answer (w : W32) : sized (s.answer w) = sized s := by
  simp only [sized_eq, State.answer]
@[simp] theorem sized_takeFree : sized s.takeFree.2 = sized s := by
  simp only [sized_eq, State.takeFree]

@[simp] theorem sized_mk (pending : List Instr) (free : Nat) (resp : List Byte) (link : List Tlp)
    (mem : List Host.Cell) (badWords : List Nat) (power : Power) (mgt : Mgt) (fuse : Fuse) (flash : Flash)
    (sec : Sec) (str : Str) (hbm : Hbm) (mesh : Mesh) (bist : Bist) :
    sized ⟨pending, free, resp, link, mem, badWords, power, s.hdrs, s.ktl, mgt, fuse, flash, sec, s.hif, s.sched,
      s.cores, s.clus, s.dec, str, s.enc, s.csi, s.scl, s.cdy, s.spt, hbm, mesh, bist⟩ = sized s := by
  simp only [sized_eq]

@[simp] theorem sized_ite (c : Prop) [Decidable c] (a b : State) :
    sized (if c then a else b) = if c then sized a else sized b := apply_ite ..

theorem sized_ite_of {c : Prop} [Decidable c] {a b : State} {n : Bool} (ha : sized a = n) (hb : sized b = n) :
    sized (if c then a else b) = n := by split <;> assumption

@[simp] theorem sized_ite_snd {α : Type} (c : Prop) [Decidable c] (a b : α × State) :
    sized (if c then a else b).2 = if c then sized a.2 else sized b.2 := by split <;> rfl

@[simp] theorem sized_ite_snd_snd {α β : Type} (c : Prop) [Decidable c] (a b : α × β × State) :
    sized (if c then a else b).2.2 = if c then sized a.2.2 else sized b.2.2 := by split <;> rfl

/-- Parts that every step of a fold keeps are kept by the fold. -/
@[simp] theorem sized_foldl {α : Type} {f : State → α → State} (h : ∀ t a, sized (f t a) = sized t) (l : List α) :
    sized (l.foldl f s) = sized s := foldl_keeps sized f h l s

theorem sized_foldl_pair {α β : Type} {f : α × State → β → α × State} (h : ∀ p b, sized (f p b).2 = sized p.2)
    (l : List β) (p : α × State) : sized (l.foldl f p).2 = sized p.2 := by
  induction l generalizing p with
  | nil => rfl
  | cons b l ih => rw [List.foldl_cons, ih, h]

theorem sized_snd_ite_of {α : Type} {c : Prop} [Decidable c] {a b : α × State} {n : Bool} (ha : sized a.2 = n)
    (hb : sized b.2 = n) : sized (if c then a else b).2 = n := by split <;> assumption

theorem sized_of_pair {α : Type} {p : α × State} {n : Bool} (hp : sized p.2 = n) {a : α} {t : State}
    (h : p = (a, t)) : sized t = n := by rw [← hp, h]

theorem sized_of_triple {α β : Type} {p : α × β × State} {n : Bool} (hp : sized p.2.2 = n) {a : α} {b : β}
    {t : State} (h : p = (a, b, t)) : sized t = n := by rw [← hp, h]

end

/-! ### Parts that are replaced -/

section
variable {s : State} (hs : sized s = true)
include hs

theorem sized_onSched_of {f : Sched → Sched} (h : s.sched.sized = true → (f s.sched).sized = true) :
    sized (s.onSched f) = true := by
  simp only [sized_eq, State.onSched, Bool.and_eq_true] at hs h ⊢
  simp only [hs, h, and_self]

theorem sized_onHif_of {f : Hif → Hif} (h : s.hif.sized = true → (f s.hif).sized = true) :
    sized (s.onHif f) = true := by
  simp only [sized_eq, State.onHif, Bool.and_eq_true] at hs h ⊢
  simp only [hs, h, and_self]

theorem sized_onDec_of {f : Dec → Dec} (h : (f s.dec).sized = true) : sized (s.onDec f) = true := by
  simp only [sized_eq, State.onDec, Bool.and_eq_true] at hs h ⊢
  simp only [hs, h, and_self]

theorem sized_onEnc_of {f : Enc → Enc} (h : (f s.enc).sized = true) : sized (s.onEnc f) = true := by
  simp only [sized_eq, State.onEnc, Bool.and_eq_true] at hs h ⊢
  simp only [hs, h, and_self]

theorem sized_onCsi_of {f : Csi → Csi} (h : (f s.csi).sized = true) : sized (s.onCsi f) = true := by
  simp only [sized_eq, State.onCsi, Bool.and_eq_true] at hs h ⊢
  simp only [hs, h, and_self]

theorem sized_onCdy_of {f : Cdy → Cdy} (h : s.cdy.sized = true → (f s.cdy).sized = true) :
    sized (s.onCdy f) = true := by
  simp only [sized_eq, State.onCdy, Bool.and_eq_true] at hs h ⊢
  simp only [hs, h, and_self]

theorem sized_onSpt_of {f : Spt → Spt} (h : (f s.spt).sized = true) : sized (s.onSpt f) = true := by
  simp only [sized_eq, State.onSpt, Bool.and_eq_true] at hs h ⊢
  simp only [hs, h, and_self]

/-- A job context may be replaced by one that has its 64 slots. -/
theorem sized_onCtx_of (c : Nat) {f : Ctx → Ctx} (h : ∀ x, (f x).slots.length = 64) :
    sized (s.onCtx c f) = true := by
  refine sized_onSched_of hs fun hd => ?_
  simp only [Sched.sized, Bool.and_eq_true, length_updAt] at hd ⊢
  exact ⟨hd.1, all_updAt_of (fun x => by rw [h]; rfl) hd.2 c⟩

end

/-! ### Outcomes -/

/-- The numbered parts of the state that an outcome leaves are all there. -/
def sizedOut : Out → Bool
  | .next t => sized t
  | _ => true

@[simp] theorem sizedOut_next (s : State) : sizedOut (.next s) = sized s := by rw [sizedOut]

/-! ## The rules of the model's functions

Where a function looks at what it read from memory through nested matches, its proof first puts a variable `R`
that has `readMem`'s rule in the place of `readMem`: comparing two such matches, the kernel would otherwise
compute the read. `id` keeps Lean from putting `readMem` back into the finished proof. -/

/-! ### Interrupts, errors and the fault log -/

@[simp] theorem sized_reqVector (v : Nat) (s : State) : sized (reqVector v s) = sized s := by simp [reqVector]
@[simp] theorem sized_reqSource (src : Nat) (s : State) : sized (reqSource src s) = sized s := by simp [reqSource]
@[simp] theorem sized_onIrq (p : Page) (f : Hdr → Hdr) (s : State) : sized (onIrq p f s) = sized s := by simp [onIrq]
@[simp] theorem sized_setInt (p : Page) (i : Nat) (s : State) : sized (setInt p i s) = sized s := by simp [setInt]

@[simp] theorem sized_logFault (p : Page) (b cls : Nat) (detail : W32) (s : State) :
    sized (logFault p b cls detail s) = sized s := by
  unfold logFault
  repeat' split
  all_goals simp

@[simp] theorem sized_fatalDue (p : Page) (s : State) : sized (fatalDue p s) = sized s := by simp [fatalDue]
@[simp] theorem sized_raiseLog (p : Page) (b : Nat) (l0 l1 l2 l3 : W32) (s : State) :
    sized (raiseLog p b l0 l1 l2 l3 s) = sized s := by
  simp [raiseLog]

@[simp] theorem sized_detailOf (d : Option W32) (s : State) : sized (detailOf d s).2 = sized s := by
  unfold detailOf
  split <;> simp

@[simp] theorem sized_raise (p : Page) (b : Nat) (d : Option W32) (unit : Nat) (s : State) :
    sized (raise p b d unit s) = sized s := by
  simp [raise]
@[simp] theorem sized_raiseAddr (p : Page) (b addr resp stop agent unit : Nat) (s : State) :
    sized (raiseAddr p b addr resp stop agent unit s) = sized s := by
  simp [raiseAddr]
@[simp] theorem sized_raiseTlp (b : Nat) (s : State) : sized (raiseTlp b s) = sized s := by simp [raiseTlp]
@[simp] theorem sized_invalidProg (p : Page) (s : State) : sized (invalidProg p s) = sized s := by simp [invalidProg]

/-! ### Memory, responses and host accesses -/

@[simp] theorem sized_logResp (src : Src) (r : Resp) (a : Nat) (s : State) : sized (logResp src r a s) = sized s := by
  unfold logResp
  split <;> simp

@[simp] theorem sized_markCore (src : Src) (a : Nat) (s : State) : sized (markCore src a s) = sized s := by
  unfold markCore
  split <;> simp

@[simp] theorem sized_logUncorr (src : Src) (a : Nat) (s : State) : sized (logUncorr src a s) = sized s := by
  simp [logUncorr]
@[simp] theorem sized_logCorr (src : Src) (a : Nat) (s : State) : sized (logCorr src a s) = sized s := by
  simp [logCorr]
@[simp] theorem sized_spoil (a : Nat) (s : State) : sized (spoil a s) = sized s := by simp [spoil]
@[simp] theorem sized_touch (src : Src) (a : Nat) (s : State) : sized (touch src a s) = sized s := by simp [touch]

@[simp] theorem sized_readMem (src : Src) (a n : Nat) (s : State) : sized (readMem src a n s).2.2 = sized s := by
  unfold readMem
  split <;> simp

@[simp] theorem sized_putKeys (part : List Nat) (cs : List Host.Cell) (s : State) :
    sized (putKeys part cs s) = sized s := by
  simp [putKeys]
@[simp] theorem sized_ringDoorbells (hit : Nat → Bool) (fb : Bool) (s : State) :
    sized (ringDoorbells hit fb s) = sized s := by
  simp [ringDoorbells]
@[simp] theorem sized_poke (a : Nat) (bs : List Byte) (s : State) : sized (poke a bs s) = sized s := by simp [poke]
@[simp] theorem sized_logWords (src : Src) (bad ws : List Nat) (s : State) :
    sized (logWords src bad ws s) = sized s := by
  simp [logWords]

@[simp] theorem sized_writeMem (src : Src) (a : Nat) (bs : List Byte) (fb : Bool) (s : State) :
    sized (writeMem src a bs fb s).2 = sized s := by
  unfold writeMem
  split <;> simp

@[simp] theorem sized_partFault (src : Src) (as : List Nat) (s : State) : sized (partFault src as s) = sized s := by
  simp [partFault]

@[simp] theorem sized_serveCells (src : Src) (w : Cells) (s : State) : sized (serveCells src w s).2 = sized s := by
  unfold serveCells
  dsimp only
  split <;> simp

@[simp] theorem sized_writeCells (src : Src) (w : Cells) (s : State) : sized (writeCells src w s).2 = sized s := by
  unfold writeCells
  split <;> simp

@[simp] theorem sized_store (src : Src) (a : Nat) (bs : List Byte) (s : State) :
    sized (store src a bs s) = sized s := by
  simp [store]
@[simp] theorem sized_storeNat (src : Src) (a n v : Nat) (s : State) : sized (storeNat src a n v s) = sized s := by
  simp [storeNat]
@[simp] theorem sized_serve64 (src : Src) (w : Nat) (fb : Bool) (f : Nat → Nat) (s : State) :
    sized (serve64 src w fb f s).2 = sized s := by
  simp [serve64]

@[simp] theorem sized_modify64 (src : Src) (a : Nat) (fb : Bool) (f : Nat → Nat) (s : State) :
    sized (modify64 src a fb f s).2 = sized s := by
  unfold modify64
  dsimp only
  split <;> simp

@[simp] theorem sized_account (src : Src) (off v : Nat) (s : State) : sized (account src off v s) = sized s := by
  simp [account]
@[simp] theorem sized_bump32 (src : Src) (a : Nat) (s : State) : sized (bump32 src a s) = sized s := by simp [bump32]

theorem sized_enqueue {pc lines : Nat} {s t : State} (h : enqueue pc lines s = some t) : sized t = sized s := by
  unfold enqueue at h
  split at h
  · cases h; rfl
  · simp only [Option.ite_none_right_eq_some, Option.some.injEq] at h
    rw [← h.2, sized_onHbm]

theorem sized_foldl_bind {α : Type} {f : α → State → Option State} (h : ∀ i u v, f i u = some v → sized v = sized u)
    {n : Bool} (l : List α) (o : Option State) (ho : ∀ u, o = some u → sized u = n) :
    ∀ u, l.foldl (fun o i => o.bind (f i)) o = some u → sized u = n := by
  induction l generalizing o with
  | nil => exact ho
  | cons i l ih =>
    refine ih _ fun v hv => ?_
    obtain ⟨u, hu, hv⟩ := Option.bind_eq_some_iff.1 hv
    exact (h i u v hv).trans (ho u hu)

theorem sized_toQueues {a lines : Nat} {s t : State} (h : toQueues a lines s = some t) : sized t = sized s := by
  refine sized_foldl_bind (fun i u v hv => ?_) _ _ (fun u hu => by cases hu; rfl) t h
  dsimp only at hv
  split at hv
  · exact sized_enqueue hv
  · cases hv; rfl

@[simp] theorem sized_dropRec (n : Nat) (s : State) : sized (dropRec n s) = sized s := by simp [dropRec]
@[simp] theorem sized_handOff (who ring : Nat) (cpl : Bool) (bytes : List Byte) (s : State) :
    sized (handOff who ring cpl bytes s) = sized s := by
  simp [handOff]

@[simp] theorem sized_hostWrite {f : State → State} (s : State) (hf : ∀ t, sized (f t) = sized t) :
    sized (hostWrite f s) = sized s := by
  simp [hostWrite, hf]

theorem sized_hostWrite_of {f : State → State} {s : State} (hf : ∀ t, sized t = true → sized (f t) = true)
    (h : sized s = true) : sized (hostWrite f s) = true := by
  unfold hostWrite
  split
  · exact hf s h
  · exact h

@[simp] theorem sized_unclaimed (s : State) : sized (unclaimed s) = sized s := by simp [unclaimed]
@[simp] theorem sized_hostRead {f : State → State} (s : State) (hf : ∀ t, sized (f t) = sized t) :
    sized (hostRead f s) = sized s := by
  simp [hostRead, hf]

@[simp] theorem sized_cmdWrite (p : Page) (n : Nat) (old : CmdReg) (v : W32) {f : W32 → State → State} (s : State)
    (hf : ∀ a t, sized (f a t) = sized t) : sized (cmdWrite p n old v f s) = sized s := by
  simp [cmdWrite, hf]

theorem sized_cmdWrite_of {p : Page} {n : Nat} {old : CmdReg} {v : W32} {f : W32 → State → State} {s : State}
    (hf : ∀ a t, sized t = true → sized (f a t) = true) (h : sized s = true) :
    sized (cmdWrite p n old v f s) = true := by
  unfold cmdWrite
  split
  · simpa using h
  · split
    · exact hf _ _ (by simpa using h)
    · exact hf _ _ h

/-! ### Shadow registers -/

@[simp] theorem sized_shadowWrite (p : Page) (changes : Bool) {f : State → State} (s : State)
    (hf : ∀ t, sized (f t) = sized t) :
    sized (shadowWrite p changes f s) = sized s := by
  simp [shadowWrite, hf]

@[simp] theorem sized_emptyShadow (p : Page) (s : State) : sized (emptyShadow p s) = sized s := by
  unfold emptyShadow
  split <;> simp

@[simp] theorem sized_applyShadow (p : Page) (s : State) : sized (applyShadow p s) = sized s := by
  unfold applyShadow
  split <;> simp

/-! ### The Kettle: plan, epochs and FSYNC -/

@[simp] theorem sized_countLatch (s : State) : sized (countLatch s) = sized s := by simp [countLatch]
@[simp] theorem sized_execKtlCountRead (hi : Bool) (s : State) : sizedOut (execKtlCountRead hi s) = sized s := by
  simp [execKtlCountRead]
@[simp] theorem sized_commitBank (b : Nat) (s : State) : sized (commitBank b s) = sized s := by simp [commitBank]
@[simp] theorem sized_invalidateBank (b : Nat) (s : State) : sized (invalidateBank b s) = sized s := by
  simp [invalidateBank]
@[simp] theorem sized_bankCtrlWrite (v : W32) (s : State) : sized (bankCtrlWrite v s) = sized s := by
  simp [bankCtrlWrite]
@[simp] theorem sized_execCommit (v : W32) (s : State) : sizedOut (execCommit v s) = sized s := by simp [execCommit]
@[simp] theorem sized_execInvalidate (v : W32) (s : State) : sizedOut (execInvalidate v s) = sized s := by
  simp [execInvalidate]
@[simp] theorem sized_ltWrite (w : W32) (s : State) : sized (ltWrite w s) = sized s := by simp [ltWrite]
@[simp] theorem sized_ltAdvance (s : State) : sized (ltAdvance s) = sized s := by simp [ltAdvance]

@[simp] theorem sized_execKtlLtDataAccess (w : Option W32) (s : State) :
    sizedOut (execKtlLtDataAccess w s) = sized s := by
  unfold execKtlLtDataAccess
  split <;> simp

@[simp] theorem sized_planCtrlDirect (v : W32) (s : State) : sized (planCtrlDirect v s) = sized s := by
  simp [planCtrlDirect]
@[simp] theorem sized_planCtrlWrite (v : W32) (s : State) : sized (planCtrlWrite v s) = sized s := by
  simp [planCtrlWrite]
@[simp] theorem sized_execStart (v : W32) (s : State) : sizedOut (execStart v s) = sized s := by simp [execStart]
@[simp] theorem sized_execStop (v : W32) (s : State) : sizedOut (execStop v s) = sized s := by simp [execStop]
@[simp] theorem sized_execLoad (v : W32) (s : State) : sizedOut (execLoad v s) = sized s := by simp [execLoad]

@[simp] theorem sized_onKtl_beginCycle (now len no : Nat) (s : State) :
    sized (s.onKtl (beginCycle now len no)) = sized s := sized_onKtl s fun _ => rfl

@[simp] theorem sized_execPlanStartBeat (s : State) : sizedOut (execPlanStartBeat s) = sized s := by
  simp [execPlanStartBeat]

@[simp] theorem sized_cycleLenAt (start no : Nat) (s : State) : sized (cycleLenAt start no s).2 = sized s := by
  unfold cycleLenAt
  dsimp only
  split
  · split
    next _ t h => cases (Option.ite_none_right_eq_some.1 h).2; rfl
    · rfl
  · rfl

@[simp] theorem sized_execPlanCycleEnd (s : State) : sizedOut (execPlanCycleEnd s) = sized s := by
  simp [execPlanCycleEnd]

@[simp] theorem sized_execLaunchIssue (s : State) : sizedOut (execLaunchIssue s) = sized s := by
  unfold execLaunchIssue
  split <;> simp

theorem sized_takeAction {s : State} {lat code : Nat} {p : Action → Bool} {a : Action} {t : State}
    (h : takeAction s lat code p = some (a, t)) : sized t = sized s := by
  unfold takeAction at h
  split at h
  · obtain ⟨b, -, hb⟩ := Option.map_eq_some_iff.1 h
    cases hb
    simp
  · cases h

@[simp] theorem sized_forgetBeats (s : State) : sized (forgetBeats s) = sized s := by simp [forgetBeats]

@[simp] theorem sized_execCountLoaded (s : State) : sizedOut (execCountLoaded s) = sized s := by
  unfold execCountLoaded
  split <;> simp

@[simp] theorem sized_execRefreshWindow (s : State) : sizedOut (execRefreshWindow s) = sized s := by
  simp [execRefreshWindow]
@[simp] theorem sized_execHbmTempReading (temp : BitVec 8) (s : State) :
    sizedOut (execHbmTempReading temp s) = sized s := by
  simp [execHbmTempReading]

@[simp] theorem sized_dropEpoch (res : Nat) (s : State) : sized (dropEpoch res s) = sized s := by
  unfold dropEpoch
  rw [sized_setInt, sized_onKtl]
  intro k
  dsimp only
  split <;> rfl

@[simp] theorem sized_resetEpoch (s : State) : sized (resetEpoch s) = sized s := by
  unfold resetEpoch
  split <;> simp

@[simp] theorem sized_armEpoch (beat tgt : Nat) (planned byCap : Bool) (s : State) :
    sized (armEpoch beat tgt planned byCap s) = sized s := by
  simp [armEpoch]

@[simp] theorem sized_epochCtrlWrite (v : W32) (s : State) : sized (epochCtrlWrite v s) = sized s := by
  unfold epochCtrlWrite
  dsimp only
  repeat' split
  all_goals simp

@[simp] theorem sized_execArm (v : W32) (s : State) : sizedOut (execArm v s) = sized s := by simp [execArm]
@[simp] theorem sized_execDisarm (v : W32) (s : State) : sizedOut (execDisarm v s) = sized s := by simp [execDisarm]

@[simp] theorem sized_execModeSwitch (s : State) : sizedOut (execModeSwitch s) = sized s := by
  unfold execModeSwitch
  split
  · rfl
  next h =>
    rw [← sized_takeAction h]
    split
    · simp [putEpochBeat]
    · rfl

@[simp] theorem sized_execEpochSample (s : State) : sizedOut (execEpochSample s) = sized s := by
  unfold execEpochSample
  repeat' split
  all_goals simp

@[simp] theorem sized_installPlan (s : State) : sized (installPlan s) = sized s := by
  unfold installPlan
  dsimp only
  split
  · rfl
  · simp
  · simp
  · exact (sized_onKtl _ fun _ => rfl).trans (sized_cycleLenAt ..)

@[simp] theorem sized_execEpochDone (s : State) : sizedOut (execEpochDone s) = sized s := by
  unfold execEpochDone
  split
  · split
    · simp [putEpochBeat]
    · rfl
  · rfl

@[simp] theorem sized_execFsyncPulse (line : Fin 16) (s : State) : sizedOut (execFsyncPulse line s) = sized s := by
  unfold execFsyncPulse
  split
  · rfl
  next h =>
    rw [← sized_takeAction h]
    simp

@[simp] theorem sized_execFsyncPulseEnd (line : Fin 16) (s : State) :
    sizedOut (execFsyncPulseEnd line s) = sized s := by
  unfold execFsyncPulseEnd
  dsimp only
  split <;> simp

@[simp] theorem sized_fsyncCfg (line : Nat) (v : W32) (s : State) : sized (fsyncCfg line v s) = sized s := by
  simp [fsyncCfg]
@[simp] theorem sized_execFsyncCfgWrite (line : Fin 16) (v : W32) (s : State) :
    sizedOut (execFsyncCfgWrite line v s) = sized s := by
  simp [execFsyncCfgWrite]

/-! ### Operations of a job -/

@[simp] theorem sized_freeBytes (n : Nat) (s : State) : sized (freeBytes n s).2 = sized s := by simp [freeBytes]
@[simp] theorem sized_ctxCount (c off : Nat) (s : State) : sized (ctxCount c off s) = sized s := by simp [ctxCount]
@[simp] theorem sized_launch (n c k : Nat) (s : State) : sized (launch n c k s) = sized s := by
  simp only [launch, sized_onCore, sized_onSlot]

@[simp] theorem sized_chargeArray (n : Nat) (s : State) : sized (chargeArray n s) = sized s := by
  unfold chargeArray
  split <;> simp

@[simp] theorem sized_chargeVector (n ticks : Nat) (s : State) : sized (chargeVector n ticks s) = sized s := by
  unfold chargeVector
  split <;> simp

@[simp] theorem sized_mseRunEndAt (n hit : Nat) (s : State) : sized (mseRunEndAt n hit s) = sized s := by
  simp [mseRunEndAt]
@[simp] theorem sized_mseRunEnd (hit : Nat) (s : State) : sized (mseRunEnd hit s) = sized s := by simp [mseRunEnd]
@[simp] theorem sized_endRun (n : Nat) (j : Job) (st : JobStore) (sat : List Nat) (s : State) :
    sized (endRun n j st sat s) = sized s := by
  simp [endRun]

@[simp] theorem sized_handComplete (j : Job) (x : CplNote) (s : State) : sized (handComplete j x s) = sized s := by
  unfold handComplete
  dsimp only
  rw [sized_onCtx, sized_onSlot, sized_onCtx, sized_handOff]
  · exact fun _ => rfl
  · intro c; split <;> rfl

@[simp] theorem sized_complete (j : Job) (x : CplNote) (s : State) : sized (complete j x s) = sized s := by
  simp [complete]
@[simp] theorem sized_handWaiting (s : State) : sized (handWaiting s) = sized s := by simp [handWaiting]
@[simp] theorem sized_completeUnheld (c k jobId ring : Nat) (x : CplNote) (s : State) :
    sized (completeUnheld c k jobId ring x s) = sized s := by
  simp [completeUnheld]
@[simp] theorem sized_freeFrame (n f : Nat) (s : State) : sized (freeFrame n f s) = sized s := by simp [freeFrame]

@[simp] theorem sized_beginRestore (n c k : Nat) (s : State) : sized (beginRestore n c k s) = sized s := by
  unfold beginRestore
  split <;> simp

@[simp] theorem sized_releaseCore (n : Nat) (s : State) : sized (releaseCore n s) = sized s := by
  unfold releaseCore
  dsimp only
  repeat' split
  all_goals simp

@[simp] theorem sized_takeoverNoJob (n : Nat) (s : State) : sized (takeoverNoJob n s) = sized s := by
  simp [takeoverNoJob]

@[simp] theorem sized_finishJob (n status : Nat) (s : State) : sized (finishJob n status s) = sized s := by
  unfold finishJob
  dsimp only
  repeat' split
  all_goals simp

@[simp] theorem sized_rejectJob (n : Nat) (r : Reject) (s : State) : sized (rejectJob n r s) = sized s := by
  unfold rejectJob
  split <;> simp

@[simp] theorem sized_endSaved (status c k : Nat) (s : State) : sized (endSaved status c k s) = sized s := by
  unfold endSaved
  split <;> simp

@[simp] theorem sized_discardSaved (c k : Nat) (s : State) : sized (discardSaved c k s) = sized s := by
  simp [discardSaved]
@[simp] theorem sized_becomeAbsent (n : Nat) (s : State) : sized (becomeAbsent n s) = sized s := by
  simp [becomeAbsent]
@[simp] theorem sized_settleLost (n : Nat) (s : State) : sized (settleLost n s) = sized s := by simp [settleLost]
@[simp] theorem sized_startTakeover (n cause : Nat) (s : State) : sized (startTakeover n cause s) = sized s := by
  simp [startTakeover]
@[simp] theorem sized_coreFailed (n cause : Nat) (mi : Option Nat) (s : State) :
    sized (coreFailed n cause mi s) = sized s := by
  simp [coreFailed]
@[simp] theorem sized_coreFails (n addr : Nat) (mi : Option Nat) (s : State) :
    sized (coreFails n addr mi s) = sized s := by
  simp [coreFails]
@[simp] theorem sized_coreMemFailures (s : State) : sized (coreMemFailures s) = sized s := by simp [coreMemFailures]
@[simp] theorem sized_beginSave (n f : Nat) (counts : Bool) (s : State) :
    sized (beginSave n f counts s) = sized s := by
  simp [beginSave]
@[simp] theorem sized_accSaved (n : Nat) (s : State) : sized (accSaved n s).2 = sized s := by simp [accSaved]
@[simp] theorem sized_frameBytes (n : Nat) (s : State) : sized (frameBytes n s).2 = sized s := by simp [frameBytes]

@[simp] theorem sized_writeAll (src : Src) (l : List (Nat × List Byte)) (s : State) :
    sized (writeAll src l s).2 = sized s := by
  induction l generalizing s with
  | nil => rfl
  | cons r l ih =>
    unfold writeAll
    split
    next t h => rw [ih, ← sized_writeMem src r.1 r.2 false s, h]
    next => exact sized_writeMem ..

@[simp] theorem sized_suspend (n : Nat) (s : State) : sized (suspend n s) = sized s := by
  unfold suspend
  split <;> simp

/-! ### Job contexts, shares, save and restore -/

theorem sized_ctxEnableOp (c : Nat) {s : State} (hs : sized s = true) : sized (ctxEnableOp c s).2 = true := by
  have read := sized_readMem
  generalize hf : ctxEnableOp = f
  delta ctxEnableOp at hf
  generalize readMem = R at hf read
  subst hf
  revert R
  refine id ?_
  intro R read
  have ht src a n : sized (R src a n s).2.2 = true := (read ..).trans hs
  exact sized_snd_ite_of (ht ..) (sized_snd_ite_of (ht ..) (sized_snd_ite_of (ht ..)
    (sized_onCtx_of (ht ..) _ fun _ => rfl)))

@[simp] theorem sized_disableSlot (c k : Nat) (s : State) : sized (disableSlot c k s) = sized s := by
  unfold disableSlot
  repeat' split
  all_goals simp

@[simp] theorem sized_ctxDisableOp (c : Nat) (s : State) : sized (ctxDisableOp c s).2 = sized s := by
  simp [ctxDisableOp]
@[simp] theorem sized_askPreempt (n : Nat) (s : State) : sized (askPreempt n s) = sized s := by simp [askPreempt]
@[simp] theorem sized_holdOp (c : Nat) (s : State) : sized (holdOp c s).2 = sized s := by simp [holdOp]
@[simp] theorem sized_unholdOp (c : Nat) (s : State) : sized (unholdOp c s).2 = sized s := by simp [unholdOp]

theorem sized_ctxCmdWrite (v : W32) {s : State} (h : sized s = true) : sized (ctxCmdWrite v s) = true := by
  refine sized_cmdWrite_of (fun v s h => ?_) h
  extract_lets t c r
  have ht : sized t = true := by simpa [t] using h
  refine sized_ite_of ((sized_onHif _ fun _ => rfl).trans ?_) ht
  have op : ∀ n, sized (match n with
      | 0 => ctxEnableOp c t
      | 1 => ctxDisableOp c t
      | 2 => holdOp c t
      | _ => unholdOp c t).2 = true := by
    intro n
    split
    · exact sized_ctxEnableOp c ht
    · rw [sized_ctxDisableOp, ht]
    · rw [sized_holdOp, ht]
    · rw [sized_unholdOp, ht]
  exact op _

theorem sized_execCtxEnable (ctx : Fin 256) {s : State} (h : sized s = true) :
    sizedOut (execCtxEnable ctx s) = true :=
  sized_hostWrite_of (fun _ => sized_ctxCmdWrite _) h

theorem sized_execCtxDisable (ctx : Fin 256) {s : State} (h : sized s = true) :
    sizedOut (execCtxDisable ctx s) = true :=
  sized_hostWrite_of (fun _ => sized_ctxCmdWrite _) h

theorem sized_execHold (ctx : Fin 256) {s : State} (h : sized s = true) :
    sizedOut (execHold ctx s) = true :=
  sized_hostWrite_of (fun _ => sized_ctxCmdWrite _) h

theorem sized_execUnhold (ctx : Fin 256) {s : State} (h : sized s = true) :
    sizedOut (execUnhold ctx s) = true :=
  sized_hostWrite_of (fun _ => sized_ctxCmdWrite _) h

@[simp] theorem sized_urgentAsk (n c k : Nat) (s : State) : sized (urgentAsk n c k s).2 = sized s := by
  simp [urgentAsk]
@[simp] theorem sized_holdStart (n c k : Nat) (s : State) : sized (holdStart n c k s) = sized s := by simp [holdStart]
@[simp] theorem sized_jobStartOp (c k : Nat) (s : State) : sized (jobStartOp c k s) = sized s := by simp [jobStartOp]

@[simp] theorem sized_execJobStart (ctx : Fin 256) (slot : Fin 64) (s : State) :
    sizedOut (execJobStart ctx slot s) = sized s := by
  unfold execJobStart
  split
  next h => rw [sizedOut_next, sized_jobStartOp, sized_takeAction h]
  · rfl

@[simp] theorem sized_rejectAtValidation (c k code : Nat) (h : Option JobHdr) (s : State) :
    sized (rejectAtValidation c k code h s) = sized s := by
  unfold rejectAtValidation
  split <;> simp

@[simp] theorem sized_validate (c k : Nat) (s : State) : sized (validate c k s) = sized s := by simp [validate]
@[simp] theorem sized_validateMask (c mask : Nat) (s : State) : sized (validateMask c mask s) = sized s := by
  simp [validateMask]

theorem sized_takeDb {d v : Nat} {s t : State} (h : takeDb d s = some (v, t)) : sized t = sized s := by
  unfold takeDb at h
  split at h <;> cases h
  simp

@[simp] theorem sized_execCtxDoorbell (ctx : Fin 256) (s : State) : sizedOut (execCtxDoorbell ctx s) = sized s := by
  unfold execCtxDoorbell
  split
  next h => simp [← sized_takeDb h]
  · rfl

@[simp] theorem sized_fixedNext (n : Nat) (s : State) : sized (fixedNext n s) = sized s := by
  unfold fixedNext
  dsimp only
  repeat' split
  all_goals simp

@[simp] theorem sized_execCoreFreeSelect (core : Fin 24) (s : State) :
    sizedOut (execCoreFreeSelect core s) = sized s := by
  simp [execCoreFreeSelect]
@[simp] theorem sized_refill (p r : Nat) (s : State) : sized (refill p r s) = sized s := by simp [refill]

theorem sized_grant {p : Nat} {urgent : Bool} {s t : State} (h : grant p urgent s = some t) : sized t = sized s := by
  unfold grant at h
  dsimp only at h
  split at h
  · cases h
  · obtain ⟨c, -, h⟩ := Option.bind_eq_some_iff.1 h
    obtain ⟨k, -, h⟩ := Option.bind_eq_some_iff.1 h
    obtain ⟨n, -, rfl⟩ := Option.map_eq_some_iff.1 h
    simp

@[simp] theorem sized_urgentShare (p : Nat) (s : State) : sized (urgentShare p s) = sized s := by
  unfold urgentShare
  dsimp only
  split <;> simp

@[simp] theorem sized_execShareArbitrate (part : Fin 8) (s : State) :
    sizedOut (execShareArbitrate part s) = sized s := by
  rw [execShareArbitrate, sizedOut_next]
  split
  · split
    next h => exact sized_grant h
    · split
      next h => exact sized_grant h
      · exact sized_urgentShare ..
  · rfl

@[simp] theorem sized_deficitTick (s : State) : sized (deficitTick s) = sized s := by
  simp [deficitTick, Function.comp_def]

@[simp] theorem sized_refusePreempt (n : Nat) (s : State) : sized (refusePreempt n s) = sized s := by
  unfold refusePreempt
  dsimp only
  split <;> simp

@[simp] theorem sized_execPreemptRequest (core : Fin 24) (s : State) :
    sizedOut (execPreemptRequest core s) = sized s := by
  unfold execPreemptRequest
  dsimp only
  repeat' split
  all_goals simp

@[simp] theorem sized_execSaveComplete (core : Fin 24) (s : State) : sizedOut (execSaveComplete core s) = sized s := by
  generalize hf : execSaveComplete = f
  delta execSaveComplete at hf
  subst hf
  refine (sizedOut_next _).trans (sized_ite_of ?_ rfl)
  generalize List.find? _ _ = o
  cases o with
  | some r => simp
  | none =>
    generalize hf : frameBytes core.val s = p
    obtain ⟨fr, t⟩ := p
    rw [← sized_of_pair (sized_frameBytes core.val s) hf]
    dsimp only
    generalize hw : writeAll _ _ t = w
    obtain ⟨r, u⟩ := w
    rw [← sized_of_pair (sized_writeAll ..) hw]
    cases r <;> simp

@[simp] theorem sized_execRestoreComplete (core : Fin 24) (s : State) :
    sizedOut (execRestoreComplete core s) = sized s := by
  have read := sized_readMem
  generalize hf : execRestoreComplete = f
  delta execRestoreComplete at hf
  generalize readMem = R at hf read
  subst hf
  revert R
  refine id ?_
  intro R read
  refine (sizedOut_next _).trans ?_
  dsimp only
  split
  · rfl
  · split
    · rfl
    · simp [read]

/-! ### Running jobs -/

@[simp] theorem sized_readMask (n : Nat) (k : Slot) (s : State) : sized (readMask n k s) = sized s := by
  simp [readMask]
@[simp] theorem sized_abortJob (n : Nat) (s : State) : sized (abortJob n s) = sized s := by simp [abortJob]

@[simp] theorem sized_execVerifyDone (core : Fin 24) (s : State) : sizedOut (execVerifyDone core s) = sized s := by
  unfold execVerifyDone
  dsimp only
  repeat' split
  all_goals simp

@[simp] theorem sized_onJob (n : Nat) (f : Job → Job) (s : State) : sized (onJob n f s) = sized s := by simp [onJob]
@[simp] theorem sized_advance (n : Nat) (s : State) : sized (advance n s) = sized s := by simp [advance]

@[simp] theorem sized_endMacro (n mi : Nat) (s : State) : sized (endMacro n mi s) = sized s := by
  unfold endMacro
  split <;> simp

@[simp] theorem sized_abandon (n : Nat) (s : State) : sized (abandon n s) = sized s := by
  simp only [abandon, sized_onCore]

@[simp] theorem sized_boundary (n : Nat) (s : State) : sized (boundary n s).2 = sized s := by
  unfold boundary
  dsimp only
  split <;> simp

@[simp] theorem sized_boundaryAt (n mi : Nat) (s : State) : sized (boundaryAt n mi s).2 = sized s := by
  unfold boundaryAt
  dsimp only
  split <;> simp

@[simp] theorem sized_endChain (n : Nat) (s : State) : sized (endChain n s) = sized s := by simp [endChain]

@[simp] theorem sized_waitBegin (n : Nat) (j : Job) (m : Nat) (s : State) : sized (waitBegin n j m s) = sized s := by
  unfold waitBegin
  dsimp only
  split <;> simp

@[simp] theorem sized_execWaitBeat (core : Fin 24) (s : State) : sizedOut (execWaitBeat core s) = sized s := by
  unfold execWaitBeat
  split
  · rfl
  · rw [← sized_boundary core.val s]
    split
    next h => rw [h, sizedOut_next]
    next h => rw [h, sizedOut_next, sized_waitBegin]

@[simp] theorem sized_execWaitBeatResume (core : Fin 24) (s : State) :
    sizedOut (execWaitBeatResume core s) = sized s := by
  unfold execWaitBeatResume
  dsimp only
  split <;> simp

@[simp] theorem sized_signalOp (n : Nat) (j : Job) (m : Nat) (s : State) : sized (signalOp n j m s) = sized s := by
  simp [signalOp]

@[simp] theorem sized_execSignal (core : Fin 24) (s : State) : sizedOut (execSignal core s) = sized s := by
  unfold execSignal
  split
  · rfl
  · rw [← sized_boundary core.val s]
    split
    next h => rw [h, sizedOut_next]
    next h => rw [h, sizedOut_next, sized_signalOp]

@[simp] theorem sized_execFence (core : Fin 24) (s : State) : sizedOut (execFence core s) = sized s := by
  unfold execFence
  split
  · rw [← sized_boundary core.val s]
    split
    next h => rw [h, sizedOut_next]
    next h => rw [h, sizedOut_next, sized_advance, sized_endChain]
  · rfl

@[simp] theorem sized_execJobEnd (core : Fin 24) (s : State) : sizedOut (execJobEnd core s) = sized s := by
  unfold execJobEnd
  split
  · rw [← sized_boundary core.val s]
    split
    next h => rw [h, sizedOut_next]
    next h => rw [h]; simp
  · rfl

@[simp] theorem sized_execFallbackStart (core : Fin 24) (s : State) :
    sizedOut (execFallbackStart core s) = sized s := by
  simp [execFallbackStart]

@[simp] theorem sized_execCoreMemUncorr (core : Fin 24) (addr : BitVec 48) (s : State) :
    sizedOut (execCoreMemUncorr core addr s) = sized s := by
  unfold execCoreMemUncorr
  split <;> simp

@[simp] theorem sized_onMse (n ch : Nat) (f : MseCh → MseCh) (s : State) : sized (onMse n ch f s) = sized s := by
  simp [onMse]
@[simp] theorem sized_mseReadLo (n ch : Nat) (s : State) : sized (mseReadLo n ch s) = sized s := by simp [mseReadLo]
@[simp] theorem sized_mseReadHi (n ch : Nat) (s : State) : sized (mseReadHi n ch s) = sized s := by simp [mseReadHi]
@[simp] theorem sized_execCoreMseSumLoRead (core : Fin 24) (ch : Fin 4) (s : State) :
    sizedOut (execCoreMseSumLoRead core ch s) = sized s := by
  simp [execCoreMseSumLoRead]
@[simp] theorem sized_mseCtrlWrite (n ch : Nat) (v : W32) (s : State) : sized (mseCtrlWrite n ch v s) = sized s := by
  simp [mseCtrlWrite]
@[simp] theorem sized_execRestart (core : Fin 24) (ch : Fin 4) (v : W32) (s : State) :
    sizedOut (execRestart core ch v s) = sized s := by
  simp [execRestart]

/-! ### Tiles -/

@[simp] theorem sized_readFails (n a : Nat) (r : Resp) (mi : Option Nat) (s : State) :
    sized (readFails n a r mi s) = sized s := by
  simp [readFails]
@[simp] theorem sized_scratchRegs (n : Nat) (s : State) : sized (scratchRegs n s) = sized s := by simp [scratchRegs]
@[simp] theorem sized_touchAll (n : Nat) (rs : List (Nat × Nat)) (s : State) : sized (touchAll n rs s) = sized s := by
  simp [touchAll]

@[simp] theorem sized_gather1 (n tag : Nat) (e8 : Option ℤ) (s : State) : sized (gather1 n tag e8 s) = sized s := by
  unfold gather1
  split <;> simp

@[simp] theorem sized_tally (n di dst : Nat) (rs : List Res) (s : State) : sized (tally n di dst rs s) = sized s := by
  unfold tally
  dsimp only
  rw [sized_foldl]
  · simp
  · intro t r
    split
    · exact sized_gather1 ..
    · rfl

@[simp] theorem sized_writeRes (n di dst : Nat) (rs : List Res) (s : State) :
    sized (writeRes n di dst rs s).2 = sized s := by
  unfold writeRes
  split
  next h => rw [sized_tally, sized_of_pair (sized_writeCells ..) h]
  next h => rw [sized_abortJob, sized_of_pair (sized_writeCells ..) h]

@[simp] theorem sized_tilesTo (n mi t k : Nat) (s : State) : sized (tilesTo n mi t k s) = sized s := by simp [tilesTo]

/-! ### The array instructions -/

@[simp] theorem sized_takeSlots (a : Arr) (t g cb : Nat) (s : State) : sized (takeSlots a t g cb s) = sized s := by
  simp [takeSlots]
@[simp] theorem sized_distVector (a : Arr) (s : State) : sized (distVector a s) = sized s := by simp [distVector]
@[simp] theorem sized_arrEnd (a : Arr) (s : State) : sized (arrEnd a s) = sized s := by simp [arrEnd]

@[simp] theorem sized_arrSettle (a : Arr) (s : State) : sized (arrSettle a s) = sized s := by
  unfold arrSettle
  dsimp only
  split <;> simp

@[simp] theorem sized_openTile (a : Arr) (s : State) : sized (openTile a s) = sized s := by
  unfold openTile
  dsimp only
  split <;> simp

theorem sized_arrStart {n op : Nat} {a : Arr} {s t : State} (h : arrStart n op s = some (a, t)) :
    sized t = sized s := by
  unfold arrStart at h
  split at h
  · cases h
  · dsimp only at h
    split at h
    · cases h; rfl
    · cases h; simp

@[simp] theorem sized_popDrain (n : Nat) (s : State) : sized (popDrain n s) = sized s := by simp [popDrain]
@[simp] theorem sized_tileWritten (a : Arr) (w : Walk) (s : State) : sized (tileWritten a w s) = sized s := by
  simp [tileWritten]

@[simp] theorem sized_drainEnd (a : Arr) (w : Walk) (s : State) : sized (drainEnd a w s) = sized s := by
  unfold drainEnd
  dsimp only
  split
  · split
    · exact sized_popDrain ..
    · split
      next h => rw [sized_tileWritten, sized_of_pair (sized_writeRes ..) h]
      next h => exact sized_of_pair (sized_writeRes ..) h
  · exact sized_tileWritten ..

@[simp] theorem sized_drainStep (a : Arr) (w : Walk) (s : State) : sized (drainStep a w s) = sized s := by
  unfold drainStep
  dsimp only
  split
  · exact sized_readFails ..
  · split
    · simp
    · split
      next h => simp [sized_of_pair (sized_writeRes ..) h]
      next h => exact sized_of_pair (sized_writeRes ..) h

@[simp] theorem sized_drainOne (n : Nat) (s : State) : sized (drainOne n s) = sized s := by
  unfold drainOne
  dsimp only
  split <;> simp

@[simp] theorem sized_drainAll (n fuel : Nat) (s : State) : sized (drainAll n fuel s) = sized s := by
  induction fuel generalizing s with
  | zero => rfl
  | succ fuel ih => simp [drainAll, ih]

@[simp] theorem sized_skewStop (n di side j found : Nat) (s : State) :
    sized (skewStop n di side j found s) = sized s := by
  simp [skewStop]
@[simp] theorem sized_beginPass (a : Arr) (w : Walk) (c : Chain) (s : State) :
    sized (beginPass a w c s) = sized s := by
  simp [beginPass]
@[simp] theorem sized_loadPlane (a : Arr) (w : Walk) (s : State) : sized (loadPlane a w s) = sized s := by
  simp [loadPlane]

@[simp] theorem sized_loadStep (a : Arr) (w : Walk) (s : State) : sized (loadStep a w s) = sized s := by
  unfold loadStep
  dsimp only
  repeat' split
  all_goals simp

@[simp] theorem sized_passDone (a : Arr) (w : Walk) (s : State) : sized (passDone a w s) = sized s := by
  simp [passDone]
@[simp] theorem sized_parityFail (a : Arr) (s : State) : sized (parityFail a s) = sized s := by simp [parityFail]

@[simp] theorem sized_rowStep (a : Arr) (w : Walk) (bad : Option (Fin 32)) (s : State) :
    sized (rowStep a w bad s) = sized s := by
  unfold rowStep
  dsimp only
  repeat' split
  all_goals simp

@[simp] theorem sized_arrStep (a : Arr) (s : State) : sized (arrStep a s) = sized s := by
  unfold arrStep
  dsimp only
  split <;> simp

@[simp] theorem sized_arrRun (a : Arr) (fuel : Nat) (s : State) : sized (arrRun a fuel s) = sized s := by
  induction fuel generalizing s with
  | zero => rfl
  | succ fuel ih => simp [arrRun, ih]

@[simp] theorem sized_arrMacro (n op : Nat) (s : State) : sized (arrMacro n op s) = sized s := by
  unfold arrMacro
  split
  · rfl
  next h => rw [sized_arrRun, sized_arrStart h]

@[simp] theorem sized_execMatmul (core : Fin 24) (s : State) : sizedOut (execMatmul core s) = sized s := by
  simp [execMatmul]
@[simp] theorem sized_execConv2d (core : Fin 24) (s : State) : sizedOut (execConv2d core s) = sized s := by
  simp [execConv2d]
@[simp] theorem sized_execDist (core : Fin 24) (s : State) : sizedOut (execDist core s) = sized s := by
  simp [execDist]

@[simp] theorem sized_micro (n : Nat) {f : Arr → Walk → State → State} (s : State)
    (hf : ∀ a w t, sized (f a w t) = sized t) : sized (micro n f s) = sized s := by
  unfold micro
  split
  · rfl
  next h =>
    rw [← sized_arrStart h]
    split
    · simp [hf]
    · rfl

@[simp] theorem sized_execPlaneLoad (core : Fin 24) (s : State) : sizedOut (execPlaneLoad core s) = sized s := by
  simp [execPlaneLoad]
@[simp] theorem sized_execRowEntry (core : Fin 24) (parity : Option (Fin 32)) (s : State) :
    sizedOut (execRowEntry core parity s) = sized s := by
  simp [execRowEntry]
@[simp] theorem sized_execDrain (core : Fin 24) (s : State) : sizedOut (execDrain core s) = sized s := by
  simp [execDrain]

/-! ### HBM -/

@[simp] theorem sized_hbmCfgOp (v : W32) (s : State) : sized (hbmCfgOp v s) = sized s := by simp [hbmCfgOp]
@[simp] theorem sized_execHbmCfgWrite (v : W32) (s : State) : sizedOut (execHbmCfgWrite v s) = sized s := by
  simp [execHbmCfgWrite]
@[simp] theorem sized_respond (r : Resp) (data : List Byte) (s : State) :
    sized (State.respond r data s) = sized s := by
  simp [State.respond]

@[simp] theorem sized_serveRequest (src : Src) (a lines : Nat) {f : State → Resp × List Byte × State} (s : State)
    (hf : ∀ t, sized (f t).2.2 = sized t) : sized (serveRequest src a lines f s) = sized s := by
  unfold serveRequest
  split
  · split
    · exact sized_respond ..
    next h => rw [sized_respond, hf, sized_toQueues h]
  · exact sized_respond ..

@[simp] theorem sized_eccFinds (src : Src) (ecc : Ecc) (a : Nat) (s : State) :
    sized (eccFinds src ecc a s) = sized s := by
  unfold eccFinds
  split <;> simp

@[simp] theorem sized_execMemRead (src : Src) (addr : BitVec 48) (lines : Fin 65) (ecc : Ecc) (s : State) :
    sizedOut (execMemRead src addr lines ecc s) = sized s := by
  refine sized_serveRequest _ _ _ _ fun t => ?_
  dsimp only
  split <;> simp

@[simp] theorem sized_execMemWrite (src : Src) (addr : BitVec 48) (mask : W64) (data : List Byte) (ecc : Ecc)
    (s : State) :
    sizedOut (execMemWrite src addr mask data ecc s) = sized s := by
  unfold execMemWrite
  dsimp only
  split <;> simp

@[simp] theorem sized_serveWord (src : Src) (addr : BitVec 48) (ecc : Ecc) (f : Nat → Nat) (s : State) :
    sized (serveWord src addr ecc f s) = sized s := by
  simp [serveWord]
@[simp] theorem sized_execMemAdd (src : Src) (addr : BitVec 48) (v : W64) (ecc : Ecc) (s : State) :
    sizedOut (execMemAdd src addr v ecc s) = sized s := by
  simp [execMemAdd]
@[simp] theorem sized_execMemBitSet (src : Src) (addr : BitVec 48) (v : W64) (ecc : Ecc) (s : State) :
    sizedOut (execMemBitSet src addr v ecc s) = sized s := by
  simp [execMemBitSet]
@[simp] theorem sized_execMemBitClear (src : Src) (addr : BitVec 48) (v : W64) (ecc : Ecc) (s : State) :
    sizedOut (execMemBitClear src addr v ecc s) = sized s := by
  simp [execMemBitClear]
@[simp] theorem sized_retrainCfgWrite (v : W32) (s : State) : sized (retrainCfgWrite v s) = sized s := by
  simp [retrainCfgWrite]
@[simp] theorem sized_execHbmRetrainWindow (s : State) : sizedOut (execHbmRetrainWindow s) = sized s := by
  simp [execHbmRetrainWindow]

@[simp] theorem sized_execHbmRetrainDone (pass : Bool) (latency : Nat) (s : State) :
    sizedOut (execHbmRetrainDone pass latency s) = sized s := by
  unfold execHbmRetrainDone
  split <;> simp

@[simp] theorem sized_srCtrlWrite (v : W32) (s : State) : sized (srCtrlWrite v s) = sized s := by simp [srCtrlWrite]
@[simp] theorem sized_execEnter (v : W32) (s : State) : sizedOut (execEnter v s) = sized s := by simp [execEnter]
@[simp] theorem sized_execExit (v : W32) (s : State) : sizedOut (execExit v s) = sized s := by simp [execExit]
@[simp] theorem sized_loseMem (p : Nat → Bool) (s : State) : sized (loseMem p s) = sized s := by simp [loseMem]

@[simp] theorem sized_execSrEntry (s : State) : sizedOut (execSrEntry s) = sized s := by
  unfold execSrEntry
  split <;> simp

@[simp] theorem sized_trainAll (s : State) : sized (trainAll s) = sized s := by simp [trainAll]

@[simp] theorem sized_execSrDone (s : State) : sizedOut (execSrDone s) = sized s := by
  unfold execSrDone
  split <;> simp

/-! ### Codec units -/

@[simp] theorem sized_readsFail (src : Src) (rs : List (Nat × Nat)) (s : State) :
    sized (readsFail src rs s).2 = sized s := by
  refine sized_foldl_pair (fun p r => ?_) rs (false, s)
  exact sized_readMem src r.1 r.2 p.2

@[simp] theorem sized_onMap (u : Unit') (f : MapEntry → MapEntry) (s : State) : sized (onMap u f s) = sized s := by
  simp [onMap]
@[simp] theorem sized_noteDefect (kind phys cause : Nat) (s : State) :
    sized (noteDefect kind phys cause s) = sized s := by
  simp [noteDefect]
@[simp] theorem sized_codecAbsent (u : Unit') (s : State) : sized (codecAbsent u s) = sized s := by simp [codecAbsent]
@[simp] theorem sized_startCodec (u : Unit') (cause : Nat) (s : State) : sized (startCodec u cause s) = sized s := by
  simp [startCodec]

/-! ### The encoder -/

@[simp] theorem sized_encEnableOp (c : Nat) (s : State) : sized (encEnableOp c s).2 = sized s := by
  have read := sized_readMem
  generalize hf : encEnableOp = f
  delta encEnableOp at hf
  generalize readMem = R at hf read
  subst hf
  revert R
  exact id fun R read => by simp [read]

@[simp] theorem sized_encDisableOp (c : Nat) (s : State) : sized (encDisableOp c s).2 = sized s := by
  simp [encDisableOp]
@[simp] theorem sized_encRefreshOp (c : Nat) (s : State) : sized (encRefreshOp c s).2 = sized s := by
  simp [encRefreshOp]

@[simp] theorem sized_encCmdWrite (v : W32) (s : State) : sized (encCmdWrite v s) = sized s := by
  refine sized_cmdWrite _ _ _ _ _ fun v s => ?_
  extract_lets t c r
  have ht : sized t = sized s := sized_onEnc _ fun _ => rfl
  refine sized_ite_of ((sized_onEnc _ fun _ => rfl).trans ?_) ht
  have op : ∀ n, sized (match n with
      | 0 => encEnableOp c t
      | 1 => encDisableOp c t
      | _ => encRefreshOp c t).2 = sized s := by
    intro n
    split
    · rw [sized_encEnableOp, ht]
    · rw [sized_encDisableOp, ht]
    · rw [sized_encRefreshOp, ht]
  exact op _

@[simp] theorem sized_execEncEnable (ctx : Fin 16) (s : State) : sizedOut (execEncEnable ctx s) = sized s := by
  simp [execEncEnable]
@[simp] theorem sized_execEncDisable (ctx : Fin 16) (s : State) : sizedOut (execEncDisable ctx s) = sized s := by
  simp [execEncDisable]
@[simp] theorem sized_execRefreshNow (ctx : Fin 16) (s : State) : sizedOut (execRefreshNow ctx s) = sized s := by
  simp [execRefreshNow]
@[simp] theorem sized_encReport (c code : Nat) (p : EncPic) (skipped : Bool) (bytes qp : Nat) (s : State) :
    sized (encReport c code p skipped bytes qp s) = sized s := by
  simp [encReport]
@[simp] theorem sized_encSkip (c code startAt picNo : Nat) (pts : Option Nat) (s : State) :
    sized (encSkip c code startAt picNo pts s) = sized s := by
  simp [encSkip]

@[simp] theorem sized_encClaim (c : Nat) (s : State) : sized (encClaim c s) = sized s := by
  unfold encClaim
  split <;> simp

@[simp] theorem sized_encAssign (s : State) : sized (encAssign s) = sized s := by simp [encAssign]

@[simp] theorem sized_encBegin (c tick : Nat) (s : State) : sized (encBegin c tick s) = sized s := by
  unfold encBegin
  dsimp only
  repeat' split
  all_goals simp

@[simp] theorem sized_encStart (c : Nat) (s : State) : sized (encStart c s) = sized s := by simp [encStart]

@[simp] theorem sized_execEncodeStart (ctx : Fin 16) (s : State) : sizedOut (execEncodeStart ctx s) = sized s := by
  unfold execEncodeStart
  split
  · rfl
  next h => simp [← sized_takeAction h]

@[simp] theorem sized_encAutoStart (chan : Nat) (s : State) : sized (encAutoStart chan s) = sized s := by
  simp [encAutoStart]

@[simp] theorem sized_encHeld (c : Nat) (l : List Nat) (s : State) : sized (encHeld c l s) = sized s := by
  induction l generalizing s with
  | nil => rfl
  | cons t l ih => simp [encHeld, ih]

@[simp] theorem sized_encClose (c : Nat) (p : EncPic) (s : State) : sized (encClose c p s) = sized s := by
  unfold encClose
  cases p.srcBuf <;> simp

@[simp] theorem sized_encFail (c : Nat) (p : EncPic) (s : State) : sized (encFail c p s) = sized s := by
  simp [encFail]

@[simp] theorem sized_execEncPictureDone (ctx : Fin 16) (s : State) :
    sizedOut (execEncPictureDone ctx s) = sized s := by
  rw [execEncPictureDone, sizedOut_next]
  dsimp only
  split
  · rfl
  · split
    · rfl
    · split
      next h => rw [sized_encFail, sized_of_pair (sized_readsFail ..) h]
      next h =>
        rw [← sized_of_pair (sized_readsFail ..) h]
        split
        next h => simp [sized_of_pair (sized_writeAll ..) h]
        next h => rw [sized_encFail, sized_of_pair (sized_writeAll ..) h]

@[simp] theorem sized_execEncCoreFault (core : Fin 4) (s : State) : sizedOut (execEncCoreFault core s) = sized s := by
  unfold execEncCoreFault
  dsimp only
  repeat' split
  all_goals simp

/-! ### Camera capture -/

@[simp] theorem sized_csiPortWrite (p : Nat) (v : W32) (s : State) : sized (csiPortWrite p v s) = sized s := by
  simp [csiPortWrite]

@[simp] theorem sized_csiEnableOp (c : Nat) (s : State) : sized (csiEnableOp c s).2 = sized s := by
  have read := sized_readMem
  generalize hf : csiEnableOp = f
  delta csiEnableOp at hf
  generalize readMem = R at hf read
  subst hf
  revert R
  exact id fun R read => by simp [read]

@[simp] theorem sized_csiDisableOp (c : Nat) (s : State) : sized (csiDisableOp c s).2 = sized s := by
  simp [csiDisableOp]

@[simp] theorem sized_csiCmdWrite (v : W32) (s : State) : sized (csiCmdWrite v s) = sized s := by
  refine sized_cmdWrite _ _ _ _ _ fun v s => ?_
  extract_lets t c r
  have ht : sized t = sized s := sized_onCsi _ fun _ => rfl
  refine sized_ite_of ((sized_onCsi _ fun _ => rfl).trans ?_) ht
  exact sized_snd_ite_of (by rw [sized_csiEnableOp, ht]) (by rw [sized_csiDisableOp, ht])

@[simp] theorem sized_execCsiEnable (ch : Fin 16) (s : State) : sizedOut (execCsiEnable ch s) = sized s := by
  simp [execCsiEnable]
@[simp] theorem sized_execCsiDisable (ch : Fin 16) (s : State) : sizedOut (execCsiDisable ch s) = sized s := by
  simp [execCsiDisable]
@[simp] theorem sized_capCount (c off : Nat) (s : State) : sized (capCount c off s) = sized s := by simp [capCount]
@[simp] theorem sized_rxError (c : Nat) (s : State) : sized (rxError c s) = sized s := by simp [rxError]
@[simp] theorem sized_closeFrame (c : Nat) (f : CapFrame) (s : State) : sized (closeFrame c f s) = sized s := by
  simp [closeFrame]

@[simp] theorem sized_packet (c vc : Nat) (hdr : PktHdr) {f : State → State} (s : State)
    (hf : ∀ t, sized (f t) = sized t) :
    sized (packet c vc hdr f s) = sized s := by
  unfold packet
  repeat' split
  all_goals simp [hf]

@[simp] theorem sized_execCsiFrameStart (ch vc : Fin 16) (hdr : PktHdr) (s : State) :
    sizedOut (execCsiFrameStart ch vc hdr s) = sized s := by
  refine sized_packet _ _ _ _ fun t => ?_
  dsimp only
  cases (t.cap ch.val).openF <;> simp

@[simp] theorem sized_execCsiLine (ch vc : Fin 16) (dt : Fin 64) (hdr : PktHdr) (crcOk overflow : Bool)
    (payload : List Byte) (s : State) : sizedOut (execCsiLine ch vc dt hdr crcOk overflow payload s) = sized s := by
  refine sized_packet _ _ _ _ fun t => sized_ite_of (sized_capCount ..) ?_
  split
  · rfl
  · dsimp only
    split <;> simp

@[simp] theorem sized_execCsiFrameEnd (ch vc : Fin 16) (hdr : PktHdr) (s : State) :
    sizedOut (execCsiFrameEnd ch vc hdr s) = sized s := by
  refine sized_packet _ _ _ _ fun t => ?_
  dsimp only
  split
  · exact sized_closeFrame ..
  · rfl

@[simp] theorem sized_execCsiFrameTimeout (ch : Fin 16) (s : State) :
    sizedOut (execCsiFrameTimeout ch s) = sized s := by
  unfold execCsiFrameTimeout
  dsimp only
  split <;> simp

/-! ### The vector instructions -/

@[simp] theorem sized_tilesEnd (n mi : Nat) (o : TileOp) (s : State) : sized (tilesEnd n mi o s) = sized s := by
  unfold tilesEnd
  split <;> simp

@[simp] theorem sized_noteOor (n t : Nat) (o : TileOp) (s : State) : sized (noteOor n t o s) = sized s := by
  simp [noteOor]

@[simp] theorem sized_runTiles (n mi : Nat) (o : TileOp) (fuel : Nat) (s : State) :
    sized (runTiles n mi o fuel s) = sized s := by
  induction fuel generalizing s with
  | zero => rfl
  | succ fuel ih =>
    unfold runTiles
    dsimp only
    split
    · rfl
    · split
      · exact sized_tilesEnd ..
      · split
        · rfl
        · split
          · exact sized_readFails ..
          · split
            next h => rw [ih, sized_tilesTo, sized_of_pair (sized_writeRes ..) h, sized_touchAll, sized_noteOor]
            next h => rw [sized_of_pair (sized_writeRes ..) h, sized_touchAll, sized_noteOor]

@[simp] theorem sized_tileMacro (n op : Nat) (vec : Bool) (f : Core → Nat → TileOp) (s : State) :
    sized (tileMacro n op vec f s) = sized s := by
  unfold tileMacro
  split
  · rfl
  next mi m _ =>
    rw [← sized_boundaryAt n mi s]
    split
    next h => rw [h]
    next h => rw [h]; simp

@[simp] theorem sized_execDwconv (core : Fin 24) (s : State) : sizedOut (execDwconv core s) = sized s := by
  simp [execDwconv]
@[simp] theorem sized_execPool (core : Fin 24) (s : State) : sizedOut (execPool core s) = sized s := by
  simp [execPool]
@[simp] theorem sized_execEltwise (core : Fin 24) (s : State) : sizedOut (execEltwise core s) = sized s := by
  simp [execEltwise]
@[simp] theorem sized_execRequant (core : Fin 24) (s : State) : sizedOut (execRequant core s) = sized s := by
  simp [execRequant]

@[simp] theorem sized_execNms (core : Fin 24) (s : State) : sizedOut (execNms core s) = sized s := by
  unfold execNms
  dsimp only
  split <;> simp

@[simp] theorem sized_execGather (core : Fin 24) (s : State) : sizedOut (execGather core s) = sized s := by
  simp [execGather]
@[simp] theorem sized_execScatter (core : Fin 24) (s : State) : sizedOut (execScatter core s) = sized s := by
  simp [execScatter]
@[simp] theorem sized_execCopy (core : Fin 24) (s : State) : sizedOut (execCopy core s) = sized s := by
  simp [execCopy]

/-! ### The Saucers -/

@[simp] theorem sized_execSauDoorbell (m : Fin 7) (s : State) : sizedOut (execSauDoorbell m s) = sized s := by
  unfold execSauDoorbell
  dsimp only
  split <;> simp

@[simp] theorem sized_sauRingWrite (m : Nat) (v : W32) (s : State) : sized (sauRingWrite m v s) = sized s := by
  simp [sauRingWrite]
@[simp] theorem sized_execSauRingCfgWrite (m : Fin 7) (v : W32) (s : State) :
    sizedOut (execSauRingCfgWrite m v s) = sized s := by
  simp [execSauRingCfgWrite]
@[simp] theorem sized_unholdScaler (t : SauStream) (s : State) : sized (unholdScaler t s) = sized s := by
  simp [unholdScaler]

@[simp] theorem sized_execSaucerCmdStart (m : Fin 7) (s : State) : sizedOut (execSaucerCmdStart m s) = sized s := by
  unfold execSaucerCmdStart
  dsimp only
  repeat' split
  all_goals simp

@[simp] theorem sized_sauWrite (m : Nat) (x : Sau) (data : List Nat) (n k : Nat) (s : State) :
    sized (sauWrite m x data n k s).2.2 = sized s := by
  induction n generalizing k s with
  | zero => rfl
  | succ n ih =>
    unfold sauWrite
    split
    · rfl
    · split
      · exact sized_logUncorr ..
      · split
        next h => rw [ih, sized_of_pair (sized_writeCells ..) h]
        next h => exact sized_of_pair (sized_writeCells ..) h

@[simp] theorem sized_sauEnd (m : Nat) (c : SauCmd) (status rows : Nat) (s : State) :
    sized (sauEnd m c status rows s) = sized s := by
  simp [sauEnd]

@[simp] theorem sized_sauFinish (m : Nat) (c : SauCmd) (n status : Nat) (s : State) :
    sized (sauFinish m c n status s) = sized s := by
  unfold sauFinish
  simp only [sized_sauEnd, sized_ite_snd_snd, sized_logUncorr, sized_sauWrite, ite_self]

@[simp] theorem sized_execSaucerDone (m : Fin 7) (s : State) : sizedOut (execSaucerDone m s) = sized s := by
  unfold execSaucerDone
  split <;> simp

/-! ### The scaler -/

@[simp] theorem sized_takeSource (w : Nat) (x : SclSrc) (s : State) : sized (takeSource w x s) = sized s := by
  simp [takeSource]
@[simp] theorem sized_giveSource (c : SclCmd) (s : State) : sized (giveSource c s) = sized s := by simp [giveSource]

@[simp] theorem sized_onStream (w : Nat) (f : SauStream → SauStream) (s : State) :
    sized (onStream w f s) = sized s := by
  unfold onStream
  split <;> simp

@[simp] theorem sized_offerStream (w first : Nat) (s : State) : sized (offerStream w first s) = sized s := by
  unfold offerStream
  split <;> simp

@[simp] theorem sized_sclBegin (u addr status : Nat) (ws : List Nat) (x : Option SclSrc) (s : State) :
    sized (sclBegin u addr status ws x s) = sized s := by
  unfold sclBegin
  split <;> simp

@[simp] theorem sized_execScaleStart (u : Fin 4) (s : State) : sizedOut (execScaleStart u s) = sized s := by
  generalize hf : execScaleStart = f
  delta execScaleStart at hf
  subst hf
  refine (sizedOut_next _).trans (sized_ite_of rfl ?_)
  generalize ht : takeAction _ _ _ _ = o
  obtain _ | ⟨a, t⟩ := o
  · rfl
  rw [← sized_takeAction ht]
  dsimp only
  generalize hp : readMem _ _ 64 t = p
  obtain ⟨r, bs, v⟩ := p
  rw [← sized_of_triple (sized_readMem ..) hp]
  dsimp only
  refine sized_ite_of (sized_sclBegin ..) ?_
  generalize hp : readMem _ _ _ v = p
  obtain ⟨r2, bs2, w⟩ := p
  rw [← sized_of_triple (sized_readMem ..) hp]
  dsimp only
  refine sized_ite_of (sized_sclBegin ..) (sized_ite_of (sized_sclBegin ..) (sized_ite_of (sized_sclBegin ..) ?_))
  generalize sclSource _ _ = o
  cases o with
  | none => exact sized_sclBegin ..
  | some x => exact sized_ite_of (sized_sclBegin ..) (sized_sclBegin ..)

@[simp] theorem sized_batchBits (u e : Nat) (filled valid : Bool) (s : State) :
    sized (batchBits u e filled valid s) = sized s := by
  simp [batchBits]
@[simp] theorem sized_batchEnd (u : Nat) (c : SclCmd) (e : Nat) (absent : Bool) (s : State) :
    sized (batchEnd u c e absent s) = sized s := by
  simp [batchEnd]
@[simp] theorem sized_clearRest (u : Nat) (c : SclCmd) (s : State) : sized (clearRest u c s) = sized s := by
  simp [clearRest]

@[simp] theorem sized_tensorRows (u : Nat) (c : SclCmd) (e n : Nat) (image pad : Bool) (s : State) :
    sized (tensorRows u c e n image pad s).2 = sized s :=
  sized_foldl_pair (fun _ _ => sized_snd_ite_of rfl (sized_writeCells ..)) _ _

@[simp] theorem sized_entryRun (u : Nat) (c : SclCmd) (e n : Nat) (s : State) :
    sized (entryRun u c e n s).2 = sized s := by
  unfold entryRun
  dsimp only
  split
  · simp
  · simp
  · split
    · simp
    · rfl

@[simp] theorem sized_frameDone (c : SclCmd) (e : Nat) (s : State) : sized (frameDone c e s) = sized s := by
  simp [frameDone]

@[simp] theorem sized_execScalerEntryDone (u : Fin 4) (s : State) :
    sizedOut (execScalerEntryDone u s) = sized s := by
  rw [execScalerEntryDone, sizedOut_next]
  generalize (s.sclUnit u.val).cmd = o
  cases o with
  | none => rfl
  | some c =>
    dsimp only
    refine sized_ite_of rfl (sized_ite_of (sized_onSclUnit ..) ?_)
    generalize Option.bind _ _ = o
    cases o with
    | some r => exact (sized_onSclUnit ..).trans (sized_logUncorr ..)
    | none =>
      dsimp only
      generalize hr : entryRun _ _ _ _ _ = p
      obtain ⟨r, t⟩ := p
      rw [← sized_of_pair (sized_entryRun ..) hr]
      cases r <;> simp

@[simp] theorem sized_privFinish (u : Nat) (c : SclCmd) (s : State) : sized (privFinish u c s).2 = sized s := by
  unfold privFinish
  rw [sized_foldl_pair]
  intro p e
  simp [apply_ite Prod.fst]

@[simp] theorem sized_sclEnd (u : Nat) (c : SclCmd) (s : State) : sized (sclEnd u c s) = sized s := by simp [sclEnd]

@[simp] theorem sized_execScalerCmdDone (u : Fin 4) (s : State) : sizedOut (execScalerCmdDone u s) = sized s := by
  unfold execScalerCmdDone
  split <;> simp

@[simp] theorem sized_sclCut (u status : Nat) (s : State) : sized (sclCut u status s) = sized s := by
  unfold sclCut
  split <;> simp

@[simp] theorem sized_execScalerMemError (u : Fin 4) (s : State) : sizedOut (execScalerMemError u s) = sized s := by
  unfold execScalerMemError
  split <;> simp

@[simp] theorem sized_sclStop (u : Nat) (s : State) : sized (sclStop u s) = sized s := by simp [sclStop]

@[simp] theorem sized_pullStream (m : Nat) (c : SauCmd) (s : State) : sized (pullStream m c s) = sized s := by
  unfold pullStream
  split <;> simp

@[simp] theorem sized_sauCut (m : Nat) (c : SauCmd) (n : Nat → Nat) (status : Nat) (s : State) :
    sized (sauCut m c n status s) = sized s := by
  simp [sauCut]

@[simp] theorem sized_execSaucerMemError (m : Fin 7) (row : Nat) (s : State) :
    sizedOut (execSaucerMemError m row s) = sized s := by
  unfold execSaucerMemError
  split <;> simp

@[simp] theorem sized_sauStop (m : Nat) (s : State) : sized (sauStop m s) = sized s := by
  unfold sauStop
  split <;> simp

/-! ### The Caddy -/

@[simp] theorem sized_writeMirrors (x : PartDesc) (s : State) : sized (writeMirrors x s).2 = sized s := by
  simp [writeMirrors]

@[simp] theorem sized_partEnableOp (p : Nat) (s : State) : sized (partEnableOp p s).2 = sized s := by
  have read := sized_readMem
  generalize hf : partEnableOp = f
  delta partEnableOp at hf
  generalize readMem = R at hf read
  subst hf
  revert R
  exact id fun R read => by simp [read]

@[simp] theorem sized_partDisableOp (p : Nat) (s : State) : sized (partDisableOp p s).2 = sized s := by
  simp [partDisableOp]
@[simp] theorem sized_partClearOp (p : Nat) (s : State) : sized (partClearOp p s).2 = sized s := by simp [partClearOp]

@[simp] theorem sized_partRun (v : W32) (s : State) : sized (partRun v s) = sized s := by
  have op : ∀ n, sized (match n with
      | 0 => partEnableOp (rfld v 7 0) s
      | 1 => partDisableOp (rfld v 7 0) s
      | _ => partClearOp (rfld v 7 0) s).2 = sized s := by
    intro n
    split
    · exact sized_partEnableOp ..
    · exact sized_partDisableOp ..
    · exact sized_partClearOp ..
  exact (sized_onCdy _ fun _ => rfl).trans (op _)

@[simp] theorem sized_partCmdWrite (v : W32) (s : State) : sized (partCmdWrite v s) = sized s := by
  refine sized_cmdWrite _ _ _ _ _ fun v s => ?_
  extract_lets t
  have ht : sized t = sized s := sized_onCdy _ fun _ => rfl
  exact sized_ite_of (sized_ite_of ((sized_onCdy _ fun _ => rfl).trans ht) ((sized_partRun ..).trans ht)) ht

@[simp] theorem sized_execCdyPartEnable (p : Fin 256) (s : State) : sizedOut (execCdyPartEnable p s) = sized s := by
  simp [execCdyPartEnable]
@[simp] theorem sized_execCdyPartDisable (p : Fin 256) (s : State) : sizedOut (execCdyPartDisable p s) = sized s := by
  simp [execCdyPartDisable]
@[simp] theorem sized_execClear (p : Fin 256) (s : State) : sizedOut (execClear p s) = sized s := by simp [execClear]
@[simp] theorem sized_cringCfgWrite (n : Nat) (v : W32) (s : State) : sized (cringCfgWrite n v s) = sized s := by
  simp [cringCfgWrite]
@[simp] theorem sized_execCdyCringCfgWrite (n : Fin 8) (v : W32) (s : State) :
    sizedOut (execCdyCringCfgWrite n v s) = sized s := by
  simp [execCdyCringCfgWrite]

@[simp] theorem sized_execCdyDoorbell (n : Fin 8) (s : State) : sizedOut (execCdyDoorbell n s) = sized s := by
  unfold execCdyDoorbell
  dsimp only
  split <;> simp

@[simp] theorem sized_beginCmd (ring : Nat) (x : CdyNow) (s : State) : sized (beginCmd ring x s) = sized s := by
  simp [beginCmd]
@[simp] theorem sized_ringDone (n : Nat) (s : State) : sized (ringDone n s) = sized s := by simp [ringDone]
@[simp] theorem sized_commitSteer (slot : Nat) (set : SteerSet) (s : State) :
    sized (commitSteer slot set s) = sized s := by
  simp [commitSteer]
@[simp] theorem sized_sendRecords (p : CdyPlan) (s : State) : sized (sendRecords p s) = sized s := by
  simp [sendRecords]

@[simp] theorem sized_readAll (src : Src) (l : List (Nat × Nat)) (s : State) : sized (readAll src l s).2 = sized s := by
  induction l generalizing s with
  | nil => rfl
  | cons r l ih =>
    unfold readAll
    split
    next h => rw [ih, sized_of_triple (sized_readMem ..) h]
    next h => exact sized_of_triple (sized_readMem ..) h

@[simp] theorem sized_endAfter (ticks ring w status : Nat) (known : Bool) (s : State) :
    sized (endAfter ticks ring w status known s) = sized s := by
  simp [endAfter]
@[simp] theorem sized_emptyBad (x : PartDesc) (l : List Nat) (s : State) : sized (emptyBad x l s) = sized s := by
  simp [emptyBad]

@[simp] theorem sized_runUpdate (ring w : Nat) (fb : Bool) (s : State) : sized (runUpdate ring w fb s) = sized s := by
  have read := sized_readMem
  generalize hf : runUpdate = f
  delta runUpdate at hf
  generalize readMem = R at hf read
  subst hf
  revert R
  exact id fun R read => by simp [read]

@[simp] theorem sized_runEmit (ring w : Nat) (fb : Bool) (s : State) : sized (runEmit ring w fb s) = sized s := by
  have read := sized_readMem
  generalize hf : runEmit = f
  delta runEmit at hf
  generalize readMem = R at hf read
  subst hf
  revert R
  exact id fun R read => by simp [read]

@[simp] theorem sized_runPlan (p : CdyPlan) (s : State) : sized (runPlan p s).2 = sized s := by
  unfold runPlan
  repeat' split
  all_goals simp

@[simp] theorem sized_cdyStart (emit : Bool) (s : State) : sized (cdyStart emit s) = sized s := by
  have read := sized_readMem
  generalize hf : cdyStart = f
  delta cdyStart at hf
  generalize readMem = R at hf read
  subst hf
  revert R
  refine id ?_
  intro R read
  dsimp only
  split
  · rfl
  · simp [read]

@[simp] theorem sized_execUpdate (s : State) : sizedOut (execUpdate s) = sized s := by simp [execUpdate]
@[simp] theorem sized_execEmit (s : State) : sizedOut (execEmit s) = sized s := by simp [execEmit]

@[simp] theorem sized_execCaddyDone (s : State) : sizedOut (execCaddyDone s) = sized s := by
  unfold execCaddyDone
  dsimp only
  repeat' split
  all_goals simp

@[simp] theorem sized_cdyCut (s : State) : sized (cdyCut s) = sized s := by simp [cdyCut]

@[simp] theorem sized_execCaddyMemError (addr : BitVec 48) (s : State) :
    sizedOut (execCaddyMemError addr s) = sized s := by
  rw [execCaddyMemError, sizedOut_next]
  extract_lets t
  have ht : sized t = sized s := sized_spoil ..
  split
  · rw [sized_cdyStart, ht]
  · exact ht

@[simp] theorem sized_cdyHalt (s : State) : sized (cdyHalt s) = sized s := by simp [cdyHalt]

@[simp] theorem sized_abortOne (n : Nat) (s : State) : sized (abortOne n s) = sized s := by
  have read := sized_readMem
  generalize hf : abortOne = f
  delta abortOne at hf
  generalize readMem = R at hf read
  subst hf
  revert R
  exact id fun R read => by simp [read]

@[simp] theorem sized_cdyRelease (s : State) : sized (cdyRelease s) = sized s := by
  refine sized_ite_of ?_ rfl
  refine (sized_foldl _ (fun t n => sized_ite_of (sized_foldl _ (fun t _ => sized_abortOne ..) _) rfl) _).trans ?_
  exact sized_onCdy _ fun _ => rfl

/-! ### The decoder -/

@[simp] theorem sized_decEnableOp (c : Nat) (s : State) : sized (decEnableOp c s).2 = sized s := by
  have read := sized_readMem
  generalize hf : decEnableOp = f
  delta decEnableOp at hf
  generalize readMem = R at hf read
  subst hf
  revert R
  exact id fun R read => by simp [read]

@[simp] theorem sized_decCount (c off : Nat) (s : State) : sized (decCount c off s) = sized s := by simp [decCount]

@[simp] theorem sized_decClaim (c : Nat) (s : State) : sized (decClaim c s) = sized s := by
  unfold decClaim
  repeat' split
  all_goals simp

@[simp] theorem sized_decBegin (c tick : Nat) (s : State) : sized (decBegin c tick s) = sized s := by simp [decBegin]
@[simp] theorem sized_decStartNow (c tick prod : Nat) (s : State) : sized (decStartNow c tick prod s) = sized s := by
  simp [decStartNow]

@[simp] theorem sized_decBoundary (c : Nat) (s : State) : sized (decBoundary c s) = sized s := by
  unfold decBoundary
  dsimp only
  split <;> simp

@[simp] theorem sized_decDisableOp (c : Nat) (s : State) : sized (decDisableOp c s).2 = sized s := by
  simp [decDisableOp]
@[simp] theorem sized_decDiscontOp (c : Nat) (s : State) : sized (decDiscontOp c s).2 = sized s := by
  simp [decDiscontOp]
@[simp] theorem sized_decReleaseOp (c slot : Nat) (s : State) : sized (decReleaseOp c slot s).2 = sized s := by
  simp [decReleaseOp]

@[simp] theorem sized_decCmdWrite (v : W32) (s : State) : sized (decCmdWrite v s) = sized s := by
  refine sized_cmdWrite _ _ _ _ _ fun v s => ?_
  extract_lets t c r
  have ht : sized t = sized s := sized_onDec _ fun _ => rfl
  refine sized_ite_of ((sized_onDec _ fun _ => rfl).trans ?_) ht
  have op : ∀ n, sized (match n with
      | 0 => decEnableOp c t
      | 1 => decDisableOp c t
      | 2 => decDiscontOp c t
      | _ => decReleaseOp c (rfld v 20 16) t).2 = sized s := by
    intro n
    split
    · rw [sized_decEnableOp, ht]
    · rw [sized_decDisableOp, ht]
    · rw [sized_decDiscontOp, ht]
    · rw [sized_decReleaseOp, ht]
  exact op _

@[simp] theorem sized_execDecEnable (ctx : Fin 128) (s : State) : sizedOut (execDecEnable ctx s) = sized s := by
  simp [execDecEnable]
@[simp] theorem sized_execDecDisable (ctx : Fin 128) (s : State) : sizedOut (execDecDisable ctx s) = sized s := by
  simp [execDecDisable]
@[simp] theorem sized_execDiscontinuity (ctx : Fin 128) (s : State) :
    sizedOut (execDiscontinuity ctx s) = sized s := by
  simp [execDiscontinuity]
@[simp] theorem sized_execRelease (ctx : Fin 128) (slot : Fin 32) (s : State) :
    sizedOut (execRelease ctx slot s) = sized s := by
  simp [execRelease]
@[simp] theorem sized_execDecFrameBoundaryApply (ctx : Fin 128) (s : State) :
    sizedOut (execDecFrameBoundaryApply ctx s) = sized s := by
  simp [execDecFrameBoundaryApply]

@[simp] theorem sized_execDecDoorbell (ctx : Fin 128) (s : State) : sizedOut (execDecDoorbell ctx s) = sized s := by
  unfold execDecDoorbell
  split
  · rfl
  next h => simp [← sized_takeDb h]

@[simp] theorem sized_execDecodeStart (ctx : Fin 128) (s : State) : sizedOut (execDecodeStart ctx s) = sized s := by
  unfold execDecodeStart
  split
  · rfl
  next h => simp [← sized_takeAction h]

@[simp] theorem sized_execDecAutoStart (ctx : Fin 128) (s : State) : sizedOut (execDecAutoStart ctx s) = sized s := by
  simp [execDecAutoStart]

@[simp] theorem sized_takeEntry (c : Nat) (read : Nat → List (List Byte × List (Nat × Nat)) → AuInfo) (p : DecPic)
    (s : State) :
    sized (takeEntry c read p s) = sized s := by
  unfold takeEntry
  dsimp only
  split <;> simp

@[simp] theorem sized_execDecPictureStart (ctx : Fin 128) (s : State) :
    sizedOut (execDecPictureStart ctx s) = sized s := by
  unfold execDecPictureStart
  dsimp only
  split <;> simp

@[simp] theorem sized_execDecEntryConsumed (ctx : Fin 128) (s : State) :
    sizedOut (execDecEntryConsumed ctx s) = sized s := by
  unfold execDecEntryConsumed
  dsimp only
  split <;> simp

@[simp] theorem sized_execDecBudget (ctx : Fin 128) (core : Fin 8) (s : State) :
    sizedOut (execDecBudget ctx core s) = sized s := by
  unfold execDecBudget
  dsimp only
  repeat' split
  all_goals simp

@[simp] theorem sized_execDecWatchdog (ctx : Fin 128) (core : Fin 8) (blocks last : Nat) (s : State) :
    sizedOut (execDecWatchdog ctx core blocks last s) = sized s := by
  unfold execDecWatchdog
  dsimp only
  repeat' split
  all_goals simp

@[simp] theorem sized_refErrors (x : DecCtx) (q : SeqInfo) (src : Src) (rs : List RefRead) (s : State) :
    sized (refErrors x q src rs s).2 = sized s := by
  refine sized_foldl_pair (fun p r => ?_) _ _
  generalize readRanges x q r = l
  exact sized_readsFail src l p.2

@[simp] theorem sized_surErrors (x : DecCtx) (q : SeqInfo) (src : Src) (bs : List (Nat × Nat)) (s : State) :
    sized (surErrors x q src bs s).2 = sized s := by
  unfold surErrors
  generalize surrogateFb x q = o
  cases o with
  | none => rfl
  | some f =>
    refine sized_foldl_pair (fun p b => ?_) _ _
    generalize fbRanges .. = l
    exact sized_readsFail src l p.2

@[simp] theorem sized_pictureEnd (x : DecCtx) (q : SeqInfo) (p : DecPic) (s : State) :
    sized (pictureEnd x q p s).2 = sized s := by
  simp [pictureEnd]
@[simp] theorem sized_outputAll (c : Nat) (l : List OutPic) (s : State) : sized (outputAll c l s) = sized s := by
  simp [outputAll]
@[simp] theorem sized_sendReport (c : Nat) (p : DecPic) (d : DecEnd) (concealed : Nat) (con cor : Bool) (s : State) :
    sized (sendReport c p d concealed con cor s) = sized s := by
  simp [sendReport]
@[simp] theorem sized_endEmpty (c : Nat) (p : DecPic) (s : State) : sized (endEmpty c p s) = sized s := by
  simp [endEmpty]

@[simp] theorem sized_endPicture (c b : Nat) (p : DecPic) (q : SeqInfo) (s : State) :
    sized (endPicture c b p q s) = sized s := by
  unfold endPicture
  dsimp only
  rw [sized_outputAll, sized_onDecCtx, sized_sendReport, sized_onDecCtx, sized_writeAll, sized_pictureEnd]

@[simp] theorem sized_execDecPictureDone (ctx : Fin 128) (s : State) :
    sizedOut (execDecPictureDone ctx s) = sized s := by
  unfold execDecPictureDone
  dsimp only
  repeat' split
  all_goals simp

/-! ### Doorbells, BAR2 and messages -/

@[simp] theorem sized_execBar0AccessInvalid (write : Bool) (off size : Nat) (s : State) :
    sizedOut (execBar0AccessInvalid write off size s) = sized s := by
  simp [execBar0AccessInvalid]

@[simp] theorem sized_execBar0Timeout (off : Nat) (s : State) : sizedOut (execBar0Timeout off s) = sized s := by
  unfold execBar0Timeout
  split <;> simp

@[simp] theorem sized_onWin (w : Nat) (f : Win → Win) (s : State) : sized (State.onWin w f s) = sized s := by
  simp [State.onWin]
@[simp] theorem sized_winCfgWrite (w : Nat) (v : W32) (s : State) : sized (winCfgWrite w v s) = sized s := by
  simp [winCfgWrite]
@[simp] theorem sized_execHifWinCfgWrite (w : Fin 64) (v : W32) (s : State) :
    sizedOut (execHifWinCfgWrite w v s) = sized s := by
  simp [execHifWinCfgWrite]
@[simp] theorem sized_winTgtWrite (w : Nat) (hi : Bool) (v : W32) (s : State) :
    sized (winTgtWrite w hi v s) = sized s := by
  simp [winTgtWrite]
@[simp] theorem sized_onDb (d : Nat) (f : Doorbell → Doorbell) (s : State) : sized (State.onDb d f s) = sized s := by
  simp [State.onDb]
@[simp] theorem sized_deliverDb (d v : Nat) (s : State) : sized (deliverDb d v s) = sized s := by simp [deliverDb]
@[simp] theorem sized_ringDb (d v : Nat) (s : State) : sized (ringDb d v s) = sized s := by simp [ringDb]

@[simp] theorem sized_doorbellOp (o : Nat) (size8 : Bool) (v : Nat) (s : State) :
    sized (doorbellOp o size8 v s) = sized s := by
  unfold doorbellOp
  repeat' split
  all_goals simp

@[simp] theorem sized_execDoorbellWrite (off : BitVec 26) (size8 : Bool) (v : W64) (s : State) :
    sizedOut (execDoorbellWrite off size8 v s) = sized s := by
  simp [execDoorbellWrite]

@[simp] theorem sized_execDoorbellDelivery (db : Fin 392) (s : State) :
    sizedOut (execDoorbellDelivery db s) = sized s := by
  unfold execDoorbellDelivery
  dsimp only
  split <;> simp

@[simp] theorem sized_complete2 (st : CplStatus) (data : List Byte) (s : State) :
    sized (complete2 st data s) = sized s := by
  simp [complete2]

theorem sized_bar2Go {x : BusAccess} {s t : State} (h : bar2Go x s = some t) : sized t = sized s := by
  unfold bar2Go at h
  split at h
  · split at h
    · obtain ⟨u, hu, rfl⟩ := Option.map_eq_some_iff.1 h
      rw [sized_complete2, sized_readMem, sized_toQueues hu]
    · cases h
      rw [sized_complete2, sized_logResp]
  · split at h
    · obtain ⟨u, hu, rfl⟩ := Option.map_eq_some_iff.1 h
      rw [sized_writeCells, sized_toQueues hu]
    · cases h
      exact sized_logResp ..
  · cases h
    exact sized_ringDb ..

@[simp] theorem sized_bar2Send (a : Nat) (x : BusAccess) (s : State) : sized (bar2Send a x s) = sized s := by
  unfold bar2Send
  refine sized_ite_of (sized_onHif _ fun _ => rfl) ?_
  split
  next h => exact sized_bar2Go h
  · exact (sized_onHif _ fun _ => rfl).trans (sized_logResp ..)

@[simp] theorem sized_execBar2Read (off : BitVec 36) (len : Fin 4097) (s : State) :
    sizedOut (execBar2Read off len s) = sized s := by
  unfold execBar2Read
  repeat' split
  all_goals simp

@[simp] theorem sized_execBar2Write (off : BitVec 36) (data : List Byte) (s : State) :
    sizedOut (execBar2Write off data s) = sized s := by
  unfold execBar2Write
  repeat' split
  all_goals simp

@[simp] theorem sized_reissueAll (kept l : List Reissue) (s : State) : sized (reissueAll kept l s).2 = sized s := by
  induction l generalizing kept s with
  | nil => rfl
  | cons r l ih =>
    unfold reissueAll
    split
    · simp [ih]
    · dsimp only
      split
      next h =>
        rw [ih, sized_bar2Go (Option.ite_none_left_eq_some.1 h).2]
      · simp [ih]

@[simp] theorem sized_execBar2Reissue (s : State) : sizedOut (execBar2Reissue s) = sized s := by
  rw [execBar2Reissue, sizedOut_next]
  exact sized_ite_of ((sized_onHif _ fun _ => rfl).trans (sized_reissueAll ..)) rfl

@[simp] theorem sized_releasePending (s : State) : sized (releasePending s) = sized s := by simp [releasePending]

@[simp] theorem sized_execMsixSend (s : State) : sizedOut (execMsixSend s) = sized s := by
  unfold execMsixSend
  split <;> simp

@[simp] theorem sized_vecMask (v : Nat) (m : Bool) (s : State) : sized (vecMask v m s) = sized s := by simp [vecMask]
@[simp] theorem sized_execMsixUnmask (vec : Fin 256) (s : State) : sizedOut (execMsixUnmask vec s) = sized s := by
  simp [execMsixUnmask]
@[simp] theorem sized_dbLimitWrite (v : W32) (s : State) : sized (dbLimitWrite v s) = sized s := by
  simp [dbLimitWrite]

/-! ### The Spout -/

@[simp] theorem sized_discardRing (n : Nat) (count : Bool) (s : State) : sized (discardRing n count s) = sized s := by
  simp [discardRing]

@[simp] theorem sized_execSpoutHandoff (s : State) : sizedOut (execSpoutHandoff s) = sized s := by
  unfold execSpoutHandoff
  split <;> simp

@[simp] theorem sized_recDone (q : Rec) (adv : Nat) (s : State) : sized (recDone q adv s) = sized s := by
  simp [recDone]
@[simp] theorem sized_issueLine (q : Rec) (s : State) : sized (issueLine q s) = sized s := by simp [issueLine]

@[simp] theorem sized_execSpoutLineIssue (s : State) : sizedOut (execSpoutLineIssue s) = sized s := by
  unfold execSpoutLineIssue
  repeat' split
  all_goals simp

@[simp] theorem sized_sendWb (n : Nat) (s : State) : sized (sendWb n s) = sized s := by simp [sendWb]
@[simp] theorem sized_sendMsg (n : Nat) (s : State) : sized (sendMsg n s) = sized s := by simp [sendMsg]
@[simp] theorem sized_execSpoutWriteback (ring : Fin 64) (s : State) :
    sizedOut (execSpoutWriteback ring s) = sized s := by
  simp [execSpoutWriteback]

@[simp] theorem sized_execSpoutIntBeatsExpiry (ring : Fin 64) (s : State) :
    sizedOut (execSpoutIntBeatsExpiry ring s) = sized s := by
  unfold execSpoutIntBeatsExpiry
  dsimp only
  split <;> simp

@[simp] theorem sized_execSpoutFlush (target : Fin 256) (s : State) :
    sizedOut (execSpoutFlush target s) = sized s := by
  unfold execSpoutFlush
  split
  · rfl
  next h => simp [← sized_takeAction h]

@[simp] theorem sized_sptConsWrite (n : Nat) (v : W32) (s : State) : sized (sptConsWrite n v s) = sized s := by
  simp [sptConsWrite]
@[simp] theorem sized_execSptRingConsWrite (ring : Fin 64) (v : W32) (s : State) :
    sizedOut (execSptRingConsWrite ring v s) = sized s := by
  simp [execSptRingConsWrite]
@[simp] theorem sized_sptCfgWrite (n : Nat) (v : W32) (s : State) : sized (sptCfgWrite n v s) = sized s := by
  simp [sptCfgWrite]
@[simp] theorem sized_execSptRingCfgWrite (ring : Fin 64) (v : W32) (s : State) :
    sizedOut (execSptRingCfgWrite ring v s) = sized s := by
  simp [execSptRingCfgWrite]

/-! ### Host DMA channels -/

@[simp] theorem sized_dmaCfgWrite (ch : Nat) (v : W32) (s : State) : sized (dmaCfgWrite ch v s) = sized s := by
  simp [dmaCfgWrite]
@[simp] theorem sized_execHdmaCfgWrite (ch : Fin 8) (v : W32) (s : State) :
    sizedOut (execHdmaCfgWrite ch v s) = sized s := by
  simp [execHdmaCfgWrite]
@[simp] theorem sized_execResume (ch : Fin 8) (v : W32) (s : State) : sizedOut (execResume ch v s) = sized s := by
  simp [execResume]
@[simp] theorem sized_dmaAddrWrite (ch : Nat) (old new : W32) (f : DmaCh → DmaCh) (s : State) :
    sized (dmaAddrWrite ch old new f s) = sized s := by
  simp [dmaAddrWrite]

@[simp] theorem sized_execHdmaDoorbell (ch : Fin 8) (s : State) : sizedOut (execHdmaDoorbell ch s) = sized s := by
  unfold execHdmaDoorbell
  split
  · rfl
  next h => simp [← sized_takeDb h]

@[simp] theorem sized_abortSlot (c k : Nat) (s : State) : sized (abortSlot c k s) = sized s := by
  unfold abortSlot
  repeat' split
  all_goals simp

@[simp] theorem sized_abortDeps (ch : Nat) (s : State) : sized (abortDeps ch s) = sized s := by simp [abortDeps]
@[simp] theorem sized_setAer (b : Nat) (s : State) : sized (setAer b s) = sized s := by simp [setAer]
@[simp] theorem sized_dmaHalt (ch err : Nat) (r : Resp) (s : State) : sized (dmaHalt ch err r s) = sized s := by
  simp [dmaHalt]

@[simp] theorem sized_currentDesc (c : Nat) (s : State) : sized (currentDesc c s).2 = sized s := by
  have read := sized_readMem
  generalize hf : currentDesc = f
  delta currentDesc at hf
  generalize readMem = R at hf read
  subst hf
  revert R
  exact id fun R read => by simp [read]

@[simp] theorem sized_dmaComplete (ch : Nat) (s : State) : sized (dmaComplete ch s) = sized s := by simp [dmaComplete]
@[simp] theorem sized_dmaFail (ch err : Nat) (r : Resp) (j : Nat) (s : State) :
    sized (dmaFail ch err r j s) = sized s := by
  simp [dmaFail]

@[simp] theorem sized_execHdmaIn (ch : Fin 8) (s : State) : sizedOut (execHdmaIn ch s) = sized s := by
  rw [execHdmaIn, sizedOut_next]
  refine sized_ite_of ?_ rfl
  split
  next h => exact sized_of_pair (sized_currentDesc ..) h
  next h => simp [← sized_of_pair (sized_currentDesc ..) h]

@[simp] theorem sized_staleCompletion (ch n : Nat) (s : State) : sized (staleCompletion ch n s) = sized s := by
  unfold staleCompletion
  split <;> simp

@[simp] theorem sized_execHdmaCompletion (ch : Fin 8) (st : CplStatus) (data : List Byte) (s : State) :
    sizedOut (execHdmaCompletion ch st data s) = sized s := by
  unfold execHdmaCompletion
  dsimp only
  repeat' split
  all_goals simp

@[simp] theorem sized_execCplTimeout (ch : Fin 8) (s : State) : sizedOut (execCplTimeout ch s) = sized s := by
  unfold execCplTimeout
  split <;> simp

@[simp] theorem sized_dmaPost (ch d : Nat) (bs : List Byte) (s : State) : sized (dmaPost ch d bs s) = sized s := by
  simp [dmaPost]

@[simp] theorem sized_execHdmaOut (ch : Fin 8) (s : State) : sizedOut (execHdmaOut ch s) = sized s := by
  rw [execHdmaOut, sizedOut_next]
  refine sized_ite_of ?_ rfl
  split
  next h => exact sized_of_pair (sized_currentDesc ..) h
  next h =>
    rw [← sized_of_pair (sized_currentDesc ..) h]
    refine sized_ite_of (sized_ite_of ?_ ?_) rfl
    · rw [sized_dmaPost, sized_readMem]
    · rw [sized_dmaHalt, sized_readMem]

@[simp] theorem sized_execHdmaWrite (ch : Fin 8) (s : State) : sizedOut (execHdmaWrite ch s) = sized s := by
  rw [execHdmaWrite, sizedOut_next]
  refine sized_ite_of ?_ rfl
  split
  next h => exact sized_of_pair (sized_currentDesc ..) h
  next h =>
    rw [← sized_of_pair (sized_currentDesc ..) h]
    exact sized_ite_of (sized_dmaPost ..) rfl

@[simp] theorem sized_execHdmaNop (ch : Fin 8) (s : State) : sizedOut (execHdmaNop ch s) = sized s := by
  rw [execHdmaNop, sizedOut_next]
  refine sized_ite_of ?_ rfl
  split
  next h =>
    rw [← sized_of_pair (sized_currentDesc ..) h]
    exact sized_ite_of rfl (sized_ite_of (sized_dmaComplete ..) (sized_onDma ..))
  next h => exact sized_of_pair (sized_currentDesc ..) h

@[simp] theorem sized_execHdmaDescComplete (ch : Fin 8) (s : State) :
    sizedOut (execHdmaDescComplete ch s) = sized s := by
  simp [execHdmaDescComplete]
@[simp] theorem sized_dmaHaltBme (ch : Nat) (s : State) : sized (dmaHaltBme ch s) = sized s := by simp [dmaHaltBme]
@[simp] theorem sized_bmeClear (s : State) : sized (bmeClear s) = sized s := by simp [bmeClear]
@[simp] theorem sized_bmeSet (s : State) : sized (bmeSet s) = sized s := by simp [bmeSet]
@[simp] theorem sized_bmeWrite (b : Bool) (s : State) : sized (bmeWrite b s) = sized s := by simp [bmeWrite]
@[simp] theorem sized_execBusMasterClear (s : State) : sizedOut (execBusMasterClear s) = sized s := by
  simp [execBusMasterClear]
@[simp] theorem sized_execBusMasterSet (s : State) : sizedOut (execBusMasterSet s) = sized s := by
  simp [execBusMasterSet]

/-! ### Faults and the safe state -/

@[simp] theorem sized_errFirstWrite (p : Page) (v : W32) (s : State) : sized (errFirstWrite p v s) = sized s := by
  simp [errFirstWrite]
@[simp] theorem sized_execErrFirstClear (p : Page) (s : State) : sizedOut (execErrFirstClear p s) = sized s := by
  simp [execErrFirstClear]
@[simp] theorem sized_faultCtrlWrite (v : W32) (s : State) : sized (faultCtrlWrite v s) = sized s := by
  simp [faultCtrlWrite]
@[simp] theorem sized_execPop (s : State) : sizedOut (execPop s) = sized s := by simp [execPop]
@[simp] theorem sized_abortAll (s : State) : sized (abortAll s) = sized s := by simp [abortAll]
@[simp] theorem sized_abandonPictures (s : State) : sized (abandonPictures s) = sized s := by simp [abandonPictures]
@[simp] theorem sized_stopUnits (s : State) : sized (stopUnits s) = sized s := by simp [stopUnits]

@[simp] theorem sized_endSlice (res : Nat) (s : State) : sized (endSlice res s) = sized s := by
  unfold endSlice
  repeat' split
  all_goals simp

@[simp] theorem sized_busySlice (s : State) : sized (busySlice s) = sized s := by
  unfold busySlice
  split <;> simp

@[simp] theorem sized_enterSafe (cause : Nat) (s : State) : sized (enterSafe cause s) = sized s := by simp [enterSafe]

@[simp] theorem sized_execSafeStateEntry (cond : Option (Page × Fin 32)) (s : State) :
    sizedOut (execSafeStateEntry cond s) = sized s := by
  unfold execSafeStateEntry
  repeat' split
  all_goals simp

@[simp] theorem sized_execThermalTrip (sensor : Fin 32) (temp : BitVec 8) (s : State) :
    sizedOut (execThermalTrip sensor temp s) = sized s := by
  simp [execThermalTrip]
@[simp] theorem sized_quiesceWrite (v : W32) (s : State) : sized (quiesceWrite v s) = sized s := by
  simp [quiesceWrite]
@[simp] theorem sized_execQuiesce (s : State) : sizedOut (execQuiesce s) = sized s := by simp [execQuiesce]
@[simp] theorem sized_execQuiesceDone (s : State) : sizedOut (execQuiesceDone s) = sized s := by
  simp [execQuiesceDone]

/-! ### Spares and defects -/

@[simp] theorem sized_onTakeover (u : Unit') (f : Takeover → Takeover) (s : State) :
    sized (onTakeover u f s) = sized s := by
  simp [onTakeover]

@[simp] theorem sized_execSparePowerGood (u : Unit') (s : State) : sizedOut (execSparePowerGood u s) = sized s := by
  unfold execSparePowerGood
  split <;> simp

@[simp] theorem sized_nextSpare (u : Unit') (failed : Nat) (s : State) : sized (nextSpare u failed s).2 = sized s := by
  cases u <;> exact sized_onMgt ..

@[simp] theorem sized_execSpareKatDone (u : Unit') (pass : Bool) (s : State) :
    sizedOut (execSpareKatDone u pass s) = sized s := by
  rw [execSpareKatDone, sizedOut_next]
  split
  · rfl
  · refine sized_ite_of (sized_ite_of (sized_onTakeover ..) ?_) rfl
    cases u <;> simp

@[simp] theorem sized_engage (u : Unit') (spare : Nat) (s : State) : sized (engage u spare s) = sized s := by
  simp [engage]

@[simp] theorem sized_markSpare (n : Nat) (s : State) : sized (markSpare n s) = sized s := by
  unfold markSpare
  split <;> simp

@[simp] theorem sized_restoreSaved (n : Nat) (s : State) : sized (restoreSaved n s) = sized s := by
  unfold restoreSaved
  split <;> simp

@[simp] theorem sized_execSpareEngaged (u : Unit') (s : State) : sizedOut (execSpareEngaged u s) = sized s := by
  unfold execSpareEngaged
  repeat' split
  all_goals simp

@[simp] theorem sized_execCodecKatDone (core : Fin 8) (pass : Bool) (s : State) :
    sizedOut (execCodecKatDone core pass s) = sized s := by
  unfold execCodecKatDone
  dsimp only
  repeat' split
  all_goals simp

@[simp] theorem sized_execDefectRecordWrite (s : State) : sizedOut (execDefectRecordWrite s) = sized s := by
  simp [execDefectRecordWrite]
@[simp] theorem sized_execFlashTimeout (s : State) : sizedOut (execFlashTimeout s) = sized s := by
  simp [execFlashTimeout]

/-! ### Slice tests -/

@[simp] theorem sized_sliceCmdWrite (v : W32) (s : State) : sized (sliceCmdWrite v s) = sized s := by
  simp [sliceCmdWrite]
@[simp] theorem sized_execGo (v : W32) (s : State) : sizedOut (execGo v s) = sized s := by simp [execGo]

@[simp] theorem sized_takeTarget (x : Slice) (s : State) : sized (takeTarget x s) = sized s := by
  unfold takeTarget
  split <;> simp

@[simp] theorem sized_preserveSave (x : Slice) (s : State) : sized (preserveSave x s) = sized s := by
  simp [preserveSave]

@[simp] theorem sized_execSliceStart (s : State) : sizedOut (execSliceStart s) = sized s := by
  unfold execSliceStart
  split <;> simp

@[simp] theorem sized_sliceMemory (x : Slice) (s : State) : sized (sliceMemory x s) = sized s := by simp [sliceMemory]

@[simp] theorem sized_sliceFailed (x : Slice) (s : State) : sized (sliceFailed x s) = sized s := by
  unfold sliceFailed
  split <;> simp

@[simp] theorem sized_execSliceDone (pass : Bool) (s : State) : sizedOut (execSliceDone pass s) = sized s := by
  unfold execSliceDone
  split <;> simp

@[simp] theorem sized_abortSlice (s : State) : sized (abortSlice s) = sized s := by
  unfold abortSlice
  split <;> simp

/-! ### Power, boot and firmware -/

theorem sized_coldState (s : State) : sized (coldState s) = true := by
  rw [coldState, sized_mk, sized_reset]

theorem sized_execPerstNAssert {s : State} (hs : sized s = true) : sizedOut (execPerstNAssert s) = true :=
  sized_ite_of hs ((sized_onPower ..).trans (sized_coldState ..))

theorem sized_execInputPowerLoss (vddioLost : Bool) (s : State) :
    sizedOut (execInputPowerLoss vddioLost s) = true := by
  simp [execInputPowerLoss, sized_coldState]
@[simp] theorem sized_bootStop (stage code kind num : Nat) (s : State) :
    sized (bootStop stage code kind num s) = sized s := by
  simp [bootStop]
@[simp] theorem sized_windowStop (f : WindowFail) (s : State) : sized (windowStop f s) = sized s := by
  simp [windowStop]

@[simp] theorem sized_bootTests (b : BootInfo) (fails : List BootFail) (s : State) :
    sized (bootTests b fails s) = sized s := by
  unfold bootTests
  extract_lets _ _ _ _ _ _ first cores decs encs t u lanes v w x y z
  clear_value first
  obtain _ | ⟨st, code, kind, num⟩ := first
  · have ht : sized t = sized s := sized_onMgt ..
    have hu : sized u = sized t := sized_onCsi _ fun _ => rfl
    have hv : sized v = sized u := sized_onHif _ fun _ => rfl
    have hw : sized w = sized v := by simp [w]
    have hx : sized x = sized w := by simp [x, sized_eq]
    have hy : sized y = sized x := sized_foldl _ (fun _ _ => sized_ite_of (sized_onHdr ..) rfl) _
    have hz : sized z = sized y := sized_onPower ..
    rw [← ht, ← hu, ← hv, ← hw, ← hx, ← hy, ← hz]
    exact sized_ite_of (sized_setInt ..) rfl
  · exact sized_bootStop ..

@[simp] theorem sized_bootFrom3 (b : BootInfo) (s : State) : sized (bootFrom3 b s) = sized s := by
  unfold bootFrom3
  repeat' split
  all_goals simp

@[simp] theorem sized_execPerstNRelease (b : BootInfo) (s : State) : sizedOut (execPerstNRelease b s) = sized s := by
  unfold execPerstNRelease
  dsimp only
  repeat' split
  all_goals simp

@[simp] theorem sized_execWindowRetry (m : WindowMeas) (s : State) : sizedOut (execWindowRetry m s) = sized s := by
  simp only [execWindowRetry]
  repeat' split
  all_goals simp

/-! ### The mesh and its partitions -/

@[simp] theorem sized_stAddrWrite (v : W32) (s : State) : sized (stAddrWrite v s) = sized s := by simp [stAddrWrite]
@[simp] theorem sized_stAdvance (s : State) : sized (stAdvance s) = sized s := by simp [stAdvance]
@[simp] theorem sized_stDataWrite (w : W32) (s : State) : sized (stDataWrite w s) = sized s := by simp [stDataWrite]

@[simp] theorem sized_execMeshStDataAccess (w : Option W32) (s : State) :
    sizedOut (execMeshStDataAccess w s) = sized s := by
  unfold execMeshStDataAccess
  split <;> simp

@[simp] theorem sized_stCtrlWrite (v : W32) (s : State) : sized (stCtrlWrite v s) = sized s := by simp [stCtrlWrite]
@[simp] theorem sized_execMeshStCtrlWrite (v : W32) (s : State) : sizedOut (execMeshStCtrlWrite v s) = sized s := by
  simp [execMeshStCtrlWrite]

@[simp] theorem sized_execCommitDone (s : State) : sizedOut (execCommitDone s) = sized s := by
  unfold execCommitDone
  repeat' split
  all_goals simp

@[simp] theorem sized_meshPartWrite (p : Nat) (v : W32) (s : State) : sized (meshPartWrite p v s) = sized s := by
  simp [meshPartWrite]

@[simp] theorem sized_resetEngine (n : Nat) (s : State) : sized (resetEngine n s) = sized s := by
  unfold resetEngine
  extract_lets b t
  exact (sized_mk ..).trans (sized_onCore ..)

@[simp] theorem sized_resetCtx (c : Nat) (s : State) : sized (resetCtx c s) = sized s := by
  refine sized_foldl s (fun t k => ?_) _
  split
  · split
    · exact sized_finishJob ..
    · rfl
  · exact sized_discardSaved ..
  · rfl

@[simp] theorem sized_partReset (p : Nat) (s : State) : sized (partReset p s) = sized s := by simp [partReset]
@[simp] theorem sized_partResetWrite (v : W32) (s : State) : sized (partResetWrite v s) = sized s := by
  simp [partResetWrite]
@[simp] theorem sized_execMeshPartResetGo (v : W32) (s : State) : sizedOut (execMeshPartResetGo v s) = sized s := by
  simp [execMeshPartResetGo]
@[simp] theorem sized_execPartResetDone (s : State) : sizedOut (execPartResetDone s) = sized s := by
  simp [execPartResetDone]

/-! ### Negative responses -/

@[simp] theorem sized_coreNeg (n a : Nat) (s : State) : sized (coreNeg n a s) = sized s := by
  unfold coreNeg
  dsimp only
  split <;> simp

@[simp] theorem sized_decNeg (n a : Nat) (s : State) : sized (decNeg n a s) = sized s := by
  unfold decNeg
  split <;> simp

@[simp] theorem sized_encNeg (n : Nat) (s : State) : sized (encNeg n s) = sized s := by
  unfold encNeg
  repeat' split
  all_goals simp

@[simp] theorem sized_sauNeg (m : Nat) (s : State) : sized (sauNeg m s) = sized s := by
  unfold sauNeg
  split <;> simp

@[simp] theorem sized_cdyNeg (a : Nat) (s : State) : sized (cdyNeg a s) = sized s := by
  unfold cdyNeg
  repeat' split
  all_goals simp

@[simp] theorem sized_negRespond (src : Src) (r : Resp) (a : Nat) (s : State) :
    sized (respond src r a s) = sized s := by
  unfold respond
  refine sized_ite_of rfl ?_
  cases src <;> simp

@[simp] theorem sized_execNegResponse (src : Src) (resp : Resp) (addr : BitVec 48) (s : State) :
    sizedOut (execNegResponse src resp addr s) = sized s := sized_negRespond ..

/-! ### Flits -/

@[simp] theorem sized_markServed (f : Flit) (s : State) : sized (markServed f s) = sized s := by simp [markServed]

@[simp] theorem sized_sendFlit (f : Flit) (s : State) : sized (sendFlit f s) = sized s := by
  unfold sendFlit
  split <;> simp

@[simp] theorem sized_raiseFlit (b : Nat) (f : Flit) (s : State) : sized (raiseFlit b f s) = sized s := by
  simp [raiseFlit]

@[simp] theorem sized_checkFlit (ecc : Ecc) (f : Flit) {go : State → State} (s : State)
    (hf : ∀ t, sized (go t) = sized t) : sized (checkFlit ecc f go s) = sized s := by
  cases ecc <;> simp [checkFlit, hf]

@[simp] theorem sized_injectFlit (ecc : Ecc) (f : Flit) (s : State) : sized (injectFlit ecc f s) = sized s := by
  unfold injectFlit
  split <;> simp

@[simp] theorem sized_forwardFlit (ecc : Ecc) (i : Nat) (f : Flit) (s : State) :
    sized (forwardFlit ecc i f s) = sized s := by
  simp [forwardFlit]

@[simp] theorem sized_execMeshFlitHop (flit : FlitRef) (ecc : Ecc) (s : State) :
    sizedOut (execMeshFlitHop flit ecc s) = sized s := by
  unfold execMeshFlitHop
  repeat' split
  all_goals simp

/-! ### The page header -/

@[simp] theorem sized_capOff (c : Nat) (s : State) : sized (capOff c s) = sized s := by simp [capOff]

theorem sized_softInit {s : State} (hs : sized s = true) (p : Page) : sized (softInit p s) = true := by
  cases p with
  | scl u => simp [softInit, hs]
  | csi q => simp [softInit, hs]
  | cdy =>
    refine sized_onCdy_of hs fun h => ?_
    simp only [Cdy.sized, Bool.and_eq_true, List.length_map, List.length_replicate, beq_self_eq_true, and_true] at h ⊢
    exact h.1
  | dec => exact (sized_onDec s fun _ => by simp).trans hs
  | enc => exact (sized_onEnc s fun _ => by simp).trans hs
  | core n => exact (sized_onCore ..).trans hs
  | clu m => exact (sized_onClu ..).trans hs
  | _ => exact hs

@[simp] theorem sized_haltNow (p : Page) (s : State) : sized (haltNow p s) = sized s := by
  unfold haltNow
  split <;> simp

@[simp] theorem sized_haltEnds (p : Page) (s : State) : sized (haltEnds p s) = sized s := by
  unfold haltEnds
  split <;> simp

@[simp] theorem sized_fenceNow (p : Page) (on : Bool) (s : State) : sized (fenceNow p on s) = sized s := by
  unfold fenceNow
  split <;> simp

theorem sized_blkCtrlWrite (p : Page) (v : W32) {s : State} (hs : sized s = true) :
    sized (blkCtrlWrite p v s) = true := by
  have init : sized (if rbit v 3 then (if halted s p then softInit p s else invalidProg p s) else s) = true :=
    sized_ite_of (sized_ite_of (sized_softInit hs p) ((sized_invalidProg ..).trans hs)) hs
  unfold blkCtrlWrite
  refine sized_ite_of ((sized_invalidProg ..).trans hs) ?_
  extract_lets was i t u w on
  have hw : sized w = true := (sized_fenceNow ..).trans ((sized_onHdr ..).trans init)
  exact sized_ite_of ((sized_haltNow ..).trans hw) (sized_ite_of ((sized_haltEnds ..).trans hw) hw)

theorem sized_execHalt (p : Page) (on : Bool) {s : State} (hs : sized s = true) :
    sizedOut (execHalt p on s) = true :=
  sized_hostWrite_of (fun _ ht => sized_blkCtrlWrite _ _ ht) hs

theorem sized_execEnable (p : Page) (on : Bool) {s : State} (hs : sized s = true) :
    sizedOut (execEnable p on s) = true :=
  sized_hostWrite_of (fun _ ht => sized_blkCtrlWrite _ _ ht) hs

theorem sized_execFenceDriver (core : Fin 24) (on : Bool) {s : State} (hs : sized s = true) :
    sizedOut (execFenceDriver core on s) = true :=
  sized_hostWrite_of (fun _ ht => sized_blkCtrlWrite _ _ ht) hs

theorem sized_execSoftInit (p : Page) {s : State} (hs : sized s = true) :
    sizedOut (execSoftInit p s) = true :=
  sized_hostWrite_of (fun _ ht => sized_blkCtrlWrite _ _ ht) hs

@[simp] theorem sized_shdCtrlWrite (p : Page) (v : W32) (s : State) : sized (shdCtrlWrite p v s) = sized s := by
  simp [shdCtrlWrite]
@[simp] theorem sized_execMarkComplete (p : Page) (s : State) : sizedOut (execMarkComplete p s) = sized s := by
  simp [execMarkComplete]
@[simp] theorem sized_execDiscard (p : Page) (s : State) : sizedOut (execDiscard p s) = sized s := by
  simp [execDiscard]
@[simp] theorem sized_intForceWrite (p : Page) (v : W32) (s : State) : sized (intForceWrite p v s) = sized s := by
  simp [intForceWrite]
@[simp] theorem sized_execIntForce (p : Page) (v : W32) (s : State) : sizedOut (execIntForce p v s) = sized s := by
  simp [execIntForce]

/-! ### Sync inputs and PPS -/

@[simp] theorem sized_execInputEdge (inp : Fin 5) (level : Bool) (s : State) :
    sizedOut (execInputEdge inp level s) = sized s := by
  simp [execInputEdge]

@[simp] theorem sized_execNarrow (inp : Fin 5) (s : State) : sizedOut (execNarrow inp s) = sized s := by
  unfold execNarrow
  dsimp only
  split <;> simp

@[simp] theorem sized_ppsEdge (interval : Option Nat) (ts : Nat) (s : State) :
    sized (ppsEdge interval ts s) = sized s := by
  unfold ppsEdge
  repeat' split
  all_goals simp

@[simp] theorem sized_fsinPush (n ts : Nat) (s : State) : sized (fsinPush n ts s) = sized s := by simp [fsinPush]

@[simp] theorem sized_execInputQualify (inp : Fin 5) (s : State) : sizedOut (execInputQualify inp s) = sized s := by
  unfold execInputQualify
  dsimp only
  split <;> simp

@[simp] theorem sized_execStuck (inp : Fin 5) (s : State) : sizedOut (execStuck inp s) = sized s := by
  unfold execStuck
  dsimp only
  split <;> simp

@[simp] theorem sized_execInputRelease (inp : Fin 5) (s : State) : sizedOut (execInputRelease inp s) = sized s := by
  unfold execInputRelease
  dsimp only
  split <;> simp

@[simp] theorem sized_execPpsLost (s : State) : sizedOut (execPpsLost s) = sized s := by simp [execPpsLost]
@[simp] theorem sized_fsinPop (n : Nat) (s : State) : sized (fsinPop n s) = sized s := by simp [fsinPop]
@[simp] theorem sized_execKtlFsinTsRead (n : Fin 4) (hi : Bool) (s : State) :
    sizedOut (execKtlFsinTsRead n hi s) = sized s := by
  simp [execKtlFsinTsRead]
@[simp] theorem sized_execPpsOutPulse (s : State) : sizedOut (execPpsOutPulse s) = sized s := by
  simp [execPpsOutPulse]

@[simp] theorem sized_execPpsOutPulseEnd (s : State) : sizedOut (execPpsOutPulseEnd s) = sized s := by
  unfold execPpsOutPulseEnd
  split <;> simp

/-! ### Capping and VDD_CORE -/

@[simp] theorem sized_setComplete (p : Page) (s : State) : sized (setComplete p s) = sized s := by simp [setComplete]

@[simp] theorem sized_capArm (div : Nat) (s : State) : sized (capArm div s) = sized s := by
  unfold capArm
  dsimp only
  split <;> simp

@[simp] theorem sized_capGo (div : Nat) (s : State) : sized (capGo div s) = sized s := by simp [capGo]
@[simp] theorem sized_execCapStep (sensor : Fin 32) (temp : BitVec 8) (power : BitVec 16) (s : State) :
    sizedOut (execCapStep sensor temp power s) = sized s := by
  simp [execCapStep]

@[simp] theorem sized_execCapRetry (s : State) : sizedOut (execCapRetry s) = sized s := by
  unfold execCapRetry
  split <;> simp

@[simp] theorem sized_execPmbusPoll (answer : Option (Nat × Nat)) (s : State) :
    sizedOut (execPmbusPoll answer s) = sized s := by
  unfold execPmbusPoll
  repeat' split
  all_goals simp

@[simp] theorem sized_execVddSetPointStep (mv : Nat) (s : State) : sizedOut (execVddSetPointStep mv s) = sized s := by
  simp [execVddSetPointStep]

/-! ### Pins and received errors -/

@[simp] theorem sized_execIdcode (s : State) : sizedOut (execIdcode s) = sized s := by simp [execIdcode]

@[simp] theorem sized_execBadTlp (e : TlpErr) (hdr : List W32) (s : State) :
    sizedOut (execBadTlp e hdr s) = sized s := by
  unfold execBadTlp
  repeat' split
  all_goals simp

/-! ### Function-level and hot reset, the link -/

@[simp] theorem sized_sclQuiet (u : Nat) (s : State) : sized (sclQuiet u s) = sized s := by
  unfold sclQuiet
  split <;> simp

@[simp] theorem sized_sauQuiet (m : Nat) (s : State) : sized (sauQuiet m s) = sized s := by simp [sauQuiet]

theorem sized_dropJobs {s : State} (hs : sized s = true) : sized (dropJobs s) = true := by
  unfold dropJobs
  extract_lets t u v
  have ht : sized t = true := by
    rw [← hs]
    simp only [t, sized_eq, List.length_map]
  have hu : sized u = true := sized_onSched_of ht fun _ => by
    simp only [Sched.sized, List.length_replicate, List.all_replicate, beq_self_eq_true, ite_self, Bool.and_self]
  have hv : sized v = true := (sized_onMgt ..).trans hu
  exact (sized_foldl v (fun _ _ => sized_settleLost ..) _).trans hv

@[simp] theorem sized_emptyAll (s : State) : sized (emptyAll s) = sized s := by simp [emptyAll]
@[simp] theorem sized_emptyIfDone (s : State) : sized (emptyIfDone s) = sized s := by simp [emptyIfDone]

/-- A warm reset puts back all 7 clusters and keeps the page headers. -/
theorem sized_resetClus {s : State} (hs : sized s = true) :
    sized { s with clus := List.replicate 7 {}, hdrs := s.hdrs.map resetHdr } = true := by
  simp only [sized_eq, Bool.and_eq_true, List.length_replicate, List.length_map, beq_self_eq_true] at hs ⊢
  simp only [hs, and_self]

theorem sized_warmReset {s : State} (hs : sized s = true) (hot : Bool) : sized (warmReset hot s) = true := by
  unfold warmReset
  extract_lets a b c d e f g h i j k l m n o p
  have ha : sized a = true := (sized_foldl s (fun _ _ => sized_sclQuiet ..) _).trans hs
  have hb : sized b = true := (sized_foldl a (fun _ _ => sized_sauQuiet ..) _).trans ha
  have hc : sized c = true := (sized_abortSlice ..).trans hb
  have hd : sized d = true := (sized_resetEpoch ..).trans (sized_dropJobs hc)
  have he : sized e = true := sized_onDec_of hd (by simp only [Dec.sized, List.length_replicate, beq_self_eq_true])
  have hf : sized f = true := sized_onEnc_of he (by simp only [Enc.sized, List.length_replicate, beq_self_eq_true])
  have hg : sized g = true := sized_onCsi_of hf (by simp only [Csi.sized, List.length_replicate, beq_self_eq_true])
  have hh : sized h = true := (sized_onScl g fun _ => by simp only [Scl.sized]).trans hg
  have hi : sized i = true := sized_onCdy_of hh fun _ => by
    simp only [Cdy.sized, List.length_replicate, beq_self_eq_true, Bool.and_self]
  have hj : sized j = true := sized_resetClus hi
  have hk : sized k = true := sized_onSpt_of hj (by simp only [Spt.sized, List.length_replicate, beq_self_eq_true])
  have hl : sized l = true := (sized_onSec ..).trans hk
  have hm : sized m = true := (sized_onMgt ..).trans hl
  have hn : sized n = true := sized_onHif_of hm fun hx => by
    simp only [Hif.sized, Bool.and_eq_true] at hx
    simp only [Hif.sized, resetHif, List.length_map, List.length_replicate, hx.1, beq_self_eq_true, Bool.and_self]
  have ho : sized o = true := sized_ite_of ((sized_onHif n fun _ => by simp only [Hif.sized]).trans hn) hn
  rw [sized_emptyIfDone, sized_onPower, ho]

theorem sized_execFunctionLevelReset {s : State} (hs : sized s = true) :
    sizedOut (execFunctionLevelReset s) = true :=
  sized_ite_of (sized_warmReset hs _) hs

theorem sized_execHotReset {s : State} (hs : sized s = true) : sizedOut (execHotReset s) = true :=
  sized_ite_of (sized_warmReset hs _) hs

@[simp] theorem sized_execResetDone (s : State) : sizedOut (execResetDone s) = sized s := by simp [execResetDone]
@[simp] theorem sized_execLinkLoss (s : State) : sizedOut (execLinkLoss s) = sized s := by simp [execLinkLoss]
@[simp] theorem sized_execLinkTrained (s : State) : sizedOut (execLinkTrained s) = sized s := by
  simp [execLinkTrained]

/-! ### The security engine -/

@[simp] theorem sized_secAnswer (bs : List Byte) (s : State) : sized (secAnswer bs s) = sized s := by simp [secAnswer]

@[simp] theorem sized_mboxData (w : Option W32) (s : State) : sized (mboxData w s) = sized s := by
  unfold mboxData
  split <;> simp

@[simp] theorem sized_execSecMboxDataAccess (w : Option W32) (s : State) :
    sizedOut (execSecMboxDataAccess w s) = sized s := by
  unfold execSecMboxDataAccess
  split <;> simp

@[simp] theorem sized_secEnd (res : Nat) (s : State) : sized (secEnd res s) = sized s := by simp [secEnd]
@[simp] theorem sized_inSession (port : Port) {f : State → State} (s : State) (hf : ∀ t, sized (f t) = sized t) :
    sized (inSession port f s) = sized s := by
  simp [inSession, hf]
@[simp] theorem sized_inStates (l : List Life) {f : State → State} (s : State) (hf : ∀ t, sized (f t) = sized t) :
    sized (inStates l f s) = sized s := by
  simp [inStates, hf]
@[simp] theorem sized_getIdentityOp (s : State) : sized (getIdentityOp s) = sized s := by simp [getIdentityOp]
@[simp] theorem sized_attestOp (s : State) : sized (attestOp s) = sized s := by simp [attestOp]
@[simp] theorem sized_openSessionOp (port : Port) (s : State) : sized (openSessionOp port s) = sized s := by
  simp [openSessionOp]
@[simp] theorem sized_closeSessionOp (port : Port) (s : State) : sized (closeSessionOp port s) = sized s := by
  simp [closeSessionOp]

@[simp] theorem sized_provisionBurn (s : State) : sized (provisionBurn s) = sized s := by
  unfold provisionBurn
  dsimp only
  repeat' split
  all_goals simp

@[simp] theorem sized_provisionOp (port : Port) (s : State) : sized (provisionOp port s) = sized s := by
  simp [provisionOp]
@[simp] theorem sized_advanceSvnOp (port : Port) (s : State) : sized (advanceSvnOp port s) = sized s := by
  simp [advanceSvnOp]

@[simp] theorem sized_fuseWriteOp (port : Port) (w : Option FuseWrite) (s : State) :
    sized (fuseWriteOp port w s) = sized s := by
  unfold fuseWriteOp
  split <;> simp

@[simp] theorem sized_setLifeOp (port : Port) (l : Option Life) (s : State) :
    sized (setLifeOp port l s) = sized s := by
  unfold setLifeOp
  split <;> simp

@[simp] theorem sized_debugUnlockOp (port : Port) (s : State) : sized (debugUnlockOp port s) = sized s := by
  refine sized_inSession _ _ fun t => ?_
  split <;> simp

@[simp] theorem sized_clearDefectOp (port : Port) (s : State) : sized (clearDefectOp port s) = sized s := by
  simp [clearDefectOp]

@[simp] theorem sized_secRun (port : Port) (op : Nat) (w : Option FuseWrite) (l : Option Life) (s : State) :
    sized (secRun port op w l s) = sized s := by
  unfold secRun
  split <;> simp

@[simp] theorem sized_secCmdWrite (port : Port) (v : W32) (w : Option FuseWrite) (l : Option Life) (s : State) :
    sized (secCmdWrite port v w l s) = sized s := by
  simp [secCmdWrite]
@[simp] theorem sized_secGo (port : Port) (op : Nat) (w : Option FuseWrite) (l : Option Life) (s : State) :
    sized (secGo port op w l s) = sized s := by
  simp [secGo]
@[simp] theorem sized_execGetIdentity (port : Port) (s : State) : sizedOut (execGetIdentity port s) = sized s := by
  simp [execGetIdentity]
@[simp] theorem sized_execAttest (port : Port) (s : State) : sizedOut (execAttest port s) = sized s := by
  simp [execAttest]
@[simp] theorem sized_execOpenSession (port : Port) (s : State) : sizedOut (execOpenSession port s) = sized s := by
  simp [execOpenSession]
@[simp] theorem sized_execCloseSession (port : Port) (s : State) : sizedOut (execCloseSession port s) = sized s := by
  simp [execCloseSession]
@[simp] theorem sized_execProvisionOwner (port : Port) (s : State) :
    sizedOut (execProvisionOwner port s) = sized s := by
  simp [execProvisionOwner]
@[simp] theorem sized_execAdvanceSvn (port : Port) (s : State) : sizedOut (execAdvanceSvn port s) = sized s := by
  simp [execAdvanceSvn]
@[simp] theorem sized_execFuseWrite (port : Port) (w : FuseWrite) (s : State) :
    sizedOut (execFuseWrite port w s) = sized s := by
  simp [execFuseWrite]
@[simp] theorem sized_execSetLifeCycle (port : Port) (l : Life) (s : State) :
    sizedOut (execSetLifeCycle port l s) = sized s := by
  simp [execSetLifeCycle]
@[simp] theorem sized_execDebugUnlock (port : Port) (s : State) : sizedOut (execDebugUnlock port s) = sized s := by
  simp [execDebugUnlock]
@[simp] theorem sized_execClearDefectRecord (port : Port) (s : State) :
    sizedOut (execClearDefectRecord port s) = sized s := by
  simp [execClearDefectRecord]

/-! ### Register writes -/

@[simp] theorem sized_ranged (p : Page) (ok : Bool) {f : State → State} (s : State) (hf : ∀ t, sized (f t) = sized t) :
    sized (ranged p ok f s) = sized s := by
  simp [ranged, hf]

theorem sized_wrHeader (p : Page) (o : Nat) (v : W32) {s : State} (hs : sized s = true) :
    sized (wrHeader p o v s) = true := by
  unfold wrHeader
  split
  · exact sized_blkCtrlWrite p v hs
  all_goals simp [hs]

@[simp] theorem sized_capCfgWrite (v : W32) (s : State) : sized (capCfgWrite v s) = sized s := by simp [capCfgWrite]
@[simp] theorem sized_divWrite (v : W32) (s : State) : sized (divWrite v s) = sized s := by simp [divWrite]

@[simp] theorem sized_wrMgt (o : Nat) (v : W32) (s : State) : sized (wrMgt o v s) = sized s := by
  unfold wrMgt
  split <;> simp

@[simp] theorem sized_wrSec (port : Port) (o : Nat) (v : W32) (s : State) : sized (wrSec port o v s) = sized s := by
  unfold wrSec
  split <;> simp

@[simp] theorem sized_wrBist (o : Nat) (v : W32) (s : State) : sized (wrBist o v s) = sized s := by
  unfold wrBist
  split <;> simp

@[simp] theorem sized_planLenWrite (v : W32) (s : State) : sized (planLenWrite v s) = sized s := by
  simp [planLenWrite]
@[simp] theorem sized_refreshWrite (v : W32) (s : State) : sized (refreshWrite v s) = sized s := by
  simp [refreshWrite]
@[simp] theorem sized_polarityWrite (n : Nat) (v : Bool) (s : State) : sized (polarityWrite n v s) = sized s := by
  simp [polarityWrite]

@[simp] theorem sized_filterWrite (n reg : Nat) (v : W32) (s : State) : sized (filterWrite n reg v s) = sized s := by
  unfold filterWrite
  split <;> simp

@[simp] theorem sized_discCfgWrite (v : W32) (s : State) : sized (discCfgWrite v s) = sized s := by
  simp [discCfgWrite]
@[simp] theorem sized_ppsCfgWrite (v : W32) (s : State) : sized (ppsCfgWrite v s) = sized s := by simp [ppsCfgWrite]

@[simp] theorem sized_wrKtl (o : Nat) (v : W32) (s : State) : sized (wrKtl o v s) = sized s := by
  unfold wrKtl
  repeat' split
  all_goals simp

@[simp] theorem sized_partSchedWrite (p : Nat) (v : W32) (s : State) : sized (partSchedWrite p v s) = sized s := by
  simp [partSchedWrite]

@[simp] theorem sized_wrDma (ch r : Nat) (v : W32) (s : State) : sized (wrDma ch r v s) = sized s := by
  unfold wrDma
  split <;> simp

@[simp] theorem sized_wrWin (w r : Nat) (v : W32) (s : State) : sized (wrWin w r v s) = sized s := by
  unfold wrWin
  split <;> simp

theorem sized_wrHif (o : Nat) (v : W32) {s : State} (hs : sized s = true) : sized (wrHif o v s) = true := by
  unfold wrHif
  split
  case h_3 => exact sized_ctxCmdWrite v hs
  case h_7 => split <;> simp [hs]
  all_goals simp [hs]

@[simp] theorem sized_wrMesh (o : Nat) (v : W32) (s : State) : sized (wrMesh o v s) = sized s := by
  unfold wrMesh
  repeat' split
  all_goals simp

@[simp] theorem sized_wrHbm (o : Nat) (v : W32) (s : State) : sized (wrHbm o v s) = sized s := by
  unfold wrHbm
  split <;> simp

@[simp] theorem sized_wrCore (n o : Nat) (v : W32) (s : State) : sized (wrCore n o v s) = sized s := by
  unfold wrCore
  repeat' split
  all_goals simp

@[simp] theorem sized_wrClu (m o : Nat) (v : W32) (s : State) : sized (wrClu m o v s) = sized s := by
  unfold wrClu
  split <;> simp

@[simp] theorem sized_decShdWrite (n : Nat) (v : W32) (s : State) : sized (decShdWrite n v s) = sized s := by
  simp [decShdWrite]

@[simp] theorem sized_wrDec (o : Nat) (v : W32) (s : State) : sized (wrDec o v s) = sized s := by
  unfold wrDec
  repeat' split
  all_goals simp

@[simp] theorem sized_encShdWrite (n : Nat) (v : W32) (s : State) : sized (encShdWrite n v s) = sized s := by
  simp [encShdWrite]

@[simp] theorem sized_wrEnc (o : Nat) (v : W32) (s : State) : sized (wrEnc o v s) = sized s := by
  unfold wrEnc
  repeat' split
  all_goals simp

@[simp] theorem sized_privWrite (k : Nat) (v : W32) (s : State) : sized (privWrite k v s) = sized s := by
  simp [privWrite]

@[simp] theorem sized_wrScl (u o : Nat) (v : W32) (s : State) : sized (wrScl u o v s) = sized s := by
  unfold wrScl
  split <;> simp

@[simp] theorem sized_wrCsi (p o : Nat) (v : W32) (s : State) : sized (wrCsi p o v s) = sized s := by
  unfold wrCsi
  repeat' split
  all_goals simp

@[simp] theorem sized_cringAddrWrite (n : Nat) (old new : W32) (f : CdyRing → CdyRing) (s : State) :
    sized (cringAddrWrite n old new f s) = sized s := by
  simp [cringAddrWrite]

@[simp] theorem sized_wrCring (n r : Nat) (v : W32) (s : State) : sized (wrCring n r v s) = sized s := by
  unfold wrCring
  split <;> simp

@[simp] theorem sized_wrCdy (o : Nat) (v : W32) (s : State) : sized (wrCdy o v s) = sized s := by
  unfold wrCdy
  repeat' split
  all_goals simp

@[simp] theorem sized_sptAddrWrite (n : Nat) (old new : W32) (f : SptRing → SptRing) (s : State) :
    sized (sptAddrWrite n old new f s) = sized s := by
  simp [sptAddrWrite]
@[simp] theorem sized_coalWrite (n : Nat) (v : W32) (s : State) : sized (coalWrite n v s) = sized s := by
  simp [coalWrite]

@[simp] theorem sized_wrSptRing (n r : Nat) (v : W32) (s : State) : sized (wrSptRing n r v s) = sized s := by
  unfold wrSptRing
  split <;> simp

@[simp] theorem sized_wrSpt (o : Nat) (v : W32) (s : State) : sized (wrSpt o v s) = sized s := by
  unfold wrSpt
  repeat' split
  all_goals simp

theorem sized_wrPage (port : Port) (p : Page) (o : Nat) (v : W32) {s : State} (hs : sized s = true) :
    sized (wrPage port p o v s) = true := by
  unfold wrPage
  refine sized_ite_of (sized_wrHeader p o v hs) ?_
  cases p with
  | hif => exact sized_wrHif o v hs
  | _ => simp [hs]

theorem sized_bar0Write (off : Nat) (v : W32) {s : State} (hs : sized s = true) :
    sized (bar0Write off v s) = true := by
  unfold bar0Write
  refine sized_ite_of ((sized_raiseTlp ..).trans hs)
    (sized_ite_of (sized_ite_of ((sized_doorbellOp ..).trans hs) hs) ?_)
  split
  · exact sized_wrPage _ _ _ _ hs
  · exact (sized_raiseTlp ..).trans hs

@[simp] theorem sized_bar4Write (off : Nat) (v : W32) (s : State) : sized (bar4Write off v s) = sized s := by
  unfold bar4Write
  repeat' split
  all_goals simp

@[simp] theorem sized_commandWrite (v : W32) (s : State) : sized (commandWrite v s) = sized s := by
  simp [commandWrite]
@[simp] theorem sized_msixCtlWrite (v : W32) (s : State) : sized (msixCtlWrite v s) = sized s := by
  simp [msixCtlWrite]

theorem sized_devCtlWrite (v : W32) {s : State} (hs : sized s = true) : sized (devCtlWrite v s) = true := by
  unfold devCtlWrite
  extract_lets t
  have ht : sized t = true := (sized_onHif _ fun _ => rfl).trans hs
  exact sized_ite_of (sized_warmReset ht false) ht

@[simp] theorem sized_devCtl2Write (v : W32) (s : State) : sized (devCtl2Write v s) = sized s := by
  simp [devCtl2Write]

theorem sized_cfgWrite {f : State → State} {s : State} (hf : ∀ t, sized t = true → sized (f t) = true)
    (hs : sized s = true) : sized (cfgWrite f s) = true :=
  sized_ite_of (hf s hs) (sized_ite_of ((sized_issue ..).trans hs) hs)

/-! ### Register reads and host register accesses -/

@[simp] theorem sized_readKtl (o : Nat) (s : State) : sized (readKtl o s) = sized s := by
  unfold readKtl
  repeat' split
  all_goals simp

@[simp] theorem sized_readCore (n o : Nat) (s : State) : sized (readCore n o s) = sized s := by
  unfold readCore
  repeat' split
  all_goals simp

@[simp] theorem sized_readEffect (p : Page) (o : Nat) (s : State) : sized (readEffect p o s) = sized s := by
  unfold readEffect
  repeat' split
  all_goals simp

@[simp] theorem sized_regRead (p : Page) (o : Nat) (s : State) : sized (regRead p o s) = sized s := by simp [regRead]

@[simp] theorem sized_bar0Read (off : Nat) (s : State) : sized (bar0Read off s) = sized s := by
  unfold bar0Read
  repeat' split
  all_goals simp

theorem sized_execRegisterWrite (space : RegSpace) (off : Nat) (v : W32) {s : State} (hs : sized s = true) :
    sizedOut (execRegisterWrite space off v s) = true := by
  cases space with
  | bar0 => exact sized_hostWrite_of (fun _ ht => sized_bar0Write off v ht) hs
  | bar4 => exact sized_hostWrite_of (fun _ ht => (sized_bar4Write ..).trans ht) hs
  | pciCommand => exact sized_cfgWrite (fun _ ht => (sized_commandWrite ..).trans ht) hs
  | msixControl => exact sized_cfgWrite (fun _ ht => (sized_msixCtlWrite ..).trans ht) hs
  | deviceControl => exact sized_cfgWrite (fun _ ht => sized_devCtlWrite v ht) hs
  | deviceControl2 => exact sized_cfgWrite (fun _ ht => (sized_devCtl2Write ..).trans ht) hs
  | bar0Read => exact (sized_hostRead _ fun _ => sized_bar0Read ..).trans hs
  | bar4Read => exact (sized_hostRead _ fun _ => sized_answer ..).trans hs
  | configRead => exact sized_cfgWrite (fun _ ht => (sized_answer ..).trans ht) hs

/-! ### SMBus -/

theorem sized_execSmbRegisterWrite (off : BitVec 24) (v : W32) {s : State} (hs : sized s = true) :
    sizedOut (execSmbRegisterWrite off v s) = true := by
  rw [execSmbRegisterWrite, sizedOut_next]
  refine sized_ite_of ?_ hs
  split
  · exact sized_ite_of (sized_wrPage _ _ _ _ hs) hs
  · exact hs

@[simp] theorem sized_execSmbSetReadAddress (off : BitVec 24) (s : State) :
    sizedOut (execSmbSetReadAddress off s) = sized s := by
  simp [execSmbSetReadAddress]

@[simp] theorem sized_execSmbRegisterRead (s : State) : sizedOut (execSmbRegisterRead s) = sized s := by
  unfold execSmbRegisterRead
  dsimp only
  repeat' split
  all_goals simp

/-! ## One step -/

@[simp] theorem sized_countTick (s : State) : sized (countTick s) = sized s :=
  sized_onKtl s fun k => by simp only [Ktl.sized, List.length_map]

@[simp] theorem sized_tick (s : State) : sized (tick s) = sized s := by simp [tick]

/-- The commands that replace parts are named; each other command's own rule leaves `sized` as it was. -/
theorem sizedOut_exec {s : State} (hs : sized s = true) (i : Instr) : sizedOut (exec i s) = true := by
  cases i with
  | ctxEnable c => exact sized_execCtxEnable c hs
  | ctxDisable c => exact sized_execCtxDisable c hs
  | hold c => exact sized_execHold c hs
  | unhold c => exact sized_execUnhold c hs
  | perstNAssert => exact sized_execPerstNAssert hs
  | inputPowerLoss lost => exact sized_execInputPowerLoss lost s
  | halt p on => exact sized_execHalt p on hs
  | enable p on => exact sized_execEnable p on hs
  | fenceDriver c on => exact sized_execFenceDriver c on hs
  | softInit p => exact sized_execSoftInit p hs
  | functionLevelReset => exact sized_execFunctionLevelReset hs
  | hotReset => exact sized_execHotReset hs
  | registerWrite space off v => exact sized_execRegisterWrite space off v hs
  | smbRegisterWrite off v => exact sized_execSmbRegisterWrite off v hs
  | _ => simp [exec, hs]

/-- Settles O59: a tick and each command leave every list of parts at its length, or put lists of the same length
in its place. -/
theorem partsStayInPlace : Obligations.PartsStayInPlace := by
  unfold Obligations.PartsStayInPlace
  intro s t hs h
  suffices sizedOut (step s) = true by rwa [h] at this
  unfold step
  split
  · exact (sized_tick s).trans hs
  · exact sizedOut_exec ((sized_mk ..).trans hs) _

end Sys2Proof.Machine

namespace Sys2Proof.Machine

/-! ## Bits of a written word -/

/-- Bits above a field leave it as it is. -/
theorem rfld_or_above (v : W32) {w : W32} {n : Nat} (h : w.toNat % 2 ^ (n + 1) = 0) :
    rfld (v ||| w) n 0 = rfld v n 0 := by
  simp only [rfld, fld, Nat.pow_zero, Nat.div_one, Nat.sub_zero, BitVec.toNat_or, Nat.or_mod_two_pow, h,
    Nat.or_zero]

/-- A bit that is set may be set again. -/
theorem or_bit_self {v : W32} {i : Nat} (h : rbit v i = true) : v ||| BitVec.ofNat 32 (2 ^ i) = v := by
  apply BitVec.eq_of_getLsbD_eq
  intro j _
  rw [BitVec.getLsbD_or, BitVec.getLsbD_ofNat]
  by_cases e : i = j
  · subst e; rw [show v.getLsbD i = true from h, Bool.true_or]
  · rw [Nat.testBit_two_pow_of_ne e, Bool.and_false, Bool.or_false]

/-! ## Parts that logging leaves -/

@[simp] theorem invalidProg_ktl (p : Page) (s : State) : (invalidProg p s).ktl = s.ktl := by
  have h := congrArg State.ktl (invalidProg_log p s); exact h

@[simp] theorem setInt_ktl (p : Page) (i : Nat) (s : State) : (setInt p i s).ktl = s.ktl := by
  have h := congrArg State.ktl (setInt_int p i s); exact h

@[simp] theorem sansLog_invalidProg (p : Page) (s t : State) : sansLog s (invalidProg p t) = sansLog s t :=
  sansLog_over (invalidProg_log p t)

@[simp] theorem sansInt_setInt (p : Page) (i : Nat) (s t : State) : sansInt s (setInt p i t) = sansInt s t :=
  sansInt_over (setInt_int p i t)

theorem setInt_stormBeat (p : Page) (i : Nat) (s : State) : (setInt p i s).hif.stormBeat = s.hif.stormBeat := by
  unfold setInt onIrq reqSource reqVector
  simp only
  split
  · split
    · split <;> rfl
    · rfl
  · rfl

/-! ## The count (R45) -/

/-- Two words are the halves of a number. -/
theorem leNat_leBytes_four (v : Nat) : leNat (leBytes 4 v) = v % 2 ^ 32 := by
  simp only [leBytes, leNat, BitVec.toNat_ofNat]
  omega

theorem exec_ktlCountRead_low {s : State} (ho : barOpen s = true) :
    exec (.ktlCountRead false) s = .next (countLatch (s.answer (s.ktl.count.setWidth 32))) :=
  congrArg Host.Outcome.next (hostRead_of ho)

theorem exec_ktlCountRead_high {s : State} (ho : barOpen s = true) :
    exec (.ktlCountRead true) s = .next (s.answer s.ktl.countHi) := congrArg Host.Outcome.next (hostRead_of ho)

/-- Settles O1: the first read latches the high half that the second one answers. -/
theorem countReadGivesWholeCount : Obligations.CountReadGivesWholeCount := by
  unfold Obligations.CountReadGivesWholeCount
  intro s ho
  refine ⟨_, _, exec_ktlCountRead_low ho, exec_ktlCountRead_high ho, ?_, rfl, rfl⟩
  have low : leNat (leBytes 4 (s.ktl.count.setWidth 32).toNat) = s.ktl.count.toNat % 2 ^ 32 := by
    rw [leNat_leBytes_four, BitVec.toNat_setWidth, Nat.mod_mod]
  have high : leNat (leBytes 4 ((s.ktl.count >>> 32).setWidth 32).toNat) = s.ktl.count.toNat / 2 ^ 32 := by
    rw [leNat_leBytes_four, BitVec.toNat_setWidth, Nat.mod_mod, BitVec.toNat_ushiftRight, Nat.shiftRight_eq_div_pow]
    have := s.ktl.count.isLt
    omega
  calc _ = s.ktl.count.toNat % 2 ^ 32 + s.ktl.count.toNat / 2 ^ 32 * 2 ^ 32 :=
        congrArg₂ (fun a b => a + b * 2 ^ 32) low high
    _ = s.ktl.count.toNat := by omega

/-! ## Writes of KTL_PLAN_CTRL (R51, R82, R83, R616, R622) -/

section
variable {s : State} {v w : W32}

theorem planCtrlWrite_direct (hd : (s.hdr .ktl).shadowSel = false) : planCtrlWrite w s = planCtrlDirect w s := by
  rw [planCtrlWrite, if_neg (by simp [hd])]

theorem exec_start_direct (ho : barWr s = true) (hd : (s.hdr .ktl).shadowSel = false) :
    exec (.start v) s = .next (planCtrlDirect (v ||| 0x8#32) s) :=
  congrArg Host.Outcome.next ((hostWrite_of ho).trans (planCtrlWrite_direct hd))

theorem exec_stop_direct (ho : barWr s = true) (hd : (s.hdr .ktl).shadowSel = false) :
    exec (.stop v) s = .next (planCtrlDirect (v ||| 0x10#32) s) :=
  congrArg Host.Outcome.next ((hostWrite_of ho).trans (planCtrlWrite_direct hd))

theorem exec_load_direct (ho : barWr s = true) (hd : (s.hdr .ktl).shadowSel = false) :
    exec (.load v) s = .next (planCtrlDirect (v ||| 0x20#32) s) :=
  congrArg Host.Outcome.next ((hostWrite_of ho).trans (planCtrlWrite_direct hd))

/-- A write with START and STOP, one that would move BANK, or one with START, while a plan runs, and one with
START of a bank that is not VALID are discarded whole (R616, R622). -/
theorem planCtrlDirect_discarded
    (h : rbit w 3 = true ∧
        (rbit w 4 = true ∨ s.ktl.planState ≠ .stopped ∨ (s.bank (rfld w 2 0)).valid = false) ∨
      rfld w 2 0 ≠ s.ktl.planBank ∧ s.ktl.planState ≠ .stopped) :
    planCtrlDirect w s = invalidProg .ktl s := by
  rw [planCtrlDirect, if_pos]
  rcases h with ⟨h3, h | h | h⟩ | ⟨h, hp⟩ <;> simp [*]

/-- LOAD while a plan runs sets the invalid-programming bit, whatever else the write does (R83). -/
theorem planCtrlDirect_load_running (h5 : rbit w 5 = true) (hp : s.ktl.planState ≠ .stopped) :
    ∃ k : Ktl, planCtrlDirect w s = invalidProg .ktl { s with ktl := k } ∧ k.count = s.ktl.count ∧
      k.loadPending = s.ktl.loadPending ∧ (rbit w 4 = false → k = s.ktl) := by
  by_cases h : rbit w 3 = true ∨ rfld w 2 0 ≠ s.ktl.planBank
  · refine ⟨s.ktl, planCtrlDirect_discarded ?_, rfl, rfl, fun _ => rfl⟩
    exact h.imp (fun h3 => ⟨h3, .inr (.inl hp)⟩) fun hb => ⟨hb, hp⟩
  · obtain ⟨h3, hb⟩ : rbit w 3 = false ∧ rfld w 2 0 = s.ktl.planBank := by simpa using h
    simp only [planCtrlDirect, h3, h5, hb, hp, bne_self_eq_false, Bool.false_and, Bool.or_self,
      Bool.false_eq_true, if_false, if_true, beq_iff_eq]
    by_cases h4 : rbit w 4 = true
    · rw [if_pos h4]
      exact ⟨_, rfl, rfl, rfl, fun h => absurd (h4.symm.trans h) (by decide)⟩
    · rw [if_neg h4]
      exact ⟨_, rfl, rfl, rfl, fun _ => rfl⟩

/-- A write without START while the plan is STOPPED takes BANK and LOAD (R82). -/
theorem planCtrlDirect_stopped (h3 : rbit w 3 = false) (hp : s.ktl.planState = .stopped) :
    planCtrlDirect w s = { s with ktl := { s.ktl with
      planBank := rfld w 2 0
      loadPending := if rbit w 5 then some (s.ktl.countLoadLo.toNat + s.ktl.countLoadHi.toNat * 2 ^ 32, s.ktl.up)
        else s.ktl.loadPending } } := by
  by_cases h4 : rbit w 4 = true <;> by_cases h5 : rbit w 5 = true <;>
    simp [planCtrlDirect, h3, h4, h5, hp, State.onKtl]

end

/-! ## The load takes effect (R82) -/

theorem exec_countLoaded {s : State} {v a : Nat} (hl : s.ktl.loadPending = some (v, a)) (ha : a < s.up)
    (hn : s.now % 3300 = 0) :
    exec .countLoaded s = .next (setInt .ktl 23 { s with
      ktl := { s.ktl with
        count := BitVec.ofNat 64 (v / 3300 * 3300), loadPending := none, ppsLock := false, ppsLast := none
        refreshed := if s.ktl.refreshed = some s.beat then some (v / 3300 * 3300 / 1100) else none
        resumeBeat := 0, forcedFrom := 0
        fifos := s.ktl.fifos.map fun f => { f with ts := [] }
        inputs := s.ktl.inputs.map fun f => { f with fastBeat := none } }
      hif := { s.hif with stormBeat := none }
      spt := { s.spt with rings := s.spt.rings.map fun r => { r with dropBeat := none } } }) := by
  simp only [exec, execCountLoaded, hl, hn, ha, and_self, if_true]
  rfl

theorem exec_countLoaded_early {s : State} (hn : s.now % 3300 ≠ 0) : exec .countLoaded s = .next s := by
  simp only [exec, execCountLoaded, hn, false_and, if_false]
  split <;> rfl

/-- Settles O2: the write by the plan's state, the load by its tick. -/
theorem hostTimeLoad : Obligations.HostTimeLoad := by
  unfold Obligations.HostTimeLoad
  refine ⟨?_, ?_, ?_, ?_, fun s => exec_countLoaded_early⟩
  · intro s v hs ho hp hd
    have hh := hdrs_of_sized hs
    obtain ⟨k, hk, hc, hl, h4⟩ :=
      planCtrlDirect_load_running (s := s) (w := v ||| 0x20#32) (by simp [rbit]) hp
    refine ⟨_, (exec_load_direct ho hd).trans (congrArg _ hk), errBit_invalidProg _ _ hh,
      by rw [invalidProg_ktl]; exact hc, by rw [invalidProg_ktl]; exact hl, fun h => ?_⟩
    rw [sansLog_invalidProg, h4 (by simpa [rbit] using h)]
    rfl
  · intro s v ho hp hd h3
    rw [exec_load_direct ho hd, planCtrlDirect_stopped (by simpa [rbit] using h3) hp,
      rfld_or_above v (by decide), if_pos (by simp [rbit])]
  · intro s v h3
    have start : (v ||| 0x20#32) ||| 0x8#32 = v ||| 0x20#32 := or_bit_self (i := 3) (by simpa [rbit] using h3)
    simp only [exec, execLoad, execStart, start]
  · intro s v a hs hl ha hn hv
    have hh := hdrs_of_sized hs
    refine ⟨_, exec_countLoaded hl ha hn, ?_, intBit_setInt _ _ _ (by decide) hh,
      setInt_stormBeat _ _ _, ?_⟩
    · simp only [State.now, setInt_ktl, BitVec.toNat_ofNat]
      omega
    · rw [sansInt_setInt, show v / 3300 * 3300 / 1100 = v / 3300 * 3 by omega]
      simp only [sansInt, setInt_ktl]

end Sys2Proof.Machine

namespace Sys2Proof.Machine

/-! ## The plan starts and stops (R51, R54, R614, R616, R622) -/

section
variable {s : State} {v w : W32}

theorem valid_of_bankFits {b len : Nat} (h : bankFits s b len = true) : (s.bank b).valid = true := by
  simp only [bankFits, Bool.and_eq_true] at h
  exact h.1.1

theorem startOk_iff {b t : Nat} :
    startOk s b t = true ↔ bankFits s b s.ktl.planLen = true ∧ t % 3 = 0 ∧ s.beat + 2 ≤ t := by
  simp [startOk, and_assoc]

/-- START that meets the checks pends; LOAD in the same write waits beside it. -/
theorem planCtrlDirect_start_taken (h3 : rbit w 3 = true) (h4 : rbit w 4 = false)
    (hp : s.ktl.planState = .stopped) (hf : startOk s (rfld w 2 0) (planStartBeatOf s) = true) :
    planCtrlDirect w s = { s with ktl := { s.ktl with
      planBank := rfld w 2 0, activeBank := rfld w 2 0, planState := .startPending
      pendingStart := planStartBeatOf s
      loadPending := if rbit w 5 then some (s.ktl.countLoadLo.toNat + s.ktl.countLoadHi.toNat * 2 ^ 32, s.ktl.up)
        else s.ktl.loadPending } } := by
  have hv := valid_of_bankFits (startOk_iff.1 hf).1
  have fits : ∀ f : Ktl → Ktl, startOk (s.onKtl fun k => { k with planBank := rfld w 2 0 }) (rfld w 2 0)
      (planStartBeatOf (s.onKtl fun k => { k with planBank := rfld w 2 0 })) = true := fun _ => hf
  unfold planCtrlDirect
  simp only [h3, h4, hp, hv, fits id, if_true, beq_self_eq_true, Bool.not_true, Bool.and_false, Bool.or_self,
    Bool.false_eq_true, if_false]
  split <;> rfl

/-- START that fails a check leaves the plan STOPPED. -/
theorem planCtrlDirect_start_refused (h3 : rbit w 3 = true) (h4 : rbit w 4 = false) (h5 : rbit w 5 = false)
    (hp : s.ktl.planState = .stopped) (hv : (s.bank (rfld w 2 0)).valid = true)
    (hf : startOk s (rfld w 2 0) (planStartBeatOf s) = false) :
    planCtrlDirect w s = invalidProg .ktl (s.onKtl fun k => { k with planBank := rfld w 2 0 }) := by
  have fits : startOk (s.onKtl fun k => { k with planBank := rfld w 2 0 }) (rfld w 2 0)
      (planStartBeatOf (s.onKtl fun k => { k with planBank := rfld w 2 0 })) = false := hf
  unfold planCtrlDirect
  simp only [h3, h4, h5, hp, hv, fits, if_true, beq_self_eq_true, Bool.not_true, Bool.and_false, Bool.or_self,
    Bool.false_eq_true, if_false]

theorem planCtrlDirect_stop (h3 : rbit w 3 = false) (h4 : rbit w 4 = true) (h5 : rbit w 5 = false)
    (hb : rfld w 2 0 = s.ktl.planBank) :
    planCtrlDirect w s = { s with ktl := { s.ktl with
      planState := if s.ktl.planState = .running then .stopping
        else if s.ktl.planState = .startPending then .stopped else s.ktl.planState } } := by
  unfold planCtrlDirect
  simp only [h3, h4, h5, hb, if_true, bne_self_eq_false, Bool.false_and, Bool.or_self, Bool.false_eq_true, if_false]
  cases hp : s.ktl.planState <;> simp [State.onKtl, hp]

theorem complete_cleared {p : Page} (hh : s.hdrs.length = 56) :
    ((s.onHdr p fun h => { h with complete := false }).hdr p).complete = false := by
  rw [hdr_onHdr, if_pos ⟨rfl, hh ▸ pageIdx_lt p⟩]

/-- With SHADOW_SEL a write stages BANK and leaves the shadow incomplete. -/
theorem planCtrlWrite_staged (hd : (s.hdr .ktl).shadowSel = true) (hl : locked s .ktl = false) :
    planCtrlWrite w s = State.onHdr .ktl (fun h => { h with complete := false })
      { s with ktl := { s.ktl with shBank := some (rfld w 2 0) } } := by
  rw [planCtrlWrite, if_pos hd, shadowWrite, if_neg (by simp [hl])]
  rfl

end

theorem exec_planStartBeat {s : State} (hp : s.ktl.planState = .startPending)
    (hn : s.now = s.ktl.pendingStart * 1100) :
    exec .planStartBeat s = .next (s.onKtl (beginCycle s.now s.ktl.planLen 0)) := by
  simp only [exec, execPlanStartBeat, hp, ← hn, and_self, if_true]

/-! ## The cycles of a running plan (R50, R80) -/

section
variable {s : State} {start no : Nat}

theorem beginCycle_running {k : Ktl} (len : Nat) (hp : k.planState = .running) :
    beginCycle start len no k =
      { k with cycleStart := start, cycleLen := len, cycleNo := no, nextEntry := 0 } := by
  rw [beginCycle, ← hp]

theorem exec_planCycleEnd_stopping (hn : s.now + 1 = s.ktl.cycleStart + s.ktl.cycleLen * 1100)
    (hp : s.ktl.planState = .stopping) :
    exec .planCycleEnd s = .next { s with ktl := { s.ktl with planState := .stopped } } := by
  simp only [exec, execPlanCycleEnd, hp, ← hn, or_true, and_self, if_true]
  rfl

theorem exec_planCycleEnd_running (hn : s.now + 1 = s.ktl.cycleStart + s.ktl.cycleLen * 1100)
    (hp : s.ktl.planState = .running) :
    exec .planCycleEnd s = .next ((cycleLenAt (s.now + 1) (s.ktl.cycleNo + 1) s).2.onKtl
      (beginCycle (s.now + 1) (cycleLenAt (s.now + 1) (s.ktl.cycleNo + 1) s).1 (s.ktl.cycleNo + 1))) := by
  simp only [exec, execPlanCycleEnd, hp, ← hn, true_or, and_self, if_true, reduceCtorEq, if_false]

/-- Without the discipline a cycle has KTL_PLAN_LEN beats. -/
theorem cycleLenAt_plain (h : (s.ktl.discEn && s.ktl.ppsLock) = false) :
    cycleLenAt start no s = (s.ktl.planLen, s) := by
  rw [cycleLenAt, if_neg (by simp [h])]

/-- The remainder of a number within half a divisor of a multiple of it, taken nearest to 0. -/
theorem nearest_emod {err sec m : Int} (h : 2 * err < sec) (h' : -sec < 2 * err) :
    2 * ((err + m * sec) % sec) ≠ sec ∧
    (if 2 * ((err + m * sec) % sec) > sec then (err + m * sec) % sec - sec else (err + m * sec) % sec) = err := by
  rw [Int.add_mul_emod_self_right]
  by_cases e : 0 ≤ err
  · rw [Int.emod_eq_of_lt e (by omega)]
    omega
  · rw [← Int.add_emod_right, Int.emod_eq_of_lt (by omega) (by omega)]
    omega

/-- Under the discipline the procedure's steps are those of the distance to the nearest target (R80). -/
theorem cycleLenAt_disciplined {anchor target m err : Int} (he : s.ktl.discEn = true) (hl : s.ktl.ppsLock = true)
    (h1 : 1 ≤ s.ktl.ppsMeasured)
    (ha : anchor = start + (s.ktl.discCycles - no % s.ktl.discCycles : Nat) * s.ktl.planLen * 1100)
    (ht : target = s.ktl.ppsLast.getD 0 + s.ktl.discPhase + m * s.ktl.ppsMeasured) (hd : err = anchor - target)
    (hu : 2 * err < s.ktl.ppsMeasured) (hb : -s.ktl.ppsMeasured < 2 * err) :
    cycleLenAt start no s = (((s.ktl.planLen : Int) - 3 * discSteps err s.ktl.discMaxSteps).toNat, s) := by
  have sec : max 1 (s.ktl.ppsMeasured : Int) = s.ktl.ppsMeasured := by omega
  have dist : anchor - (s.ktl.ppsLast.getD 0 + s.ktl.discPhase) = err + m * s.ktl.ppsMeasured := by omega
  obtain ⟨apart, near⟩ := nearest_emod (m := m) hu hb
  unfold cycleLenAt
  simp only [he, hl, Bool.and_self, if_true, sec, ← ha, dist, apart, if_false, decide_eq_true_eq, near]

theorem discSteps_bounds (err : Int) (n : Nat) : -n ≤ discSteps err n ∧ discSteps err n ≤ n := by
  unfold discSteps; omega

/-- A length that is shortened by steps of three beats. -/
theorem shortened_near {len n : Nat} {d : Int} (h : 3 * n ≤ len) (hd : -n ≤ d ∧ d ≤ n) :
    ((len : Int) - 3 * d).toNat % 3 = len % 3 ∧ len ≤ ((len : Int) - 3 * d).toNat + 3 * n ∧
    ((len : Int) - 3 * d).toNat ≤ len + 3 * n := by omega

/-- A cycle is KTL_PLAN_LEN beats long, up to three beats for each step that the discipline may take. -/
theorem cycleLenAt_near (h : 3 * s.ktl.discMaxSteps ≤ s.ktl.planLen) :
    (cycleLenAt start no s).1 % 3 = s.ktl.planLen % 3 ∧
    s.ktl.planLen ≤ (cycleLenAt start no s).1 + 3 * s.ktl.discMaxSteps ∧
    (cycleLenAt start no s).1 ≤ s.ktl.planLen + 3 * s.ktl.discMaxSteps := by
  by_cases plain : (s.ktl.discEn && s.ktl.ppsLock) = false
  · rw [cycleLenAt_plain plain]; omega
  · rw [cycleLenAt, if_pos (by simpa using plain)]
    exact shortened_near h (discSteps_bounds _ _)

/-- Choosing a cycle's length may take a free value and changes nothing. -/
theorem cycleLenAt_frame : ∃ f, (cycleLenAt start no s).2 = { s with free := f } := by
  unfold cycleLenAt
  simp only
  split
  · split
    · next h =>
      split at h
      · cases h; exact ⟨_, rfl⟩
      · cases h
    · exact ⟨_, rfl⟩
  · exact ⟨_, rfl⟩

end

/-- Settles O3: the writes by the plan's state, then the start of a plan and the end of a cycle at their
ticks. -/
theorem planRuns : Obligations.PlanRuns := by
  unfold Obligations.PlanRuns
  refine ⟨?_, ?_, ?_, fun s => exec_planStartBeat, ?_, ?_, ?_, fun s => exec_planCycleEnd_stopping, ?_, ?_, ?_⟩
  · intro s v ho hp hd h4 hf h0 hb
    have bank : rfld (v ||| 0x8#32) 2 0 = rfld v 2 0 := rfld_or_above v (by decide)
    have load : rbit (v ||| 0x8#32) 5 = rbit v 5 := by simp [rbit]
    rw [exec_start_direct ho hd, planCtrlDirect_start_taken (by simp [rbit]) (by simpa [rbit] using h4) hp
      (bank ▸ startOk_iff.2 ⟨hf, h0, hb⟩), bank, load]
  · intro s v hs ho hp hd h4 h5 hv hc
    have hh := hdrs_of_sized hs
    have bank : rfld (v ||| 0x8#32) 2 0 = rfld v 2 0 := rfld_or_above v (by decide)
    have fails : startOk s (rfld v 2 0) (planStartBeatOf s) = false := by
      rw [← Bool.not_eq_true, startOk_iff]
      rintro ⟨hf, h0, hb⟩
      rcases hc with hc | hc | hc
      · simp [hf] at hc
      · exact hc h0
      · omega
    refine ⟨_, (exec_start_direct ho hd).trans (congrArg _ (planCtrlDirect_start_refused (by simp [rbit])
      (by simpa [rbit] using h4) (by simpa [rbit] using h5) hp (bank ▸ hv) (bank ▸ fails))),
      errBit_invalidProg _ _ hh, ?_⟩
    rw [sansLog_invalidProg, bank]
    rfl
  · intro s v hs ho hd hc
    have hh := hdrs_of_sized hs
    refine ⟨_, (exec_start_direct ho hd).trans
      (congrArg _ (planCtrlDirect_discarded (.inl ⟨by simp [rbit], ?_⟩))),
      errBit_invalidProg _ _ hh, sansLog_invalidProg _ _ _⟩
    rw [rfld_or_above v (by decide)]
    simpa [rbit] using hc
  · intro s v ho hd hb h3 h5
    rw [exec_stop_direct ho hd, planCtrlDirect_stop (by simpa [rbit] using h3) (by simp [rbit])
      (by simpa [rbit] using h5) ((rfld_or_above v (by decide)).trans hb)]
  · intro s v hs ho hd hc
    have hh := hdrs_of_sized hs
    refine ⟨_, (exec_stop_direct ho hd).trans (congrArg _ (planCtrlDirect_discarded ?_)),
      errBit_invalidProg _ _ hh, sansLog_invalidProg _ _ _⟩
    rw [rfld_or_above v (by decide)]
    rcases hc with hc | h3
    · exact .inr hc
    · exact .inl ⟨by simpa [rbit] using h3, .inl (by simp [rbit])⟩
  · intro s v i hi hs ho hd hl
    have hh := hdrs_of_sized hs
    obtain ⟨w, hw, hx⟩ : ∃ w : W32, rfld (v ||| w) 2 0 = rfld v 2 0 ∧
        exec i s = .next (hostWrite (planCtrlWrite (v ||| w)) s) := by
      simp only [List.mem_cons, List.not_mem_nil, or_false] at hi
      rcases hi with rfl | rfl | rfl
      · exact ⟨0x8#32, rfld_or_above v (by decide), rfl⟩
      · exact ⟨0x10#32, rfld_or_above v (by decide), rfl⟩
      · exact ⟨0x20#32, rfld_or_above v (by decide), rfl⟩
    refine ⟨_, hx.trans (congrArg _ ((hostWrite_of ho).trans (planCtrlWrite_staged hd hl))),
      by rw [State.onHdr_ktl, hw], ?_, rfl⟩
    exact complete_cleared hh
  · intro s hn hp hc
    rw [exec_planCycleEnd_running hn hp, cycleLenAt_plain hc, State.onKtl, beginCycle_running _ hp]
  · intro s r anchor target m err hn hp he hl h1 hr ha ht hd hu hb
    rw [exec_planCycleEnd_running hn hp, cycleLenAt_disciplined he hl h1 (by rw [ha, hr]; rfl) ht hd hu hb,
      State.onKtl, beginCycle_running _ hp]
    rfl
  · intro s hn hp h
    obtain ⟨f, hf⟩ := cycleLenAt_frame (s := s) (start := s.now + 1) (no := s.ktl.cycleNo + 1)
    rw [exec_planCycleEnd_running hn hp, hf]
    obtain ⟨h3, hlo, hhi⟩ := cycleLenAt_near (start := s.now + 1) (no := s.ktl.cycleNo + 1) h
    exact ⟨_, rfl, h3, hlo, hhi, by rw [State.onKtl, beginCycle_running _ hp]⟩
end Sys2Proof.Machine

namespace Sys2Proof.Machine

/-! ## Parts that are updated -/

theorem updAt_updAt {α : Type} (l : List α) (i : Nat) (f g : α → α) :
    updAt (updAt l i f) i g = updAt l i (g ∘ f) := List.modify_modify_eq f g i l

/-- Changes that do the same to the part they meet are the same. -/
theorem updAt_congr {α : Type} {l : List α} {i : Nat} {f g : α → α} (h : ∀ x, l[i]? = some x → f x = g x) :
    updAt l i f = updAt l i g := by
  apply List.ext_getElem?
  intro j
  by_cases e : i = j
  · subst e; cases k : l[i]? <;> simp [updAt, k, h]
  · simp [updAt, e]

/-! ## The launch network (R48, R49, R72) -/

section
variable {s : State} {i e : Nat}

theorem exec_launchIssue_sent (hd : entryDue s = some (i, e)) (ha : entAction e = 5 ∨ suppressing s = false) :
    exec .launchIssue s = .next { s with ktl := { s.ktl with
      nextEntry := i + 1
      net := s.ktl.net ++ [{ issued := s.up, code := entAction e, target := entTarget e
                             arg16 := entArg16 e, arg64 := entArg64 e }] } } := by
  have sent : ¬ (entAction e ≠ 5 ∧ suppressing (s.onKtl fun k => { k with nextEntry := i + 1 }) = true) := by
    rintro ⟨h5, hs⟩
    rcases ha with ha | ha
    · exact h5 ha
    · exact absurd (hs.symm.trans ha) (by decide)
  simp only [exec, execLaunchIssue, hd, sent, if_false]
  rfl

theorem exec_launchIssue_suppressed (hd : entryDue s = some (i, e)) (ha : entAction e ≠ 5)
    (hs : suppressing s = true) :
    exec .launchIssue s = .next { s with ktl := { s.ktl with
      nextEntry := i + 1, suppressed := satInc 0xffffffff s.ktl.suppressed } } := by
  have held : suppressing (s.onKtl fun k => { k with nextEntry := i + 1 }) = true := hs
  simp only [exec, execLaunchIssue, hd, ne_eq, ha, not_false_eq_true, held, and_self, if_true]
  rfl

/-- What an action taken out of the network was, and what its taking leaves. -/
theorem takeAction_some {u : State} {lat code : Nat} {p : Action → Bool} {a : Action}
    (h : takeAction s lat code p = some (a, u)) :
    ∃ i, s.ktl.net[i]? = some a ∧ a.code = code ∧ a.issued + lat = s.up ∧ p a = true ∧
      u = { s with ktl := { s.ktl with net := s.ktl.net.eraseIdx i } } := by
  unfold takeAction at h
  split at h
  · next i hi =>
    obtain ⟨b, hb, he⟩ := Option.map_eq_some_iff.1 h
    obtain ⟨hlt, hp, -⟩ := List.findIdx?_eq_some_iff_getElem.1 hi
    have first : s.ktl.net[i] = b := Option.some.inj ((List.getElem?_eq_getElem hlt).symm.trans hb)
    rw [first] at hp
    simp only [Bool.and_eq_true, beq_iff_eq] at hp
    cases he
    exact ⟨i, hb, hp.1.1, hp.1.2, hp.2, rfl⟩
  · cases h

end

/-! ## Writes of the launch banks (R52 to R54, R659) -/

section
variable {s : State} {b : Nat} {v w : W32}

theorem exec_commit (ho : barWr s = true) : exec (.commit v) s = .next (bankCtrlWrite (v ||| 0x8#32) s) :=
  congrArg Host.Outcome.next (hostWrite_of ho)

theorem exec_invalidate (ho : barWr s = true) :
    exec (.invalidate v) s = .next (bankCtrlWrite (v ||| 0x10#32) s) := congrArg Host.Outcome.next (hostWrite_of ho)

theorem commitBank_busy (h : bankBusy s b = true) : commitBank b s = invalidProg .ktl s := if_pos h

theorem commitBank_free (h : bankBusy s b = false) : commitBank b s = { s with ktl := { s.ktl with
    errBank := b, errIndex := ((bankCheck s b).getD (0, 0)).1, errCode := ((bankCheck s b).getD (0, 0)).2
    banks := updAt s.ktl.banks b fun x => { x with
      valid := (bankCheck s b).isNone
      recLen := if (bankCheck s b).isNone then nextLen s else x.recLen
      recSteps := if (bankCheck s b).isNone then s.ktl.discMaxSteps else x.recSteps } } } := by
  rw [commitBank, if_neg (by simp [h])]
  rfl

theorem invalidateBank_busy (h : bankBusy s b = true) : invalidateBank b s = invalidProg .ktl s := if_pos h

theorem invalidateBank_free (h : bankBusy s b = false) : invalidateBank b s = { s with ktl := { s.ktl with
    banks := updAt s.ktl.banks b fun x => { x with valid := false } } } := by
  rw [invalidateBank, if_neg (by simp [h])]
  rfl

theorem entryCode_congr {t : State} (h : t.line = s.line) : entryCode t = entryCode s := by
  funext es short i
  unfold entryCode
  rw [h]

/-- The check of a bank looks at the bank, the lines, and the two values of R54 only. -/
theorem bankCheck_congr {t : State} (hb : t.bank b = s.bank b) (hf : t.line = s.line)
    (hl : nextLen t = nextLen s) (hd : t.ktl.discMaxSteps = s.ktl.discMaxSteps) : bankCheck t b = bankCheck s b := by
  unfold bankCheck
  rw [hb, hl, hd, entryCode_congr hf]

/-- COMMIT of a bank that is not busy, with INVALIDATE after it where the write asks for both. -/
theorem bankCtrlWrite_commit (h3 : rbit w 3 = true) (hb : bankBusy s (rfld w 2 0) = false) :
    bankCtrlWrite w s = { s with ktl := { s.ktl with
      bankCtl := rfld w 2 0, errBank := rfld w 2 0
      errIndex := ((bankCheck s (rfld w 2 0)).getD (0, 0)).1
      errCode := ((bankCheck s (rfld w 2 0)).getD (0, 0)).2
      banks := updAt s.ktl.banks (rfld w 2 0) fun x => { x with
        valid := (bankCheck s (rfld w 2 0)).isNone && !rbit w 4
        recLen := if (bankCheck s (rfld w 2 0)).isNone then nextLen s else x.recLen
        recSteps := if (bankCheck s (rfld w 2 0)).isNone then s.ktl.discMaxSteps else x.recSteps } } } := by
  have check : bankCheck (s.onKtl fun k => { k with bankCtl := rfld w 2 0 }) (rfld w 2 0) =
      bankCheck s (rfld w 2 0) := bankCheck_congr rfl rfl rfl rfl
  simp only [bankCtrlWrite, h3, if_true]
  rw [commitBank_free (by exact hb), check]
  by_cases h4 : rbit w 4 = true
  · rw [if_pos h4, invalidateBank_free (by exact hb)]
    simp only [h4, updAt_updAt, Bool.not_true, Bool.and_false]
    rfl
  · simp only [h4, Bool.not_false, Bool.and_true]
    rfl

theorem bankCtrlWrite_invalidate (h3 : rbit w 3 = false) (h4 : rbit w 4 = true)
    (hb : bankBusy s (rfld w 2 0) = false) :
    bankCtrlWrite w s = { s with ktl := { s.ktl with
      bankCtl := rfld w 2 0, banks := updAt s.ktl.banks (rfld w 2 0) fun x => { x with valid := false } } } := by
  simp only [bankCtrlWrite, h3, h4, if_true, Bool.false_eq_true, if_false]
  exact invalidateBank_free hb

/-- A busy bank discards COMMIT and INVALIDATE, one after the other where the write asks for both (R53). -/
theorem bankCtrlWrite_busy (h : rbit w 3 = true ∨ rbit w 4 = true) (hb : bankBusy s (rfld w 2 0) = true) :
    ∃ u, bankCtrlWrite w s = invalidProg .ktl u ∧ sized u = sized s ∧
      sansLog s u = { s with ktl := { s.ktl with bankCtl := rfld w 2 0 } } := by
  have busy : ∀ u : State, u.ktl = { s.ktl with bankCtl := rfld w 2 0 } → bankBusy u (rfld w 2 0) = true := by
    intro u hu
    rw [← hb]
    simp only [bankBusy, armedTarget, nextBank, hu]
  simp only [bankCtrlWrite]
  by_cases h3 : rbit w 3 = true
  · rw [if_pos h3, commitBank_busy (busy _ rfl)]
    by_cases h4 : rbit w 4 = true
    · rw [if_pos h4, invalidateBank_busy (busy _ (invalidProg_ktl _ _))]
      exact ⟨_, rfl, by simp, sansLog_invalidProg _ _ _⟩
    · rw [if_neg h4]
      exact ⟨_, rfl, by simp, rfl⟩
  · rw [if_neg h3, if_pos (h.resolve_left h3), invalidateBank_busy (busy _ rfl)]
    exact ⟨_, rfl, by simp, rfl⟩

theorem exec_ktlLtDataAccess_write (ho : barWr s = true) :
    exec (.ktlLtDataAccess (some w)) s = .next (ltAdvance (ltWrite w s)) :=
  congrArg Host.Outcome.next (hostWrite_of ho)

theorem ltWrite_free (h : bankBusy s (s.ktl.ltAddr / 8192) = false) :
    ltWrite w s = { s with ktl := { s.ktl with
      banks := updAt s.ktl.banks (s.ktl.ltAddr / 8192) fun b =>
        { b with words := updAt b.words (s.ktl.ltAddr % 8192 / 4) fun _ => w, valid := false } } } := by
  simp only [ltWrite, h, Bool.false_eq_true, if_false]
  rfl

theorem ltWrite_same (h : bankBusy s (s.ktl.ltAddr / 8192) = true)
    (hw : (s.bank (s.ktl.ltAddr / 8192)).words.getD (s.ktl.ltAddr % 8192 / 4) 0 = w) : ltWrite w s = s := by
  simp only [ltWrite, h, hw, if_true]

theorem ltWrite_busy (h : bankBusy s (s.ktl.ltAddr / 8192) = true)
    (hw : (s.bank (s.ktl.ltAddr / 8192)).words.getD (s.ktl.ltAddr % 8192 / 4) 0 ≠ w) :
    ltWrite w s = invalidProg .ktl s := by
  simp only [ltWrite, h, hw, if_true, if_false]

end

/-- Settles O4: the launch network, then the writes and reads of the banks. -/
theorem launchBanks : Obligations.LaunchBanks := by
  unfold Obligations.LaunchBanks
  refine ⟨fun s i e => exec_launchIssue_sent, ?_, fun s u lat code p a => takeAction_some, ?_, ?_, ?_, ?_, ?_⟩
  · intro s i e hd ha hs
    exact exec_launchIssue_suppressed hd ha (by simp [suppressing, hs])
  · intro s v ho hb
    have bank : rfld (v ||| 0x8#32) 2 0 = rfld v 2 0 := rfld_or_above v (by decide)
    have both : rbit (v ||| 0x8#32) 4 = rbit v 4 := by simp [rbit]
    rw [exec_commit ho, bankCtrlWrite_commit (by simp [rbit]) (bank ▸ hb), bank, both]
  · intro s v ho h3 hb
    have bank : rfld (v ||| 0x10#32) 2 0 = rfld v 2 0 := rfld_or_above v (by decide)
    rw [exec_invalidate ho, bankCtrlWrite_invalidate (by simpa [rbit] using h3) (by simp [rbit]) (bank ▸ hb), bank]
  · intro s v h3
    have commit : (v ||| 0x10#32) ||| 0x8#32 = v ||| 0x10#32 := or_bit_self (i := 3) (by simpa [rbit] using h3)
    simp only [exec, execInvalidate, execCommit, commit]
  · intro s w ho hb
    rw [exec_ktlLtDataAccess_write ho, ltWrite_free hb]
    rfl
  · intro s ho
    exact congrArg Host.Outcome.next (hostRead_of ho)

/-- Settles O5: a busy bank discards each of the three writes. -/
theorem busyBankKeepsItsContents : Obligations.BusyBankKeepsItsContents := by
  unfold Obligations.BusyBankKeepsItsContents
  refine ⟨?_, ?_⟩
  · intro s w hs ho hb
    have hh := hdrs_of_sized hs
    refine ⟨_, exec_ktlLtDataAccess_write ho, ?_⟩
    by_cases hw : (s.bank (s.ktl.ltAddr / 8192)).words.getD (s.ktl.ltAddr % 8192 / 4) 0 = w
    · rw [ltWrite_same hb hw]
      exact ⟨fun h => absurd hw h, fun _ => rfl, rfl⟩
    · rw [ltWrite_busy hb hw]
      refine ⟨fun _ => errBit_invalidProg .ktl s hh, fun h => absurd h hw, ?_⟩
      exact congrArg ltAdvance (sansLog_invalidProg .ktl s s)
  · intro s v i hi hs ho hb
    obtain ⟨w, hx, hw, hany⟩ : ∃ w : W32, exec i s = .next (bankCtrlWrite w s) ∧ rfld w 2 0 = rfld v 2 0 ∧
        (rbit w 3 = true ∨ rbit w 4 = true) := by
      simp only [List.mem_cons, List.not_mem_nil, or_false] at hi
      rcases hi with rfl | rfl
      · exact ⟨_, exec_commit ho, rfld_or_above v (by decide), .inl (by simp [rbit])⟩
      · exact ⟨_, exec_invalidate ho, rfld_or_above v (by decide), .inr (by simp [rbit])⟩
    obtain ⟨u, hu, hz, hl⟩ := bankCtrlWrite_busy hany (hw ▸ hb)
    refine ⟨_, hx.trans (congrArg _ hu), errBit_invalidProg _ _ (hdrs_of_sized (hz.trans hs)), ?_⟩
    rw [sansLog_invalidProg, hl, hw]

end Sys2Proof.Machine

namespace Sys2Proof.Machine

/-! ## Refresh and the stack temperature (R55 to R59, R468) -/

section
variable {s : State} {c : BitVec 8}

theorem refreshes_iff {b : Nat} : refreshes s b = true ↔ s.hbm.inSr = false ∧ s.ktl.resumeBeat ≤ b ∧
    (s.ktl.hot = true ∨ (s.ktl.forced = true ∧ s.ktl.forcedFrom ≤ b) ∨ b % 3 = 0) := by
  simp [refreshes, and_assoc, or_assoc]

theorem exec_refreshWindow_due (hp : s.power.booted = true) (hn : s.now % 1100 = 0)
    (hr : refreshes s s.beat = true) :
    exec .refreshWindow s = .next { s with ktl := { s.ktl with refreshed := some s.beat } } := by
  simp only [exec, execRefreshWindow, hp, hn, hr, and_self, if_true]
  rfl

theorem exec_refreshWindow_idle (h : ¬ (s.now % 1100 = 0 ∧ refreshes s s.beat = true)) :
    exec .refreshWindow s = .next s := by
  rw [exec, execRefreshWindow, if_neg fun h' => h h'.2]

/-- A reading is posted. -/
def postReading (c : BitVec 8) (s : State) : State := { s with hbm := { s.hbm with
  temp := c.toNat, tempValid := true, tempSeq := (s.hbm.tempSeq + 1) % 65536
  tempBlock := some (s.beat / 1000) } }

/-- Under the cool plan a reading from KTL_HOT_WARN_C on warns (R58). -/
def warnHot (c : BitVec 8) (s : State) : State := if (s.ktl.hotWarnC : Int) ≤ c.toInt then setInt .ktl 10 s else s

/-- Under the cool plan a reading above 85 °C forces refresh from the next beat (R59). -/
def forceRefresh (c : BitVec 8) (s : State) : State :=
  if 85 < c.toInt ∧ s.ktl.forced = false then
    setInt .ktl 11 (s.onKtl fun k => { k with forced := true, forcedFrom := s.beat + 1 })
  else s

/-- A reading inside a refresh window, the first of its block, is posted, and judged under the cool plan. -/
theorem exec_hbmTempReading_due (hp : s.power.booted = true) (hr : refreshes s s.beat = true)
    (hw : s.now % 1100 < 484) (hb : s.hbm.tempBlock ≠ some (s.beat / 1000)) :
    exec (.hbmTempReading c) s = .next (
      if s.ktl.hot then postReading c s else forceRefresh c (warnHot c (postReading c s))) := by
  simp only [exec, execHbmTempReading, hp, hr, hw, hb, ne_eq, not_false_eq_true, and_self, if_true,
    Bool.not_eq_true']
  rfl

theorem exec_hbmTempReading_idle (h : ¬ (refreshes s s.beat = true ∧ s.now % 1100 < 484)) :
    exec (.hbmTempReading c) s = .next s := by
  rw [exec, execHbmTempReading, if_neg fun h' => h ⟨h'.2.1, h'.2.2.1⟩]

theorem warnHot_below (h : c.toInt < s.ktl.hotWarnC) : warnHot c s = s := if_neg (Int.not_le.2 h)

theorem forceRefresh_not (h : c.toInt ≤ 85 ∨ s.ktl.forced = true) : forceRefresh c s = s := by
  refine if_neg fun h' => ?_
  rcases h with h | h
  · omega
  · simp [h] at h'

@[simp] theorem warnHot_ktl : (warnHot c s).ktl = s.ktl := by
  unfold warnHot; split
  · exact setInt_ktl _ _ _
  · rfl

@[simp] theorem warnHot_hdrs_length : (warnHot c s).hdrs.length = s.hdrs.length := by
  unfold warnHot; split
  · rw [setInt, hdrs_onIrq, hdrs_length_onHdr]
  · rfl

@[simp] theorem sansInt_warnHot (t : State) : sansInt t (warnHot c s) = sansInt t s := by
  unfold warnHot; split
  · exact sansInt_setInt _ _ _ _
  · rfl

theorem intBit_warnHot (hh : s.hdrs.length = 56) (h : (s.ktl.hotWarnC : Int) ≤ c.toInt) :
    intBit (warnHot c s) .ktl 10 = true := by
  rw [warnHot, if_pos h]; exact intBit_setInt _ _ _ (by decide) hh

theorem intBit_forceRefresh (hh : s.hdrs.length = 56) (h : 85 < c.toInt) (hf : s.ktl.forced = false) :
    intBit (forceRefresh c s) .ktl 11 = true := by
  rw [forceRefresh, if_pos ⟨h, hf⟩]; exact intBit_setInt _ _ _ (by decide) hh

theorem intBit_forceRefresh_mono (i : Nat) (h : intBit s .ktl i = true) :
    intBit (forceRefresh c s) .ktl i = true := by
  unfold forceRefresh; split
  · exact intBit_setInt_mono _ _ _ _ _ h
  · exact h

theorem sansInt_forceRefresh (t : State) : sansInt t (forceRefresh c s) = { sansInt t s with
    ktl := if 85 < c.toInt ∧ s.ktl.forced = false then
      { s.ktl with forced := true, forcedFrom := s.beat + 1 } else s.ktl } := by
  unfold forceRefresh; split
  · rw [sansInt_setInt]; rfl
  · rfl

end

/-- Settles O6: the refresh by its beat, the reading by its window and the plan in force. -/
theorem refreshAndTemperature : Obligations.RefreshAndTemperature := by
  unfold Obligations.RefreshAndTemperature
  refine ⟨?_, ?_, ?_, ?_, ?_⟩
  · intro s hp hn hi hb hr
    exact exec_refreshWindow_due hp hn (refreshes_iff.2 ⟨hi, hb, hr⟩)
  · intro s h
    refine exec_refreshWindow_idle ?_
    rw [refreshes_iff]
    rintro ⟨hn, hi, -, hr⟩
    rcases h with h | h | ⟨hh, hf, h3⟩
    · exact h hn
    · simp [hi] at h
    · simp [hh, hf, h3] at hr
  · intro s c hp hr hw hb hc
    rw [exec_hbmTempReading_due hp hr hw hb]
    by_cases hh : s.ktl.hot = true
    · rw [if_pos hh]; rfl
    · obtain ⟨below, mild⟩ := hc.resolve_left hh
      rw [if_neg hh, warnHot_below (by exact below), forceRefresh_not (by exact mild)]
      rfl
  · intro s c hs hp hr hw hb hh hc
    have hl : (postReading c s).hdrs.length = 56 := hdrs_of_sized hs
    refine ⟨forceRefresh c (warnHot c (postReading c s)), ?_, ?_, ?_, ?_⟩
    · rw [exec_hbmTempReading_due hp hr hw hb, if_neg (by simp [hh])]
    · intro h
      exact intBit_forceRefresh_mono 10 (intBit_warnHot hl h)
    · intro h hf
      exact intBit_forceRefresh (by rw [warnHot_hdrs_length, hl]) h (by rw [warnHot_ktl]; exact hf)
    · simp only [sansInt_forceRefresh, sansInt_warnHot, warnHot_ktl, State.beat, State.now]
      rfl
  · intro s c h
    refine exec_hbmTempReading_idle ?_
    rw [refreshes_iff]
    rintro ⟨⟨hi, -, -⟩, hw⟩
    rcases h with h | h
    · omega
    · simp [hi] at h

end Sys2Proof.Machine

namespace Sys2Proof.Machine

/-! ## Arming and disarming an epoch (R60, R65) -/

section
variable {s : State} {v w : W32} {e : Epoch}

theorem exec_arm (ho : barWr s = true) : exec (.arm v) s = .next (epochCtrlWrite (v ||| 1#32) s) :=
  congrArg Host.Outcome.next (hostWrite_of ho)

theorem exec_disarm (ho : barWr s = true) : exec (.disarm v) s = .next (epochCtrlWrite (v ||| 2#32) s) :=
  congrArg Host.Outcome.next (hostWrite_of ho)

theorem epochCtrlWrite_arm (h0 : rbit w 0 = true) (h1 : rbit w 1 = false) :
    epochCtrlWrite w s = armEpoch (epochBeatOf s) (epochTgtOf s) (rbit w 2) false
      (s.onKtl fun k => { k with epochPlanned := rbit w 2 }) := by
  simp only [epochCtrlWrite, h0, h1, Bool.false_eq_true, if_false, if_true]
  rfl

/-- The cases in which an arm is rejected (R60). -/
theorem armRejected_iff {beat tgt : Nat} {planned : Bool} :
    (s.ktl.epoch.isSome || tgt ≥ 2 ^ 46 ||
      !planned && (beat < s.beat + 2 || (tgt.testBit 32 && beat % 3 != 0))) = true ↔
    s.ktl.epoch.isSome = true ∨ 2 ^ 46 ≤ tgt ∨ (planned = false ∧
      (beat < s.beat + 2 ∨ (tgt.testBit 32 = true ∧ beat % 3 ≠ 0))) := by
  simp [or_assoc]

theorem armEpoch_accepted {beat tgt : Nat} {planned byCap : Bool} (he : s.ktl.epoch = none) (ht : tgt < 2 ^ 46)
    (hb : planned = true ∨ s.beat + 2 ≤ beat ∧ (tgt.testBit 32 = true → beat % 3 = 0)) :
    armEpoch beat tgt planned byCap s = s.onKtl fun k => { k with
      epochResult := 1, epochLag := 0
      epoch := some { target := tgt, beat := if planned then none else some beat
                      planned := planned, byCap := byCap, decision := none } } := by
  rw [armEpoch, if_neg]
  rw [armRejected_iff]
  rintro (h | h | ⟨h, hr⟩)
  · simp [he] at h
  · omega
  · obtain ⟨lead, aligned⟩ := hb.resolve_left (by simp [h])
    rcases hr with hr | ⟨ht, hr⟩
    · omega
    · exact hr (aligned ht)

theorem armEpoch_rejected {beat tgt : Nat} {planned byCap : Bool}
    (h : s.ktl.epoch.isSome = true ∨ 2 ^ 46 ≤ tgt ∨ (planned = false ∧
      (beat < s.beat + 2 ∨ (tgt.testBit 32 = true ∧ beat % 3 ≠ 0)))) :
    armEpoch beat tgt planned byCap s = s.onKtl fun k => { k with epochResult := 4 } := by
  rw [armEpoch, if_pos (armRejected_iff.2 h)]

theorem epochCtrlWrite_disarm (h0 : rbit w 0 = false) (h1 : rbit w 1 = true) (he : s.ktl.epoch = some e)
    (hs : sampled s e = false) :
    epochCtrlWrite w s = dropEpoch 0 (s.onKtl fun k => { k with epochPlanned := rbit w 2 }) := by
  have early : sampled (s.onKtl fun k => { k with epochPlanned := rbit w 2 }) e = false := hs
  simp only [epochCtrlWrite, h0, h1, Bool.false_eq_true, if_false, if_true, State.onKtl_ktl, he, early]

theorem epochCtrlWrite_disarm_late (h0 : rbit w 0 = false) (hs : ∀ e ∈ s.ktl.epoch, sampled s e = true) :
    epochCtrlWrite w s = s.onKtl fun k => { k with epochPlanned := rbit w 2 } := by
  have late : ∀ e ∈ s.ktl.epoch, sampled (s.onKtl fun k => { k with epochPlanned := rbit w 2 }) e = true := hs
  simp only [epochCtrlWrite, h0, Bool.false_eq_true, if_false, State.onKtl_ktl]
  split
  · split
    · next e he => rw [if_pos (late e he)]
    · rfl
  · rfl

/-- A dropped epoch leaves its beat, where it has one, and counts as resolved. -/
theorem dropEpoch_eq (res : Nat) (he : s.ktl.epoch = some e) :
    dropEpoch res s = setInt .ktl 9 { s with ktl := { s.ktl with
      epoch := none, epochResult := res, epochSeq := (s.ktl.epochSeq + 1) % 65536
      epochBeatLo := if e.beat.isSome then BitVec.ofNat 32 (e.beat.getD 0) else s.ktl.epochBeatLo
      epochBeatHi := if e.beat.isSome then BitVec.ofNat 32 (e.beat.getD 0 / 2 ^ 32) else s.ktl.epochBeatHi } } := by
  unfold dropEpoch
  simp only [State.onKtl, he, Option.bind_some]
  cases e.beat <;> rfl

end

/-! ## A MODE_SWITCH and the sampling tick (R64, R66) -/

section
variable {s : State} {e : Epoch} {b : Nat}

theorem exec_epochSample (he : s.ktl.epoch = some e) (hb : e.beat = some b) (hd : e.decision = none)
    (hn : s.now + 8 = b * 1100) :
    exec .epochSample s = .next { s with ktl := { s.ktl with
      epochLag := (((setBits 46 e.target).filter fun i => !ready s i).map (2 ^ ·)).sum
      epoch := some { e with decision := some ((setBits 46 e.target).all (ready s)) } } } := by
  have all : ((setBits 46 e.target).filter fun i => !ready s i).isEmpty = (setBits 46 e.target).all (ready s) := by
    rw [Bool.eq_iff_iff]
    simp
  simp only [exec, execEpochSample, he, hb, hd, hn, if_true, all]
  rfl

theorem exec_modeSwitch_unarmed {u : State} {a : Action} (h : takeAction s 0 7 (fun _ => true) = some (a, u))
    (he : s.ktl.epoch = none) : exec .modeSwitch s = .next u := by
  obtain ⟨i, -, -, -, -, rfl⟩ := takeAction_some h
  simp only [exec, execModeSwitch, h, he]

/-- The entry fixes the beat of an epoch that waits for it. -/
theorem exec_modeSwitch_armed {u : State} {a : Action} (h : takeAction s 0 7 (fun _ => true) = some (a, u))
    (he : s.ktl.epoch = some e) :
    exec .modeSwitch s = .next (if e.planned = true ∧ e.beat = none then
        u.onKtl fun k => putEpochBeat (s.beat + 3) { k with epoch := some { e with beat := some (s.beat + 3) } }
      else u) := by
  obtain ⟨i, -, -, -, -, rfl⟩ := takeAction_some h
  simp only [exec, execModeSwitch, h, he]
  rfl

end

/-! ## The epoch beat (R64, R65, R67) -/

section
variable {s : State} {e : Epoch} {b : Nat}

/-- An epoch is resolved on its beat. -/
def resolveEpoch (b res : Nat) (s : State) : State := { s with ktl := { s.ktl with
  epoch := none, epochResult := res, epochSeq := (s.ktl.epochSeq + 1) % 65536, epochLast := some s.up
  epochBeatLo := BitVec.ofNat 32 b, epochBeatHi := BitVec.ofNat 32 (b / 2 ^ 32) } }

theorem exec_epochDone_cancelled (he : s.ktl.epoch = some e) (hb : e.beat = some b) (hd : e.decision = some false)
    (hc : e.byCap = false) (hn : s.now = b * 1100) :
    exec .epochDone s = .next (setInt .ktl 9 (resolveEpoch b 3 s)) := by
  simp only [exec, execEpochDone, he, hb, hd, hc, hn, if_true, Bool.false_eq_true, if_false]
  rfl

/-- A switch: the targets apply their shadows, then empty them; the Kettle installs its plan last. -/
theorem exec_epochDone_switched (he : s.ktl.epoch = some e) (hb : e.beat = some b) (hd : e.decision = some true)
    (hc : e.byCap = false) (hn : s.now = b * 1100) :
    exec .epochDone s = .next (setInt .ktl 8 (
      let ps := targetsOf e.target
      let t := ps.foldl (fun s p => emptyShadow p s) (ps.foldl (fun s p => applyShadow p s) (resolveEpoch b 2 s))
      if e.target.testBit 32 then installPlan t else t)) := by
  simp only [exec, execEpochDone, he, hb, hd, hc, hn, if_true, Bool.false_eq_true, if_false]
  rfl

theorem complete_setInt (p q : Page) (i : Nat) (s : State) :
    ((setInt p i s).hdr q).complete = (s.hdr q).complete := by
  rw [hdr_setInt]; exact hdr_onHdr_same Hdr.complete _ _ _ _ fun _ => rfl

/-- The HBM's staged retraining takes effect and is emptied. -/
theorem switch_hbm (t : State) : emptyShadow .hbm (applyShadow .hbm t) =
    (t.onHbm fun h => { h with retrain := h.shRetrain.getD h.retrain, shRetrain := none }).onHdr .hbm
      fun h => { h with complete := false } := rfl

/-- The Kettle's staged bank, plan length and refresh plan take effect and are emptied. -/
theorem switch_ktl (t : State) : emptyShadow .ktl (applyShadow .ktl t) =
    (t.onKtl fun k => { k with
      planBank := nextBank t, planLen := nextLen t, hot := k.shPlan.getD k.hot, forced := false
      shBank := none, shPlanLen := none, shPlan := none }).onHdr .ktl fun h => { h with complete := false } := rfl

theorem targetsOf_hbm : targetsOf (2 ^ 44) = [.hbm] := by decide
theorem targetsOf_ktl : targetsOf (2 ^ 32) = [.ktl] := by decide

/-- A running plan goes on with the new bank in a new cycle (R67). -/
theorem installPlan_running (hp : s.ktl.planState = .running) (hd : (s.ktl.discEn && s.ktl.ppsLock) = false) :
    installPlan s = { s with ktl := { s.ktl with
      activeBank := s.ktl.planBank, cycleStart := s.now, cycleLen := s.ktl.planLen, nextEntry := 0
      cycleNo := if s.ktl.cycleStart = s.now then s.ktl.cycleNo else s.ktl.cycleNo + 1 } } := by
  simp only [installPlan, hp, cycleLenAt_plain hd]
  rfl

end

/-- Settles O7: the writes of KTL_EPOCH_CTRL, the MODE_SWITCH and the sampling tick, then the epoch beat by the
decision and the target. -/
theorem epochs : Obligations.Epochs := by
  unfold Obligations.Epochs
  refine ⟨?_, ?_, ?_, ?_, ?_, fun s e b => exec_epochSample, ?_, ?_, ?_, ?_, ?_⟩
  · intro s v ho he h1 ht hb
    have planned : rbit (v ||| 1#32) 2 = rbit v 2 := by simp [rbit]
    rw [exec_arm ho, epochCtrlWrite_arm (by simp [rbit]) (by simpa [rbit] using h1), planned,
      armEpoch_accepted (by exact he) ht (by exact hb)]
    rfl
  · intro s v ho h1 hc
    have planned : rbit (v ||| 1#32) 2 = rbit v 2 := by simp [rbit]
    rw [exec_arm ho, epochCtrlWrite_arm (by simp [rbit]) (by simpa [rbit] using h1), planned,
      armEpoch_rejected (by exact hc)]
    rfl
  · intro s v e hs ho he hse h0
    have hh := hdrs_of_sized hs
    have planned : rbit (v ||| 2#32) 2 = rbit v 2 := by simp [rbit]
    refine ⟨_, (exec_disarm ho).trans (congrArg _ ((epochCtrlWrite_disarm (by simpa [rbit] using h0)
      (by simp [rbit]) he hse).trans (dropEpoch_eq 0 he))), intBit_setInt _ _ _ (by decide) hh, ?_⟩
    rw [sansInt_setInt, planned]
    rfl
  · intro s v ho hc h0
    have planned : rbit (v ||| 2#32) 2 = rbit v 2 := by simp [rbit]
    rw [exec_disarm ho, epochCtrlWrite_disarm_late (by simpa [rbit] using h0) hc, planned]
    rfl
  · intro s v h0
    have arm : (v ||| 2#32) ||| 1#32 = v ||| 2#32 := or_bit_self (i := 0) (by simpa [rbit] using h0)
    simp only [exec, execDisarm, execArm, arm]
  · intro s u e a h he
    exact exec_modeSwitch_armed h he
  · intro s u a h he
    exact exec_modeSwitch_unarmed h he
  · intro s e b hs he hb hd hc hn
    have hh := hdrs_of_sized hs
    exact ⟨_, exec_epochDone_cancelled he hb hd hc hn, intBit_setInt _ _ _ (by decide) hh, sansInt_setInt _ _ _ _⟩
  · intro s e b hs he hb hd hc ht hn
    have hh := hdrs_of_sized hs
    have x := exec_epochDone_switched he hb hd hc hn
    rw [ht, targetsOf_hbm, if_neg (by decide), List.foldl_cons, List.foldl_cons, List.foldl_nil, List.foldl_nil,
      switch_hbm] at x
    refine ⟨_, x, intBit_setInt _ _ _ (by decide) ?_, ?_, ?_⟩
    · exact (hdrs_length_onHdr _ _ _).trans hh
    · rw [complete_setInt]; exact complete_cleared hh
    · rw [sansInt_setInt]; rfl
  · intro s e b hs he hb hd hc ht hn hp hf
    have hh := hdrs_of_sized hs
    have x := exec_epochDone_switched he hb hd hc hn
    rw [ht, targetsOf_ktl, if_pos (by decide), List.foldl_cons, List.foldl_cons, List.foldl_nil, List.foldl_nil,
      switch_ktl, installPlan_running (by exact hp) (by exact hf)] at x
    refine ⟨_, x, intBit_setInt _ _ _ (by decide) ?_, ?_, ?_⟩
    · exact (hdrs_length_onHdr _ _ _).trans hh
    · rw [complete_setInt]; exact complete_cleared hh
    · rw [sansInt_setInt]; rfl

end Sys2Proof.Machine

namespace Sys2Proof.Machine

/-! ## Levels of the sync inputs (R74 to R78) -/

section
variable {s : State} {n : Fin 5} {l : Nat}

theorem exec_narrow_counted {e : Nat} (hl : (s.input n.val).lead = some l) (he : (s.input n.val).ended = some e)
    (hs : (s.input n.val).stuck = false) (hj : (s.input n.val).judged = false)
    (hw : e - l < (s.input n.val).minWidth) :
    exec (.narrow n) s = .next (s.onInput n.val fun f =>
      { f with judged := true, narrow := satInc 65535 f.narrow }) := by
  simp only [exec, execNarrow, hl, he, hs, hj, hw, Bool.not_false, decide_true, Bool.and_self, if_true]

theorem qualifies_iff {f : InFilter} {up : Nat} :
    qualifies f up l = true ↔ up = qualifyAt f l ∧ ∀ e ∈ f.ended, l + f.minWidth ≤ e ∧ up ≤ e := by
  unfold qualifies
  cases f.ended <;> simp

/-- A level that qualifies is accepted where the last accepted edge lies MIN_PERIOD back. -/
theorem exec_inputQualify_accepted {f : InFilter} (hf : f = s.input n.val) (hl : f.lead = some l)
    (hs : f.stuck = false) (hj : f.judged = false) (hq : qualifies f s.up l = true)
    (ha : ∀ a ∈ f.lastAcc, a + f.minPeriod ≤ l) :
    exec (.inputQualify n) s = .next (
      let t := s.onInput n.val fun f => { f with judged := true, lastAcc := some l }
      if n.val = 4 then ppsEdge (f.lastAcc.map fun a => l - a) f.leadTs t else fsinPush n.val f.leadTs t) := by
  subst hf
  simp only [exec, execInputQualify, hl, hs, hj, hq, Bool.not_false, Bool.and_self, if_true]
  cases hacc : (s.input n.val).lastAcc with
  | none => rfl
  | some a => rw [if_neg (by simpa using ha a hacc)]

/-- Within MIN_PERIOD of the last accepted edge it is dropped. -/
theorem exec_inputQualify_dropped {f : InFilter} {a : Nat} (hf : f = s.input n.val) (hl : f.lead = some l)
    (hs : f.stuck = false) (hj : f.judged = false) (hq : qualifies f s.up l = true) (ha : f.lastAcc = some a)
    (hp : l < a + f.minPeriod) :
    exec (.inputQualify n) s = .next (
      let t := s.onInput n.val fun f =>
        { f with judged := true, dropped := satInc 65535 f.dropped, fastBeat := some s.beat }
      if f.fastBeat = some s.beat then t else setInt .ktl (12 + n.val) t) := by
  subst hf
  simp only [exec, execInputQualify, hl, hs, hj, hq, ha, hp, decide_true, Bool.not_false, Bool.and_self, if_true]

/-- An edge that is followed: the input is not STUCK. -/
theorem edgeTo_of_not_stuck {active : Bool} {up ts : Nat} {f : InFilter} (h : f.stuck = false) :
    edgeTo active up ts f = if active then { f with lead := some up, leadTs := ts, ended := none, judged := false }
      else { f with ended := some up } := by
  rw [edgeTo, if_neg (by simp [h])]

theorem edgeTo_of_stuck {active : Bool} {up ts : Nat} {f : InFilter} (h : f.stuck = true) :
    edgeTo active up ts f = { f with idleFrom := if active then none else some up } := if_pos h

theorem exec_inputEdge {b : Bool} (hp : s.power.perst = false) (hr : s.power.railsOk = true)
    (hb : (s.input n.val).level = !b) :
    exec (.inputEdge n b) s = .next (s.onInput n.val fun f =>
      edgeTo (b != f.polarity) s.up s.now { f with level := b }) := by
  have change : ¬ (s.input n.val).level = b := by simp [hb]
  simp only [exec, execInputEdge, hp, hr, change, Bool.not_true, Bool.or_self, Bool.false_eq_true, if_false]
  rfl

/-- A change of an input looks at the input that it meets. -/
theorem onInput_congr {f g : InFilter → InFilter} (h : f (s.input n.val) = g (s.input n.val)) :
    s.onInput n.val f = s.onInput n.val g := by
  have parts : updAt s.ktl.inputs n.val f = updAt s.ktl.inputs n.val g := by
    refine updAt_congr fun x hx => ?_
    rwa [State.input, List.getD_eq_getElem?_getD, hx] at h
  simp only [State.onInput, State.onKtl, parts]

theorem exec_stuck_latches (hl : (s.input n.val).lead = some l) (he : (s.input n.val).ended = none)
    (hs : (s.input n.val).stuck = false) (hm : l + (s.input n.val).maxActive ≤ s.up) :
    exec (.stuck n) s = .next (setInt .ktl (17 + n.val) (s.onInput n.val fun f =>
      { f with stuck := true, idleFrom := none, lead := none })) := by
  simp only [exec, execStuck, hl, he, hs, hm, Bool.not_false, decide_true, Bool.and_self, if_true]

theorem exec_inputRelease_due {i : Nat} (hs : (s.input n.val).stuck = true) (hi : (s.input n.val).idleFrom = some i)
    (hr : i + (s.input n.val).release ≤ s.up) :
    exec (.inputRelease n) s = .next (s.onInput n.val fun f =>
      { f with stuck := false, idleFrom := none, lead := none }) := by
  simp only [exec, execInputRelease, hs, hi, hr, decide_true, Bool.and_self, if_true]

/-- A STUCK input accepts and counts nothing (R77). -/
theorem exec_of_stuck {i : Instr} (hi : i ∈ [Instr.inputQualify n, .narrow n, .stuck n])
    (hs : (s.input n.val).stuck = true) : exec i s = .next s := by
  simp only [List.mem_cons, List.not_mem_nil, or_false] at hi
  rcases hi with rfl | rfl | rfl
  · simp only [exec, execInputQualify, hs, Bool.not_true, Bool.false_and, Bool.false_eq_true, if_false]
    split <;> rfl
  · simp only [exec, execNarrow, hs, Bool.not_true, Bool.false_and, Bool.false_eq_true, if_false]
    split <;> rfl
  · simp only [exec, execStuck, hs, Bool.not_true, Bool.false_and, Bool.false_eq_true, if_false]
    split <;> rfl

end

/-- Settles O9: the level is judged and counted, and nothing else. -/
theorem narrowLevelsAreIgnored : Obligations.NarrowLevelsAreIgnored :=
  fun _ _ _ _ => exec_narrow_counted

/-- Settles O10, event by event. -/
theorem inputPulses : Obligations.InputPulses := by
  unfold Obligations.InputPulses
  refine ⟨?_, ?_, ?_, ?_, ?_, ?_, fun s n i hi => exec_of_stuck hi⟩
  · intro s n l f hf hn hl hs hj hq he ha
    rw [exec_inputQualify_accepted hf hl hs hj (qualifies_iff.2 ⟨hq, he⟩) ha, if_neg (by omega)]
    rfl
  · intro s n l a f hs hf hl hst hj hq he ha hlt
    have hh := hdrs_of_sized hs
    have x := exec_inputQualify_dropped hf hl hst hj (qualifies_iff.2 ⟨hq, he⟩) ha hlt
    by_cases hb : f.fastBeat = some s.beat
    · rw [if_pos hb] at x
      exact ⟨_, x, fun h => absurd hb h, fun _ => ⟨rfl, rfl⟩, rfl⟩
    · rw [if_neg hb] at x
      exact ⟨_, x, fun _ => intBit_setInt _ _ _ (by omega) hh, fun h => absurd h hb, sansInt_setInt _ _ _ _⟩
  · intro s n b hp hr hb hs _
    rw [exec_inputEdge hp hr hb]
    exact congrArg Host.Outcome.next (onInput_congr (edgeTo_of_not_stuck hs))
  · intro s n l hs hl he hst hm
    have hh := hdrs_of_sized hs
    exact ⟨_, exec_stuck_latches hl he hst hm, intBit_setInt _ _ _ (by omega) hh, sansInt_setInt _ _ _ _⟩
  · intro s n b hp hr hb hs _
    rw [exec_inputEdge hp hr hb]
    exact congrArg Host.Outcome.next (onInput_congr (edgeTo_of_stuck hs))
  · intro s n i hs hi hr
    exact exec_inputRelease_due hs hi hr

end Sys2Proof.Machine

namespace Sys2Proof.Machine

/-! ## Timestamps and the pulse-per-second (R78, R79, R81, R623) -/

section
variable {s : State} {n : Fin 4}

theorem exec_ktlFsinTsRead_low (ho : barOpen s = true) :
    exec (.ktlFsinTsRead n false) s =
      .next (fsinPop n.val (s.answer (BitVec.ofNat 32 ((s.fifo n.val).ts.headD 0)))) :=
  congrArg Host.Outcome.next (hostRead_of ho)

theorem exec_ktlFsinTsRead_high (ho : barOpen s = true) :
    exec (.ktlFsinTsRead n true) s = .next (s.answer (s.fifo n.val).hi) := congrArg Host.Outcome.next (hostRead_of ho)

/-- The read of a timestamp leaves the FIFO without it, its high half in the latch. -/
theorem fifo_fsinPop {m : Nat} (h : m < s.ktl.fifos.length) : (fsinPop m s).fifo m =
    { s.fifo m with ts := (s.fifo m).ts.tail, hi := BitVec.ofNat 32 ((s.fifo m).ts.headD 0 / 2 ^ 32) } := by
  simp [fsinPop, State.onFifo, State.onKtl, State.fifo, updAt, h]

/-- A change of a FIFO looks at the FIFO that it meets. -/
theorem onFifo_congr {m : Nat} {f g : TsFifo → TsFifo} (h : f (s.fifo m) = g (s.fifo m)) :
    s.onFifo m f = s.onFifo m g := by
  have parts : updAt s.ktl.fifos m f = updAt s.ktl.fifos m g := by
    refine updAt_congr fun x hx => ?_
    rwa [State.fifo, List.getD_eq_getElem?_getD, hx] at h
  simp only [State.onFifo, State.onKtl, parts]

theorem fsinPop_eq {m : Nat} (h : m < s.ktl.fifos.length) : fsinPop m s =
    s.onFifo m fun f => { f with ts := f.ts.tail, hi := ((fsinPop m s).fifo m).hi } := by
  rw [fifo_fsinPop h]
  exact onFifo_congr rfl

theorem fifos_length_of_sized (hs : sized s = true) : s.ktl.fifos.length = 4 := by
  simp only [sized_eq, Ktl.sized, Bool.and_eq_true, beq_iff_eq] at hs
  simp only [hs]

theorem leNat_halves {v : Nat} (h : v < 2 ^ 64) :
    leNat (leBytes 4 (BitVec.ofNat 32 v).toNat) + leNat (leBytes 4 (BitVec.ofNat 32 (v / 2 ^ 32)).toNat) * 2 ^ 32 =
      v := by
  simp only [leNat_leBytes_four, BitVec.toNat_ofNat]
  omega

theorem exec_ppsLost_due (hp : s.power.booted = true) (hr : s.ktl.ppsRef + 2200000000 ≤ s.up)
    (hs : s.ktl.ppsLostSent = false) :
    exec .ppsLost s = .next (setInt .ktl 22 (s.onKtl fun k => { k with ppsLock := false, ppsLostSent := true })) := by
  simp only [exec, execPpsLost, hp, hr, hs, Bool.not_false, and_self, if_true]

/-- PPS_OUT goes active at its phase tick in FREE mode, at its echo in ECHO mode. -/
theorem exec_ppsOutPulse_due (hp : s.power.booted = true)
    (h : s.ktl.ppsMode = 1 ∧ (s.now + 4400000000 - s.ktl.ppsPhase) % 1100000000 = 0 ∨
      s.ktl.ppsMode = 2 ∧ s.ktl.ppsEcho = some s.up) :
    exec .ppsOutPulse s = .next { s with ktl := { s.ktl with
      ppsOutEnd := some (s.up + s.ktl.ppsWidth), ppsEcho := none } } := by
  simp only [exec, execPpsOutPulse]
  rw [if_pos]
  · rfl
  · rcases h with ⟨hm, ht⟩ | ⟨hm, ht⟩
    · simp [hp, hm, ht]
    · simp [hp, hm, ht, State.up]

theorem exec_ppsOutPulseEnd_due {e : Nat} (he : s.ktl.ppsOutEnd = some e) (h : e ≤ s.up) :
    exec .ppsOutPulseEnd s = .next { s with ktl := { s.ktl with ppsOutEnd := none } } := by
  simp only [exec, execPpsOutPulseEnd, he, h, if_true]
  rfl

end

/-- Settles O11: the reads, PPS_IN by the interval from the edge before, then PPS_OUT. -/
theorem timestampsAndPps : Obligations.TimestampsAndPps := by
  unfold Obligations.TimestampsAndPps
  refine ⟨?_, ?_, ?_, ?_, ?_, fun s e => exec_ppsOutPulseEnd_due⟩
  · intro s n hs ho
    have room : n.val < s.ktl.fifos.length := by rw [fifos_length_of_sized hs]; exact n.isLt
    refine ⟨_, _, exec_ktlFsinTsRead_low ho, exec_ktlFsinTsRead_high (by exact ho), fun hv => ?_,
      fsinPop_eq (by exact room), rfl⟩
    rw [fifo_fsinPop (by exact room)]
    exact leNat_halves hv
  · intro s l f k hf hl hst hj hq he ha hk
    rw [exec_inputQualify_accepted hf hl hst hj (qualifies_iff.2 ⟨hq, he⟩) ha,
      if_pos (show (4 : Fin 5).val = 4 from rfl), hk]
    cases f.lastAcc <;> rfl
  · intro s hs hp hr hl
    have hh := hdrs_of_sized hs
    exact ⟨_, exec_ppsLost_due hp hr hl, intBit_setInt _ _ _ (by decide) hh, sansInt_setInt _ _ _ _⟩
  · intro s hp hm hph ht
    exact exec_ppsOutPulse_due hp (.inl ⟨hm, by omega⟩)
  · intro s hp hm he
    exact exec_ppsOutPulse_due hp (.inr ⟨hm, he⟩)

end Sys2Proof.Machine

namespace Sys2Proof.Machine

/-! ## One step on an empty queue (R44, R70, R112, R434)

The end of a saved job, of a takeover and of the tiles of a failed core leave the Kettle as it is: each function
on the way to `coreMemFailures` has its rule. -/

theorem ktl_foldl {α : Type} {f : State → α → State} (h : ∀ t a, (f t a).ktl = t.ktl) (l : List α)
    (s : State) : (l.foldl f s).ktl = s.ktl := foldl_keeps State.ktl f h l s

@[simp] theorem ktl_dropRec (n : Nat) (s : State) : (dropRec n s).ktl = s.ktl := by
  simp [dropRec, apply_ite State.ktl]

@[simp] theorem ktl_handOff (who ring : Nat) (cpl : Bool) (bytes : List Byte) (s : State) :
    (handOff who ring cpl bytes s).ktl = s.ktl := by
  simp [handOff, apply_ite State.ktl]

@[simp] theorem ktl_mseRunEndAt (n hit : Nat) (s : State) : (mseRunEndAt n hit s).ktl = s.ktl := by
  simp [mseRunEndAt, apply_ite State.ktl]

@[simp] theorem ktl_mseRunEnd (hit : Nat) (s : State) : (mseRunEnd hit s).ktl = s.ktl :=
  ktl_foldl (fun t n => by simp [apply_ite State.ktl]) _ s

@[simp] theorem ktl_endRun (n : Nat) (j : Job) (st : JobStore) (sat : List Nat) (s : State) :
    (endRun n j st sat s).ktl = s.ktl := by
  simp [endRun, apply_ite State.ktl, ktl_foldl]

@[simp] theorem ktl_handComplete (j : Job) (x : CplNote) (s : State) : (handComplete j x s).ktl = s.ktl := by
  simp [handComplete]

@[simp] theorem ktl_complete (j : Job) (x : CplNote) (s : State) : (complete j x s).ktl = s.ktl := by
  simp [complete, apply_ite State.ktl]

@[simp] theorem ktl_freeFrame (n f : Nat) (s : State) : (freeFrame n f s).ktl = s.ktl := rfl

@[simp] theorem ktl_discardSaved (c k : Nat) (s : State) : (discardSaved c k s).ktl = s.ktl := by
  unfold discardSaved endSaved
  split <;> simp

@[simp] theorem ktl_becomeAbsent (n : Nat) (s : State) : (becomeAbsent n s).ktl = s.ktl := by
  simp [becomeAbsent, ktl_foldl]

@[simp] theorem ktl_settleLost (n : Nat) (s : State) : (settleLost n s).ktl = s.ktl := by
  simp [settleLost, apply_ite State.ktl]

@[simp] theorem ktl_startTakeover (n cause : Nat) (s : State) : (startTakeover n cause s).ktl = s.ktl := by
  simp [startTakeover, apply_ite State.ktl]

@[simp] theorem ktl_coreFailed (n cause : Nat) (mi : Option Nat) (s : State) :
    (coreFailed n cause mi s).ktl = s.ktl := by
  simp [coreFailed]

theorem ktl_coreMemFailures (s : State) : (coreMemFailures s).ktl = s.ktl := by
  unfold coreMemFailures
  split
  · exact ktl_foldl (fun t n => by simp [apply_ite State.ktl]) _ s
  · rfl

/-- Without a failed core memory a tick starts no takeover. -/
theorem coreMemFailures_none {s : State} (h : ∀ n < 24, (s.core n).memFail = false) : coreMemFailures s = s := by
  have still : ∀ l : List Nat, (∀ n ∈ l, n < 24) → l.foldl (fun s n =>
      if (s.core n).memFail then coreFailed n 1 none (s.onCore n fun x => { x with memFail := false })
      else s) s = s := by
    intro l hl
    induction l with
    | nil => rfl
    | cons n l ih =>
      rw [List.foldl_cons, if_neg (by simp [h n (hl n List.mem_cons_self)]),
        ih fun m hm => hl m (List.mem_cons_of_mem n hm)]
  unfold coreMemFailures
  split
  · exact still _ fun n hn => List.mem_range.1 hn
  · rfl

theorem step_front (s : State) (c : Instr) (rest : List Instr) :
    step { s with pending := c :: rest } = exec c { s with pending := rest } := rfl

theorem step_idle {s : State} (h : s.pending = []) : step s = .next (tick s) := by rw [step, h]

theorem tick_ktl (s : State) : (tick s).ktl = (countTick s).ktl := ktl_coreMemFailures _

/-- Settles O56: what a tick does to the Kettle stands whatever takeover begins at it, and without a failed core
memory none begins. -/
theorem stepRunsTheFront : Obligations.StepRunsTheFront := by
  unfold Obligations.StepRunsTheFront
  refine ⟨step_front, ?_, ?_⟩
  · intro s h
    exact ⟨_, step_idle h, congrArg Ktl.up (tick_ktl s), congrArg Ktl.count (tick_ktl s),
      congrArg Ktl.fsync (tick_ktl s)⟩
  · intro s h hm
    rw [step_idle h, tick, coreMemFailures_none (by exact hm)]
    rfl

/-! ## Takeovers counted beyond their register (R560) -/

theorem setInt_mgt (p : Page) (i : Nat) (s : State) : (setInt p i s).mgt = s.mgt := by
  have h := congrArg State.mgt (setInt_int p i s); exact h

theorem takeovers_logFault (p : Page) (b c : Nat) (d : W32) (s : State) :
    (logFault p b c d s).mgt.takeovers = s.mgt.takeovers := by
  simp only [logFault, setInt_mgt, State.onHif_mgt, State.onMgt_mgt]

/-- A map update counts the takeover in the 8 bits of its register. -/
theorem takeovers_engage (u : Unit') (sp : Nat) (s : State) :
    (engage u sp s).mgt.takeovers = satInc 255 s.mgt.takeovers := by
  simp only [engage, takeovers_logFault, setInt_mgt, State.takeFree_mgt, State.onMgt_mgt]
  cases u <;> rfl

/-- A decoder core whose spare has passed its test is engaged at tick 0 of a beat that no epoch takes. -/
theorem exec_spareEngaged_dec {s : State} {n : Fin 8} {x : Takeover} {sp : Nat}
    (hx : takeoverOf s (.dec n) = some x) (hm : x.stage = .mapping) (hd : x.saveDone = true)
    (hsp : x.spare = some sp) (hn : s.now % 1100 = 0) (he : s.ktl.epoch = none) (hl : s.ktl.epochLast ≠ some s.up) :
    exec (.spareEngaged (.dec n)) s = .next (engage (.dec n) sp s) := by
  have apart : (s.ktl.epochLast == some s.up) = false := by simpa using hl
  simp only [exec, execSpareEngaged, hx, hsp, hm, hd, hn, he, apart, and_self, if_true]

/-- A takeover of decoder core 0 by physical core 8, ready for its map update. -/
def readyTakeover : Takeover :=
  { target := .dec 0, cause := 5, detected := 0, failed := 0, spare := some 8, stage := .mapping, goodAt := 0
    saveDone := true, hasJob := false, mapBeat := none }

/-- That takeover at tick 0, with a count that the 8 bits of TAKEOVERS cannot hold. -/
def overcounted : State := { State.reset with mgt := { takeovers := 256, takeover := [readyTakeover] } }

/-- Refutes O50: a takeover that ends at a count of 256 leaves that count, where the statement has 255;
MGT_SPARE_STATUS.TAKEOVERS cannot hold it, but the statement's conditions allow it. -/
theorem not_sparesAndDefects : ¬ Obligations.SparesAndDefects := by
  unfold Obligations.SparesAndDefects
  rintro ⟨-, -, -, -, -, -, engaged, -⟩
  obtain ⟨t, ht, -, -, -, count, -⟩ := engaged overcounted (.dec 0) readyTakeover 8 sized_reset rfl rfl rfl rfl rfl
    rfl (by rintro e ⟨⟩) (fun _ => by decide) rfl rfl rfl
  rw [exec_spareEngaged_dec (x := readyTakeover) rfl rfl rfl rfl rfl rfl (by decide)] at ht
  cases ht
  rw [takeovers_engage] at count
  exact absurd count (by decide)

end Sys2Proof.Machine

namespace Sys2Proof.Machine

/-! ## One core of the part -/

/-- A change that leaves the part it meets as it is changes nothing. -/
theorem updAt_self {α : Type} {l : List α} {i : Nat} {f : α → α} (h : ∀ x, l[i]? = some x → f x = x) :
    updAt l i f = l := by
  rw [updAt_congr (g := id) h]
  exact List.modify_id i l

section
variable {s : State} {n : Nat} {f g : Core → Core}

theorem core_eq (s : State) (n : Nat) : s.core n = s.cores[n]?.getD {} := List.getD_eq_getElem?_getD ..

theorem cores_onCore (s : State) (n : Nat) (f : Core → Core) : (s.onCore n f).cores = updAt s.cores n f := rfl

theorem core_of_getElem? {x : Core} (h : s.cores[n]? = some x) : s.core n = x := by
  rw [core_eq, h, Option.getD_some]

theorem onCore_onCore (s : State) (n : Nat) (f g : Core → Core) :
    (s.onCore n f).onCore n g = s.onCore n (g ∘ f) := by
  simp only [State.onCore, updAt_updAt]

theorem onCore_congr (h : f (s.core n) = g (s.core n)) : s.onCore n f = s.onCore n g := by
  have same : updAt s.cores n f = updAt s.cores n g := updAt_congr fun x hx => by rwa [core_of_getElem? hx] at h
  simp only [State.onCore, same]

theorem onCore_self (h : f (s.core n) = s.core n) : s.onCore n f = s := by
  have same : updAt s.cores n f = s.cores := updAt_self fun x hx => by rwa [core_of_getElem? hx] at h
  simp only [State.onCore, same]

theorem core_onCore_ne {k : Nat} (h : k ≠ n) : (s.onCore n f).core k = s.core k := by
  rw [core_eq, core_eq, cores_onCore, updAt, List.getElem?_modify_ne _ _ (Ne.symm h)]

theorem core_onCore (h : n < s.cores.length) : (s.onCore n f).core n = f (s.core n) := by
  rw [core_eq, core_eq, cores_onCore, updAt, List.getElem?_modify_eq, List.getElem?_eq_getElem h]
  rfl

/-- A core that differs from the table's default is one of the part's. -/
theorem core_present (h : s.core n ≠ {}) : n < s.cores.length := by
  by_contra hn
  exact h (by rw [core_eq, List.getElem?_eq_none (Nat.not_lt.1 hn), Option.getD_none])

theorem present_of_job {j : Job} (h : (s.core n).job = some j) : n < s.cores.length :=
  core_present fun e => by rw [e] at h; cases h

theorem coreSrc_ne_bar2 : coreSrc n ≠ .bar2 := by simp [coreSrc]

end

/-! ## The job at a macroinstruction (R114, R158 to R160, R438) -/

section
variable {s : State} {n : Nat} {j : Job}

theorem onJob_of_job (f : Job → Job) (hj : (s.core n).job = some j) :
    onJob n f s = s.onCore n fun x => { x with job := some (f j) } :=
  onCore_congr (by simp [hj])

/-- What stands when the sequencer may take the oldest macroinstruction. -/
theorem atMacro_some {op m : Nat} (h : atMacro s n op = some (j, m)) :
    (s.core n).job = some j ∧ issuing (s.core n) = true := by
  unfold atMacro at h
  simp only at h
  split at h
  · next k hk =>
    split at h
    · next hc =>
      cases h
      simp only [Bool.and_eq_true] at hc
      exact ⟨hk, hc.1.1⟩
    · cases h
  · cases h

/-- A job that passes its boundary has begun its macroinstruction, and nothing else happens. -/
theorem boundary_of_passes (hj : (s.core n).job = some j) (hp : passes s n j = true) :
    boundary n s = (true, s.onCore n fun x => { x with job := some { j with begun := true } }) := by
  have begin_ : onJob n (fun j => { j with begun := true }) s =
      s.onCore n fun x => { x with job := some { j with begun := true } } := onJob_of_job _ hj
  simp only [passes, Bool.or_eq_true, Bool.and_eq_true, Bool.not_eq_true'] at hp
  simp only [boundary, hj]
  split
  · next hb =>
    have same : s.onCore n (fun x => { x with job := some { j with begun := true } }) = s :=
      onCore_self (by rw [← hb, ← hj])
    rw [same]
  · next hb =>
    split
    · rw [begin_]
    · next hf =>
      obtain ⟨hm, hy⟩ := hp.resolve_left (by simp [hb, hf])
      simp [hm, hy, begin_]

/-- With accounting off the end of the oldest macroinstruction moves the job on and does nothing else. -/
theorem advance_off (hj : (s.core n).job = some j) (ha : rbit s.hif.acctLo 0 = false) :
    advance n s = s.onCore n fun x => { x with job := some (afterMacro s.up j) } := by
  have charged : chargeArray n s = s.onCore n fun x => { x with job := some { j with acctTick := s.up } } := by
    simp only [chargeArray, hj]
    rw [account_off (by exact ha)]
    exact onJob_of_job (fun j => { j with acctTick := s.up }) hj
  rw [advance, charged, onJob, onCore_onCore]
  rfl

/-- Where a job stands after a macroinstruction does not depend on whether that one had begun. -/
@[simp] theorem afterMacro_begun (up : Nat) (j : Job) (b : Bool) :
    afterMacro up { j with begun := b } = afterMacro up j := by
  simp only [afterMacro, Job.next]

/-- Without a macroinstruction in progress behind it a job is at the start of the next one. -/
theorem afterMacro_alone (up : Nat) {j : Job} (h : ∀ a ∈ j.ahead, a.mi ≠ j.mi + 1) :
    afterMacro up j = { j with acctTick := up, mi := j.mi + 1, progress := 0, tile := 0, begun := false } := by
  have none_ : j.ahead.find? (·.mi == j.mi + 1) = none := by simpa [List.find?_eq_none] using h
  simp only [afterMacro, Job.next, none_]

end

/-! ## WAIT_BEAT (R103, R158) -/

theorem waitTarget_of_waitsFor {s : State} {j : Job} {m b : Nat} (h : waitsFor s j m b = true) :
    waitTarget s j m = some b := by
  unfold waitsFor at h
  unfold waitTarget
  simp only
  split at h
  · next hb => rw [if_pos hb, beq_iff_eq.1 h]
  · next hb =>
    simp only [Bool.and_eq_true, Bool.or_eq_true, beq_iff_eq] at h
    rw [if_neg hb, if_pos h.1, h.2]

section
variable {s : State} {n : Fin 24} {j : Job} {m b : Nat}

theorem exec_waitBeat (ha : atMacro s n.val opWait = some (j, m)) (hp : passes s n.val j = true) :
    exec (.waitBeat n) s = .next (waitBegin n.val j m
      (s.onCore n.val fun x => { x with job := some { j with begun := true } })) := by
  simp only [exec, execWaitBeat, ha, boundary_of_passes (atMacro_some ha).1 hp]

/-- A core whose plane chain has ended, with job `k`. -/
def chainEnded (k : Job) (x : Core) : Core := { x with chain := none, codebook := none, ring := 0, job := some k }

theorem endChain_onCore_job (s : State) (n : Nat) (k : Job) :
    endChain n (s.onCore n fun x => { x with job := some k }) = s.onCore n (chainEnded k) :=
  onCore_onCore s n _ _

theorem advance_chainEnded {s : State} {n : Nat} {j : Job} (hj : (s.core n).job = some j)
    (off : rbit s.hif.acctLo 0 = false) (k : Job) :
    advance n (s.onCore n (chainEnded k)) = s.onCore n (chainEnded (afterMacro s.up k)) := by
  have job : ((s.onCore n (chainEnded k)).core n).job = some k := by
    rw [core_onCore (present_of_job hj)]; rfl
  rw [advance_off job off, onCore_onCore]
  rfl

theorem onJob_chainEnded {s : State} {n : Nat} {j : Job} (hj : (s.core n).job = some j) (f : Job → Job) (k : Job) :
    onJob n f (s.onCore n (chainEnded k)) = s.onCore n (chainEnded (f k)) := by
  have job : ((s.onCore n (chainEnded k)).core n).job = some k := by
    rw [core_onCore (present_of_job hj)]; rfl
  rw [onJob_of_job f job, onCore_onCore]
  rfl

/-- WAIT_BEAT before its tick waits. -/
theorem exec_waitBeat_early (ha : atMacro s n.val opWait = some (j, m)) (hp : passes s n.val j = true)
    (hw : waitsFor s j m b = true) (ht : s.now < b * 1100) :
    exec (.waitBeat n) s = .next (s.onCore n.val fun x =>
      { chainEnded { j with begun := true } x with wait := some (b * 1100) }) := by
  rw [exec_waitBeat ha hp, waitBegin, endChain_onCore_job]
  have target : waitTarget (s.onCore n.val (chainEnded { j with begun := true })) j m = some b :=
    waitTarget_of_waitsFor hw
  have early : (s.onCore n.val (chainEnded { j with begun := true })).now < b * 1100 := ht
  simp only [target, early, if_true, onCore_onCore]
  rfl

/-- WAIT_BEAT at its tick or later lets the job go on. -/
theorem exec_waitBeat_due (ha : atMacro s n.val opWait = some (j, m)) (hp : passes s n.val j = true)
    (off : rbit s.hif.acctLo 0 = false) (hw : waitsFor s j m b = true) (ht : b * 1100 ≤ s.now) :
    exec (.waitBeat n) s = .next (s.onCore n.val
      (chainEnded (afterMacro s.up { j with lateBeat := j.lateBeat || decide (b * 1100 < s.now) }))) := by
  rw [exec_waitBeat ha hp, waitBegin, endChain_onCore_job]
  have target : waitTarget (s.onCore n.val (chainEnded { j with begun := true })) j m = some b :=
    waitTarget_of_waitsFor hw
  have due : ¬ (s.onCore n.val (chainEnded { j with begun := true })).now < b * 1100 := Nat.not_lt.2 ht
  simp only [target, due, if_false]
  split
  · next now_ =>
    have inTime : decide (b * 1100 < s.now) = false := decide_eq_false (Nat.not_lt.2 (Nat.le_of_eq now_))
    rw [advance_chainEnded (atMacro_some ha).1 off, afterMacro_begun, inTime, Bool.or_false]
  · next late =>
    have past : decide (b * 1100 < s.now) = true := decide_eq_true (Nat.lt_of_le_of_ne ht (Ne.symm late))
    rw [onJob_chainEnded (atMacro_some ha).1, advance_chainEnded (atMacro_some ha).1 off, past, Bool.or_true]
    exact congrArg (fun k => Host.Outcome.next (s.onCore n.val (chainEnded k)))
      (afterMacro_begun s.up { j with lateBeat := true } true)

/-- WAIT_BEAT of a plan cycle with no plan running lets the job go on, late. -/
theorem exec_waitBeat_noPlan (ha : atMacro s n.val opWait = some (j, m)) (hp : passes s n.val j = true)
    (off : rbit s.hif.acctLo 0 = false) (hb : bitAt (mP0 m) 32 = false) (hr : s.ktl.planState ≠ .running)
    (hs : s.ktl.planState ≠ .stopping) :
    exec (.waitBeat n) s = .next (s.onCore n.val (chainEnded (afterMacro s.up { j with lateBeat := true }))) := by
  rw [exec_waitBeat ha hp, waitBegin, endChain_onCore_job]
  have target : waitTarget (s.onCore n.val (chainEnded { j with begun := true })) j m = none := by
    simp [waitTarget, hb, State.onCore, hr, hs]
  simp only [target]
  rw [onJob_chainEnded (atMacro_some ha).1, advance_chainEnded (atMacro_some ha).1 off]
  exact congrArg (fun k => Host.Outcome.next (s.onCore n.val (chainEnded k)))
    (afterMacro_begun s.up { j with lateBeat := true } true)

/-- The resume at the awaited tick or later lets the job go on. -/
theorem exec_waitBeatResume_due (hj : (s.core n.val).job = some j) (hr : (s.core n.val).phase = .run)
    (hs : (s.core n.val).stopWhy = .none) (hw : (s.core n.val).wait = some b) (off : rbit s.hif.acctLo 0 = false)
    (ht : b ≤ s.now) :
    exec (.waitBeatResume n) s =
      .next (s.onCore n.val fun x => { x with wait := none, job := some (afterMacro s.up j) }) := by
  have job : ((s.onCore n.val fun x => { x with wait := none }).core n.val).job = some j := by
    rw [core_onCore (present_of_job hj)]; exact hj
  simp only [exec, execWaitBeatResume, hw, hr, hs, ht, and_self, if_true]
  rw [advance_off job off, onCore_onCore]
  rfl

theorem exec_waitBeatResume_early (hw : (s.core n.val).wait = some b) (ht : s.now < b) :
    exec (.waitBeatResume n) s = .next s := by
  simp [exec, execWaitBeatResume, hw, Nat.not_le.2 ht]

end

/-- Settles O13: the wait by its tick, the resume by its tick, and the job after a macroinstruction that had
none in progress behind it. -/
theorem waitBeatWaits : Obligations.WaitBeatWaits := by
  unfold Obligations.WaitBeatWaits
  refine ⟨?_, ?_, ?_, ?_, ?_, ?_⟩
  · intro s n j m b ha hp hw ht
    exact exec_waitBeat_early ha hp hw ht
  · intro s n j m b off ha hp hw ht
    exact exec_waitBeat_due ha hp off hw ht
  · intro s n j m off ha hp hb hr hs
    exact exec_waitBeat_noPlan ha hp off hb hr hs
  · intro s n j b off hj hr hs hw ht
    exact exec_waitBeatResume_due hj hr hs hw off ht
  · intro s n b hw ht
    exact exec_waitBeatResume_early hw ht
  · intro up j h
    exact afterMacro_alone up h

end Sys2Proof.Machine

namespace Sys2Proof.Machine

/-! ## Accounting over a memory that is not in canonical form (R440, R441; log entry 3) -/

section
variable {s : State} {n : Fin 24} {j : Job} {m : Nat}

theorem exec_fence (ha : atMacro s n.val opFence = some (j, m)) (hp : passes s n.val j = true) :
    exec (.fence n) s = .next (advance n.val (s.onCore n.val (chainEnded { j with begun := true }))) := by
  simp only [exec, execFence, ha, boundary_of_passes (atMacro_some ha).1 hp, endChain_onCore_job]

end

/-- A job past the boundary of its macroinstruction, with every tick since reset to charge. -/
def fencingJob : Job := { ctx := 0, slot := 0, startTick := 0, heldFrom := 0, begun := true }

/-- Accounting is enabled at address 0. Its total, 1, stands in the list of bytes behind a higher address, and core
0 is at a FENCE with 255 ticks to charge. -/
def unorderedMemory : State :=
  { State.reset with
    mem := [(8, 1), (0, 1)], ktl := { up := 255 }, hif := { acctLo := 1 }
    cores := [{ phase := .run, store := { macros := [opFence] }, job := some fencingJob }] }

/-- The byte 0 of the new total 256 is kept by leaving the address out of the list, where the old byte 1 still
stands. -/
theorem total_unorderedMemory :
    peekNat (advance (0 : Fin 24).val (unorderedMemory.onCore (0 : Fin 24).val (chainEnded fencingJob))) 0 8 = 257 := by
  decide +kernel

/-- Refutes O14: its accounting clause does not ask for the canonical form of memory (which every step keeps, O58).
Over a list of bytes whose addresses do not rise, a FENCE that charges 255 ticks to a total of 1 leaves 257. -/
theorem not_signalFenceEnd : ¬ Obligations.SignalFenceEnd := by
  unfold Obligations.SignalFenceEnd
  rintro ⟨-, -, fence, -⟩
  obtain ⟨t, ht, total, -⟩ := fence unorderedMemory 0 fencingJob opFence 0 rfl rfl rfl rfl (by decide) rfl
  have fenced : advance (0 : Fin 24).val (unorderedMemory.onCore (0 : Fin 24).val (chainEnded fencingJob)) = t :=
    Host.Outcome.next.inj
      ((exec_fence (s := unorderedMemory) (j := fencingJob) (m := opFence) rfl rfl).symm.trans ht)
  have old : peekNat unorderedMemory 0 8 = 1 := by decide +kernel
  have charged : unorderedMemory.up - fencingJob.acctTick = 255 := rfl
  rw [← fenced, total_unorderedMemory, old, charged] at total
  exact absurd total (by decide)

end Sys2Proof.Machine

namespace Sys2Proof.Machine

/-! ## A micro-step of the arrays (R180) -/

/-- A unit turns to a macroinstruction of its own, of a job that issues micro-steps. -/
theorem unitTurn_some {x : Core} {u mi : Nat} (h : unitTurn x u = some mi) :
    (∃ j, x.job = some j) ∧ issuing x = true ∧ unitOf (mOp (macroAt x mi)) = u := by
  unfold unitTurn at h
  split at h
  · next j hj =>
    split at h
    · next hc =>
      simp only [Bool.and_eq_true] at hc
      have found := List.find?_some h
      simp only [Bool.and_eq_true, beq_iff_eq] at found
      exact ⟨⟨j, hj⟩, hc.1, found.1⟩
    · cases h
  · cases h

theorem turn_arrays {s : State} {n mi : Nat} (h : unitTurn (s.core n) 0 = some mi) :
    turn s n (arrOpNow s n) = some (mi, macroAt (s.core n) mi) := by
  simp only [turn, arrOpNow, h, (unitTurn_some h).2.2, if_true]

section
variable {s : State} {n mi : Nat} {w : Walk}

/-- With a tile open a micro-step works on it, whatever stands at the next boundary. -/
theorem micro_open (f : Arr → Walk → State → State) (ht : unitTurn (s.core n) 0 = some mi)
    (hw : (s.core n).walk = some w) : micro n f s = f (arrOf n (s.core n) mi) w s := by
  simp only [micro, arrStart, turn_arrays ht, hw, Option.isSome_some, if_true, (unitTurn_some ht).2.1]

theorem present_of_walk (hw : (s.core n).walk = some w) : n < s.cores.length :=
  core_present fun e => by rw [e] at hw; cases hw

end

/-! ## PLANE_LOAD (R98, R100 to R103, R211) -/

section
variable {s : State} {n : Fin 24} {mi : Nat} {a : Arr} {w : Walk} {x : Core}

theorem exec_planeLoad (hx : x = s.core n.val) (ht : unitTurn x 0 = some mi) (ha : a = arrOf n.val x mi)
    (hw : x.walk = some w) (hl : w.loaded = false) : exec (.planeLoad n) s = .next (loadStep a w s) := by
  subst hx ha
  simp only [exec, execPlaneLoad, micro_open _ ht hw, hl, Bool.false_eq_true, if_false]

end

theorem planeOf_putPlane (p : Nat) (v : Plane) (x : Core) : planeOf (putPlane p v x) p = v := by
  unfold planeOf putPlane
  split <;> rfl

/-- A load leaves the plane of the pass before as it was. -/
theorem planeOf_putPlane_other {p : Nat} (h : p ≤ 1) (v : Plane) (x : Core) :
    planeOf (putPlane (1 - p) v x) p = planeOf x p := by
  obtain rfl | rfl : p = 0 ∨ p = 1 := by omega
  · rfl
  · rfl

section
variable (p : Nat) (v : Plane) (x : Core)
@[simp] theorem stall_putPlane : (putPlane p v x).stall = x.stall := by unfold putPlane; split <;> rfl
@[simp] theorem job_putPlane : (putPlane p v x).job = x.job := by unfold putPlane; split <;> rfl
@[simp] theorem ring_putPlane : (putPlane p v x).ring = x.ring := by unfold putPlane; split <;> rfl
@[simp] theorem phase_putPlane : (putPlane p v x).phase = x.phase := by unfold putPlane; split <;> rfl
end

/-- A core `y` after the load of a block behind the pass of the chain `c`: the block is in the other plane than that
pass's, and the arrays have stalled for as long as it was not ready when that pass had entered. -/
def blockLoaded (a : Arr) (s : State) (x : Core) (w : Walk) (c : Chain) (y : Core) : Core :=
  { putPlane (1 - c.plane) (a.plane s x (a.blk w.kr w.cb) w.cb) { y with
      stall := y.stall + BitVec.ofNat 64 (a.spacing s x (a.blk w.kr w.cb) w.cb - c.rows)
      codebook := a.cbAfter s x (a.blk w.kr w.cb) w.cb } with
    chain := some { per := a.perArray x (a.blk w.kr w.cb) w.g, six := a.six s
                    blk := a.blkId w.kr w.cb, mi := a.mi, plane := 1 - c.plane }
    walk := some { w with loaded := true, row := 0, plane := 1 - c.plane } }

section
variable {s : State} {a : Arr} {w : Walk} {x : Core} {c : Chain} (hx : x = s.core a.n)
include hx

/-- A pass of the block that the chain holds begins without a load. -/
theorem loadStep_same (hc : x.chain = some c) (hb : c.blk = a.blkId w.kr w.cb) (hm : a.mi ≤ c.mi + 1) :
    loadStep a w s = s.onCore a.n fun y => { y with
      chain := some (c.extend (a.perArray y (a.blk w.kr w.cb) w.g) (a.six s) a.mi)
      walk := some { w with loaded := true, row := 0, plane := c.plane } } := by
  subst hx
  simp only [loadStep, hc, hb, hm, Option.filter, beq_self_eq_true, decide_true, Bool.and_self, if_true, beginPass]
  exact onCore_congr rfl

/-- Another block than the chain's is loaded, when its operands can be read and its tags agree. -/
theorem loadStep_other (hc : ∀ c, x.chain = some c → c.blk ≠ a.blkId w.kr w.cb)
    (hr : rangesFail a.n s (a.loadRanges x (a.blk w.kr w.cb) w.cb) = none)
    (hs : a.loadSkew s (a.blk w.kr w.cb) w.cb = none) : loadStep a w s = loadPlane a w s := by
  have other : (x.chain.filter fun c => c.blk == a.blkId w.kr w.cb && decide (a.mi ≤ c.mi + 1)) = none := by
    cases hx : x.chain with
    | none => rfl
    | some c => simp [Option.filter, hc c hx]
  subst hx
  simp only [loadStep, other, hr, hs]

/-- The first block of a chain goes to plane 0 and stalls nothing. -/
theorem loadPlane_first (hc : x.chain = none) :
    loadPlane a w s = s.onCore a.n fun y => { y with
      plane0 := a.plane s y (a.blk w.kr w.cb) w.cb
      codebook := a.cbAfter s y (a.blk w.kr w.cb) w.cb
      chain := some { per := a.perArray y (a.blk w.kr w.cb) w.g, six := a.six s
                      blk := a.blkId w.kr w.cb, mi := a.mi, plane := 0 }
      walk := some { w with loaded := true, row := 0, plane := 0 } } := by
  subst hx
  simp only [loadPlane, hc, beginPass, onCore_onCore]
  exact onCore_congr (by simp [putPlane])

/-- A later block goes to the other plane. -/
theorem loadPlane_next (hc : x.chain = some c) : loadPlane a w s = s.onCore a.n (blockLoaded a s x w c) := by
  subst hx
  have late : max c.rows (a.spacing s (s.core a.n) (a.blk w.kr w.cb) w.cb) - c.rows =
      a.spacing s (s.core a.n) (a.blk w.kr w.cb) w.cb - c.rows := by omega
  simp only [loadPlane, hc, beginPass, onCore_onCore, late]
  exact onCore_congr rfl

end

/-! ## ROW_ENTRY (R90 to R96, R180, R660) -/

/-- After the row of index `i` the open pass goes on with its next unmasked row, or is over. -/
def afterRow (a : Arr) (x : Core) (w : Walk) (i : Nat) (s : State) : State :=
  match nextRow a x w.g (i + 1) with
  | some k => s.onCore a.n fun x => { x with walk := some { w with row := k } }
  | none => passDone a w s

section
variable {s : State} {n : Fin 24} {mi : Nat} {a : Arr} {w : Walk} {x : Core}

theorem exec_rowEntry (p : Option (Fin 32)) (hx : x = s.core n.val) (ht : unitTurn x 0 = some mi)
    (ha : a = arrOf n.val x mi) (hw : x.walk = some w) (hl : w.loaded = true) :
    exec (.rowEntry n p) s = .next (rowStep a w p s) := by
  subst hx ha
  simp only [exec, execRowEntry, micro_open _ ht hw, hl, if_true]

end

section
variable {s : State} {a : Arr} {w : Walk} {i : Nat} {x : Core} (hx : x = s.core a.n)
  (hi : nextRow a x w.g w.row = some i) (hh : slotsHeld a x w s = false)
include hx hi hh

/-- A row of an empty pass enters without effect on the accumulators. -/
theorem rowStep_empty (hp : (planeOf x w.plane).parity.all id = true) (he : (a.blk w.kr w.cb).empty = true) :
    rowStep a w none s = afterRow a x w i s := by
  subst hx
  simp only [rowStep, hi, hh, he, hp, Bool.false_eq_true, if_false, if_true]
  rfl

variable (he : (a.blk w.kr w.cb).empty = false) (hr : rangesFail a.n s (a.rowReads s x w i) = none)
  (hs : (a.rowScale s (a.blk w.kr w.cb) (a.firstRow w.g + i)).all (fun k => k.2.2 == k.1 % 256) = true)
include he hr hs

/-- A row whose operands can be read, and whose scale agrees with its tag, adds to its accumulators. -/
theorem rowStep_enters (bad : Option (Fin 32)) :
    rowStep a w bad s =
      let p := planeOf x w.plane
      let par := match bad with | some k => updAt p.parity k.val fun _ => false | none => p.parity
      let t := putKeys [] (a.rowCells s x w i) s
      if par.all id then afterRow a x w i t
      else parityFail a (afterRow a x w i (t.onCore a.n (putPlane w.plane { p with parity := par }))) := by
  have agrees : ((a.rowScale s (a.blk w.kr w.cb) (a.firstRow w.g + i)).filter fun k => k.2.2 != k.1 % 256) =
      none := by
    cases hk : a.rowScale s (a.blk w.kr w.cb) (a.firstRow w.g + i) with
    | none => rfl
    | some k =>
      rw [hk] at hs
      simpa [Option.filter, Option.all] using hs
  subst hx
  simp only [rowStep, hi, hh, he, hr, agrees, Bool.false_eq_true, if_false]
  rfl

theorem rowStep_good (hp : (planeOf x w.plane).parity.all id = true) (hb : s.badWords = []) :
    rowStep a w none s = afterRow a x w i { s with mem := memPutAll s.mem (a.rowCells s x w i) } := by
  rw [rowStep_enters hx hi hh he hr hs none, putKeys_good hb]
  simp only [hp, if_true]

end

theorem afterRow_next {a : Arr} {x : Core} {w : Walk} {i k : Nat} (hk : nextRow a x w.g (i + 1) = some k)
    (s : State) : afterRow a x w i s = s.onCore a.n fun x => { x with walk := some { w with row := k } } := by
  simp only [afterRow, hk]

theorem afterRow_last {a : Arr} {x : Core} {w : Walk} {i : Nat} (hk : nextRow a x w.g (i + 1) = none) (s : State) :
    afterRow a x w i s = passDone a w s := by
  simp only [afterRow, hk]

/-- After a pass that is not the tile's last the next pass opens. -/
theorem passDone_more {a : Arr} {w : Walk} (h : w.kr + 1 < a.geo.kb) (s : State) :
    passDone a w s = s.onCore a.n fun x =>
      { x with walk := some { w with kr := w.kr + 1, loaded := false, row := 0 } } := by
  simp only [passDone, h, if_true]

/-- What the end of a tile's last pass makes of its core: the tile waits for its drain, the job and its phase
stand, and no tile's passes run but those of a reduction's next column block. -/
structure TileAwaitsDrain (a : Arr) (w : Walk) (f : Core → Core) : Prop where
  drains : ∀ x, (f x).drains = x.drains ++ [{ w with row := 0 }]
  walk : a.reduces = false → ∀ x, (f x).walk = none
  job : ∀ x, (f x).job.isSome = x.job.isSome
  phase : ∀ x, (f x).phase = x.phase

theorem passDone_last {a : Arr} {w : Walk} (h : a.geo.kb ≤ w.kr + 1) (s : State) :
    ∃ f, passDone a w s = s.onCore a.n f ∧ TileAwaitsDrain a w f := by
  simp only [passDone, Nat.not_lt.2 h, if_false]
  split
  · next hr =>
    exact ⟨_, onCore_onCore s a.n _ _, fun _ => rfl, fun h => by simp [hr.1] at h, fun _ => rfl, fun _ => rfl⟩
  · exact ⟨_, onCore_onCore s a.n _ _, fun _ => rfl, fun _ _ => rfl, fun _ => Option.isSome_map, fun _ => rfl⟩

/-- The unit's description of its macroinstruction names the core. -/
theorem arrOf_n {a : Arr} {n mi : Nat} {x : Core} (ha : a = arrOf n x mi) : a.n = n := by rw [ha]; rfl

theorem arrOf_mi {a : Arr} {n mi : Nat} {x : Core} (ha : a = arrOf n x mi) : a.mi = mi := by rw [ha]; rfl

/-- Settles O17: each load by the chain that stands, each row by the block and what is left of the pass. -/
theorem arrayPasses : Obligations.ArrayPasses := by
  unfold Obligations.ArrayPasses
  refine ⟨?_, ?_, ?_, ?_, ?_, ?_⟩
  · intro s n mi a w x hx ht ha hw hl hc hr hs
    have hn := arrOf_n ha
    rw [← hn] at hr
    rw [exec_planeLoad hx ht ha hw hl, loadStep_other (hn ▸ hx) (by simp [hc]) hr hs, loadPlane_first (hn ▸ hx) hc,
      hn, arrOf_mi ha]
    rfl
  · intro s n mi a w x c hx ht ha hw hl hc hb hr hs
    have hn := arrOf_n ha
    rw [← hn] at hr
    have loaded : (s.onCore n.val (blockLoaded a s x w c)).core n.val = blockLoaded a s x w c x := by
      rw [hx, core_onCore (present_of_walk (hx ▸ hw))]
    refine ⟨s.onCore n.val (blockLoaded a s x w c), ?_, ?_, ?_, ?_, ?_, ?_, ?_, ?_, rfl⟩
    · rw [exec_planeLoad hx ht ha hw hl, loadStep_other (hn ▸ hx) (by simp [hc, hb]) hr hs,
        loadPlane_next (hn ▸ hx) hc, hn]
    · rw [loaded]
      exact planeOf_putPlane _ _ _
    · intro hp
      rw [loaded]
      exact planeOf_putPlane_other hp _ _
    · rw [loaded]
      exact stall_putPlane _ _ _
    · rw [loaded]
      rfl
    · rw [loaded]
      exact job_putPlane _ _ _
    · rw [loaded]
      exact ring_putPlane _ _ _
    · intro k hk
      exact core_onCore_ne hk
  · intro s n mi a w x c hx ht ha hw hl hc hb hm
    have hn := arrOf_n ha
    rw [exec_planeLoad hx ht ha hw hl, loadStep_same (hn ▸ hx) hc hb (by rwa [arrOf_mi ha]), arrOf_mi ha, hn]
    rfl
  · intro s n mi i k a w x hx ht ha hbad hw hl hh hp hi hk he hr hs
    have hn := arrOf_n ha
    rw [← hn] at hr
    rw [exec_rowEntry none hx ht ha hw hl, rowStep_good (hn ▸ hx) hi hh he hr hs hp hbad, afterRow_next hk, hn]
    rfl
  · intro s n mi i a w x hx ht ha hbad hw hl hh hp hi hk he hr hs
    have hn := arrOf_n ha
    rw [← hn] at hr
    have row : exec (.rowEntry n none) s =
        .next (passDone a w { s with mem := memPutAll s.mem (a.rowCells s x w i) }) := by
      rw [exec_rowEntry none hx ht ha hw hl, rowStep_good (hn ▸ hx) hi hh he hr hs hp hbad, afterRow_last hk]
    have here : n.val < s.cores.length := present_of_walk (hx ▸ hw)
    by_cases more : w.kr + 1 < a.geo.kb
    · rw [passDone_more more, hn] at row
      refine ⟨_, row, rfl, ?_, ?_, ?_, ?_, rfl⟩
      · intro _
        rw [hx]
        exact core_onCore here
      · intro last
        exact absurd more (Nat.not_lt.2 last)
      · intro last
        exact absurd more (Nat.not_lt.2 last)
      · intro k hk
        exact core_onCore_ne hk
    · obtain ⟨f, done, awaits⟩ := passDone_last (Nat.not_lt.1 more) { s with
        mem := memPutAll s.mem (a.rowCells s x w i) }
      rw [done, hn] at row
      refine ⟨_, row, rfl, ?_, ?_, ?_, ?_, rfl⟩
      · intro again
        exact absurd again more
      · intro _
        rw [hx]
        exact (congrArg Core.drains (core_onCore here)).trans (awaits.drains _)
      · intro _ single
        exact (congrArg Core.walk (core_onCore here)).trans (awaits.walk single _)
      · intro k hk
        exact core_onCore_ne hk
  · intro s n mi i k a w x hx ht ha hw hl hh hp hi hk he
    have hn := arrOf_n ha
    rw [exec_rowEntry none hx ht ha hw hl, rowStep_empty (hn ▸ hx) hi hh hp he, afterRow_next hk, hn]
    rfl

end Sys2Proof.Machine

namespace Sys2Proof.Machine

/-! ## The registers of a monitoring window (R241, R243, R244) -/

/-- A mask that holds every bit of a field leaves the field as it is. -/
theorem rfld_and_ones (v : W32) {w : W32} {hi lo : Nat} (h : rfld w hi lo = 2 ^ (hi + 1 - lo) - 1) :
    rfld (v &&& w) hi lo = rfld v hi lo := by
  unfold rfld fld at *
  rw [BitVec.toNat_and, Nat.and_div_two_pow, Nat.and_mod_two_pow, h, Nat.and_two_pow_sub_one_eq_mod, Nat.mod_mod]

section
variable {s : State} {n : Fin 24} {c : Fin 4}

theorem exec_coreMseSumLoRead (ho : barOpen s = true) :
    exec (.coreMseSumLoRead n c) s = .next (mseReadLo n.val c.val
      (s.answer (BitVec.ofNat 32 ((s.core n.val).mse.getD c.val {}).cSum))) := by
  simp only [exec, execCoreMseSumLoRead, hostRead_of ho, mseOf]

/-- RESTART sets its own bit aside and opens an empty window with the other fields. -/
theorem exec_restart {v : W32} (ho : barWr s = true) :
    exec (.restart n c v) s = .next (onMse n.val c.val (fun m =>
      { m with ctrl := v &&& 0xfffdffff#32, runTag := rfld v 15 0, runEn := rbit v 16, runWin := rfld v 31 18
               sum := 0, cnt := 0, runs := 0 }) s) := by
  have restarts : rbit (v ||| 0x20000#32) 17 = true := bit_of_or v 17 (by decide)
  have kept : (v ||| 0x20000#32) &&& 0xfffdffff#32 = v &&& 0xfffdffff#32 := by
    rw [BitVec.and_or_distrib_right, show 0x20000#32 &&& 0xfffdffff#32 = 0#32 from rfl, BitVec.or_zero]
  have tag : rfld (v &&& 0xfffdffff#32) 15 0 = rfld v 15 0 := rfld_and_ones v (by decide)
  have win : rfld (v &&& 0xfffdffff#32) 31 18 = rfld v 31 18 := rfld_and_ones v (by decide)
  have en : rbit (v &&& 0xfffdffff#32) 16 = rbit v 16 := by simp [rbit]
  simp only [exec, execRestart, hostWrite_of ho, mseCtrlWrite, restarts, if_true, mseStart, kept, tag, win, en]

end

/-! ## What logging leaves of the management block (R571 to R580) -/

/-- `m'` with what logging a condition may change put back to what `m` holds: the chip fault log, and the safe state
that falls due. -/
def sansFaults (m m' : Mgt) : Mgt :=
  { m' with faultLog := m.faultLog, faultOver := m.faultOver, safeDue := m.safeDue, safeMute := m.safeMute }

theorem logFault_faults (m : Mgt) (p : Page) (b c : Nat) (d : W32) (s : State) :
    sansFaults m (logFault p b c d s).mgt = sansFaults m s.mgt := by
  rw [logFault, setInt_mgt]
  rfl

theorem raiseLog_faults (p : Page) (b : Nat) (l0 l1 l2 l3 : W32) (s : State) :
    sansFaults s.mgt (raiseLog p b l0 l1 l2 l3 s).mgt = s.mgt := by
  have due : ∀ t : State, sansFaults s.mgt (fatalDue p t).mgt = sansFaults s.mgt t.mgt := fun _ => rfl
  unfold raiseLog
  simp only
  split
  · rfl
  · simp only [apply_ite State.mgt, apply_ite (sansFaults s.mgt), due, logFault_faults, setInt_mgt, State.onHdr_mgt,
      ite_self]
    rfl

/-- `u` is `s` after a condition was logged. -/
structure Logged (s u : State) : Prop where
  parts : sansLog s u = s
  faults : sansFaults s.mgt u.mgt = s.mgt

theorem logged_raiseAddr (p : Page) (b addr resp stop agent unit : Nat) (s : State) :
    Logged s (raiseAddr p b addr resp stop agent unit s) :=
  ⟨raiseAddr_log _ _ _ _ _ _ _ _, raiseLog_faults _ _ _ _ _ _ _⟩

theorem logged_raise (p : Page) (b : Nat) (d : Option W32) (unit : Nat) (s : State) :
    Logged s (raise p b d unit s) := by
  have same : (detailOf d s).2.mgt = s.mgt := by cases d <;> rfl
  have faults := raiseLog_faults p b (detailOf d s).1 0 (BitVec.ofNat 32 s.now) (BitVec.ofNat 32 unit) (detailOf d s).2
  rw [same] at faults
  exact ⟨raise_log _ _ _ _ _, faults⟩

section
variable {s u : State} (h : Logged s u)
include h

theorem Logged.coreMap : u.mgt.coreMap = s.mgt.coreMap :=
  (congrArg Mgt.coreMap h.faults :)

theorem Logged.coreSpares : u.mgt.coreSpares = s.mgt.coreSpares :=
  (congrArg Mgt.coreSpares h.faults :)

theorem Logged.takeover : u.mgt.takeover = s.mgt.takeover :=
  (congrArg Mgt.takeover h.faults :)

theorem Logged.cores : u.cores = s.cores :=
  (congrArg State.cores h.parts :)

theorem Logged.ktl : u.ktl = s.ktl :=
  (congrArg State.ktl h.parts :)

theorem Logged.flash : u.flash = s.flash :=
  (congrArg State.flash h.parts :)

theorem Logged.mem : u.mem = s.mem := mem_of_log h.parts

theorem Logged.core (n : Nat) : u.core n = s.core n := by rw [State.core, h.cores]; rfl

theorem Logged.inTakeover (n : Nat) : inTakeover u n = inTakeover s n := by
  simp only [Machine.inTakeover, h.takeover]

theorem Logged.physCore (n : Nat) : physCore u n = physCore s n := by simp only [Machine.physCore, h.coreMap]

theorem Logged.coreAbsent (n : Nat) : coreAbsent u n = coreAbsent s n := by simp only [Machine.coreAbsent, h.coreMap]

theorem Logged.chooseSpare (p : Nat) : chooseSpare u p = chooseSpare s p := by
  simp only [Machine.chooseSpare, h.coreSpares]

end

/-- What a change of a core leaves of every core is left of all cores. -/
theorem core_onCore_part {s : State} {n k : Nat} {f : Core → Core} {α : Type} (g : Core → α)
    (h : ∀ x, g (f x) = g x) : g ((s.onCore n f).core k) = g (s.core k) := by
  by_cases e : k = n
  · subst e
    by_cases here : k < s.cores.length
    · rw [core_onCore here, h]
    · rw [core_eq, core_eq, cores_onCore, List.getElem?_eq_none (by simpa using here),
        List.getElem?_eq_none (Nat.not_lt.1 here)]
  · rw [core_onCore_ne e]

/-! ## A failed core (R112, R113, R559 to R561) -/

@[simp] theorem isSome_job_skipTiles (mi : Option Nat) (x : Core) : (skipTiles mi x).job.isSome = x.job.isSome := by
  unfold skipTiles
  split
  · rfl
  · next j hj => split <;> simp [hj]

theorem skipTiles_idle {mi : Option Nat} {x : Core} (h : x.job = none) : skipTiles mi x = x := by
  simp only [skipTiles, h]

/-- Each tile skipped counts once. -/
theorem skipped_foldl (l : List (Nat × Nat)) (j : Job) :
    (l.foldl (fun j t => skipTile t j) j).skipped = j.skipped + l.length := by
  induction l generalizing j with
  | nil => rfl
  | cons t l ih =>
    rw [List.foldl_cons, ih, List.length_cons]
    show j.skipped + 1 + l.length = _
    omega

/-- The arrays of a failed core give up the tiles that they had begun; the ring and the plane chain stand. -/
theorem skipTiles_run {x : Core} {j : Job} (hj : x.job = some j) (hp : x.phase = .run) :
    skipTiles none x = { x with
      job := some ((begunTiles x).foldl (fun j t => skipTile t j) j), walk := none, drains := [] } := by
  simp [skipTiles, hj, hp]

/-- A failed core: fenced, its tiles skipped, its job stopped for the takeover. -/
def failedCore (mi : Option Nat) (x : Core) : Core :=
  { skipTiles mi x with
    mgmtFence := true, stopWhy := if x.job.isSome then .takeover else (skipTiles mi x).stopWhy }

/-- A takeover of a core that has a spare does not end with the core's loss. -/
theorem settleLost_spared {s : State} {n : Nat}
    (h : ∀ t ∈ s.mgt.takeover, t.target == .core (Fin.ofNat 24 n) → t.spare.isSome) : settleLost n s = s := by
  have kept : ¬ (s.mgt.takeover.any fun t =>
      t.target == .core (Fin.ofNat 24 n) && t.spare.isNone && t.saveDone) = true := by
    rw [List.any_eq_true]
    rintro ⟨t, ht, hc⟩
    simp only [Bool.and_eq_true] at hc
    obtain ⟨⟨target, lost⟩, -⟩ := hc
    have spared := h t ht target
    rw [← Option.not_isNone, lost] at spared
    cases spared
  rw [settleLost, if_neg kept]

/-- The takeover of core `n` by the spare `sp` as it starts. -/
def newTakeover (n cause sp : Nat) (s : State) : Takeover :=
  { target := .core (Fin.ofNat 24 n), cause := cause, detected := s.up, failed := physCore s n
    spare := some sp, stage := .powering, goodAt := s.up + 23100, saveDone := !(s.core n).job.isSome
    hasJob := false, mapBeat := none }

/-- The management block when that takeover has started. -/
def takeoverMgt (n cause sp : Nat) (s : State) : Mgt :=
  { s.mgt with
    coreSpares := s.mgt.coreSpares.filter fun p => some p != some sp
    coreMap := updAt s.mgt.coreMap n fun e => { e with state := .fenced }
    takeover := s.mgt.takeover ++ [newTakeover n cause sp s] }

/-- The flash when that takeover has started: the defect awaits its record. -/
def takeoverFlash (n cause : Nat) (s : State) : Flash :=
  { s.flash with unsaved := s.flash.unsaved ++
      [{ kind := 1, phys := physCore s n, cause := cause, boots := s.flash.boots, tick := s.now }] }

section
variable {s : State} {n cause sp : Nat} {mi : Option Nat} (ht : inTakeover s n = false)
  (ha : coreAbsent s n = false) (hs : chooseSpare s (physCore s n) = some sp)
include ht ha hs

theorem startTakeover_spared :
    startTakeover n cause s = { s with
      mgt := takeoverMgt n cause sp s, flash := takeoverFlash n cause s
      cores := updAt s.cores n fun x =>
        { x with mgmtFence := true, stopWhy := if (s.core n).job.isSome then .takeover else x.stopWhy } } := by
  have others : ∀ t ∈ s.mgt.takeover, ¬ (t.target == .core (Fin.ofNat 24 n)) = true := List.any_eq_false.1 ht
  simp only [startTakeover, ht, ha, hs, Bool.or_false, if_neg Bool.false_ne_true]
  rw [settleLost_spared]
  · rfl
  · intro t h target
    rcases List.mem_append.1 h with old | new
    · exact absurd target (others t old)
    · rw [List.mem_singleton.1 new]
      rfl

/-- A core that fails is fenced, its tiles are skipped and its job stops for the takeover by a spare. -/
theorem coreFailed_spared :
    coreFailed n cause mi s = { s with
      mgt := takeoverMgt n cause sp s, flash := takeoverFlash n cause s
      cores := updAt s.cores n (failedCore mi) } := by
  have busy : ((s.onCore n (skipTiles mi)).core n).job.isSome = (s.core n).job.isSome :=
    core_onCore_part (·.job.isSome) (isSome_job_skipTiles mi)
  have failed : updAt (updAt s.cores n (skipTiles mi)) n (fun x =>
      { x with mgmtFence := true, stopWhy := if (s.core n).job.isSome then .takeover else x.stopWhy }) =
      updAt s.cores n (failedCore mi) := by
    rw [updAt_updAt]
    refine updAt_congr fun x hx => ?_
    rw [core_of_getElem? hx]
    rfl
  rw [coreFailed, startTakeover_spared (sp := sp) (by exact ht) (by exact ha) (by exact hs), busy]
  simp only [takeoverMgt, newTakeover, busy]
  rw [← failed]
  rfl

end

theorem Logged.newTakeover {s u : State} (h : Logged s u) (n cause sp : Nat) :
    newTakeover n cause sp u = newTakeover n cause sp s := by
  simp only [Machine.newTakeover, State.up, h.ktl, h.physCore, h.core]

theorem newTakeover_val (n : Fin 24) (cause sp : Nat) (s : State) :
    newTakeover n.val cause sp s =
      { target := .core n, cause := cause, detected := s.up, failed := physCore s n.val, spare := some sp
        stage := .powering, goodAt := s.up + 23100, saveDone := (s.core n.val).job.isNone, hasJob := false
        mapBeat := none } := by
  rw [newTakeover, Fin.ofNat_val_eq_self, Option.not_isSome]

theorem Logged.takeoverFlash {s u : State} (h : Logged s u) (n cause : Nat) :
    takeoverFlash n cause u = takeoverFlash n cause s := by
  simp only [Machine.takeoverFlash, State.now, h.ktl, h.flash, h.physCore]

theorem cores_of_sized {s : State} (h : sized s = true) : s.cores.length = 24 := by
  simp only [sized_eq, Bool.and_eq_true, beq_iff_eq] at h
  simp only [h]

theorem corePage_val (n : Fin 24) : corePage n.val = .core n := by rw [corePage, Fin.ofNat_val_eq_self]

/-- A state with a core that has failed with a spare at hand. -/
def coreLost (n cause sp : Nat) (u : State) : State :=
  { u with
    mgt := takeoverMgt n cause sp u, flash := takeoverFlash n cause u, cores := updAt u.cores n (failedCore none) }

/-- A core without a job is fenced and nothing else. -/
theorem failedCore_idle {mi : Option Nat} {x : Core} (h : x.job = none) :
    failedCore mi x = { x with mgmtFence := true } := by
  simp [failedCore, skipTiles_idle h, h]

/-- A core that runs a job stops it for the takeover. -/
theorem failedCore_run {x : Core} {j : Job} (hj : x.job = some j) (hp : x.phase = .run) :
    failedCore none x = { x with
      job := some ((begunTiles x).foldl (fun j t => skipTile t j) j), walk := none, drains := []
      mgmtFence := true, stopWhy := .takeover } := by
  simp [failedCore, skipTiles_run hj hp, hj]

theorem getD_updAt {α : Type} {l : List α} {i : Nat} (h : i < l.length) (f : α → α) (d : α) :
    (updAt l i f).getD i d = f (l.getD i d) := by
  simp [updAt, h]

section
variable {s : State} {n : Fin 24} {sp : Nat} (ht : inTakeover s n.val = false)
  (ha : coreAbsent s n.val = false) (hs : chooseSpare s (physCore s n.val) = some sp)
include ht ha hs

/-- A core whose failure was logged is lost to its spare. -/
theorem coreFailed_logged {u : State} (h : Logged s u) (cause : Nat) :
    coreFailed n.val cause none u = coreLost n.val cause sp u :=
  coreFailed_spared (by rw [h.inTakeover, ht]) (by rw [h.coreAbsent, ha]) (by rw [h.physCore, h.chooseSpare, hs])

/-- An uncorrectable error in a core's memories is logged and fails the core. -/
theorem coreFails_lost (addr : Nat) :
    ∃ u, Logged s u ∧ (s.hdrs.length = 56 → errBit u (.core n) 3 = true) ∧
      coreFails n.val addr none s = coreLost n.val 1 sp u := by
  have logged := logged_raiseAddr (corePage n.val) 3 addr 6 (srcStop s (coreSrc n.val)).1 (srcStop s (coreSrc n.val)).2
    (srcUnit s (coreSrc n.val)) s
  refine ⟨_, logged, ?_, coreFailed_logged ht ha hs logged 1⟩
  intro pages
  rw [corePage_val]
  exact errBit_raiseLog _ _ _ _ _ _ _ (by decide) pages

end

section
variable {s : State} {n : Fin 24} {a : BitVec 48} {off sp : Nat} (hr : regionOf a.toNat = .core n.val off)
  (ha : coreAbsent s n.val = false) (ht : inTakeover s n.val = false)
  (hs : chooseSpare s (physCore s n.val) = some sp)
include hr ha ht hs

theorem exec_coreMemUncorr :
    ∃ u, Logged (spoil a.toNat s) u ∧ (s.hdrs.length = 56 → errBit u (.core n) 3 = true) ∧
      exec (.coreMemUncorr n a) s = .next (coreLost n.val 1 sp u) := by
  obtain ⟨u, logged, bit, lost⟩ := coreFails_lost (s := spoil a.toNat s) ht ha hs a.toNat
  refine ⟨u, logged, bit, ?_⟩
  simp only [exec, execCoreMemUncorr, hr, ha, Bool.false_eq_true, not_false_eq_true, and_self, if_true, lost]

end

theorem core_coreLost {u : State} {n : Nat} (h : n < u.cores.length) (cause sp : Nat) :
    (coreLost n cause sp u).core n = failedCore none (u.core n) := core_onCore h

/-! ## A weight without parity (R113) -/

theorem issuing_run {x : Core} (h : issuing x = true) : x.phase = .run := by
  simp only [issuing, Bool.and_eq_true, beq_iff_eq] at h
  exact h.1.1.1

/-- After a row the core holds its job still, in the same phase. -/
theorem afterRow_keeps (a : Arr) (x : Core) (w : Walk) (i : Nat) (s : State) :
    ∃ f, afterRow a x w i s = s.onCore a.n f ∧ (∀ x, (f x).job.isSome = x.job.isSome) ∧
      ∀ x, (f x).phase = x.phase := by
  cases hk : nextRow a x w.g (i + 1) with
  | some k => exact ⟨_, afterRow_next hk s, fun _ => rfl, fun _ => rfl⟩
  | none =>
    rw [afterRow_last hk]
    by_cases more : w.kr + 1 < a.geo.kb
    · exact ⟨_, passDone_more more s, fun _ => rfl, fun _ => rfl⟩
    · obtain ⟨f, done, awaits⟩ := passDone_last (Nat.not_lt.1 more) s
      exact ⟨f, done, awaits.job, awaits.phase⟩

/-- A state whose memory holds the accumulators of a row that has entered. -/
def rowEntered (a : Arr) (x : Core) (w : Walk) (i : Nat) (s : State) : State :=
  { s with mem := memPutAll s.mem (a.rowCells s x w i) }

/-- A core `y` whose plane of the open pass holds a weight of column `k` without parity; `x` is the core before. -/
def parityLost (x : Core) (w : Walk) (k : Nat) (y : Core) : Core :=
  putPlane w.plane { planeOf x w.plane with parity := updAt (planeOf x w.plane).parity k fun _ => false } y

/-- A core whose plane chain holds no block. -/
def chainBlockLost (x : Core) : Core := { x with chain := x.chain.map fun c => { c with blk := (0, 0, 0) } }

section
variable {s : State} {n : Fin 24} {mi i sp : Nat} {a : Arr} {w : Walk} {x : Core} {k : Fin 32}
  (hx : x = s.core n.val) (hu : unitTurn x 0 = some mi) (ha : a = arrOf n.val x mi) (hw : x.walk = some w)
  (hl : w.loaded = true) (hi : nextRow a x w.g w.row = some i) (hh : slotsHeld a x w s = false)
  (he : (a.blk w.kr w.cb).empty = false) (hk : k.val < (planeOf x w.plane).parity.length)
  (hr : rangesFail n.val s (a.rowReads s x w i) = none)
  (hscale : (a.rowScale s (a.blk w.kr w.cb) (a.firstRow w.g + i)).all (fun k => k.2.2 == k.1 % 256) = true)
  (hbad : s.badWords = []) (habs : coreAbsent s n.val = false) (ht : inTakeover s n.val = false)
  (hs : chooseSpare s (physCore s n.val) = some sp)
include hx hu ha hw hl hi hh he hk hr hscale hbad habs ht hs

/-- The row adds to its accumulators; then the error is logged and the core fails, with the job it had. -/
theorem exec_rowEntry_parity :
    ∃ (f : Core → Core) (u : State),
      Logged ((rowEntered a x w i s).onCore n.val f) u ∧
      ((∀ x, (f x).job.isSome = x.job.isSome) ∧ ∀ x, (f x).phase = x.phase) ∧
      (s.hdrs.length = 56 → errBit u (.core n) 8 = true) ∧
      exec (.rowEntry n (some k)) s = .next (coreLost n.val 2 sp u) := by
  have hn := arrOf_n ha
  rw [← hn] at hr
  have lostParity : ¬ ((updAt (planeOf x w.plane).parity k.val fun _ => false).all id) = true := by
    rw [List.all_eq_true]
    intro whole
    have kth := whole _ (List.getElem_mem (by rw [length_updAt]; exact hk))
    simp [updAt] at kth
  obtain ⟨f, after, job, phase⟩ := afterRow_keeps a x w i ((rowEntered a x w i s).onCore a.n (parityLost x w k.val))
  have logged := logged_raise (corePage n.val) 8 none
    (srcUnit ((rowEntered a x w i s).onCore n.val (f ∘ parityLost x w k.val)) (coreSrc n.val))
    ((rowEntered a x w i s).onCore n.val (chainBlockLost ∘ f ∘ parityLost x w k.val))
  refine ⟨_, _, logged, ⟨fun y => ?_, fun y => ?_⟩, ?_, ?_⟩
  · exact (job (parityLost x w k.val y)).trans (congrArg Option.isSome (job_putPlane _ _ y))
  · exact (phase (parityLost x w k.val y)).trans (phase_putPlane _ _ y)
  · intro pages
    rw [corePage_val]
    exact errBit_raise _ _ _ _ _ (by decide) pages
  · have row : exec (.rowEntry n (some k)) s =
        .next (parityFail a (afterRow a x w i ((rowEntered a x w i s).onCore a.n (parityLost x w k.val)))) := by
      rw [exec_rowEntry (some k) hx hu ha hw hl, rowStep_enters (hn ▸ hx) hi hh he hr hscale (some k),
        putKeys_good hbad]
      simp only [lostParity]
      rfl
    have lost := coreFailed_logged (s := (rowEntered a x w i s).onCore n.val _) ht habs hs logged 2
    rw [row, after, parityFail, hn, onCore_onCore, onCore_onCore]
    exact congrArg Host.Outcome.next lost

end

/-- Settles O16: the registers of a window, then the two ways a core's memories fail. -/
theorem mseAndCoreFailure : Obligations.MseAndCoreFailure := by
  unfold Obligations.MseAndCoreFailure
  refine ⟨?_, ?_, ?_, ?_, ?_⟩
  · rintro s n c m ho rfl
    refine ⟨_, exec_coreMseSumLoRead ho, ?_, rfl⟩
    exact (leNat_leBytes_four _).trans (by rw [BitVec.toNat_ofNat, Nat.mod_mod])
  · intro s n c v ho
    exact exec_restart ho
  · intro s n a off sized_ hr ha ht hmap hsp
    obtain ⟨sp, hs⟩ := Option.isSome_iff_exists.1 hsp
    obtain ⟨u, logged, bit, ran⟩ := exec_coreMemUncorr hr ha ht hs
    have here : n.val < u.cores.length := by
      rw [logged.cores]
      exact (cores_of_sized sized_).symm ▸ n.isLt
    have lost := core_coreLost here 1 sp
    have kept : u.core n.val = s.core n.val := logged.core n.val
    refine ⟨_, ran, bit (hdrs_of_sized sized_), ?_, ?_, ?_, ?_, ?_, ?_, ?_⟩
    · rw [lost]
      rfl
    · show ((updAt u.mgt.coreMap n.val fun e => { e with state := .fenced }).getD n.val {}).state = .fenced
      rw [logged.coreMap, getD_updAt (by exact hmap.symm ▸ n.isLt)]
    · show u.mgt.takeover ++ [newTakeover n.val 1 sp u] = _
      rw [logged.takeover, logged.newTakeover, newTakeover_val, hs]
      rfl
    · show (takeoverFlash n.val 1 u).unsaved = _
      rw [logged.takeoverFlash]
      rfl
    · intro k hk
      exact (core_onCore_ne (s := u) hk).trans (logged.core k)
    · intro idle
      rw [lost, kept, failedCore_idle idle]
    · exact congrArg (fun t : State => { t with
        cores := (coreLost n.val 1 sp u).cores, flash := (coreLost n.val 1 sp u).flash }) logged.parts
  · intro s n a off j sized_ hr ha ht hsp hj hp
    obtain ⟨sp, hs⟩ := Option.isSome_iff_exists.1 hsp
    obtain ⟨u, logged, -, ran⟩ := exec_coreMemUncorr hr ha ht hs
    have lost : (coreLost n.val 1 sp u).core n.val = failedCore none (s.core n.val) := by
      rw [core_coreLost (by rw [logged.cores]; exact present_of_job hj), logged.core n.val]
      rfl
    rw [failedCore_run hj hp] at lost
    refine ⟨_, ran, ?_⟩
    rw [lost]
    exact ⟨rfl, rfl, rfl, congrArg some (skipped_foldl _ j), rfl, rfl⟩
  · rintro s n k a mi i w sized_ hu ha hw hl hi hh he hk hr hscale habs ht hsp hbad
    obtain ⟨sp, hs⟩ := Option.isSome_iff_exists.1 hsp
    obtain ⟨f, u, logged, ⟨job, phase⟩, bit, ran⟩ :=
      exec_rowEntry_parity rfl hu ha hw hl hi hh he hk hr hscale hbad habs ht hs
    have here : n.val < s.cores.length := present_of_walk hw
    obtain ⟨⟨j, hj⟩, issues, -⟩ := unitTurn_some hu
    obtain ⟨j', hj'⟩ := Option.isSome_iff_exists.1 ((job (s.core n.val)).trans (by rw [hj]; rfl))
    have lost : (coreLost n.val 2 sp u).core n.val = failedCore none (f (s.core n.val)) := by
      rw [core_coreLost (by rw [logged.cores, cores_onCore, length_updAt]; exact here), logged.core]
      exact congrArg (failedCore none) (core_onCore here)
    rw [failedCore_run hj' ((phase _).trans (issuing_run issues))] at lost
    refine ⟨_, ran, bit (hdrs_of_sized sized_), logged.mem, ?_⟩
    rw [lost]
    exact ⟨rfl, rfl, rfl⟩

end Sys2Proof.Machine

namespace Sys2Proof.Machine

/-! ## Writes of a core that are answered OK (R191, R192) -/

theorem partFault_other {src : Src} (h : src ≠ .bar2) (as : List Nat) (s : State) : partFault src as s = s := by
  rw [partFault, if_neg (fun k => h k.1)]

/-- `u` with what the service of a write may change put back to what `s` holds: memory, error marks, the lock of the
HBM map, and the rings whose doorbell words were written. -/
def sansWrite (s u : State) : State :=
  { u with mem := s.mem, badWords := s.badWords, hbm := s.hbm, clus := s.clus, cdy := s.cdy }

theorem sansWrite_ringDoorbells (s t : State) (hit : Nat → Bool) (fb : Bool) :
    sansWrite s (ringDoorbells hit fb t) = sansWrite s t :=
  (congrArg (sansWrite s) (ringDoorbells_keeps hit fb t) :)

theorem sansWrite_putKeys (s t : State) (part : List Nat) (cs : List Host.Cell) :
    sansWrite s (putKeys part cs t) = sansWrite s t := rfl

theorem sansWrite_touch (s t : State) (src : Src) (a : Nat) : sansWrite s (touch src a t) = sansWrite s t := by
  rw [touch_hbm]
  rfl

theorem serveCells_keeps {src : Src} {w : Cells} {s : State} (hsrc : src ≠ .bar2)
    (h : (serveCells src w s).1 = .ok) : sansWrite s (serveCells src w s).2 = s := by
  unfold serveCells at h ⊢
  simp only [partFault_other hsrc] at h ⊢
  generalize keptOf src w s = kept at h ⊢
  cases kept
  all_goals
    dsimp only at h ⊢
    split at h
    · next clean =>
      simp only [if_pos clean, sansWrite_ringDoorbells, sansWrite_putKeys, sansWrite_touch]
      rfl
    · cases h

/-- A write answered OK changes nothing else. -/
theorem writeCells_keeps {src : Src} {w : Cells} {s u : State} (hsrc : src ≠ .bar2)
    (h : writeCells src w s = (.ok, u)) : sansWrite s u = s := by
  unfold writeCells at h
  split at h
  · next c hc =>
    have refused := List.find?_some hc
    simp only [Prod.mk.injEq] at h
    rw [h.1] at refused
    cases refused
  · simp only [Prod.mk.injEq] at h
    obtain ⟨ok, rfl⟩ := h
    rw [ok]
    exact serveCells_keeps hsrc ok

section
variable {n : Nat} {w : Cells} {s u : State} (h : writeCells (coreSrc n) w s = (.ok, u))
include h

theorem cores_writeCells : u.cores = s.cores :=
  (congrArg State.cores (writeCells_keeps coreSrc_ne_bar2 h) :)

theorem hif_writeCells : u.hif = s.hif :=
  (congrArg State.hif (writeCells_keeps coreSrc_ne_bar2 h) :)

theorem core_writeCells (k : Nat) : u.core k = s.core k := by rw [core_eq, core_eq, cores_writeCells h]

end

/-! ## Changes of one core -/

/-- `t` is `s` with core `n` changed, and free values taken. -/
def OnlyCore (n : Nat) (s t : State) : Prop := ∃ f k, t = { s.onCore n f with free := k }

theorem OnlyCore.trans {n : Nat} {s t u : State} (h : OnlyCore n s t) (k : OnlyCore n t u) : OnlyCore n s u := by
  obtain ⟨f, i, rfl⟩ := h
  obtain ⟨g, l, rfl⟩ := k
  refine ⟨g ∘ f, l, ?_⟩
  rw [← onCore_onCore]
  rfl

theorem onlyCore_onCore (n : Nat) (f : Core → Core) (s : State) : OnlyCore n s (s.onCore n f) := ⟨f, s.free, rfl⟩

section
variable {n : Nat} {s t : State} (h : OnlyCore n s t)
include h

theorem OnlyCore.core_ne {k : Nat} (hk : k ≠ n) : t.core k = s.core k := by
  obtain ⟨f, i, rfl⟩ := h
  exact core_onCore_ne hk

theorem OnlyCore.eq : t = { s with cores := t.cores, free := t.free } := by
  obtain ⟨f, i, rfl⟩ := h
  rfl

theorem OnlyCore.mem : t.mem = s.mem := by rw [h.eq]

theorem OnlyCore.hif : t.hif = s.hif := by rw [h.eq]

end

/-! ## Results are counted (R236 to R241) -/

/-- A core without its counts: the saturation counters, the monitoring windows, and the channels that its job's run
gathered into. -/
def sansCounts (x : Core) : Core :=
  { x with sat := [], mse := [], job := x.job.map fun j => { j with mseHit := 0 } }

/-- `t` is `s` with counts of core `n` changed, and free values taken. -/
def Counted (n : Nat) (s t : State) : Prop :=
  ∃ f k, t = { s.onCore n f with free := k } ∧ ∀ x, sansCounts (f x) = sansCounts x

theorem Counted.refl (n : Nat) (s : State) : Counted n s s :=
  ⟨id, s.free, by rw [onCore_self (f := id) rfl], fun _ => rfl⟩

theorem Counted.trans {n : Nat} {s t u : State} (h : Counted n s t) (k : Counted n t u) : Counted n s u := by
  obtain ⟨f, i, rfl, hf⟩ := h
  obtain ⟨g, l, rfl, hg⟩ := k
  refine ⟨g ∘ f, l, ?_, fun x => (hg (f x)).trans (hf x)⟩
  rw [← onCore_onCore]
  rfl

theorem counted_gather1 (n tag : Nat) (e : Option Int) (s : State) : Counted n s (gather1 n tag e s) := by
  have erased : ∀ (x : Core) (ms : List MseCh) (f : Job → Nat), sansCounts { x with
      mse := ms, job := x.job.map fun j => { j with mseHit := f j } } = sansCounts x := by
    intro x ms f
    simp [sansCounts, Function.comp_def]
  cases e with
  | some e => exact ⟨_, s.free, rfl, fun x => erased x _ _⟩
  | none => exact ⟨_, s.free + 1, rfl, fun x => erased x _ _⟩

/-- Counting the results of a tile changes counts only. -/
theorem counted_tally (n di dst : Nat) (rs : List Res) (s : State) : Counted n s (tally n di dst rs s) := by
  have gathered : ∀ (l : List Res) (t : State), Counted n t (l.foldl (fun s r => match r.e8 with
      | some e => gather1 n (dTag dst) e s
      | none => s) t) := by
    intro l
    induction l with
    | nil => exact Counted.refl n
    | cons r l ih =>
      intro t
      rw [List.foldl_cons]
      refine Counted.trans ?_ (ih _)
      split
      · exact counted_gather1 _ _ _ _
      · exact Counted.refl n t
  unfold tally
  refine Counted.trans ?_ (gathered rs _)
  split
  · exact ⟨_, s.free, rfl, fun _ => rfl⟩
  · exact Counted.refl n s

section
variable {n : Nat} {s t : State} (h : Counted n s t)
include h

/-- What is left of a core without its counts stands. -/
theorem Counted.core (k : Nat) : sansCounts (t.core k) = sansCounts (s.core k) := by
  obtain ⟨f, i, rfl, hf⟩ := h
  exact core_onCore_part sansCounts hf

theorem Counted.only : OnlyCore n s t := by
  obtain ⟨f, i, ht, -⟩ := h
  exact ⟨f, i, ht⟩

theorem Counted.drains (k : Nat) : (t.core k).drains = (s.core k).drains :=
  (congrArg Core.drains (h.core k) :)

theorem Counted.walk (k : Nat) : (t.core k).walk = (s.core k).walk :=
  (congrArg Core.walk (h.core k) :)

/-- The job of a core stands, but for the channels that its run gathered into. -/
theorem Counted.job {k : Nat} {j : Job} (hj : (s.core k).job = some j) :
    ∃ hit, (t.core k).job = some { j with mseHit := hit } := by
  have same : (t.core k).job.map (fun j => { j with mseHit := 0 }) =
      (s.core k).job.map fun j => { j with mseHit := 0 } := congrArg Core.job (h.core k)
  rw [hj] at same
  cases ht : (t.core k).job with
  | none => rw [ht] at same; cases same
  | some i =>
    rw [ht] at same
    have erased := Option.some.inj same
    exact ⟨i.mseHit, congrArg (fun l : Job => some { l with mseHit := i.mseHit }) erased⟩

/-- So does all that the job says apart from those channels. -/
theorem Counted.job_map {α : Type} (g : Job → α) (hg : ∀ j hit, g { j with mseHit := hit } = g j) (k : Nat) :
    (t.core k).job.map g = (s.core k).job.map g := by
  cases hs : (s.core k).job with
  | none =>
    have same := congrArg (fun x : Core => x.job.isSome) (h.core k)
    simp only [sansCounts, Option.isSome_map, hs] at same
    have gone : (t.core k).job = none := Option.not_isSome_iff_eq_none.1 (by rw [same]; simp)
    rw [gone]
  | some j =>
    obtain ⟨hit, ht⟩ := h.job hs
    rw [ht, Option.map_some, Option.map_some, hg]

end

end Sys2Proof.Machine

namespace Sys2Proof.Machine

/-! ## DRAIN (R97, R182, R183) -/

theorem writeRes_ok {n : Nat} {rs : List Res} {s u : State}
    (h : writeCells (coreSrc n) (mergeWrites s (rs.flatMap (·.writes))) s = (.ok, u)) (di dst : Nat) :
    writeRes n di dst rs s = (true, tally n di dst rs u) := by
  simp only [writeRes, h]

theorem drainOne_issuing {s : State} {n : Nat} {w : Walk} {ds : List Walk} (hi : issuing (s.core n) = true)
    (hd : (s.core n).drains = w :: ds) : drainOne n s = drainStep (arrOf n (s.core n) w.mi) w s := by
  simp only [drainOne, hd, hi, if_true]

section
variable {s u : State} {a : Arr} {w : Walk} {x : Core} (hx : x = s.core a.n)
  (hr : rangesFail a.n s (a.drainReads s x w) = none)
include hx hr

/-- A slot row that drains without a reduction: its results are written and counted, then the next slot row waits
or the tile is written. -/
theorem drainStep_written (hred : a.reduces = false)
    (hw : writeCells (coreSrc a.n) (mergeWrites s ((a.drainResults s x w).flatMap (·.writes))) s = (.ok, u)) :
    drainStep a w s =
      let t := tally a.n (mDst a.m) a.dst (a.drainResults s x w) u
      if w.row + 1 < trgOf a.geo w.g then
        t.onCore a.n fun y => { y with drains := { w with row := w.row + 1 } :: y.drains.drop 1 }
      else tileWritten a w t := by
  subst hx
  simp only [drainStep, hr, hred, Bool.false_eq_true, if_false, writeRes_ok hw, drainEnd]

/-- A slot row of a reduction merges into the reduction store; before the last column block nothing is written. -/
theorem drainStep_merged (hred : a.reduces = true)
    (hmore : w.row + 1 < trgOf a.geo w.g ∨ w.cb + 1 < a.geo.ncb) :
    drainStep a w s = s.onCore a.n fun y => { y with
      redStore := a.merged s y w
      drains := if w.row + 1 < trgOf a.geo w.g then { w with row := w.row + 1 } :: y.drains.drop 1
                else y.drains.drop 1 } := by
  subst hx
  simp only [drainStep, hr, hred, if_true]
  split
  · rw [onCore_onCore]
    exact onCore_congr rfl
  · next last =>
    simp only [drainEnd, hred, if_true, if_pos (hmore.resolve_left last), popDrain, onCore_onCore]
    exact onCore_congr rfl

end

theorem present_of_drains {s : State} {n : Nat} {w : Walk} {ds : List Walk} (h : (s.core n).drains = w :: ds) :
    n < s.cores.length :=
  core_present fun e => by rw [e] at h; cases h

/-! ## The end of an array macroinstruction (R176, R180, R661) -/

/-- Which tiles are walked depends on the sample mask of the core alone. -/
theorem liveFrom_congr (a : Arr) {x y : Core} (hm : x.mask = y.mask) (ha : x.maskAll = y.maskAll)
    (hb : x.batchSize = y.batchSize) (t : Nat) : a.liveFrom x t = a.liveFrom y t := by
  have row : ∀ r, a.rowOk x r = a.rowOk y r := fun r => by
    simp only [Arr.rowOk, sampleMasked, maskedBy, hm, ha, hb]
  have group : ∀ g, a.groupLive x g = a.groupLive y g := fun g => by simp only [Arr.groupLive, row]
  have next_ : ∀ fuel t, a.nextLive x fuel t = a.nextLive y fuel t := by
    intro fuel
    induction fuel with
    | zero => intro t; rfl
    | succ fuel ih => intro t; simp only [Arr.nextLive, group, ih]
  exact next_ _ t

section
variable {s : State} {n : Nat} {j : Job}

theorem tilesTo_oldest (hj : (s.core n).job = some j) (t k : Nat) :
    tilesTo n j.mi t k s =
      s.onCore n fun x => { x with job := some { j with tile := t, progress := j.progress + k } } := by
  rw [tilesTo, onJob_of_job _ hj]
  simp [Job.act, Job.putAct]

theorem endMacro_oldest (hj : (s.core n).job = some j) : endMacro n j.mi s = advance n s := by
  simp only [endMacro, hj, if_true]

end

/-- Neither a gate nor a merge of candidates occupies the vector engine. -/
theorem distVector_none {a : Arr} (hred : a.reduces = false) (hg : a.op = opDist → distGate a.m = 0) (s : State) :
    distVector a s = s := by
  rw [distVector, if_neg]
  rintro ⟨hd, gate | merge⟩
  · exact gate (hg hd)
  · simp [Arr.reduces, hd, merge] at hred

theorem act_oldest (j : Job) : j.act j.mi = { mi := j.mi, tile := j.tile, progress := j.progress } := by
  simp [Job.act]

/-- A core whose oldest drain is over and whose array macroinstruction has ended, with job `k`. -/
def macroEnded (a : Arr) (k : Job) (x : Core) : Core :=
  { x with
    drains := x.drains.drop 1, job := some k
    chain := x.chain.map fun c => if c.mi + 1 = a.mi then { c with mi := a.mi } else c }

section
variable {s : State} {a : Arr} {j : Job} (hj : (s.core a.n).job = some j) (hm : a.mi = j.mi)
  (hred : a.reduces = false) (hg : a.op = opDist → distGate a.m = 0) (off : rbit s.hif.acctLo 0 = false)
include hj hm hred hg off

theorem arrEnd_oldest :
    arrEnd a s = s.onCore a.n fun x => { x with
      chain := x.chain.map fun c => if c.mi + 1 = a.mi then { c with mi := a.mi } else c
      job := some (afterMacro s.up j) } := by
  have job (g : Core → Option Chain) : ((s.onCore a.n fun x => { x with chain := g x }).core a.n).job = some j := by
    rw [core_onCore (present_of_job hj)]
    exact hj
  rw [arrEnd, distVector_none hred hg, hm, endMacro_oldest (job _), advance_off (job _) off, onCore_onCore]
  rfl

omit hred hg off in
/-- With no tile of it left to begin or to drain, the macroinstruction ends. -/
theorem arrSettle_last (hw : (s.core a.n).walk = none) (hd : (s.core a.n).drains = []) (ht : a.tiles ≤ j.tile) :
    arrSettle a s = arrEnd a s := by
  simp [arrSettle, hj, hm, act_oldest, ht, begunTiles, hw, hd]

/-- With its last tile written the macroinstruction ends. -/
theorem tileWritten_last {w : Walk} (hw : (s.core a.n).walk = none) (hd : (s.core a.n).drains = [w])
    (ht : a.tiles ≤ j.tile) :
    ∃ p, tileWritten a w s = s.onCore a.n (macroEnded a (afterMacro s.up { j with progress := p })) := by
  have popped : (popDrain a.n s).core a.n = { s.core a.n with drains := [] } := by
    rw [popDrain, core_onCore (present_of_job hj), hd]
    rfl
  have job : ((popDrain a.n s).core a.n).job = some j := by rw [popped]; exact hj
  have written := fun k => tilesTo_oldest job j.tile k
  have core_ : ∀ p, ((popDrain a.n s).onCore a.n fun x => { x with job := some { j with progress := p } }).core a.n =
      { s.core a.n with drains := [], job := some { j with progress := p } } := fun p => by
    rw [core_onCore (present_of_job job), popped]
  refine ⟨j.progress + (a.liveFrom ((popDrain a.n s).core a.n) (w.t + 1) - w.t), ?_⟩
  simp only [tileWritten, job, hm, act_oldest, written]
  generalize j.progress + (a.liveFrom ((popDrain a.n s).core a.n) (w.t + 1) - w.t) = p
  have job' : (((popDrain a.n s).onCore a.n fun x =>
      { x with job := some { j with progress := p } }).core a.n).job = some { j with progress := p } := by rw [core_]
  rw [arrSettle_last job' hm (by rw [core_]; exact hw) (by rw [core_]) ht, arrEnd_oldest job' hm hred hg off, popDrain,
    onCore_onCore, onCore_onCore]
  rfl

end

/-- After the last pass of a tile the tile waits for its drain, and the next tile that is walked is the next to
begin. -/
theorem passDone_tile {s : State} {a : Arr} {w : Walk} {j : Job} (hj : (s.core a.n).job = some j) (hm : a.mi = j.mi)
    (hd : (s.core a.n).drains = []) (hred : a.reduces = false) (hk : w.kr + 1 = a.geo.kb) :
    passDone a w s = s.onCore a.n fun x => { x with
      walk := none, drains := [{ w with row := 0 }]
      job := some { j with tile := a.liveFrom (s.core a.n) (w.t + 1) } } := by
  have first : (s.onCore a.n fun x => { x with drains := x.drains ++ [{ w with row := 0 }], walk := none }) =
      s.onCore a.n fun x => { x with drains := [{ w with row := 0 }], walk := none } :=
    onCore_congr (by simp [hd])
  have waiting : (s.onCore a.n fun x => { x with drains := [{ w with row := 0 }], walk := none }).core a.n =
      { s.core a.n with drains := [{ w with row := 0 }], walk := none } := core_onCore (present_of_job hj)
  have live : a.liveFrom { s.core a.n with drains := [{ w with row := 0 }], walk := none } (w.t + 1) =
      a.liveFrom (s.core a.n) (w.t + 1) := by refine liveFrom_congr a ?_ ?_ ?_ _ <;> rfl
  simp only [passDone, hk, Nat.lt_irrefl, if_false, hred, Bool.false_eq_true, false_and, first]
  rw [waiting, live, hm, tilesTo_oldest (j := j) (by rw [waiting]; exact hj), onCore_onCore]
  rfl

/-! ## An array macroinstruction runs (R180) -/

section
variable {s : State} {a : Arr} {w : Walk}

theorem arrRun_stop (h : arrGoes a (s.core a.n) = false) (k : Nat) : arrRun a k s = s := by
  cases k with
  | zero => rfl
  | succ k => simp only [arrRun, h, Bool.false_eq_true, if_false]

theorem arrRun_step {t : State} (h : arrGoes a (s.core a.n) = true) (ht : arrStep a s = t)
    (hd : (s.core a.n).drains ≠ [] ∨ (t.core a.n).drains ≠ []) (k : Nat) : arrRun a (k + 1) s = arrRun a k t := by
  have pending : ((t.core a.n).walk.isNone && (t.core a.n).drains == [] && (s.core a.n).drains == []) = false := by
    rcases hd with hd | hd
    · simp [hd]
    · simp [hd]
  simp only [arrRun, h, if_true, ht, pending, Bool.false_eq_true, if_false]

theorem arrStep_row (hd : (s.core a.n).drains = []) (hw : (s.core a.n).walk = some w) (hl : w.loaded = true) :
    arrStep a s = rowStep a w none s := by
  simp only [arrStep, hd, hw, hl, if_true]

theorem arrStep_drain {ds : List Walk} (hd : (s.core a.n).drains = w :: ds) (hi : issuing (s.core a.n) = true) :
    arrStep a s = drainStep (arrOf a.n (s.core a.n) w.mi) w s := by
  simp only [arrStep, hd, drainOne_issuing hi hd]

theorem arrGoes_oldest {x : Core} {j : Job} (hj : x.job = some j) (hm : a.mi = j.mi) (hi : issuing x = true) :
    arrGoes a x = true := by
  simp [arrGoes, hj, hm, hi, act_oldest]

theorem arrGoes_past {x : Core} {j : Job} (hj : x.job = some j) (hm : a.mi < j.mi) : arrGoes a x = false := by
  simp [arrGoes, hj, Nat.not_le.2 hm]

/-- There is fuel for a row, a drain and the end. -/
theorem three_le_arrFuel (a : Arr) (x : Core) : ∃ k, arrFuel a x = k + 3 := by
  have pass : 4 * a.geo.tr + 3 ≤ (a.geo.kb + 1) * (4 * a.geo.tr + 3) := Nat.le_mul_of_pos_left _ (Nat.succ_pos _)
  have all_ : (a.geo.kb + 1) * (4 * a.geo.tr + 3) + a.geo.tr + 2 ≤
      (a.geo.nrg * a.geo.ncb + 1) * ((a.geo.kb + 1) * (4 * a.geo.tr + 3) + a.geo.tr + 2) :=
    Nat.le_mul_of_pos_left _ (Nat.succ_pos _)
  exact ⟨arrFuel a x - 3, by unfold arrFuel; omega⟩

end

theorem turn_some {s : State} {n op mi m : Nat} (h : turn s n op = some (mi, m)) :
    unitTurn (s.core n) (unitOf op) = some mi ∧ m = macroAt (s.core n) mi ∧ mOp m = op := by
  unfold turn at h
  split at h
  · next i hi =>
    split at h
    · next ho =>
      cases h
      exact ⟨hi, rfl, ho⟩
    · cases h
  · cases h

/-- With a tile open an array macroinstruction goes on from it. -/
theorem arrMacro_open {s : State} {n op mi m : Nat} {w : Walk} (ht : turn s n op = some (mi, m))
    (hw : (s.core n).walk = some w) :
    arrMacro n op s = arrRun (arrOf n (s.core n) mi) (arrFuel (arrOf n (s.core n) mi) (s.core n)) s := by
  simp only [arrMacro, arrStart, ht, hw, Option.isSome_some, if_true]

theorem arrOf_congr {x y : Core} (h : x.store = y.store) (n mi : Nat) : arrOf n x mi = arrOf n y mi := by
  simp only [arrOf, macroAt, desc, h]

/-- The drain of a macroinstruction's last tile writes its results and ends the macroinstruction. -/
theorem arrStep_lastDrain {v u : State} {a : Arr} {w : Walk} {j : Job} {y : Core} (hy : y = v.core a.n)
    (hj : y.job = some j) (hi : issuing y = true) (hd : y.drains = [w]) (hw : y.walk = none)
    (ha : a = arrOf a.n y w.mi) (hm : a.mi = j.mi) (hahead : j.ahead = []) (hred : a.reduces = false)
    (hg : a.op = opDist → distGate a.m = 0) (off : rbit v.hif.acctLo 0 = false) (ht : a.tiles ≤ j.tile)
    (hrow : ¬ w.row + 1 < trgOf a.geo w.g) (hr : rangesFail a.n v (a.drainReads v y w) = none)
    (hu : writeCells (coreSrc a.n) (mergeWrites v ((a.drainResults v y w).flatMap (·.writes))) v = (.ok, u)) :
    OnlyCore a.n u (arrStep a v) ∧ ((arrStep a v).core a.n).walk = none ∧ ((arrStep a v).core a.n).drains = [] ∧
      ∃ k, ((arrStep a v).core a.n).job = some k ∧
        (k.mi, k.tile, k.progress, k.begun, k.skipped) = (j.mi + 1, 0, 0, false, j.skipped) := by
  subst hy
  have counted := counted_tally a.n (mDst a.m) a.dst (a.drainResults v (v.core a.n) w) u
  have hwt := (counted.walk a.n).trans ((congrArg Core.walk (core_writeCells hu a.n)).trans hw)
  have hdt := (counted.drains a.n).trans ((congrArg Core.drains (core_writeCells hu a.n)).trans hd)
  obtain ⟨hit, hjt⟩ := counted.job ((congrArg Core.job (core_writeCells hu a.n)).trans hj)
  obtain ⟨p, ended⟩ := tileWritten_last hjt hm hred hg (by rw [counted.only.hif, hif_writeCells hu, off]) hwt hdt ht
  have drained : arrStep a v = tileWritten a w (tally a.n (mDst a.m) a.dst (a.drainResults v (v.core a.n) w) u) := by
    rw [arrStep_drain hd hi, ← ha, drainStep_written rfl hr hred hu]
    simp only [hrow, if_false]
  rw [drained, ended, core_onCore (present_of_job hjt)]
  refine ⟨counted.only.trans (onlyCore_onCore _ _ _), hwt, ?_, _, rfl, ?_⟩
  · rw [macroEnded, hdt]
    rfl
  · rw [afterMacro_alone _ (by simp [hahead])]

/-- The commands of the array macroinstructions walk theirs. -/
theorem exec_array {n : Fin 24} {i : Instr} {op : Nat}
    (h : (i, op) ∈ [(Instr.matmul n, opMatmul), (.conv2d n, opConv2d), (.dist n, opDist)]) (s : State) :
    exec i s = .next (arrMacro n.val op s) := by
  simp only [List.mem_cons, Prod.mk.injEq, List.not_mem_nil, or_false] at h
  rcases h with ⟨rfl, rfl⟩ | ⟨rfl, rfl⟩ | ⟨rfl, rfl⟩ <;> rfl

/-- A core whose arrays have entered the last row of a tile's last pass, with job `j`: the tile waits for its drain. -/
def tileDrains (a : Arr) (w : Walk) (j : Job) (x : Core) : Core :=
  { x with walk := none, drains := [{ w with row := 0 }], job := some { j with tile := a.liveFrom x (w.t + 1) } }

/-- A row of a tile's last pass that is its last row takes the tile to its drain. -/
theorem arrStep_lastRow {s : State} {a : Arr} {w : Walk} {j : Job} {x : Core} {k : Nat} (hx : x = s.core a.n)
    (hj : x.job = some j) (hm : a.mi = j.mi) (hd : x.drains = []) (hw : x.walk = some w) (hl : w.loaded = true)
    (hred : a.reduces = false) (hbad : s.badWords = []) (hkr : w.kr + 1 = a.geo.kb)
    (hp : (planeOf x w.plane).parity.all id = true) (hi : nextRow a x w.g w.row = some k)
    (hn : nextRow a x w.g (k + 1) = none) (he : (a.blk w.kr w.cb).empty = false)
    (hr : rangesFail a.n s (a.rowReads s x w k) = none)
    (hs : (a.rowScale s (a.blk w.kr w.cb) (a.firstRow w.g + k)).all (fun k => k.2.2 == k.1 % 256) = true) :
    arrStep a s = { s with mem := memPutAll s.mem (a.rowCells s x w k) }.onCore a.n (tileDrains a w j) := by
  have free_ : slotsHeld a x w s = false := by simp [slotsHeld, hd]
  have done := passDone_tile (s := { s with mem := memPutAll s.mem (a.rowCells s x w k) }) (hx ▸ hj) hm (hx ▸ hd)
    hred hkr
  rw [arrStep_row (hx ▸ hd) (hx ▸ hw) hl, rowStep_good hx hi free_ he hr hs hp hbad, afterRow_last hn, done]
  exact onCore_congr rfl

/-- A row and a drain, and the end, are the whole run of a macroinstruction. -/
theorem arrRun_rowDrain {s v : State} {a : Arr} {x y : Core} {j : Job} {w : Walk} (hx : x = s.core a.n)
    (hy : y = v.core a.n) (hv : arrStep a s = v) (hi : arrGoes a x = true) (hj : y.job = some j) (hm : a.mi = j.mi)
    (hiy : issuing y = true) (hd : y.drains = [w]) {k : Job} (hk : ((arrStep a v).core a.n).job = some k)
    (hmk : k.mi = j.mi + 1) (fuel : Nat) : arrRun a (fuel + 3) s = arrStep a v := by
  subst hx hy
  have waits : (v.core a.n).drains ≠ [] := by simp [hd]
  rw [arrRun_step hi hv (Or.inr waits), arrRun_step (arrGoes_oldest hj hm hiy) rfl (Or.inl waits),
    arrRun_stop (arrGoes_past hk (by omega))]

end Sys2Proof.Machine

namespace Sys2Proof.Machine

/-! ## A macroinstruction of another unit walks its tiles (R175 to R177, R199) -/

theorem touchAll_hbm (n : Nat) (rs : List (Nat × Nat)) (s : State) :
    { touchAll n rs s with hbm := s.hbm } = s :=
  foldl_keeps (fun t : State => { t with hbm := s.hbm }) _ (fun t r => by rw [touch_hbm]) rs s

theorem core_touchAll (n k : Nat) (rs : List (Nat × Nat)) (s : State) : (touchAll n rs s).core k = s.core k :=
  (congrArg (fun t : State => t.core k) (touchAll_hbm n rs s) :)

theorem hif_touchAll (n : Nat) (rs : List (Nat × Nat)) (s : State) : (touchAll n rs s).hif = s.hif :=
  (congrArg State.hif (touchAll_hbm n rs s) :)

/-- The state in which a tile is read differs in vector registers and in free values taken. -/
theorem tileRegs_keeps (op n : Nat) (s : State) :
    ∃ bs k, tileRegs op n s = { s.onCore n fun x => { x with vregs := bs } with free := k } := by
  have left_ : ∀ m, ∃ bs k, ((freeBytes m s).2.onCore n fun x => { x with vregs := (freeBytes m s).1 }) =
      { s.onCore n fun x => { x with vregs := bs } with free := k } := fun m => ⟨_, s.free + m, rfl⟩
  unfold tileRegs
  split
  · exact left_ 8192
  · exact ⟨(s.core n).vregs, s.free, by rw [onCore_self rfl]⟩

theorem noteOor_eq {s : State} {n : Nat} {j : Job} (hj : (s.core n).job = some j) (t : Nat) (o : TileOp) :
    noteOor n t o s = s.onCore n fun x => { x with job := some { j with indexOor := j.indexOor || o.oor s t } } := by
  unfold noteOor
  split
  · next h => rw [onJob_of_job _ hj, h, Bool.or_true]
  · next h =>
    rw [onCore_self]
    rw [Bool.eq_false_of_not_eq_true h, Bool.or_false, ← hj]

/-- With accounting off the end of a macroinstruction of another unit moves the job on, and takes at most a free
value. -/
theorem tilesEnd_oldest {s : State} {n : Nat} {j : Job} (hj : (s.core n).job = some j)
    (off : rbit s.hif.acctLo 0 = false) (o : TileOp) :
    ∃ r, tilesEnd n j.mi o s = r ∧ OnlyCore n s r ∧ (r.core n).job = some (afterMacro s.up j) := by
  have charge : ∀ (t : State) (k : Nat), rbit t.hif.acctLo 0 = false → chargeVector n k t = t := by
    intro t k h
    unfold chargeVector
    split
    · exact account_off h _ _ _
    · rfl
  have ends : ∀ k, ∃ r, endMacro n j.mi { s with free := k } = r ∧ OnlyCore n s r ∧
      (r.core n).job = some (afterMacro s.up j) := by
    intro k
    refine ⟨_, ?_, ⟨fun x => { x with job := some (afterMacro s.up j) }, k, rfl⟩,
      congrArg Core.job (core_onCore (present_of_job hj))⟩
    rw [endMacro_oldest (s := { s with free := k }) hj, advance_off (s := { s with free := k }) hj off]
    rfl
  unfold tilesEnd
  split
  · exact ends s.free
  · rw [charge s _ off]
    exact ends s.free
  · rw [charge _ _ (by exact off)]
    exact ends (s.free + 1)

/-- With every tile written the macroinstruction ends. -/
theorem runTiles_over {s : State} {n : Nat} {o : TileOp} {j : Job} (hj : (s.core n).job = some j)
    (ho : o.tiles ≤ j.tile) (fuel : Nat) : runTiles n j.mi o (fuel + 1) s = tilesEnd n j.mi o s := by
  simp only [runTiles, hj, act_oldest, ge_iff_le, ho, if_true]

/-- When the tile that was written is the last, the job is at the start of its next macroinstruction. -/
theorem runTiles_written {t : State} {n : Nat} {o : TileOp} {j : Job} (hj : (t.core n).job = some j)
    (ho : o.tiles = j.tile + 1) (hahead : j.ahead = []) (off : rbit t.hif.acctLo 0 = false) (fuel : Nat) :
    ∃ r k, runTiles n j.mi o (fuel + 1) (tilesTo n j.mi (j.tile + 1) 1 t) = r ∧ OnlyCore n t r ∧
      (r.core n).job = some k ∧
      (k.mi, k.tile, k.progress, k.begun, k.skipped, k.indexOor) = (j.mi + 1, 0, 0, false, j.skipped, j.indexOor) := by
  have jobW : ((tilesTo n j.mi (j.tile + 1) 1 t).core n).job =
      some { j with tile := j.tile + 1, progress := j.progress + 1 } := by
    rw [tilesTo_oldest hj, core_onCore (present_of_job hj)]
  have onlyW : OnlyCore n t (tilesTo n j.mi (j.tile + 1) 1 t) := onlyCore_onCore _ _ _
  obtain ⟨r, ended, onlyR, jobR⟩ := tilesEnd_oldest jobW (by rw [onlyW.hif, off]) o
  refine ⟨r, _, (runTiles_over jobW (Nat.le_of_eq ho) fuel).trans ended, onlyW.trans onlyR, jobR, ?_⟩
  rw [afterMacro_alone _ (by simp [hahead])]

section
variable {s v u : State} {n : Nat} {o : TileOp} {j : Job} (hj : (s.core n).job = some j)
  (ho : o.tiles = j.tile + 1) (hc : covered (s.core n) j.mi j.tile = true)
  (hr : rangesFail n s (wholeLines (o.reads s j.tile)) = none)
  (hv : v = touchAll n (wholeLines (o.reads s j.tile)) (noteOor n j.tile o s))
  (hu : writeCells (coreSrc n) (mergeWrites v ((o.give v j.tile).flatMap (·.writes))) v = (.ok, u))
include hj ho hc hr hv hu

/-- A covered tile that can be read is written and counted. -/
theorem runTiles_tile (fuel : Nat) :
    runTiles n j.mi o (fuel + 1) s =
      runTiles n j.mi o fuel (tilesTo n j.mi (j.tile + 1) 1 (tally n o.di o.dst (o.give v j.tile) u)) := by
  have left_ : ¬ o.tiles ≤ j.tile := by omega
  rw [runTiles]
  simp only [hj, act_oldest, ge_iff_le, left_, if_false, hc, Bool.not_true, Bool.false_eq_true, hr, ← hv,
    writeRes_ok hu]

/-- The last tile is read, written and counted, and the macroinstruction ends. -/
theorem runTiles_last (off : rbit s.hif.acctLo 0 = false) (hahead : j.ahead = []) (fuel : Nat) :
    ∃ r k, runTiles n j.mi o (fuel + 2) s = r ∧ OnlyCore n u r ∧ (r.core n).job = some k ∧
      (k.mi, k.tile, k.progress, k.begun, k.skipped, k.indexOor) =
        (j.mi + 1, 0, 0, false, j.skipped, j.indexOor || o.oor s j.tile) := by
  have jobV : (v.core n).job = some { j with indexOor := j.indexOor || o.oor s j.tile } := by
    rw [hv, core_touchAll, noteOor_eq hj, core_onCore (present_of_job hj)]
  have hifV : v.hif = s.hif := by
    rw [hv, hif_touchAll, noteOor_eq hj]
    rfl
  have counted := counted_tally n o.di o.dst (o.give v j.tile) u
  obtain ⟨hit, jobT⟩ := counted.job ((congrArg Core.job (core_writeCells hu n)).trans jobV)
  obtain ⟨r, k, ran, only, job, ended⟩ := runTiles_written jobT ho hahead
    (by rw [counted.only.hif, hif_writeCells hu, hifV, off]) fuel
  exact ⟨r, k, (runTiles_tile hj ho hc hr hv hu (fuel + 1)).trans ran, counted.only.trans only, job, ended⟩

end

/-- The opcodes whose tiles leave the registers of the vector engine with other contents. -/
def usesRegs (op : Nat) : Bool := decide (op = opPool ∨ op = opEltwise ∨ op = opNms)

/-- A macroinstruction that has begun goes on with its tiles. -/
theorem tileMacro_begun {s : State} {n op m : Nat} {j : Job} (ht : turn s n op = some (j.mi, m))
    (hj : (s.core n).job = some j) (hb : j.begun = true) :
    tileMacro n op (usesRegs op) (tileOp op s) s =
      runTiles n j.mi (tileOp op s (s.core n) m) ((tileOp op s (s.core n) m).tiles + 1) (tileRegs op n s) := by
  have regs : (if usesRegs op then scratchRegs n s else s) = tileRegs op n s := by
    simp only [usesRegs, tileRegs, decide_eq_true_eq]
  simp only [tileMacro, ht, boundaryAt, hj, if_true, boundary, hb, regs]

section
variable {n : Fin 24} {i : Instr} {op : Nat}

theorem exec_tile (h : (i, op) ∈ [(Instr.dwconv n, opDwconv), (.pool n, opPool), (.eltwise n, opEltwise),
      (.requant n, opRequant), (.gather n, opGather), (.scatter n, opScatter), (.copy n, opCopy)]) (s : State) :
    exec i s = .next (tileMacro n.val op (usesRegs op) (tileOp op s) s) := by
  simp only [List.mem_cons, Prod.mk.injEq, List.not_mem_nil, or_false] at h
  rcases h with ⟨rfl, rfl⟩ | ⟨rfl, rfl⟩ | ⟨rfl, rfl⟩ | ⟨rfl, rfl⟩ | ⟨rfl, rfl⟩ | ⟨rfl, rfl⟩ |
    ⟨rfl, rfl⟩
  all_goals rfl

/-- NMS walks its tiles, and its flag store then holds other flags. -/
theorem exec_nms (s : State) :
    ∃ flags : Core → List Bool, exec (.nms n) s =
      .next ((tileMacro n.val opNms (usesRegs opNms) (tileOp opNms s) s).onCore n.val fun x =>
        { x with nmsFlags := flags x }) := by
  have walk : tileMacro n.val opNms true (nmsOp s) s = tileMacro n.val opNms (usesRegs opNms) (tileOp opNms s) s := rfl
  have same : ∀ t : State, t.onCore n.val (fun x => { x with nmsFlags := x.nmsFlags }) = t := fun t => onCore_self rfl
  simp only [exec, execNms, ← walk]
  split
  · split
    · exact ⟨fun _ => _, rfl⟩
    · exact ⟨Core.nmsFlags, by rw [same]⟩
  · exact ⟨Core.nmsFlags, by rw [same]⟩

/-- A macroinstruction of the tiled units walks its tiles; of the core, but for the flag store, nothing else changes
in the command. -/
theorem exec_tiled (h : (i, op) ∈ [(Instr.dwconv n, opDwconv), (.pool n, opPool), (.eltwise n, opEltwise),
      (.requant n, opRequant), (.nms n, opNms), (.gather n, opGather), (.scatter n, opScatter),
      (.copy n, opCopy)]) (s : State) :
    ∃ flags : Core → List Bool, exec i s =
      .next ((tileMacro n.val op (usesRegs op) (tileOp op s) s).onCore n.val fun x =>
        { x with nmsFlags := flags x }) := by
  by_cases nms : i = .nms n ∧ op = opNms
  · obtain ⟨rfl, rfl⟩ := nms
    exact exec_nms s
  · refine ⟨Core.nmsFlags, ?_⟩
    rw [onCore_self rfl]
    refine exec_tile ?_ s
    simp only [List.mem_cons, Prod.mk.injEq, List.not_mem_nil, or_false] at h ⊢
    simpa [nms] using h

end

theorem exec_drain {s : State} {n : Fin 24} {x : Core} {a : Arr} {w : Walk} {ds : List Walk} (hx : x = s.core n.val)
    (hi : issuing x = true) (hd : x.drains = w :: ds) (ha : a = arrOf n.val x w.mi) :
    exec (.drain n) s = .next (drainStep a w s) := by
  subst hx ha
  exact congrArg Host.Outcome.next (drainOne_issuing hi hd)

/-- The tile of a consumer fused to the macroinstruction before it waits until its producer has written all that it
reads (R199). -/
theorem tileMacro_waits {s : State} {n op mi m : Nat} {vec : Bool} {f : Core → Nat → TileOp} {j : Job}
    (hvec : vec = false) (ht : turn s n op = some (mi, m)) (hj : (s.core n).job = some j) (hmi : mi ≠ j.mi)
    (hf : mFuseIn m = true) (hleft : (j.act mi).tile < (f (s.core n) m).tiles)
    (hc : covered (s.core n) mi (j.act mi).tile = false) : tileMacro n op vec f s = s := by
  obtain ⟨-, rfl, -⟩ := turn_some ht
  simp only [tileMacro, ht, boundaryAt, hj, hmi, if_false, hf, Bool.true_or, if_true, hvec, Bool.false_eq_true,
    runTiles, ge_iff_le, Nat.not_le.2 hleft, hc, Bool.not_false]

/-- With its last tile read and written a macroinstruction of another unit ends; of the cores its own changes. -/
theorem tileMacro_last {s v u : State} {n op m : Nat} {j : Job} {o : TileOp} (off : rbit s.hif.acctLo 0 = false)
    (hj : (s.core n).job = some j) (ht : turn s n op = some (j.mi, m)) (hb : j.begun = true) (hahead : j.ahead = [])
    (ho : o = tileOp op s (s.core n) m) (htiles : o.tiles = j.tile + 1) (hc : covered (s.core n) j.mi j.tile = true)
    (hr : rangesFail n (tileRegs op n s) (wholeLines (o.reads (tileRegs op n s) j.tile)) = none)
    (hv : v = touchAll n (wholeLines (o.reads (tileRegs op n s) j.tile)) (noteOor n j.tile o (tileRegs op n s)))
    (hu : writeCells (coreSrc n) (mergeWrites v ((o.give v j.tile).flatMap (·.writes))) v = (.ok, u)) :
    ∃ r k, tileMacro n op (usesRegs op) (tileOp op s) s = r ∧ OnlyCore n u r ∧ (r.core n).job = some k ∧
      (k.mi, k.tile, k.progress, k.begun, k.skipped, k.indexOor) =
        (j.mi + 1, 0, 0, false, j.skipped, j.indexOor || o.oor (tileRegs op n s) j.tile) ∧
      ∀ k, k ≠ n → r.core k = s.core k := by
  rw [tileMacro_begun ht hj hb, ← ho, htiles]
  obtain ⟨bs, i, regs⟩ := tileRegs_keeps op n s
  have onlyT : OnlyCore n s (tileRegs op n s) := ⟨_, _, regs⟩
  generalize tileRegs op n s = t at hr hv regs onlyT ⊢
  have coreT : t.core n = { s.core n with vregs := bs } := by
    rw [regs]
    exact core_onCore (present_of_job hj)
  have jobT : (t.core n).job = some j := by rw [coreT]; exact hj
  have coveredT : covered (t.core n) j.mi j.tile = true := by
    rw [coreT, ← hc]
    rfl
  obtain ⟨r, k, ran, only, job, ended⟩ :=
    runTiles_last jobT htiles coveredT hr hv hu (by rw [onlyT.hif, off]) hahead j.tile
  refine ⟨r, k, ran, only, job, ended, fun l hl => ?_⟩
  rw [only.core_ne hl, core_writeCells hu, hv, core_touchAll, noteOor_eq jobT, core_onCore_ne hl, onlyT.core_ne hl]

section
variable {s u : State} {a : Arr} {w : Walk} {ds : List Walk} {x : Core} (hx : x = s.core a.n)
  (hd : x.drains = w :: ds) (hr : rangesFail a.n s (a.drainReads s x w) = none)
include hx hd hr

/-- What a slot row leaves that drains without a reduction and is not the last of its tile. -/
theorem drainStep_row (hred : a.reduces = false) (hrow : w.row + 1 < trgOf a.geo w.g)
    (hu : writeCells (coreSrc a.n) (mergeWrites s ((a.drainResults s x w).flatMap (·.writes))) s = (.ok, u)) :
    ∃ t, drainStep a w s = t ∧ OnlyCore a.n u t ∧ (t.core a.n).drains = { w with row := w.row + 1 } :: ds ∧
      (t.core a.n).walk = x.walk ∧
      (t.core a.n).job.map (fun j => (j.mi, j.tile, j.progress, j.skipped)) =
        x.job.map (fun j => (j.mi, j.tile, j.progress, j.skipped)) := by
  have drained := drainStep_written hx hr hred hu
  simp only [hrow, if_true] at drained
  have counted := counted_tally a.n (mDst a.m) a.dst (a.drainResults s x w) u
  generalize tally a.n (mDst a.m) a.dst (a.drainResults s x w) u = t at drained counted
  have hut : u.core a.n = x := (core_writeCells hu a.n).trans hx.symm
  have hdt : (t.core a.n).drains = w :: ds := by rw [counted.drains, hut, hd]
  refine ⟨_, drained, counted.only.trans (onlyCore_onCore _ _ _), ?_⟩
  rw [core_onCore (present_of_drains hdt), hdt, ← hut]
  exact ⟨rfl, counted.walk a.n, counted.job_map _ (fun _ _ => rfl) a.n⟩

end

/-- Settles O18: drains by what their slot row leaves; an array macroinstruction by its last row and its last drain; one
of another unit by its last tile; a fused one by a tile that its producer does not cover. -/
theorem macrosEnd : Obligations.MacrosEnd := by
  unfold Obligations.MacrosEnd
  refine ⟨?_, ?_, ?_, ?_, ?_⟩
  · intro s u n x a w ds rs hx hi hd ha hred hrow hr hrs hu
    subst hrs
    have run_ := exec_drain hx hi hd ha
    have hn : a.n = n.val := arrOf_n ha
    rw [← hn] at hx hr hu
    obtain ⟨t, drained, only, left_⟩ := drainStep_row hx hd hr hred hrow hu
    rw [hn] at only left_ hu
    obtain ⟨hdrains, hwalk, hjob⟩ := left_
    exact ⟨t, run_.trans (congrArg _ drained), only.mem, hdrains, hwalk, hjob,
      fun k hk => (only.core_ne hk).trans (core_writeCells hu k), only.eq⟩
  · intro s n x a w ds hx hi hd ha hred hmore hr
    have run_ := exec_drain hx hi hd ha
    have hn : a.n = n.val := arrOf_n ha
    rw [← hn] at hx hr
    rw [run_, drainStep_merged hx hr hred hmore]
    refine congrArg Host.Outcome.next ((onCore_congr ?_).trans (congrArg (fun k => s.onCore k _) hn))
    rw [← hx, hd]
    rfl
  · intro s v u n i op m k j x a w hop off hx hj hahead hturn ha hred hg hbad hw hwm hd hl hkr htrg htiles hp hi hlast
      he hr hs hv hrv hu
    obtain ⟨hunit, hmac, hop'⟩ := turn_some hturn
    obtain ⟨-, issues, -⟩ := unitTurn_some hunit
    obtain ⟨fuel, hfuel⟩ := three_le_arrFuel a x
    have run_ : exec i s = .next (arrRun a (fuel + 3) s) := by
      rw [exec_array hop, arrMacro_open hturn (hx ▸ hw), ← hx, ← ha, hfuel]
    have hn : a.n = n.val := arrOf_n ha
    have hm : a.mi = j.mi := arrOf_mi ha
    have hopa : a.op = op := by rw [← hop', hmac, ha, ← hx]; rfl
    rw [← hx] at issues
    rw [← hn] at hx hr hrv hu hv
    have row := arrStep_lastRow hx hj hm hd hw hl hred hbad hkr hp hi hlast he hr hs
    have hv' : v = { s with mem := memPutAll s.mem (a.rowCells s x w k) }.onCore a.n (tileDrains a w j) := hv
    rw [← hv'] at row
    have here : a.n < s.cores.length := present_of_job (hx ▸ hj)
    have hy : tileDrains a w j x = v.core a.n := by
      rw [hv', core_onCore (s := { s with mem := memPutAll s.mem (a.rowCells s x w k) }) here]
      exact congrArg (tileDrains a w j) hx
    have offv : rbit v.hif.acctLo 0 = false := by rw [hv']; exact off
    rw [← hy] at hrv hu
    have same : a = arrOf a.n (tileDrains a w j x) w.mi := by rw [hn, hwm, ha]; exact arrOf_congr rfl _ _
    obtain ⟨only, hwalk, hdrains, k', hjob, ended⟩ := arrStep_lastDrain hy rfl issues rfl rfl same hm hahead hred
      (fun h => hg (hopa ▸ h)) offv htiles (Nat.not_lt.2 htrg) hrv hu
    have ran := arrRun_rowDrain hx hy row (arrGoes_oldest hj hm issues) rfl hm issues rfl hjob
      (by simpa using congrArg Prod.fst ended) fuel
    refine ⟨arrStep a v, run_.trans (congrArg _ ran), only.mem, ?_, ?_, ?_, ?_, only.eq⟩
    · rw [← hn, hwalk]
    · rw [← hn, hdrains]
    · rw [← hn, hjob, Option.map_some, ended]
    · intro l hl
      rw [← hn] at hl
      rw [only.core_ne hl, core_writeCells hu, hv']
      exact core_onCore_ne hl
  · intro s v u n i op m j o hop off hj hturn hb hahead ho htiles hc hr hv hu
    obtain ⟨flags, run_⟩ := exec_tiled hop s
    obtain ⟨r, k, ran, only, job, ended, others⟩ := tileMacro_last off hj hturn hb hahead ho htiles hc hr hv hu
    have flagged := onlyCore_onCore n.val (fun x => { x with nmsFlags := flags x }) r
    refine ⟨_, run_.trans (by rw [ran]), (only.trans flagged).mem, ?_,
      fun l hl => (flagged.core_ne hl).trans (others l hl), (only.trans flagged).eq⟩
    rw [core_onCore (present_of_job job), job, Option.map_some, ended]
  · intro s n i op mi m j hop hj hturn hmi hf hleft hc
    simp only [List.mem_cons, Prod.mk.injEq, List.not_mem_nil, or_false] at hop
    have tiled : exec i s = .next (tileMacro n.val op (usesRegs op) (tileOp op s) s) := by
      rcases hop with ⟨rfl, rfl⟩ | ⟨rfl, rfl⟩
      · rfl
      · rfl
    have noRegs : usesRegs op = false := by
      rcases hop with ⟨-, rfl⟩ | ⟨-, rfl⟩
      · rfl
      · rfl
    rw [tiled, tileMacro_waits noRegs hturn hj hmi hf hleft hc]

end Sys2Proof.Machine

namespace Sys2Proof.Machine

/-! ## What a service leaves of the clock, the scheduler and the Spout's store

A job's end charges accounts, closes windows and hands off drift records before the completion record. None of it
decides what that record says, where it goes, or which start waits for the core. -/

theorem getD_updAt_part {α β : Type} {l : List α} {f : α → α} (g : α → β) (h : ∀ x, g (f x) = g x) (i k : Nat)
    (d : α) : g ((updAt l i f).getD k d) = g (l.getD k d) := by
  simp only [updAt, List.getD_eq_getElem?_getD, List.getElem?_modify]
  cases l[k]? with
  | none => rfl
  | some x =>
    by_cases e : i = k
    · simp [e, h]
    · simp [e]

/-- Every change of a part ends in `P`: so does the part, where the table's default does too. -/
theorem getD_updAt_of {α : Type} {P : α → Prop} {f : α → α} {d : α} (hd : P d) (hf : ∀ x, P (f x)) (l : List α)
    (i : Nat) : P ((updAt l i f).getD i d) := by
  by_cases h : i < l.length
  · rw [getD_updAt h]
    exact hf _
  · rw [List.getD_eq_default _ _ (by rw [length_updAt]; exact Nat.not_lt.1 h)]
    exact hd

/-- `u` has the clock, the scheduler and the number of cores of `s`, and its Spout takes a completion record of
whatever ring that of `s` takes one of (R411, R412). -/
structure EndsAs (s u : State) : Prop where
  ktl : u.ktl = s.ktl
  sched : u.sched = s.sched
  cores : u.cores.length = s.cores.length
  takes : ∀ r, takesCpl u r = takesCpl s r

section
variable {s t u : State}

theorem EndsAs.refl (s : State) : EndsAs s s := ⟨rfl, rfl, rfl, fun _ => rfl⟩

theorem EndsAs.trans (h : EndsAs s t) (k : EndsAs t u) : EndsAs s u :=
  ⟨k.ktl.trans h.ktl, k.sched.trans h.sched, k.cores.trans h.cores, fun r => (k.takes r).trans (h.takes r)⟩

theorem EndsAs.ite {c : Prop} [Decidable c] (h : EndsAs s t) (k : EndsAs s u) : EndsAs s (if c then t else u) := by
  split
  · exact h
  · exact k

theorem EndsAs.foldl {α : Type} {f : State → α → State} (h : ∀ t a, EndsAs t (f t a)) (l : List α) (s : State) :
    EndsAs s (l.foldl f s) := by
  induction l generalizing s with
  | nil => exact .refl s
  | cons a l ih => exact (h s a).trans (ih _)

theorem takesCpl_congr {r : Nat} (cfg : (u.sptRing r).cfg = (s.sptRing r).cfg) (wait : u.spt.waitCpl = s.spt.waitCpl)
    (lines : ((u.spt.arriving ++ u.spt.store).filter (·.cpl)).length =
      ((s.spt.arriving ++ s.spt.store).filter (·.cpl)).length) : takesCpl u r = takesCpl s r := by
  simp only [takesCpl, cplRoom, cfg, wait, lines]

/-- What leaves the Spout as it is leaves its completion lines. -/
theorem endsAs_of_parts (hk : u.ktl = s.ktl) (hs : u.sched = s.sched) (hc : u.cores.length = s.cores.length)
    (hp : u.spt = s.spt) : EndsAs s u :=
  ⟨hk, hs, hc, fun r => by simp only [takesCpl, cplRoom, State.sptRing, hp]⟩

theorem endsAs_of_log (h : sansLog s u = s) : EndsAs s u :=
  endsAs_of_parts (congrArg State.ktl h :) (congrArg State.sched h :)
    (congrArg List.length (congrArg State.cores h :)) (congrArg State.spt h :)

theorem endsAs_onCore (n : Nat) (f : Core → Core) (s : State) : EndsAs s (s.onCore n f) :=
  endsAs_of_parts rfl rfl (length_updAt ..) rfl

theorem endsAs_setInt (p : Page) (i : Nat) (s : State) : EndsAs s (setInt p i s) :=
  endsAs_of_log (sansLog_of_int (setInt_int p i s))

end

/-! ### Services of memories (R191, R440, R470) -/

section
variable (src : Src) (a : Nat) (s : State)

theorem endsAs_touch : EndsAs s (touch src a s) := by
  rw [touch_hbm]
  exact endsAs_of_parts rfl rfl rfl rfl

/-- An error that an agent meets in memory marks a core at most, and leaves every core's job. -/
theorem markCore_part {β : Type} (g : Core → β) (h : ∀ x, g { x with memFail := true } = g x) (k : Nat) :
    g ((markCore src a s).core k) = g (s.core k) := by
  unfold markCore
  split
  · split
    · rfl
    · exact core_onCore_part g h
  · rfl

theorem endsAs_markCore : EndsAs s (markCore src a s) := by
  unfold markCore
  split
  · exact .ite (.refl s) (endsAs_onCore _ _ s)
  · exact .refl s

theorem endsAs_logUncorr : EndsAs s (logUncorr src a s) :=
  (endsAs_markCore src a s).trans (endsAs_of_log (logUncorr_log src a s))

theorem job_logUncorr (k : Nat) : ((logUncorr src a s).core k).job = (s.core k).job := by
  have same : (logUncorr src a s).cores = (markCore src a s).cores := (congrArg State.cores (logUncorr_log src a s) :)
  rw [core_eq, same, ← core_eq]
  exact markCore_part src a s Core.job (fun _ => rfl) k

theorem endsAs_logResp (r : Resp) : EndsAs s (logResp src r a s) := endsAs_of_log (logResp_log src r a s)

theorem job_logResp (r : Resp) (k : Nat) : ((logResp src r a s).core k).job = (s.core k).job := by
  have same : (logResp src r a s).cores = s.cores := (congrArg State.cores (logResp_log src r a s) :)
  rw [core_eq, same, ← core_eq]

theorem job_touch (k : Nat) : ((touch src a s).core k).job = (s.core k).job := by
  rw [core_eq, touch_cores, ← core_eq]

theorem endsAs_readMem (n : Nat) : EndsAs s (readMem src a n s).2.2 := by
  unfold readMem
  split
  · dsimp only
    split
    · exact ((endsAs_touch src a s).trans (endsAs_logUncorr src a _)).trans (endsAs_logResp src a _ _)
    · exact endsAs_touch src a s
  · exact endsAs_logResp src a s _

/-- A read of an agent leaves the job of every core. -/
theorem job_readMem (n k : Nat) : ((readMem src a n s).2.2.core k).job = (s.core k).job := by
  unfold readMem
  split
  · dsimp only
    split
    · rw [job_logResp, job_logUncorr, job_touch]
    · exact job_touch src a s k
  · exact job_logResp src a s _ k

theorem endsAs_ringDoorbells (hit : Nat → Bool) (fb : Bool) : EndsAs s (ringDoorbells hit fb s) := by
  have keeps := ringDoorbells_keeps hit fb s
  exact endsAs_of_parts (congrArg State.ktl keeps :) (congrArg State.sched keeps :)
    (congrArg List.length (congrArg State.cores keeps :)) (congrArg State.spt keeps :)

theorem endsAs_poke (bs : List Byte) : EndsAs s (poke a bs s) := endsAs_of_parts rfl rfl rfl rfl

theorem endsAs_serve64 (fb : Bool) (f : Nat → Nat) : EndsAs s (serve64 src a fb f s).2 := by
  unfold serve64
  dsimp only
  split
  · exact (endsAs_touch src a s).trans (endsAs_of_log (invalidProg_log .cdy _))
  · split
    · exact (endsAs_touch src a s).trans (endsAs_logUncorr src a _)
    · exact ((endsAs_touch src a s).trans (endsAs_poke a _ _)).trans (endsAs_ringDoorbells _ _ _)

theorem endsAs_modify64 (fb : Bool) (f : Nat → Nat) : EndsAs s (modify64 src a fb f s).2 := by
  unfold modify64
  dsimp only
  split
  · exact (endsAs_serve64 src _ s fb f).trans (endsAs_logResp src _ _ _)
  · exact endsAs_logResp src _ s _

theorem endsAs_account (off v : Nat) : EndsAs s (account src off v s) :=
  .ite (endsAs_modify64 src _ s false _) (.refl s)

end

/-! ### The end of a job's run (R238, R242, R441) -/

theorem endsAs_chargeArray (n : Nat) (s : State) : EndsAs s (chargeArray n s) := by
  unfold chargeArray
  split
  · exact (endsAs_onCore n _ s).trans (endsAs_account .sched _ _ _)
  · exact .refl s

theorem endsAs_mseRunEnd (hit : Nat) (s : State) : EndsAs s (mseRunEnd hit s) := by
  refine .foldl (fun t n => .ite (.refl t) ?_) _ s
  exact .ite ((endsAs_onCore n _ t).trans (endsAs_setInt _ _ _)) (endsAs_onCore n _ t)

theorem endsAs_freeFrame (n f : Nat) (s : State) : EndsAs s (freeFrame n f s) := endsAs_onCore n _ s

theorem endsAs_onSptRing {n : Nat} {f : SptRing → SptRing} (h : ∀ x, (f x).cfg = x.cfg) (s : State) :
    EndsAs s (s.onSptRing n f) :=
  ⟨rfl, rfl, rfl, fun r => takesCpl_congr (getD_updAt_part SptRing.cfg h n r {}) rfl rfl⟩

theorem endsAs_onSpt {f : Spt → Spt} (rings : ∀ p, (f p).rings = p.rings) (wait : ∀ p, (f p).waitCpl = p.waitCpl)
    (lines : ∀ p, (((f p).arriving ++ (f p).store).filter (·.cpl)).length =
      ((p.arriving ++ p.store).filter (·.cpl)).length) (s : State) : EndsAs s (s.onSpt f) :=
  ⟨rfl, rfl, rfl, fun r => takesCpl_congr (congrArg (fun l => (l.getD r {}).cfg) (rings s.spt)) (wait _) (lines _)⟩

theorem endsAs_dropRec (n : Nat) (s : State) : EndsAs s (dropRec n s) := by
  unfold dropRec
  dsimp only
  refine EndsAs.trans ?_ (.ite (endsAs_setInt _ _ _) (.refl _))
  exact (endsAs_onSptRing (by exact fun _ => rfl) s).trans
    (endsAs_onSpt (by exact fun _ => rfl) (by exact fun _ => rfl) (by exact fun _ => rfl) _)

/-- Where a record is put into the order of a tick (R409), the completion records among those that arrive stay as
many as they were, but for the new one. -/
theorem arriving_cpl (l : List Rec) (r : Rec) (who : Nat) (hr : r.cpl = false) :
    ((l.filter fun q => q.tick != r.tick || decide (q.who ≤ who)) ++ r :: l.filter fun q =>
      q.tick == r.tick && decide (q.who > who)).countP (·.cpl) = l.countP (·.cpl) := by
  have rest : (fun q : Rec => q.tick == r.tick && decide (q.who > who)) =
      fun q => !(q.tick != r.tick || decide (q.who ≤ who)) := by
    funext q
    simp only [bne, Bool.not_or, Bool.not_not, gt_iff_lt, ← decide_not, Nat.not_le]
  rw [List.countP_append, List.countP_cons_of_neg (by simp [hr]), rest,
    ← List.countP_eq_countP_filter_add l (·.cpl) fun q => q.tick != r.tick || decide (q.who ≤ who)]

/-- A record that is no completion record takes no completion line. -/
theorem endsAs_handOff (who ring : Nat) (bytes : List Byte) (s : State) : EndsAs s (handOff who ring false bytes s) := by
  refine .ite (endsAs_dropRec ring s) (endsAs_onSpt (by exact fun _ => rfl) (by exact fun _ => rfl) (fun p => ?_) s)
  have count := arriving_cpl p.arriving { who, ring, cpl := false, bytes, tick := s.now } who rfl
  simp only [← List.countP_eq_length_filter, List.countP_append] at count ⊢
  rw [count]

theorem endsAs_endRun (n : Nat) (j : Job) (st : JobStore) (sat : List Nat) (s : State) :
    EndsAs s (endRun n j st sat s) :=
  ((EndsAs.foldl (fun t _ => endsAs_handOff _ _ _ t) _ s).trans
    (.ite (.refl _) (endsAs_setInt _ _ _))).trans (endsAs_mseRunEnd _ _)

end Sys2Proof.Machine

namespace Sys2Proof.Machine

/-! ## A completion record (R170, R411) -/

theorem leNat_leBytes (n v : Nat) : leNat (leBytes n v) = v % 256 ^ n := by
  induction n generalizing v with
  | zero => exact (Nat.mod_one v).symm
  | succ n ih =>
    rw [leBytes, leNat, ih, BitVec.toNat_ofNat, Nat.pow_succ' (m := 256), Nat.mod_mul]

/-! The fields of a record that a job's end is judged by: the job, STATUS, VERIFY, END_TICK. -/

theorem field_at (pre field post : List Byte) {o n : Nat} (ho : pre.length = o) (hn : field.length = n) :
    ((pre ++ (field ++ post)).drop o).take n = field := by
  rw [List.drop_left' ho, List.take_left' hn]

/-- The words of a completion record up to END_TICK. -/
theorem cplBytes_words (j : Job) (x : CplNote) (seq now : Nat) : ∃ mid post, mid.length = 16 ∧
    cplBytes j x seq now = leBytes 4 j.jobId ++
      (leBytes 4 (x.status + x.verify * 256 + cplFlags j x * 65536) ++ (mid ++ (leBytes 8 now ++ post))) := by
  refine ⟨leBytes 4 (x.stop + x.detail * 65536) ++ (leBytes 4 x.prog ++ leBytes 8 j.startTick), ?_, ?_, ?_⟩
  rotate_left 2
  · simp only [cplBytes, List.append_assoc]
    rfl
  · simp only [List.length_append, leBytes_length]

section
variable (j : Job) (x : CplNote) (seq now : Nat)

theorem cplBytes_jobId : leNat (((cplBytes j x seq now).drop 0).take 4) = j.jobId % 2 ^ 32 := by
  obtain ⟨mid, post, -, words⟩ := cplBytes_words j x seq now
  rw [words, List.drop_zero, List.take_left' (leBytes_length 4 _), leNat_leBytes_four]

/-- STATUS is the low byte of the record's second word. -/
theorem cplBytes_status (h : x.status < 256) : leNat (((cplBytes j x seq now).drop 4).take 1) = x.status := by
  obtain ⟨mid, post, -, words⟩ := cplBytes_words j x seq now
  have low : ∀ l w r, l ++ (leBytes 4 w ++ r) = l ++ (leBytes 1 w ++ (leBytes 3 (w / 256) ++ r)) := fun _ _ _ => rfl
  rw [words, low, field_at _ _ _ (leBytes_length 4 _) (leBytes_length 1 _), leNat_leBytes]
  omega

/-- VERIFY is the byte after STATUS. -/
theorem cplBytes_verify (h : x.status < 256) :
    leNat (((cplBytes j x seq now).drop 5).take 1) = x.verify % 256 := by
  obtain ⟨mid, post, -, words⟩ := cplBytes_words j x seq now
  have second : ∀ l w r, l ++ (leBytes 4 w ++ r) =
      (l ++ leBytes 1 w) ++ (leBytes 1 (w / 256) ++ (leBytes 2 (w / 256 / 256) ++ r)) := by
    intro l w r
    rw [List.append_assoc]
    rfl
  rw [words, second, field_at _ _ _ (by rw [List.length_append, leBytes_length, leBytes_length]) (leBytes_length 1 _),
    leNat_leBytes]
  omega

theorem cplBytes_endTick (h : now < 2 ^ 64) : leNat (((cplBytes j x seq now).drop 24).take 8) = now := by
  obtain ⟨mid, post, hmid, words⟩ := cplBytes_words j x seq now
  rw [words, ← List.append_assoc, ← List.append_assoc,
    field_at _ _ _ (by rw [List.length_append, List.length_append, leBytes_length, leBytes_length, hmid])
      (leBytes_length 8 _), leNat_leBytes]
  exact Nat.mod_eq_of_lt h

end

theorem now_lt (s : State) : s.now < 2 ^ 64 := s.ktl.count.isLt

/-- `t` holds, on its way into the Spout, a completion record of job `j` with note `x` and END_TICK `now`. -/
def Recorded (j : Job) (x : CplNote) (now : Nat) (t : State) : Prop :=
  ∃ seq, ∃ r ∈ t.spt.arriving, r.cpl = true ∧ r.ring = j.cplRing ∧ r.bytes = cplBytes j x seq now

theorem Recorded.handed {j : Job} {x : CplNote} {now : Nat} {t : State} (h : Recorded j x now t)
    {fs : List (Nat × Nat × Nat)}
    (hf : ∀ seq, ∀ f ∈ fs, leNat (((cplBytes j x seq now).drop f.1).take f.2.1) = f.2.2) :
    handed t j.cplRing fs = true := by
  obtain ⟨seq, r, hr, cpl, ring, bytes⟩ := h
  rw [Sys2Proof.handed, List.any_eq_true]
  refine ⟨r, hr, ?_⟩
  simp only [cpl, ring, bytes, beq_self_eq_true, Bool.and_self, Bool.true_and, List.all_eq_true, beq_iff_eq]
  exact hf seq

theorem handOff_enabled {s : State} {ring : Nat} (h : rbit (s.sptRing ring).cfg 31 = true) (who : Nat) (cpl : Bool)
    (bytes : List Byte) : ∃ r ∈ (handOff who ring cpl bytes s).spt.arriving,
      r.cpl = cpl ∧ r.ring = ring ∧ r.bytes = bytes := by
  refine ⟨{ who, ring, cpl, bytes, tick := s.now }, ?_, rfl, rfl, rfl⟩
  simp only [handOff, h, Bool.not_true, Bool.false_eq_true, if_false, State.onSpt_spt]
  exact List.mem_append_right _ List.mem_cons_self

theorem handOff_parts (who ring : Nat) (cpl : Bool) (bytes : List Byte) {s : State}
    (h : rbit (s.sptRing ring).cfg 31 = true) :
    (handOff who ring cpl bytes s).cores = s.cores ∧ (handOff who ring cpl bytes s).sched = s.sched := by
  simp only [handOff, h, Bool.not_true, Bool.false_eq_true, if_false]
  exact ⟨rfl, rfl⟩

/-- What a change leaves of a slot holds of the slot looked up; beyond the table it must hold of the reset value. -/
theorem slot_onSlot_of {P : Slot → Prop} {f : Slot → Slot} (hd : P {}) (h : ∀ x, P (f x)) (s : State) (c k : Nat) :
    P ((s.onSlot c k f).slot c k) := by
  have default_ : (List.replicate 64 ({} : Slot)).getD k {} = {} := by
    rw [List.getD_eq_getElem?_getD, List.getElem?_getD_replicate_default_eq]
  exact getD_updAt_of (P := fun x : Ctx => P (x.slots.getD k {})) (default_.symm ▸ hd)
    (fun x => getD_updAt_of hd h x.slots k) s.sched.ctxs c

theorem slot_onCtx_same {f : Ctx → Ctx} (h : ∀ x, (f x).slots = x.slots) (s : State) (c d k : Nat) :
    (s.onCtx c f).slot d k = s.slot d k :=
  congrArg (·.getD k {}) (getD_updAt_part (l := s.sched.ctxs) Ctx.slots h c d {})

theorem after_onCtx (c : Nat) (f : Ctx → Ctx) (s : State) : (s.onCtx c f).sched.after = s.sched.after := rfl

theorem after_onSlot (c k : Nat) (f : Slot → Slot) (s : State) : (s.onSlot c k f).sched.after = s.sched.after := rfl

section
variable {s : State} {j : Job} (h : takesCpl s j.cplRing = true) (x : CplNote)
include h

theorem complete_of_takes : complete j x s = handComplete j x s :=
  if_pos (Bool.and_eq_true_iff.1 h).2

/-- The record of a job that ends is handed off at once. -/
theorem complete_recorded : Recorded j x s.now (complete j x s) := by
  simp only [complete_of_takes h, handComplete, Recorded, State.onCtx_spt, State.onSlot_spt]
  exact ⟨_, handOff_enabled (Bool.and_eq_true_iff.1 h).1 x.who true _⟩

theorem complete_slot : ((complete j x s).slot j.ctx j.slot).state = .empty := by
  simp only [complete_of_takes h, handComplete]
  rw [slot_onCtx_same (fun c => by split <;> rfl)]
  exact slot_onSlot_of (P := fun x => x.state = .empty) rfl (by exact fun _ => rfl) _ _ _

theorem complete_cores : (complete j x s).cores = s.cores := by
  simp only [complete_of_takes h, handComplete, State.onCtx_cores, State.onSlot_cores]
  exact (handOff_parts _ _ _ _ (Bool.and_eq_true_iff.1 h).1).1

theorem complete_after : (complete j x s).sched.after = s.sched.after := by
  simp only [complete_of_takes h, handComplete, after_onCtx, after_onSlot]
  rw [(handOff_parts _ _ _ _ (Bool.and_eq_true_iff.1 h).1).2]

end

/-! ## A job leaves its core (R170, R424) -/

/-- Without a start that waits for it a released core takes on the driver fence asked for, and nothing else. -/
theorem releaseCore_free {s : State} {n : Nat} (h : s.sched.after.getD n none = none) :
    releaseCore n s = s.onCore n fun x => { x with drvFence := x.drvFence || (s.hdr (corePage n)).fence } := by
  have free : (s.onCore n fun x =>
      { x with drvFence := x.drvFence || (s.hdr (corePage n)).fence }).sched.after.getD n none = none := h
  simp only [releaseCore, free]

/-- Job `j` ends on core `n` with note `x`. -/
def leaveCore (n : Nat) (j : Job) (x : CplNote) (s : State) : State :=
  releaseCore n (takeoverNoJob n ((complete j x s).onCore n clearCore))

/-- Core `n` is idle, the slot of its job `j` is EMPTY, and the record is handed off. -/
structure JobEnded (n : Nat) (j : Job) (x : CplNote) (now : Nat) (t : State) : Prop where
  job : (t.core n).job = none
  phase : (t.core n).phase = .idle
  slot : (t.slot j.ctx j.slot).state = .empty
  record : Recorded j x now t

theorem leaveCore_ended {s : State} {n : Nat} {j : Job} (here : n < s.cores.length)
    (free : s.sched.after.getD n none = none) (room : takesCpl s j.cplRing = true) (x : CplNote) :
    JobEnded n j x s.now (leaveCore n j x s) := by
  have cores : n < (complete j x s).cores.length := by rwa [complete_cores room]
  have after := complete_after room x
  have slot := complete_slot room x
  have record := complete_recorded room x
  unfold leaveCore
  generalize complete j x s = u at cores after slot record ⊢
  have free' : (takeoverNoJob n (u.onCore n clearCore)).sched.after.getD n none = none := after ▸ free
  rw [releaseCore_free free']
  refine ⟨?_, ?_, slot, record⟩
  · exact (core_onCore_part Core.job (by exact fun _ => rfl)).trans (congrArg Core.job (core_onCore cores))
  · exact (core_onCore_part Core.phase (by exact fun _ => rfl)).trans (congrArg Core.phase (core_onCore cores))

section
variable {s : State} {n : Nat} {j : Job} (hj : (s.core n).job = some j)
include hj

/-- What precedes the record of a job that ends leaves what the end rests on. -/
theorem finishJob_leaves (status : Nat) : ∃ u x, EndsAs s u ∧ x.status = status ∧
    finishJob n status s = leaveCore n j x u := by
  have ran : EndsAs s (if (s.core n).phase != .verify then
      endRun n j (s.core n).store (s.core n).sat (chargeArray n s) else chargeArray n s) :=
    .ite ((endsAs_chargeArray n s).trans (endsAs_endRun _ _ _ _ _)) (endsAs_chargeArray n s)
  unfold finishJob
  simp only [hj]
  refine ⟨_, _, .ite (ran.trans (endsAs_freeFrame _ _ _)) (.ite ?_ ran), rfl, rfl⟩
  split
  · exact ran.trans (endsAs_freeFrame _ _ _)
  · exact ran

theorem rejectJob_leaves (r : Reject) : ∃ u x, EndsAs s u ∧ x.status = jsRejected ∧ x.verify = r.code ∧
    rejectJob n r s = leaveCore n { j with inFallback := r.fb } x u := by
  unfold rejectJob
  simp only [hj]
  exact ⟨_, _, endsAs_chargeArray n s, rfl, rfl, rfl⟩

variable (free : s.sched.after.getD n none = none) (room : takesCpl s j.cplRing = true)
include free room

theorem finishJob_ended (status : Nat) : ∃ x, x.status = status ∧ JobEnded n j x s.now (finishJob n status s) := by
  obtain ⟨u, x, ends, hx, leaves⟩ := finishJob_leaves hj status
  have now_ : u.now = s.now := congrArg (·.count.toNat) ends.ktl
  rw [leaves, ← now_]
  exact ⟨x, hx, leaveCore_ended (ends.cores ▸ present_of_job hj) (ends.sched ▸ free) ((ends.takes _).trans room) x⟩

theorem rejectJob_ended (r : Reject) : ∃ x, x.status = jsRejected ∧ x.verify = r.code ∧
    JobEnded n { j with inFallback := r.fb } x s.now (rejectJob n r s) := by
  obtain ⟨u, x, ends, hx, hv, leaves⟩ := rejectJob_leaves hj r
  have now_ : u.now = s.now := congrArg (·.count.toNat) ends.ktl
  rw [leaves, ← now_]
  exact ⟨x, hx, hv, leaveCore_ended (j := { j with inFallback := r.fb }) (ends.cores ▸ present_of_job hj)
    (ends.sched ▸ free) ((ends.takes _).trans room) x⟩

end

end Sys2Proof.Machine

namespace Sys2Proof.Machine

/-! ## A JOB_START (R200, R205, R424, R429, R601) -/

/-- The job that a launch of slot `k` of context `c` gives a core. -/
def launchedJob (s : State) (c k : Nat) : Job :=
  let h := parseHdr (peek s (s.slot c k).image 128)
  { ctx := c, slot := k, startTick := s.now, heldFrom := s.up, acctTick := s.up, jobId := h.jobId
    cplRing := h.cplRing, priDeadline := h.deadline, div := divider s, planId := s.mesh.planId.toNat }

/-- A core that starts to verify job `j`, until `due`. -/
def verifyingCore (j : Job) (due : Nat) (x : Core) : Core :=
  { x with
    job := some j, phase := .verify, due := due, store := {}
    mask := none, maskAll := false, batchSize := 0, sat := List.replicate 1024 0
    walk := none, drains := [], ring := 0, chain := none, codebook := none, redStore := [], wait := none
    stopWhy := .none, plane0 := {}, plane1 := {}, vregs := List.replicate 8192 0, nmsFlags := [] }

/-- The verification time rests on what the images read as. -/
theorem verifyTime_congr {s t : State} (reads : ∀ b n, peek t b n = peek s b n)
    (bad : ∀ b n, badAt t b n = badAt s b n) (resp : ∀ b, respOf t .sched b = respOf s .sched b) (a : Nat) :
    verifyTime t a = verifyTime s a := by
  simp only [verifyTime, fbTicks, reads, bad, resp]

/-- A launch makes the slot ACTIVE and changes the core, and nothing else. -/
theorem launch_eq (n c k : Nat) (s : State) :
    launch n c k s = (s.onSlot c k fun x => { x with state := .active, saved := none }).onCore n
      (verifyingCore (launchedJob s c k) (s.up + verifyTime s (s.slot c k).image)) := by
  have time := verifyTime_congr (s := s) (t := s.onSlot c k fun x => { x with state := .active, saved := none })
    (fun _ _ => rfl) (fun _ _ => rfl) (fun _ => rfl) (s.slot c k).image
  simp only [launch, time]
  rfl

theorem exec_jobStart {s u : State} {c : Fin 256} {k : Fin 64} {a : Action}
    (h : takeAction s 8 1 (fun a => a.target == c.val && a.arg16 == k.val) = some (a, u)) :
    exec (.jobStart c k) s = .next (jobStartOp c.val k.val u) := by
  simp only [exec, execJobStart, h]

/-- A delivery changes the launch network, and neither the count nor the ticks since reset. -/
theorem takeAction_onKtl {s u : State} {lat code : Nat} {p : Action → Bool} {a : Action}
    (h : takeAction s lat code p = some (a, u)) :
    ∃ f : Ktl → Ktl, (∀ k, (f k).count = k.count) ∧ (∀ k, (f k).up = k.up) ∧ u = s.onKtl f := by
  obtain ⟨i, -, -, -, -, rfl⟩ := takeAction_some h
  exact ⟨fun k => { k with net := k.net.eraseIdx i }, fun _ => rfl, fun _ => rfl, rfl⟩

/-- What a launch gives a core rests on the count and the ticks since reset, and on nothing else of the Kettle. -/
theorem launch_onKtl {f : Ktl → Ktl} (count : ∀ k, (f k).count = k.count) (up : ∀ k, (f k).up = k.up) (n c k : Nat)
    (s : State) : launch n c k (s.onKtl f) =
      ((s.onKtl f).onSlot c k fun x => { x with state := .active, saved := none }).onCore n
        (verifyingCore (launchedJob s c k) (s.up + verifyTime s (s.slot c k).image)) := by
  have job : launchedJob (s.onKtl f) c k = launchedJob s c k := by
    simp only [launchedJob, State.now, State.up, State.onKtl_ktl, count, up]
    rfl
  have time := verifyTime_congr (s := s) (t := s.onKtl f) (fun _ _ => rfl) (fun _ _ => rfl) (fun _ => rfl)
    (s.slot c k).image
  rw [launch_eq, job, ← time, ← show (s.onKtl f).up = s.up from up s.ktl]
  rfl

section
variable {s : State} {c k : Nat}

theorem jobStartOp_refused (h : (s.ctx c).enabled = false ∨ ctxHeld s c = true ∨ ctxShare s c = true ∨
    (s.ctx c).onValid = true) : jobStartOp c k s = ctxCount c 0xc s := by
  rw [jobStartOp, if_pos]
  simpa [or_assoc] using h

section
variable (enabled : (s.ctx c).enabled = true) (held : ctxHeld s c = false) (share : ctxShare s c = false)
  (onValid : (s.ctx c).onValid = false)
include enabled held share onValid

theorem jobStartOp_notValid (h : (s.slot c k).state ≠ .valid) : jobStartOp c k s = ctxCount c 0 s := by
  simp only [jobStartOp, enabled, held, share, onValid, Bool.not_true, Bool.or_self, Bool.false_eq_true, if_false,
    if_pos h]

variable (valid : (s.slot c k).state = .valid)
include valid

theorem jobStartOp_free (free : coreFree s (maskCore (s.slot c k).coreMask) = true) :
    jobStartOp c k s = launch (maskCore (s.slot c k).coreMask) c k s := by
  simp only [jobStartOp, enabled, held, share, onValid, Bool.not_true, Bool.or_self, Bool.false_eq_true, if_false,
    valid, ne_eq, not_true, free, if_true]

theorem jobStartOp_busy (busy : coreFree s (maskCore (s.slot c k).coreMask) = false)
    (urgent : (s.ctx c).urgent = false) :
    jobStartOp c k s = holdStart (maskCore (s.slot c k).coreMask) c k s := by
  simp only [jobStartOp, enabled, held, share, onValid, Bool.not_true, Bool.or_self, Bool.false_eq_true, if_false,
    valid, ne_eq, not_true, busy, urgent, Bool.false_and]

end

end

theorem maskCore_lt (m : Nat) : maskCore m < 24 := by
  unfold maskCore setBits
  cases h : (List.range 24).filter fun i => m.testBit i with
  | nil => decide
  | cons a l =>
    have mem : a ∈ (List.range 24).filter fun i => m.testBit i := h ▸ List.mem_cons_self
    exact List.mem_range.1 (List.mem_of_mem_filter mem)

/-! ## Verification ends (R170, R171, R186, R423, R496) -/

section
variable {s : State} {n : Fin 24} {j : Job} (hj : (s.core n.val).job = some j) (hp : (s.core n.val).phase = .verify)
  (due : (s.core n.val).due ≤ s.up)
include hj hp due

theorem exec_verifyDone_passed
    (ok : jobFail s { core := n.val, fixed := !ctxShare s j.ctx, part := (s.ctx j.ctx).part, bad := j.badReads }
      (s.slot j.ctx j.slot) j.div j.planId = none) :
    exec (.verifyDone n) s = .next (readMask n.val (s.slot j.ctx j.slot)
      (s.onCore n.val fun x => { x with phase := .run, store := loadStore s (s.slot j.ctx j.slot).image })) := by
  simp only [exec, execVerifyDone, hj, hp, due, and_self, if_true, ok]

variable {r : Reject}
  (fails : jobFail s { core := n.val, fixed := !ctxShare s j.ctx, part := (s.ctx j.ctx).part, bad := j.badReads }
      (s.slot j.ctx j.slot) j.div j.planId = some r)
include fails

theorem exec_verifyDone_rejected (read : r.unread = none) :
    exec (.verifyDone n) s = .next (rejectJob n.val r s) := by
  simp only [exec, execVerifyDone, hj, hp, due, and_self, if_true, fails, read]

theorem exec_verifyDone_unread {a : Nat} (unread : r.unread = some a) :
    exec (.verifyDone n) s = .next (finishJob n.val jsAborted (logUncorr (coreSrc n.val) a s)) := by
  simp only [exec, execVerifyDone, hj, hp, due, and_self, if_true, fails, unread, abortJob]

end

/-- A range of device addresses is read in two parts. -/
theorem peek_add (s : State) (a m n : Nat) : peek s a (m + n) = peek s a m ++ peek s (a + m) n := by
  simp only [peek, List.range_add, List.map_append, List.map_map, Function.comp_def, Nat.add_assoc]

/-- A change of a core that keeps its fences changes no answer to a read. -/
theorem readable_onCore {n : Nat} {f : Core → Core} (mgmt : ∀ x, (f x).mgmtFence = x.mgmtFence)
    (drv : ∀ x, (f x).drvFence = x.drvFence) (s : State) (src : Src) (a l : Nat) :
    readable (s.onCore n f) src a l = readable s src a l := by
  have fenced (k : Nat) : coreFenced (s.onCore n f) k = coreFenced s k := by
    simp only [coreFenced, core_onCore_part Core.mgmtFence mgmt, core_onCore_part Core.drvFence drv]
  have resp (b : Nat) : respOf (s.onCore n f) src b = respOf s src b := by
    unfold respOf
    split
    · rfl
    · rfl
    · rfl
    · rfl
    · rw [fenced]
      rfl
  have bad : badAt (s.onCore n f) a l = badAt s a l := rfl
  simp only [readable, respRange, funext resp, bad]

/-- The sample mask that a slot names is read once (R186, R423). -/
theorem readMask_named {s : State} {n : Nat} {k : Slot} {f : Core → Core} (mgmt : ∀ x, (f x).mgmtFence = x.mgmtFence)
    (drv : ∀ x, (f x).drvFence = x.drvFence) (named : k.batch ≠ 0)
    (reads : readable s (coreSrc n) k.batch 64 = true) :
    readMask n k (s.onCore n f) = { s with
      hbm := (touch (coreSrc n) k.batch (s.onCore n f)).hbm
      cores := updAt s.cores n fun x =>
        { f x with mask := some (peekNat s k.batch 8), batchSize := fld (peekNat s (k.batch + 16) 48) 6 0 } } := by
  have head : (peek s k.batch 64).take 8 = peek s k.batch 8 := by
    rw [peek_add s k.batch 8 56, List.take_left' (peek_length ..)]
  have tail : (peek s k.batch 64).drop 16 = peek s (k.batch + 16) 48 := by
    rw [peek_add s k.batch 16 48, List.drop_left' (peek_length ..)]
  have same : peek (s.onCore n f) k.batch 64 = peek s k.batch 64 := rfl
  rw [readMask, if_neg named, readMem_of_readable ((readable_onCore mgmt drv s _ _ _).trans reads), touch_hbm, same]
  simp only [if_true, head, tail, State.onCore, updAt_updAt]
  rfl

theorem exec_verifyDone_named {s : State} {n : Fin 24} {j : Job} (hj : (s.core n.val).job = some j)
    (hp : (s.core n.val).phase = .verify) (due : (s.core n.val).due ≤ s.up)
    (ok : jobFail s { core := n.val, fixed := !ctxShare s j.ctx, part := (s.ctx j.ctx).part, bad := j.badReads }
      (s.slot j.ctx j.slot) j.div j.planId = none)
    (named : (s.slot j.ctx j.slot).batch ≠ 0)
    (reads : readable s (coreSrc n.val) (s.slot j.ctx j.slot).batch 64 = true) :
    ∃ h, exec (.verifyDone n) s = .next { s with
      hbm := h
      cores := updAt s.cores n.val fun x => { x with
        phase := .run, store := loadStore s (s.slot j.ctx j.slot).image
        mask := some (peekNat s (s.slot j.ctx j.slot).batch 8)
        batchSize := fld (peekNat s ((s.slot j.ctx j.slot).batch + 16) 48) 6 0 } } := by
  rw [exec_verifyDone_passed hj hp due ok]
  exact ⟨_, congrArg _ (readMask_named (by exact fun _ => rfl) (by exact fun _ => rfl) named reads)⟩

end Sys2Proof.Machine

namespace Sys2Proof.Machine

/-- A job that fails its check ends with the record that its failure asks for. -/
theorem verifyDone_failed {s : State} {n : Fin 24} {j : Job} {r : Reject} (hj : (s.core n.val).job = some j)
    (hp : (s.core n.val).phase = .verify) (due : (s.core n.val).due ≤ s.up)
    (fails : jobFail s { core := n.val, fixed := !ctxShare s j.ctx, part := (s.ctx j.ctx).part, bad := j.badReads }
      (s.slot j.ctx j.slot) j.div j.planId = some r)
    (free : s.sched.after.getD n.val none = none) (room : takesCpl s j.cplRing = true) :
    ∃ t k x, exec (.verifyDone n) s = .next t ∧ k = { j with inFallback := k.inFallback } ∧
      JobEnded n.val k x s.now t ∧ (r.unread = none → x.status = jsRejected ∧ x.verify = r.code) ∧
      (r.unread ≠ none → x.status = jsAborted) := by
  cases read : r.unread with
  | none =>
    obtain ⟨x, status, verify, ended⟩ := rejectJob_ended hj free room r
    exact ⟨_, _, x, exec_verifyDone_rejected hj hp due fails read, rfl, ended, fun _ => ⟨status, verify⟩,
      fun h => absurd rfl h⟩
  | some a =>
    have logged := endsAs_logUncorr (coreSrc n.val) a s
    obtain ⟨x, status, ended⟩ := finishJob_ended (s := logUncorr (coreSrc n.val) a s)
      ((job_logUncorr _ _ _ _).trans hj) (logged.sched ▸ free) ((logged.takes _).trans room) jsAborted
    have now_ : (logUncorr (coreSrc n.val) a s).now = s.now := congrArg (·.count.toNat) logged.ktl
    exact ⟨_, j, x, exec_verifyDone_unread hj hp due fails read, rfl, now_ ▸ ended, nofun, fun _ => status⟩

theorem exec_jobStart_free {s u : State} {c : Fin 256} {k : Fin 64} {a : Action}
    (take : takeAction s 8 1 (fun a => a.target == c.val && a.arg16 == k.val) = some (a, u))
    (enabled : (s.ctx c.val).enabled = true) (held : ctxHeld s c.val = false) (share : ctxShare s c.val = false)
    (onValid : (s.ctx c.val).onValid = false) (valid : (s.slot c.val k.val).state = .valid)
    (free : coreFree s (maskCore (s.slot c.val k.val).coreMask) = true) :
    ∃ f, u = s.onKtl f ∧ exec (.jobStart c k) s = .next
      (((s.onKtl f).onSlot c.val k.val fun x => { x with state := .active, saved := none }).onCore
        (maskCore (s.slot c.val k.val).coreMask)
        (verifyingCore (launchedJob s c.val k.val) (s.up + verifyTime s (s.slot c.val k.val).image))) := by
  rw [exec_jobStart take]
  obtain ⟨f, count, up, rfl⟩ := takeAction_onKtl take
  rw [jobStartOp_free (by exact enabled) (by exact held) (by exact share) (by exact onValid) (by exact valid)
    (by exact free), launch_onKtl count up]
  exact ⟨f, rfl, rfl⟩

theorem core_launched {s : State} {n : Nat} (here : n < s.cores.length) (f : Ktl → Ktl) (c k : Nat) (g : Slot → Slot)
    (h : Core → Core) : (((s.onKtl f).onSlot c k g).onCore n h).core n = h (s.core n) := core_onCore here

/-- Settles O12: the start by what its context, its slot and its core say, the end of verification by the check. -/
theorem fixedPlanJobs : Obligations.FixedPlanJobs := by
  unfold Obligations.FixedPlanJobs
  refine ⟨?_, ?_, ?_, ?_, ?_, ?_, ?_⟩
  · intro s u c k a n h hs take enabled held share onValid valid hn free hh
    obtain ⟨f, hf, run⟩ := exec_jobStart_free take enabled held share onValid valid (hn ▸ free)
    rw [← hn] at run
    have here : n < s.cores.length := by
      rw [cores_of_sized hs, hn]
      exact maskCore_lt _
    subst hf hh
    refine ⟨_, run, ?_⟩
    simp only [core_launched here]
    exact ⟨rfl, rfl, rfl, rfl, rfl, rfl, rfl, rfl, rfl, rfl, rfl, rfl, rfl, rfl, rfl, rfl, rfl,
      fun m hm => core_onCore_ne hm, rfl⟩
  · intro s u c k a n take enabled held share onValid valid hn busy urgent
    rw [exec_jobStart take]
    obtain ⟨f, -, -, rfl⟩ := takeAction_onKtl take
    subst hn
    rw [jobStartOp_busy (by exact enabled) (by exact held) (by exact share) (by exact onValid) (by exact valid)
      (by exact busy) (by exact urgent)]
    rfl
  · intro s u c k a take refused
    rw [exec_jobStart take]
    obtain ⟨f, -, -, rfl⟩ := takeAction_onKtl take
    rw [jobStartOp_refused (by exact refused)]
  · intro s u c k a take enabled held share onValid valid
    rw [exec_jobStart take]
    obtain ⟨f, -, -, rfl⟩ := takeAction_onKtl take
    rw [jobStartOp_notValid (by exact enabled) (by exact held) (by exact share) (by exact onValid) (by exact valid)]
  · intro s n j k hj hp due hk ok unnamed
    subst hk
    rw [exec_verifyDone_passed hj hp due ok, readMask, if_pos unnamed]
    rfl
  · intro s n j k hj hp due hk ok named reads
    subst hk
    obtain ⟨h, run⟩ := exec_verifyDone_named hj hp due ok named reads
    exact ⟨_, run, rfl⟩
  · intro s n j r hj hp due fails free room
    obtain ⟨t, k, x, run, hk, ended, rejected, aborted⟩ := verifyDone_failed hj hp due fails free room
    obtain ⟨b, rfl⟩ : ∃ b, k = { j with inFallback := b } := ⟨_, hk⟩
    refine ⟨t, run, ended.job, ended.phase, ended.slot, fun h => ?_, fun h => ?_⟩
    · obtain ⟨status, verify⟩ := rejected h
      have small : x.status < 256 := by rw [status]; decide
      refine ended.record.handed fun seq => ?_
      simp only [List.forall_mem_cons]
      exact ⟨cplBytes_jobId _ x seq _, (cplBytes_status _ x seq _ small).trans status,
        (cplBytes_verify _ x seq _ small).trans (by rw [verify]), cplBytes_endTick _ x seq _ (now_lt s), nofun⟩
    · have status := aborted h
      have small : x.status < 256 := by rw [status]; decide
      refine ended.record.handed fun seq => ?_
      simp only [List.forall_mem_cons]
      exact ⟨cplBytes_jobId _ x seq _, (cplBytes_status _ x seq _ small).trans status,
        cplBytes_endTick _ x seq _ (now_lt s), nofun⟩

end Sys2Proof.Machine

namespace Sys2Proof.Machine

/-! ## A first access changes no answer (R462) -/

theorem touch_twice (src : Src) (a : Nat) (s : State) : touch src a (touch src a s) = touch src a s := by
  unfold touch
  split
  · rfl
  · rfl

theorem respOf_touch (src src' : Src) (a b : Nat) (s : State) : respOf (touch src a s) src' b = respOf s src' b := by
  unfold touch
  split
  · rfl
  · rfl

theorem readable_touch (src src' : Src) (a b n : Nat) (s : State) :
    readable (touch src a s) src' b n = readable s src' b n := by
  simp only [readable, respRange, funext (respOf_touch src src' a · s), badAt_touch]

theorem crcOk_touch (src : Src) (a b : Nat) (h : JobHdr) (s : State) : crcOk (touch src a s) b h = crcOk s b h := by
  simp only [crcOk, peek_touch]

theorem loadStore_touch (src : Src) (a b : Nat) (s : State) : loadStore (touch src a s) b = loadStore s b := by
  simp only [loadStore, peekNat, peek_touch]

theorem frameBase_touch (src : Src) (a n f : Nat) (s : State) : frameBase (touch src a s) n f = frameBase s n f := by
  simp only [frameBase, core_eq, touch_cores]

/-! ## The fallback's first micro-step (R127, R443) -/

section
variable {s : State} {n : Fin 24} {b : Nat} (hp : (s.core n.val).phase = .fallbackLoad)
  (due : (s.core n.val).due ≤ s.up) (hb : b = (s.core n.val).store.hdr.fallback)
  (head : readable s (coreSrc n.val) b 128 = true)
  (image : readable s (coreSrc n.val) b (parseHdr (peek s b 128)).imageBytes = true)
include hp due hb head image

theorem exec_fallbackStart : exec (.fallbackStart n) s = .next (if crcOk s b (parseHdr (peek s b 128)) = true then
    (touch (coreSrc n.val) b s).onCore n.val fun x => { x with phase := .run, store := loadStore s b }
    else finishJob n.val jsAborted (touch (coreSrc n.val) b s)) := by
  have second := readMem_of_readable ((readable_touch (coreSrc n.val) _ b _ _ s).trans image)
  simp only [exec, execFallbackStart, hp, due, ← hb, and_self, if_true, readMem_of_readable head, second, touch_twice,
    crcOk_touch, loadStore_touch, true_and]

end

/-! ## A stop takes effect (R446, R448, R450) -/

section
variable {s : State} {n : Fin 24} (hp : (s.core n.val).phase = .run)
include hp

theorem exec_preemptRequest_save {f : Nat} (why : (s.core n.val).stopWhy = .preempt)
    (lo : rbit (s.core n.val).saveLo 0 = true) (frame : freeFrameOf s n.val = some f) :
    exec (.preemptRequest n) s = .next (beginSave n.val f true s) := by
  simp only [exec, execPreemptRequest, hp, if_true, why, frame, lo]

theorem exec_preemptRequest_takeover (why : (s.core n.val).stopWhy = .takeover)
    (lo : rbit (s.core n.val).saveLo 0 = true) :
    exec (.preemptRequest n) s = .next (beginSave n.val 3 false s) := by
  simp only [exec, execPreemptRequest, hp, if_true, why, lo]

theorem exec_preemptRequest_lost (why : (s.core n.val).stopWhy = .takeover)
    (lo : rbit (s.core n.val).saveLo 0 = false) :
    exec (.preemptRequest n) s = .next (finishJob n.val jsAborted s) := by
  simp only [exec, execPreemptRequest, hp, if_true, why, lo, Bool.false_eq_true, if_false]

/-- A preemption is refused without a free frame or without save memory (R448). -/
theorem exec_preemptRequest_refused (why : (s.core n.val).stopWhy = .preempt)
    (h : freeFrameOf s n.val = none ∨ rbit (s.core n.val).saveLo 0 = false) :
    exec (.preemptRequest n) s = .next (refusePreempt n.val s) := by
  simp only [exec, execPreemptRequest, hp, if_true, why]
  rcases h with none_ | lo
  · rw [none_]
  · split
    · rw [lo, if_neg Bool.false_ne_true]
    · rfl

end

/-- Without a start that waits for the core a refused preemption lets the job run on, and does nothing else. -/
theorem refusePreempt_free {s : State} {n : Nat} (h : s.sched.after.getD n none = none) :
    refusePreempt n s = s.onCore n fun x => { x with stopWhy := .none } := by
  have free : (s.onCore n fun x => { x with stopWhy := .none }).sched.after.getD n none = none := h
  simp only [refusePreempt, free]

/-- A save takes its frame, and the job counts it where it is to count. -/
theorem beginSave_of_job {s : State} {n : Nat} {j : Job} (hj : (s.core n).job = some j) (f : Nat) (counts : Bool) :
    beginSave n f counts s = s.onCore n fun x => { x with
      phase := .save, saveFrame := f, frames := updAt x.frames f fun _ => true
      due := s.up + moveTicks s n (11648 + saveLines x.store)
      job := some { j with preempts := if counts then min 255 (j.preempts + 1) else j.preempts } } :=
  onCore_congr (by simp only [hj, Option.map_some])

/-! ## The end of a save (R449, R450) -/

/-- A write answered OK changes nothing else. -/
theorem writeMem_keeps {src : Src} {a : Nat} {bs : List Byte} {fb : Bool} {s u : State}
    (h : writeMem src a bs fb s = (.ok, u)) : sansWrite s u = s := by
  unfold writeMem at h
  split at h
  · dsimp only at h
    split at h
    · cases h
      rw [sansWrite_ringDoorbells, poke, sansWrite_putKeys, sansWrite_touch]
      rfl
    · cases h
  · next refused => exact absurd (Prod.mk.inj h).1 (by simpa using refused)

theorem sansWrite_trans {s t u : State} (h : sansWrite s t = s) (k : sansWrite t u = t) : sansWrite s u = s := by
  rw [← h, ← k]
  rfl

theorem writeAll_keeps {src : Src} {l : List (Nat × List Byte)} {s u : State} (h : writeAll src l s = (.ok, u)) :
    sansWrite s u = s := by
  induction l generalizing s with
  | nil =>
    cases h
    rfl
  | cons r l ih =>
    unfold writeAll at h
    split at h
    · next t ht => exact sansWrite_trans (writeMem_keeps ht) (ih h)
    · next refused => exact absurd h (refused u)

/-- What a save frame holds is read without a change, but for free values taken. -/
theorem frameBytes_keeps (n : Nat) (s : State) : ∃ k, (frameBytes n s).2 = { s with free := k } := by
  unfold frameBytes accSaved
  dsimp only
  split
  · exact ⟨_, rfl⟩
  · exact ⟨_, rfl⟩

/-- With accounting off a charge notes its tick, and does nothing else. -/
theorem chargeArray_off {s : State} {n : Nat} {j : Job} (hj : (s.core n).job = some j)
    (off : rbit s.hif.acctLo 0 = false) :
    chargeArray n s = s.onCore n fun x => { x with job := some { j with acctTick := s.up } } := by
  simp only [chargeArray, hj]
  rw [account_off (by exact off)]
  exact onJob_of_job (fun j => { j with acctTick := s.up }) hj

/-- What a save of job `j` keeps of core `n`. -/
def savedOf (n up : Nat) (j : Job) (x : Core) : Saved :=
  { job := { j with ticks := heldTicks j up, acctTick := up }
    store := x.store, mask := x.mask, maskAll := x.maskAll, batch := x.batchSize, sat := x.sat
    plane0 := x.plane0, plane1 := x.plane1, walk := x.walk, drains := x.drains, ring := x.ring
    chain := x.chain, red := x.redStore, core := n, frame := x.saveFrame }

theorem slots_of_sized {s : State} (h : sized s = true) {c : Nat} (hc : c < 256) :
    s.sched.ctxs.length = 256 ∧ (s.ctx c).slots.length = 64 := by
  simp only [sized_eq, Sched.sized, Bool.and_eq_true, beq_iff_eq, List.all_eq_true] at h
  obtain ⟨⟨⟨⟨⟨⟨⟨⟨-, ⟨⟨⟨ctxs, -⟩, -⟩, slots⟩⟩, -⟩, -⟩, -⟩, -⟩, -⟩, -⟩, -⟩ := h
  refine ⟨ctxs, slots _ ?_⟩
  rw [State.ctx, List.getD_eq_getElem _ _ (ctxs.symm ▸ hc)]
  exact List.getElem_mem _

theorem slot_onSlot {s : State} {c k : Nat} (hc : c < s.sched.ctxs.length) (hk : k < (s.ctx c).slots.length)
    (f : Slot → Slot) : (s.onSlot c k f).slot c k = f (s.slot c k) := by
  have ctx : (s.onSlot c k f).ctx c = { s.ctx c with slots := updAt (s.ctx c).slots k f } := getD_updAt hc _ _
  rw [State.slot, ctx]
  exact getD_updAt hk f {}

end Sys2Proof.Machine

namespace Sys2Proof.Machine

/-! ## A job is suspended (R450) -/

/-- The slot of job `j` is SUSPENDED with what its save kept, and a takeover of core `n` has its save. -/
def markSuspended (n : Nat) (j : Job) (v : Saved) (s : State) : State :=
  let s := s.onSched fun d => { d with order := d.order + 1 }
  let s := s.onSlot j.ctx j.slot fun k => { k with state := .suspended, saved := some v, order := s.sched.order }
  s.onMgt fun m =>
    { m with takeover := m.takeover.map fun t =>
        if t.target == .core (Fin.ofNat 24 n) && !t.saveDone then { t with saveDone := true, hasJob := true }
        else t }

theorem markSuspended_cores (n : Nat) (j : Job) (v : Saved) (s : State) : (markSuspended n j v s).cores = s.cores := rfl

theorem markSuspended_mem (n : Nat) (j : Job) (v : Saved) (s : State) : (markSuspended n j v s).mem = s.mem := rfl

theorem slot_markSuspended {n : Nat} {j : Job} {v : Saved} {s : State} (hs : sized s = true) (hc : j.ctx < 256)
    (hk : j.slot < 64) : (markSuspended n j v s).slot j.ctx j.slot =
      { s.slot j.ctx j.slot with state := .suspended, order := s.sched.order + 1, saved := some v } := by
  obtain ⟨ctxs, slots⟩ := slots_of_sized hs hc
  exact slot_onSlot (s := s.onSched fun d => { d with order := d.order + 1 }) (ctxs.symm ▸ hc)
    (by exact slots.symm ▸ hk) _

theorem slot_onCore (n : Nat) (f : Core → Core) (s : State) (c k : Nat) : (s.onCore n f).slot c k = s.slot c k := rfl

section
variable {s : State} {n : Nat} {j : Job} (hj : (s.core n).job = some j)
include hj

theorem suspend_eq : suspend n s = settleLost n (releaseCore n ((markSuspended n j
    (savedOf n (chargeArray n s).up j ((chargeArray n s).core n)) (chargeArray n s)).onCore n clearCore)) := by
  unfold suspend
  simp only [hj]
  rfl

/-- What is saved of a core whose charge noted its tick is what is saved of the core. -/
theorem savedOf_charged (off : rbit s.hif.acctLo 0 = false) :
    savedOf n (chargeArray n s).up j ((chargeArray n s).core n) = savedOf n s.up j (s.core n) := by
  rw [chargeArray_off hj off, core_onCore (present_of_job hj)]
  rfl

variable (off : rbit s.hif.acctLo 0 = false) (free : s.sched.after.getD n none = none)
  (alone : inTakeover s n = false)
include off free alone

theorem suspend_off : ∃ fence : Bool, suspend n s = ((markSuspended n j (savedOf n s.up j (s.core n))
    (s.onCore n fun x => { x with job := some { j with acctTick := s.up } })).onCore n clearCore).onCore n
      fun x => { x with drvFence := x.drvFence || fence } := by
  rw [suspend_eq hj, savedOf_charged hj off, chargeArray_off hj off, releaseCore_free (by exact free)]
  refine ⟨_, settleLost_spared fun t ht target => absurd target ?_⟩
  obtain ⟨old, hold, rfl⟩ := List.mem_map.1 ht
  have other := List.any_eq_false.1 alone old hold
  split
  · exact other
  · exact other

/-- A suspended job leaves its core idle and memory as it was. -/
theorem suspend_core : ((suspend n s).core n).job = none ∧ ((suspend n s).core n).phase = .idle ∧
    (suspend n s).mem = s.mem := by
  obtain ⟨fence, eq⟩ := suspend_off hj off free alone
  have here : n < (markSuspended n j (savedOf n s.up j (s.core n))
      (s.onCore n fun x => { x with job := some { j with acctTick := s.up } })).cores.length := by
    rw [markSuspended_cores, cores_onCore, length_updAt]
    exact present_of_job hj
  rw [eq]
  refine ⟨?_, ?_, ?_⟩
  · exact (core_onCore_part Core.job (by exact fun _ => rfl)).trans (congrArg Core.job (core_onCore here))
  · exact (core_onCore_part Core.phase (by exact fun _ => rfl)).trans (congrArg Core.phase (core_onCore here))
  · rw [State.onCore_mem, State.onCore_mem, markSuspended_mem, State.onCore_mem]

theorem suspend_slot (hs : sized s = true) (hc : j.ctx < 256) (hk : j.slot < 64) :
    (suspend n s).slot j.ctx j.slot = { s.slot j.ctx j.slot with
      state := .suspended, order := s.sched.order + 1, saved := some (savedOf n s.up j (s.core n)) } := by
  obtain ⟨fence, eq⟩ := suspend_off hj off free alone
  rw [eq, slot_onCore, slot_onCore, slot_markSuspended (by rw [sized_onCore, hs]) hc hk, slot_onCore]
  rfl

end

/-! ## SAVE_COMPLETE (R449, R450, R452) -/

/-- Where every word that the save needs can be read and the frame takes every write, the job is suspended. The proof
puts variables in the place of what the model computes before it compares anything, so that the kernel computes
nothing. -/
theorem exec_saveComplete_ok {s v u : State} {n : Fin 24} {fr : List (Nat × List Byte)}
    (hp : (s.core n.val).phase = .save) (due : (s.core n.val).due ≤ s.up)
    (good : ∀ r ∈ saveNeeds s n.val, badAt s r.1 r.2 = false) (hfr : frameBytes n.val s = (fr, v))
    (hw : writeAll (coreSrc n.val) (fr.map fun r => (frameBase s n.val (s.core n.val).saveFrame + r.1, r.2)) v =
      (.ok, u)) : exec (.saveComplete n) s = .next (suspend n.val u) := by
  have none_ : (saveNeeds s n.val).find? (fun r => badAt s r.1 r.2) = none :=
    List.find?_eq_none.2 fun r hr => by rw [good r hr]; exact Bool.false_ne_true
  obtain ⟨k, hk⟩ := frameBytes_keeps n.val s
  rw [hfr] at hk
  have core : v.core n.val = s.core n.val := by
    rw [show v = { s with free := k } from hk]
    rfl
  have base : frameBase v n.val (s.core n.val).saveFrame = frameBase s n.val (s.core n.val).saveFrame := by
    simp only [frameBase, core]
  generalize hf : exec (.saveComplete n) s = f
  change execSaveComplete n s = f at hf
  delta execSaveComplete at hf
  subst hf
  refine (congrArg Host.Outcome.next (if_pos ⟨hp, due⟩)).trans ?_
  generalize List.find? _ _ = o at none_ ⊢
  subst none_
  generalize frameBytes n.val s = p at hfr ⊢
  subst hfr
  rw [← base] at hw
  dsimp only
  generalize writeAll _ _ v = w at hw ⊢
  subst hw
  rfl

/-- A save changes memory, the rings whose doorbell words it writes and the free values taken, and nothing else. -/
theorem save_keeps {s v u : State} {n : Nat} {src : Src} {fr l : List (Nat × List Byte)}
    (hfr : frameBytes n s = (fr, v)) (hw : writeAll src l v = (.ok, u)) :
    ∃ k, sansWrite s u = { s with free := k } := by
  obtain ⟨k, hk⟩ := frameBytes_keeps n s
  rw [hfr] at hk
  have hv : v = { s with free := k } := hk
  have keeps := writeAll_keeps hw
  rw [hv] at keeps
  exact ⟨k, keeps⟩

section
variable {s u : State} {k : Nat} (h : sansWrite s u = { s with free := k })
include h

theorem saved_core (n : Nat) : u.core n = s.core n := (congrArg (State.core · n) h :)
theorem saved_hif : u.hif = s.hif := (congrArg State.hif h :)
theorem saved_mgt : u.mgt = s.mgt := (congrArg State.mgt h :)
theorem saved_sched : u.sched = s.sched := (congrArg State.sched h :)
theorem saved_up : u.up = s.up := (congrArg State.up h :)
theorem saved_slot (c i : Nat) : u.slot c i = s.slot c i := (congrArg (State.slot · c i) h :)

end

/-- A job whose save was written is suspended with what the core held before the save. -/
theorem suspend_saved {s v u : State} {n : Nat} {j : Job} {src : Src} {fr l : List (Nat × List Byte)}
    (hfr : frameBytes n s = (fr, v)) (hw : writeAll src l v = (.ok, u)) (hs : sized s = true)
    (hj : (s.core n).job = some j) (off : rbit s.hif.acctLo 0 = false) (free : s.sched.after.getD n none = none)
    (alone : inTakeover s n = false) (hc : j.ctx < 256) (hk : j.slot < 64) :
    ((suspend n u).core n).job = none ∧ ((suspend n u).core n).phase = .idle ∧ (suspend n u).mem = u.mem ∧
      (suspend n u).slot j.ctx j.slot = { s.slot j.ctx j.slot with
        state := .suspended, order := s.sched.order + 1, saved := some (savedOf n s.up j (s.core n)) } := by
  obtain ⟨k, kept⟩ := save_keeps hfr hw
  have whole : sized u = true := by
    have frame := sized_frameBytes n s
    have writes := sized_writeAll src l v
    rw [hfr] at frame
    rw [hw] at writes
    exact (writes.trans frame).trans hs
  have hj' : (u.core n).job = some j := by rw [saved_core kept, hj]
  have off' : rbit u.hif.acctLo 0 = false := by rw [saved_hif kept, off]
  have free' : u.sched.after.getD n none = none := by rw [saved_sched kept, free]
  have alone' : inTakeover u n = false := by rw [inTakeover, saved_mgt kept]; exact alone
  obtain ⟨job, phase, mem⟩ := suspend_core hj' off' free' alone'
  refine ⟨job, phase, mem, ?_⟩
  rw [suspend_slot hj' off' free' alone' whole hc hk, saved_slot kept, saved_sched kept, saved_up kept,
    saved_core kept]

end Sys2Proof.Machine

namespace Sys2Proof.Machine

/-! ## RESTORE_COMPLETE (R127, R450, R452) -/

/-- Writes one after the other, whatever their responses would be. -/
def pokeAll (l : List (Nat × List Byte)) (s : State) : State := l.foldl (fun s w => poke w.1 w.2 s) s

/-- The accumulators of core `n` as a save frame holds them (R449; log entry 82). -/
def accWrites (n : Nat) (img : List Byte) (s : State) : List (Nat × List Byte) :=
  (accPlaces s n).mapIdx fun i p => (p, (img.drop (0x16000 + i * 160)).take 160)

/-- A job that is restored from `v` and the frame's bytes `img` goes on with the store `st`, but for its accumulators. -/
def resumed (n : Nat) (j : Job) (v : Saved) (st : JobStore) (img : List Byte) (s : State) : State :=
  let s := freeFrame v.core v.frame s
  let s := s.onSlot j.ctx j.slot fun k => { k with saved := none }
  let s := s.onCore n fun x =>
    install { v with store := st } (wordsOf 4 1024 (img.drop 0x1000)) ((img.drop 0x2000).take 8192) x
  s.onCore n fun x => { x with job := x.job.map fun j => { j with restored := j.restored || v.frame != 3 } }

section
variable {s : State} {n : Fin 24} {j : Job} {v : Saved} {h : JobHdr} (hj : (s.core n.val).job = some j)
  (hp : (s.core n.val).phase = .restore) (due : (s.core n.val).due ≤ s.up)
  (saved : (s.slot j.ctx j.slot).saved = some v) (hh : h = parseHdr (peek s v.store.base 128))
  (low : 128 ≤ h.imageBytes) (high : h.imageBytes ≤ 2 ^ 20)
  (image : readable s (coreSrc n.val) v.store.base h.imageBytes = true)
include hj hp due saved hh low high image

/-- A restore whose image no longer matches its CRC ends the job, whatever its frame reads as. -/
theorem exec_restoreComplete_corrupt (bad : crcOk s v.store.base h = false) :
    ∃ u, EndsAs s u ∧ (u.core n.val).job = some j ∧
      exec (.restoreComplete n) s = .next (finishJob n.val jsAborted u) := by
  have size : min (max 128 h.imageBytes) 1048576 = h.imageBytes := by omega
  have first := readMem_of_readable image
  rw [← size] at first
  have bad' : crcOk (touch (coreSrc n.val) v.store.base s) v.store.base h = false := (crcOk_touch ..).trans bad
  have ends := endsAs_touch (coreSrc n.val) v.store.base s
  have job := (job_touch (coreSrc n.val) v.store.base s n.val).trans hj
  have ends' := endsAs_readMem
  have job' := job_readMem
  generalize hf : exec (.restoreComplete n) s = f
  change execRestoreComplete n s = f at hf
  delta execRestoreComplete at hf
  generalize readMem = R at hf first ends' job'
  generalize touch _ _ _ = t at first bad' ends job
  subst hf
  revert R t
  refine id ?_
  intro R ends' job' t first bad' ends job
  simp only [hj, saved, hp, due, and_self, if_true, ← hh, first, bad', Bool.and_false, Bool.false_eq_true, false_and,
    and_false, if_false]
  refine ⟨_, ?_, ?_, rfl⟩
  · split
    · exact ends.trans (ends' ..)
    · exact (ends.trans (ends' ..)).trans (ends' ..)
  · split
    · exact (job' ..).trans job
    · exact ((job' ..).trans (job' ..)).trans job

/-- A restore whose image and frame can be read, of a job without a save list, lets the job go on. -/
theorem exec_restoreComplete_ok {b : Nat} (good : crcOk s v.store.base h = true) (hb : b = frameBase s v.core v.frame)
    (frame : readable s (coreSrc n.val) b 0xb6000 = true) (lines : saveLines (loadStore s v.store.base) = 0)
    (none_ : (loadStore s v.store.base).save = []) :
    exec (.restoreComplete n) s = .next (pokeAll (accWrites n.val (peek s b 0xb6000)
        (resumed n.val j v (loadStore s v.store.base) (peek s b 0xb6000) (touch (coreSrc n.val) b
          (touch (coreSrc n.val) v.store.base s))))
      (resumed n.val j v (loadStore s v.store.base) (peek s b 0xb6000) (touch (coreSrc n.val) b
        (touch (coreSrc n.val) v.store.base s)))) := by
  have size : min (max 128 h.imageBytes) 1048576 = h.imageBytes := by omega
  have first := readMem_of_readable image
  rw [← size] at first
  have second := readMem_of_readable ((readable_touch (coreSrc n.val) _ v.store.base _ _ s).trans frame)
  rw [peek_touch] at second
  have good' : crcOk (touch (coreSrc n.val) v.store.base s) v.store.base h = true := (crcOk_touch ..).trans good
  have store := loadStore_touch (coreSrc n.val) v.store.base v.store.base s
  have base : frameBase (touch (coreSrc n.val) v.store.base s) v.core v.frame = b := (frameBase_touch ..).trans hb.symm
  have fits : decide (h.imageBytes ≤ 1048576) = true := decide_eq_true high
  generalize hf : exec (.restoreComplete n) s = f
  change execRestoreComplete n s = f at hf
  delta execRestoreComplete at hf
  generalize readMem = R at hf first second
  generalize touch _ b _ = u at second ⊢
  generalize touch _ _ _ = t at first second good' store base
  generalize loadStore s v.store.base = st at store lines none_ ⊢
  generalize peek s b 0xb6000 = img at second ⊢
  subst hf
  revert R
  refine id ?_
  intro R first second
  simp only [hj, saved, hp, due, and_self, if_true, ← hh, first, good', fits, Bool.and_true, store, base, lines, second,
    none_, rangeWrites, List.foldl_nil]
  rfl

end

end Sys2Proof.Machine

namespace Sys2Proof.Machine

/-! ## What a restored job finds (R449, R450) -/

theorem physKey_congr {s t : State} (mgt : t.mgt = s.mgt) (hbm : t.hbm = s.hbm) (a : Nat) :
    physKey t a = physKey s a := by
  simp only [physKey, coreKey, physCore, mgt, hbm]

theorem touch_fuse (src : Src) (a : Nat) (s : State) : (touch src a s).fuse = s.fuse := by rw [touch_hbm]

theorem pokeAll_keeps (l : List (Nat × List Byte)) (s : State) :
    pokeAll l s = { s with mem := (pokeAll l s).mem, badWords := (pokeAll l s).badWords } := by
  have keeps := foldl_keeps (fun u : State => { u with mem := [], badWords := [] }) (fun t w => poke w.1 w.2 t)
    (fun _ _ => rfl) l s
  generalize hu : pokeAll l s = u
  have same : ({ u with mem := [], badWords := [] } : State) = { s with mem := [], badWords := [] } := hu ▸ keeps
  have eta : u = { ({ u with mem := [], badWords := [] } : State) with mem := u.mem, badWords := u.badWords } := rfl
  rw [same] at eta
  exact eta

/-- What writes leave in memory rests on memory, its error marks and the address map alone. -/
theorem pokeAll_mem_congr {s t : State} (mem : s.mem = t.mem) (bad : s.badWords = t.badWords)
    (keys : ∀ a, physKey s a = physKey t a) (l : List (Nat × List Byte)) : (pokeAll l s).mem = (pokeAll l t).mem := by
  induction l generalizing s t with
  | nil => exact mem
  | cons w l ih =>
    have cells : keyed s w.1 w.2 = keyed t w.1 w.2 := by simp only [keyed, keys]
    refine ih (s := poke w.1 w.2 s) (t := poke w.1 w.2 t) ?_ ?_ keys
    · simp only [poke, putKeys, partialBad, cells, mem, bad]
    · simp only [poke, putKeys, partialBad, cells, bad]

theorem core_pokeAll (l : List (Nat × List Byte)) (s : State) (n : Nat) : (pokeAll l s).core n = s.core n := by
  rw [pokeAll_keeps]
  rfl

theorem slot_pokeAll (l : List (Nat × List Byte)) (s : State) (c k : Nat) :
    (pokeAll l s).slot c k = s.slot c k := by
  rw [pokeAll_keeps]
  rfl

section
variable {s : State} {n : Nat} {j : Job} {v : Saved} {st : JobStore} {img : List Byte}

/-- The core of a job that goes on holds what the save kept and what the frame holds. -/
theorem core_resumed (hj : (s.core n).job = some j) : ∃ x, (resumed n j v st img s).core n =
    { install { v with store := st } (wordsOf 4 1024 (img.drop 0x1000)) ((img.drop 0x2000).take 8192) x with
      job := some { j with restored := j.restored || v.frame != 3 } } := by
  have job : ((freeFrame v.core v.frame s).core n).job = some j :=
    (core_onCore_part Core.job (by exact fun _ => rfl)).trans hj
  have here := present_of_job job
  refine ⟨(freeFrame v.core v.frame s).core n, ?_⟩
  have installed := core_onCore (s := (freeFrame v.core v.frame s).onSlot j.ctx j.slot fun k => { k with saved := none })
    (f := install { v with store := st } (wordsOf 4 1024 (img.drop 0x1000)) ((img.drop 0x2000).take 8192)) here
  have job' := (congrArg Core.job installed).trans job
  refine (congrArg (State.core · n) (onJob_of_job _ job')).trans ?_
  rw [core_onCore (present_of_job job'), installed]
  rfl

/-- The frame of a restored job is free again. -/
theorem frames_resumed : ((resumed n j v st img s).core v.core).frames.getD v.frame false = false := by
  have freed : ((freeFrame v.core v.frame s).core v.core).frames.getD v.frame false = false :=
    getD_updAt_of (P := fun x : Core => x.frames.getD v.frame false = false)
      (by rw [List.getD_eq_getElem?_getD, List.getElem?_getD_replicate_default_eq]) (fun x => getD_updAt_of (P := fun y => y = false) rfl (fun _ => rfl) x.frames v.frame)
      s.cores v.core
  refine (congrArg (fun l : List Bool => l.getD v.frame false) ?_).trans freed
  refine (core_onCore_part Core.frames (by exact fun _ => rfl)).trans ?_
  exact core_onCore_part Core.frames (by exact fun _ => rfl)

theorem resumed_keeps (s : State) :
    (resumed n j v st img s).mem = s.mem ∧ (resumed n j v st img s).badWords = s.badWords ∧
      (resumed n j v st img s).fuse = s.fuse ∧ (resumed n j v st img s).mgt = s.mgt ∧
      (resumed n j v st img s).hbm = s.hbm := by
  simp only [resumed, freeFrame, State.onCore_mem, State.onSlot_mem, State.onCore_badWords, State.onSlot_badWords,
    State.onCore_fuse, State.onSlot_fuse, State.onCore_mgt, State.onSlot_mgt, State.onCore_hbm, State.onSlot_hbm,
    and_self]

/-- The accumulators are written as from the state before the restore. -/
theorem mem_resumed (src : Src) (a b : Nat) (s : State) :
    (pokeAll (accWrites n img (resumed n j v st img (touch src b (touch src a s))))
      (resumed n j v st img (touch src b (touch src a s)))).mem = (pokeAll (accWrites n img s) s).mem := by
  obtain ⟨mem, bad, fuse, mgt, hbm⟩ := resumed_keeps (n := n) (j := j) (v := v) (st := st) (img := img)
    (touch src b (touch src a s))
  have writes : accWrites n img (resumed n j v st img (touch src b (touch src a s))) = accWrites n img s := by
    simp only [accWrites, accPlaces, ringSlots, fuse, touch_fuse]
  rw [writes]
  refine pokeAll_mem_congr ?_ ?_ (fun c => ?_) _
  · rw [mem, touch_mem, touch_mem]
  · rw [bad, touch_badWords, touch_badWords]
  · rw [physKey_congr mgt hbm, physKey_touch, physKey_touch]

theorem slot_resumed : ((resumed n j v st img s).slot j.ctx j.slot).saved = none :=
  slot_onSlot_of (P := fun x => x.saved = none) rfl (by exact fun _ => rfl) _ _ _

end

end Sys2Proof.Machine

namespace Sys2Proof.Machine

/-- The record of a job that ends with JS_ABORTED (R171, R496). -/
theorem finishJob_aborted {s : State} {n : Nat} {j : Job} {now : Nat} (hj : (s.core n).job = some j)
    (free : s.sched.after.getD n none = none) (room : takesCpl s j.cplRing = true) (hnow : s.now = now) :
    ((finishJob n jsAborted s).core n).job = none ∧ ((finishJob n jsAborted s).slot j.ctx j.slot).state = .empty ∧
      handed (finishJob n jsAborted s) j.cplRing [(4, 1, jsAborted), (24, 8, now)] = true := by
  obtain ⟨x, status, ended⟩ := finishJob_ended hj free room jsAborted
  have small : x.status < 256 := by rw [status]; decide
  rw [hnow] at ended
  refine ⟨ended.job, ended.slot, ended.record.handed fun seq => ?_⟩
  simp only [List.forall_mem_cons]
  exact ⟨(cplBytes_status _ x seq _ small).trans status, cplBytes_endTick _ x seq _ (hnow ▸ now_lt s), nofun⟩

/-- What precedes the end leaves the job, and everything that the end rests on. -/
theorem EndsAs.aborted {s u : State} {n : Nat} {j : Job} (h : EndsAs s u) (hj : (u.core n).job = some j)
    (free : s.sched.after.getD n none = none) (room : takesCpl s j.cplRing = true) :
    ((finishJob n jsAborted u).core n).job = none ∧ ((finishJob n jsAborted u).slot j.ctx j.slot).state = .empty ∧
      handed (finishJob n jsAborted u) j.cplRing [(4, 1, jsAborted), (24, 8, s.now)] = true :=
  finishJob_aborted hj (h.sched ▸ free) ((h.takes _).trans room) (congrArg (·.count.toNat) h.ktl)

/-- Settles O15: the fallback and the restore by the CRC, the stop by the frame and the save memory at hand, the save
by what it keeps of the core. -/
theorem jobsChangeState : Obligations.JobsChangeState := by
  unfold Obligations.JobsChangeState
  refine ⟨?_, ?_, ?_, ?_, ?_, ?_, ?_, ?_⟩
  · intro s n b hp due hb head image good
    refine ⟨_, (exec_fallbackStart hp due hb head image).trans (congrArg _ (if_pos good)), ?_⟩
    rw [touch_hbm]
    rfl
  · intro s n j b hj hp due hb head image bad room free
    have run := exec_fallbackStart hp due hb head image
    rw [if_neg (by rw [bad]; exact Bool.false_ne_true)] at run
    exact ⟨_, run, (endsAs_touch _ _ s).aborted ((job_touch ..).trans hj) free room⟩
  · intro s n j f hj hp lo why
    rcases why with ⟨why, frame⟩ | ⟨why, rfl⟩
    · rw [exec_preemptRequest_save hp why lo frame, beginSave_of_job hj]
      simp only [why, if_true]
      rfl
    · rw [exec_preemptRequest_takeover hp why lo, beginSave_of_job hj]
      simp only [why, Bool.false_eq_true, reduceCtorEq, if_false]
      rfl
  · intro s n hp why refused free
    rw [exec_preemptRequest_refused hp why refused, refusePreempt_free free]
    rfl
  · intro s n j hj hp why lo room free
    exact ⟨_, exec_preemptRequest_lost hp why lo, finishJob_aborted hj free room rfl⟩
  · intro s v u n j x fr off hx hj hp due hs hc hk good hfr hw alone free
    subst hx
    obtain ⟨job, phase, mem, slot⟩ := suspend_saved hfr hw hs hj off free alone hc hk
    exact ⟨_, exec_saveComplete_ok hp due good hfr hw, job, phase, mem, slot⟩
  · intro s n j v h b img hs hj hp due saved hh low high image good hb frame himg lines none_
    have run := exec_restoreComplete_ok hj hp due saved hh low high image good hb frame lines none_
    rw [← himg] at run
    have job := (job_touch (coreSrc n.val) b (touch (coreSrc n.val) v.store.base s) n.val).trans ((job_touch ..).trans hj)
    obtain ⟨x, core⟩ := core_resumed (v := v) (st := loadStore s v.store.base) (img := img) job
    refine ⟨_, run, ?_⟩
    rw [core_pokeAll _ _ n.val, core_pokeAll _ _ v.core, slot_pokeAll, core]
    exact ⟨rfl, rfl, rfl, rfl, rfl, rfl, rfl, rfl, rfl, rfl, rfl, rfl, rfl, rfl, slot_resumed, frames_resumed,
      mem_resumed ..⟩
  · intro s n j v h hj hp due saved hh low high image bad room free
    obtain ⟨u, ends, job, run⟩ := exec_restoreComplete_corrupt hj hp due saved hh low high image bad
    exact ⟨_, run, ends.aborted job free room⟩

end Sys2Proof.Machine

namespace Sys2Proof.Machine

/-! ## Requests that meet memory out of order (R465) -/

/-- The word of address 0 keeps its lowest bit: its byte of 1 becomes 0, which is kept by leaving the address out of
the list, where the old byte still stands behind a higher address. -/
theorem word_unorderedMemory :
    peekNat (serveWord .mgmt 0 .clean (clear64 (1 : W64).toNat) unorderedMemory) 0 8 = 1 := by decide +kernel

/-- Refutes O39: its clause of indivisible operations does not ask for the canonical form of memory (which every step
keeps, O58). Over a list of bytes whose addresses do not rise, a bit-clear of the word 1 by 1 leaves 1. -/
theorem not_memoryOperations : ¬ Obligations.MemoryOperations := by
  unfold Obligations.MemoryOperations
  rintro ⟨-, operation, -⟩
  have answered : respRange unorderedMemory .mgmt 0 64 = .ok := respRange_hbm (by decide) rfl
  obtain ⟨t, ht, -, -, -, cleared, -⟩ := operation unorderedMemory .mgmt 0 1 (.memBitClear .mgmt 0 1 .clean) 0 _ rfl
    rfl rfl (by decide) answered nofun rfl (by simp)
  have old : peekNat unorderedMemory 0 8 = 1 := by decide +kernel
  have new := cleared rfl
  rw [← Host.Outcome.next.inj ht, word_unorderedMemory, old] at new
  exact absurd new (by decide)

end Sys2Proof.Machine

namespace Sys2Proof.Machine

/-! ## A host DMA channel that halts with a job depending on it (R517, R518) -/

/-- A channel that runs and gets a negative response halts (R496, R517). -/
theorem exec_negResponse_hdma {s : State} {c : Fin 8} {r : Resp} {a : BitVec 48} (hr : r ≠ .ok)
    (run : (s.dma c.val).state = .run) :
    exec (.negResponse (.hdma c) r a) s = .next (dmaHalt c.val 6 r s) := by
  have unlogged : logResp (.hdma c) r a.toNat s = s := by cases r <;> rfl
  have kept : ¬ (r = .ok ∨ respDropped s (.hdma c) = true) := by simp [hr, respDropped]
  simp only [exec, execNegResponse, respond, if_neg kept, unlogged, if_pos run]

/-- Host DMA channel 0 runs with one descriptor, at address 0, whose DEP_EN names slot 0 of context 0; the job of that
slot is VALID. -/
def dependentJob : State :=
  { State.reset with
    mem := [(2, 0x40)]
    hif := { State.reset.hif with dma := updAt State.reset.hif.dma 0 fun c => { c with state := .run, prod := 1 } }
    sched := { State.reset.sched with ctxs := updAt State.reset.sched.ctxs 0 fun c =>
      { c with slots := updAt c.slots 0 fun k => { k with state := .valid } } } }

/-- The halt ends the job that the descriptor names: its slot is EMPTY. -/
theorem slot_dependentJob : ((dmaHalt (0 : Fin 8).val 6 .addrUnmapped dependentJob).slot 0 0).state = .empty := by
  decide +kernel

/-- Refutes O40: its clause on host DMA has a halted channel change nothing but logs and the host interface, also with
an incomplete descriptor whose DEP_EN is 1. The job that such a descriptor names ends with JS_ABORTED (R518), which
empties its slot. -/
theorem not_negativeAnswers : ¬ Obligations.NegativeAnswers := by
  unfold Obligations.NegativeAnswers
  rintro ⟨-, -, -, -, -, -, -, halted, -⟩
  have run : (dependentJob.dma (0 : Fin 8).val).state = .run := rfl
  have parts : sized dependentJob = true := by decide +kernel
  obtain ⟨t, ht, -, -, -, -, -, same⟩ := halted dependentJob 0 .addrUnmapped 0 parts nofun run
  rw [exec_negResponse_hdma (r := .addrUnmapped) nofun run] at ht
  cases ht
  have slot : ((dmaHalt (0 : Fin 8).val 6 .addrUnmapped dependentJob).slot 0 0).state = (dependentJob.slot 0 0).state :=
    (congrArg (fun u : State => (u.slot 0 0).state) same :)
  rw [slot_dependentJob] at slot
  exact absurd slot (by decide)

end Sys2Proof.Machine

namespace Sys2Proof.Machine

/-! ## The Saucers' command rings (R259, R265) -/

section
variable {s : State} {m : Fin 7}

theorem clu_of_getElem? {c : Clu} {n : Nat} (h : s.clus[n]? = some c) : s.clu n = c := by
  rw [State.clu, List.getD_eq_getElem?_getD, h, Option.getD_some]

/-- Changes that do the same to the cluster they meet are the same. -/
theorem onClu_congr {f g : Clu → Clu} {n : Nat} (h : f (s.clu n) = g (s.clu n)) : s.onClu n f = s.onClu n g := by
  have same : updAt s.clus n f = updAt s.clus n g := updAt_congr fun c hc => by rwa [clu_of_getElem? hc] at h
  simp only [State.onClu, same]

theorem onClu_onClu (n : Nat) (f g : Clu → Clu) : (s.onClu n f).onClu n g = s.onClu n (g ∘ f) := by
  simp only [State.onClu, updAt_updAt]

@[simp] theorem cluPage_val (m : Fin 7) : cluPage m.val = .clu m := by simp [cluPage]

theorem exec_sauRingCfgWrite {v : W32} (ho : barWr s = true) :
    exec (.sauRingCfgWrite m v) s = .next (sauRingWrite m.val v s) := congrArg Host.Outcome.next (hostWrite_of ho)

/-- A write that does not move an enabled ring takes effect; one that sets EN zeroes the ring. -/
theorem sauRingWrite_taken {n : Nat} {v : W32}
    (h : rbit (s.clu n).ringCfg 31 = false ∨ ((s.clu n).ringCfg ^^^ v) &&& 0x01ffffff#32 = 0#32) :
    sauRingWrite n v s = s.onClu n fun c =>
      if rbit v 31 = true ∧ rbit (s.clu n).ringCfg 31 = false then
        { c with ringCfg := v &&& 0x81ffffff#32, cons := 0, prod := 0, pos := 0, ticks := [] }
      else { c with ringCfg := v &&& 0x81ffffff#32 } := by
  have stays : ¬ (rbit (s.clu n).ringCfg 31 && ((s.clu n).ringCfg ^^^ v) &&& 0x01ffffff#32 != 0) = true := by
    rcases h with h | h <;> simp [h]
  rw [sauRingWrite, if_neg stays]
  exact onClu_congr (by simp)

theorem sauRingWrite_refused {v : W32} (en : rbit (s.clu m.val).ringCfg 31 = true)
    (h : ((s.clu m.val).ringCfg ^^^ v) &&& 0x01ffffff#32 ≠ 0#32) :
    sauRingWrite m.val v s = invalidProg (.clu m) s := by
  have moves : (rbit (s.clu m.val).ringCfg 31 && ((s.clu m.val).ringCfg ^^^ v) &&& 0x01ffffff#32 != 0) = true := by
    simpa [en] using h
  rw [sauRingWrite, if_pos moves, cluPage_val]

section
variable {v : Nat} {q : List Nat} (hp : (s.clu m.val).dbPend = v :: q)
include hp

theorem exec_sauDoorbell_off (en : rbit (s.clu m.val).ringCfg 31 = false) :
    exec (.sauDoorbell m) s = .next (s.onClu m.val fun c => { c with dbPend := q }) := by
  simp [exec, execSauDoorbell, hp, en]

theorem exec_sauDoorbell_overrun (en : rbit (s.clu m.val).ringCfg 31 = true)
    (h : rfld (s.clu m.val).ringCfg 24 17 + 1 < (v + 65536 - (s.clu m.val).cons) % 65536) :
    exec (.sauDoorbell m) s =
      .next (raise (.clu m) 1 none m.val (s.onClu m.val fun c => { c with dbPend := q })) := by
  simp [exec, execSauDoorbell, hp, en, h]

theorem exec_sauDoorbell_taken {k : Nat} (en : rbit (s.clu m.val).ringCfg 31 = true)
    (hk : k = (v + 65536 - (s.clu m.val).cons) % 65536) (h : k ≤ rfld (s.clu m.val).ringCfg 24 17 + 1) :
    exec (.sauDoorbell m) s = .next (s.onClu m.val fun c => { c with
      dbPend := q, prod := v, ticks := (c.ticks ++ List.replicate (k - c.ticks.length) s.up).take k }) := by
  subst hk
  simp only [exec, execSauDoorbell, hp, en, Bool.not_true, Bool.false_eq_true, if_false, gt_iff_lt, Nat.not_lt.2 h,
    onClu_onClu]
  rfl

end

end

/-- Settles O21: the writes of SAU_RING_CFG, then the deliveries of the doorbell. -/
theorem saucerRings : Obligations.SaucerRings := by
  unfold Obligations.SaucerRings
  refine ⟨?_, ?_, ?_, fun s m v k q hp en hk h => exec_sauDoorbell_taken hp en hk h, ?_,
    fun s m v q hp en => exec_sauDoorbell_off hp en⟩
  · intro s m v ho off on
    rw [exec_sauRingCfgWrite ho, sauRingWrite_taken (.inl off)]
    simp only [on, off, and_self, if_true]
    rfl
  · intro s m v ho enabled stays
    have keeps : ¬ (rbit v 31 = true ∧ rbit (s.clu m.val).ringCfg 31 = false) := by
      rcases enabled with h | h <;> simp [h]
    rw [exec_sauRingCfgWrite ho, sauRingWrite_taken stays]
    simp only [keeps, if_false]
    rfl
  · intro s m v hs ho en h
    exact ⟨_, (exec_sauRingCfgWrite ho).trans (congrArg _ (sauRingWrite_refused en h)),
      errBit_invalidProg _ _ (hdrs_of_sized hs), invalidProg_log _ _⟩
  · intro s m v q hs hp en h
    exact ⟨_, exec_sauDoorbell_overrun hp en h, errBit_raise _ _ _ _ _ (by decide)
      (hdrs_of_sized ((sized_onClu ..).trans hs)), sansLog_over (raise_log _ _ _ _ _)⟩

end Sys2Proof.Machine

namespace Sys2Proof.Machine

/-! ## A streamed Saucer command that lies in HBM (R462) -/

/-- A free Saucer with a stream and no ring reads the stream's command, wherever that lies. -/
theorem exec_saucerCmdStart_streamed {s : State} {m : Fin 7} {x : SauStream} (idle : (s.clu m.val).cmd = none)
    (safe : s.mgt.safe = false) (runs : s.mgt.quiesce = false) (on : haltOn s (.clu m) = false)
    (rst : s.mesh.rstBusy = false) (hx : (s.clu m.val).streams.head? = some x) (arrived : x.arrived ≤ s.up)
    (ring : rbit (s.clu m.val).ringCfg 31 = false) (read : readable s (.saucer m) x.cmd 64 = true) :
    exec (.saucerCmdStart m) s = .next ((unholdScaler x (touch (.saucer m) x.cmd s)).onClu m.val fun c => { c with
      cmd := some { addr := x.cmd, streamed := true, started := s.up, readable := true
                    status := sauCheck m.val true (leNat (peek s x.cmd 64)) (touch (.saucer m) x.cmd s) } }) := by
  have up : (unholdScaler x (touch (.saucer m) x.cmd s)).up = s.up :=
    (congrArg State.up (touch_hbm (.saucer m) x.cmd s) :)
  have src : sauSrc m.val = .saucer m := by simp [sauSrc]
  simp [exec, execSaucerCmdStart, idle, safe, runs, on, rst, hx, arrived, ring, src, Option.filter,
    readMem_of_readable read, up]

/-- A stream waits at Saucer 0 whose command lies at address 0, in HBM. -/
def streamFromHbm : State :=
  { State.reset with
    clus := updAt State.reset.clus 0 fun c => { c with
      streams := [{ cmd := 0, arrived := 0, data := [], ended := false }] } }

theorem readable_streamFromHbm : readable streamFromHbm (.saucer 0) 0 64 = true := by
  rw [readable, respRange_hbm (by decide) rfl]
  rfl

/-- Refutes O22: its clause on a streamed command has the start change clusters and scalers only, wherever the
command lies. The scalers offer streams only of commands in a cluster's memory (`offerStream`), but the clause does not
ask for that: a command in HBM is read there, and the read locks the map (R462). -/
theorem not_saucerCommands : ¬ Obligations.SaucerCommands := by
  unfold Obligations.SaucerCommands
  rintro ⟨-, streamed, -⟩
  have on : haltOn streamFromHbm (.clu 0) = false := by decide
  obtain ⟨t, ht, -, frame⟩ := streamed streamFromHbm 0 _ rfl rfl rfl on (.inl rfl) rfl (Nat.zero_le _)
    (fun en => absurd en (by decide)) readable_streamFromHbm
  rw [exec_saucerCmdStart_streamed rfl rfl rfl on rfl rfl (Nat.zero_le _) rfl readable_streamFromHbm] at ht
  have locked : t.hbm.lock = true := by rw [← Host.Outcome.next.inj ht]; rfl
  have unlocked : t.hbm.lock = false := (congrArg (fun u : State => u.hbm.lock) frame :)
  exact absurd (locked.symm.trans unlocked) (by decide)

end Sys2Proof.Machine

namespace Sys2Proof.Machine

/-! ## What a command's start leaves of what it reads (R462)

A delivered action leaves the launch network, and reads that are answered OK lock the HBM map. Nothing that a command
is judged by looks at either. -/

/-- `t` is `s` but for the lock of the HBM map. -/
def Locks (s t : State) : Prop := ∃ lock, t = { s with hbm := { s.hbm with lock := lock } }

/-- `t` is `s` but for the actions on their way and the lock of the HBM map. -/
def Begun (s t : State) : Prop :=
  ∃ net lock, t = { s with ktl := { s.ktl with net := net }, hbm := { s.hbm with lock := lock } }

section
variable {s t u : State}

theorem locks_touch (src : Src) (a : Nat) (s : State) : Locks s (touch src a s) := by
  unfold touch
  split
  · exact ⟨true, rfl⟩
  · exact ⟨s.hbm.lock, rfl⟩

theorem Locks.trans (h : Locks s t) (k : Locks t u) : Locks s u := by
  obtain ⟨_, rfl⟩ := h
  obtain ⟨lock, rfl⟩ := k
  exact ⟨lock, rfl⟩

theorem Locks.begun (h : Locks s t) : Begun s t := by
  obtain ⟨lock, rfl⟩ := h
  exact ⟨s.ktl.net, lock, rfl⟩

theorem Begun.locks (h : Begun s t) (k : Locks t u) : Begun s u := by
  obtain ⟨net, _, rfl⟩ := h
  obtain ⟨lock, rfl⟩ := k
  exact ⟨net, lock, rfl⟩

/-- A readable range answers OK with its bytes, and its read locks the HBM map at most. -/
theorem readMem_locks {src : Src} {a n : Nat} (h : readable s src a n = true) :
    ∃ t, readMem src a n s = (.ok, peek s a n, t) ∧ Locks s t :=
  ⟨_, readMem_of_readable h, locks_touch src a s⟩

theorem begun_takeAction {lat code : Nat} {p : Action → Bool} {a : Action}
    (h : takeAction s lat code p = some (a, u)) : Begun s u := by
  obtain ⟨i, -, -, -, -, rfl⟩ := takeAction_some h
  exact ⟨_, s.hbm.lock, rfl⟩

section
variable (h : Begun s t)
include h

theorem Begun.up : t.up = s.up := by obtain ⟨_, _, rfl⟩ := h; rfl

theorem Begun.peek : peek t = peek s := by obtain ⟨_, _, rfl⟩ := h; rfl

theorem Begun.peekNat : peekNat t = peekNat s := by
  funext a n
  simp only [Machine.peekNat, h.peek]

theorem Begun.readable : readable t = readable s := by obtain ⟨_, _, rfl⟩ := h; rfl

end

end

end Sys2Proof.Machine

namespace Sys2Proof.Machine

/-! ## A scaler command is judged (R358, R359, R362) -/

section
variable {s t : State} (h : Begun s t)
include h

theorem Begun.sclStopped : sclStopped t = sclStopped s := by obtain ⟨_, _, rfl⟩ := h; rfl

theorem Begun.sclSource : sclSource t = sclSource s := by obtain ⟨_, _, rfl⟩ := h; rfl

theorem Begun.shapeBad : shapeBad t = shapeBad s := by obtain ⟨_, _, rfl⟩ := h; rfl

theorem Begun.entryBadScl : entryBadScl t = entryBadScl s := by
  funext w e
  unfold Machine.entryBadScl batchOk
  simp only [h.peekNat]

theorem Begun.sclCmdBad : sclCmdBad t = sclCmdBad s := by
  funext ws
  simp only [Machine.sclCmdBad, h.entryBadScl]

end

/-- What a command takes from its source, or holds in its place. -/
def sclFrom (s : State) (w : Nat) (x : Option SclSrc) : SclSrc :=
  x.getD
    { fb := {}, bufNo := 0, seq := 0, pts := 0, crop := (0, 0, 0, 0), depth := 8, format := 8, con := false
      cor := false, rx := false
      stream := if hKind w = 0 then (s.decCtx (hSrc w)).desc.streamId else (s.cap (hSrc w)).desc.streamId }

/-- The status with which a command that could be read starts, and the source that it takes. -/
def sclJudged (s : State) (n addr : Nat) (ws : List Nat) : Nat × Option SclSrc :=
  if sclStopped s n then (sclAborted, none)
  else if sclCmdBad s ws || !inHbmClu addr (64 * (hCount (ws.headD 0) + 1)) || shapeBad s ws then (sclInvalid, none)
  else match sclSource s (ws.headD 0) with
    | none => (sclNoFrame, none)
    | some x => if sourceBad ws x then (sclInvalid, none) else (if x.cor || x.rx then sclCorrupt else sclOk, some x)

theorem Begun.sclJudged {s t : State} (h : Begun s t) : sclJudged t = sclJudged s := by
  funext n addr ws
  simp only [Machine.sclJudged, h.sclStopped, h.sclCmdBad, h.shapeBad, h.sclSource]

section
variable {s : State} {n addr : Nat} {ws : List Nat} {x : Option SclSrc}

theorem sclJudged_sound (runs : sclStopped s n = false) (cmd : sclCmdBad s ws = false)
    (range : inHbmClu addr (64 * (hCount (ws.headD 0) + 1)) = true) (shape : shapeBad s ws = false)
    (hx : x = sclSource s (ws.headD 0)) (fits : x.all (fun y => !sourceBad ws y) = true) :
    sclJudged s n addr ws = (if x.isNone then 2
      else if (sclFrom s (ws.headD 0) x).cor || (sclFrom s (ws.headD 0) x).rx then 3 else 0, x) := by
  subst hx
  simp only [sclJudged, runs, cmd, range, shape]
  cases hy : sclSource s (ws.headD 0) with
  | none => rfl
  | some y =>
    rw [hy] at fits
    have ok : sourceBad ws y = false := by simpa using fits
    simp [ok, sclCorrupt, sclOk, sclFrom]

theorem sclJudged_stopped (h : sclStopped s n = true) : sclJudged s n addr ws = (5, none) := by
  rw [sclJudged, if_pos h]
  rfl

theorem sclJudged_invalid (runs : sclStopped s n = false) (bad : sclCmdBad s ws = true ∨
      inHbmClu addr (64 * (hCount (ws.headD 0) + 1)) = false ∨ shapeBad s ws = true ∨
      (sclSource s (ws.headD 0)).any (fun y => sourceBad ws y) = true) :
    sclJudged s n addr ws = (1, none) := by
  rw [sclJudged, if_neg (by simp [runs])]
  split
  · rfl
  · next sound =>
    simp only [Bool.or_eq_true, Bool.not_eq_true', not_or] at sound
    obtain ⟨⟨cmd, range⟩, shape⟩ := sound
    have source := ((bad.resolve_left cmd).resolve_left range).resolve_left shape
    cases hy : sclSource s (ws.headD 0) with
    | none =>
      rw [hy] at source
      cases source
    | some y =>
      rw [hy] at source
      exact if_pos source

end

/-! ## A scaler command is set up (R258, R359, R364) -/

/-- The command that a scaler holds from its start on. -/
def sclSetUp (s : State) (addr status : Nat) (ws : List Nat) (x : Option SclSrc) : SclCmd :=
  let w := ws.headD 0
  let y := sclFrom s w x
  { addr := addr, started := s.up, status := status, capSrc := hKind w != 0, src := hSrc w, buf := x.map (·.fb)
    bufNo := y.bufNo, words := ws, seq := y.seq, pts := y.pts, crop := y.crop, depth := y.depth, format := y.format
    flagCon := y.con, flagCor := y.cor, flagRx := y.rx, stream := y.stream, steer := steerAt s (hSteer w), next := 0
    doneMsk := 0 }

theorem Begun.sclSetUp {s t : State} (h : Begun s t) : sclSetUp t = sclSetUp s := by obtain ⟨_, _, rfl⟩ := h; rfl

section
variable {n addr status w : Nat} {r : List Nat} {x : Option SclSrc} {s : State}

theorem offerStream_clus (w first : Nat) (s : State) :
    offerStream w first s = { s with clus := (offerStream w first s).clus } := by
  unfold offerStream
  split
  · split <;> rfl
  · rfl

theorem offerStream_none {w : Nat} (h : hSaucer w = 0) (first : Nat) (s : State) : offerStream w first s = s := by
  unfold offerStream
  split
  · rw [if_pos h]
  · rfl

/-- A source that is there is taken. -/
def takeAny (w : Nat) (x : Option SclSrc) (s : State) : State :=
  match x with
  | some y => takeSource w y s
  | none => s

/-- A source that is taken is held by its decode context or its capture channel. -/
theorem takeAny_keeps (w : Nat) (x : Option SclSrc) (s : State) : takeAny w x s = { s with
    dec := if x.isNone ∨ hKind w ≠ 0 then s.dec else { s.dec with
      ctxs := updAt s.dec.ctxs (hSrc w) fun z => { z with
        outq := z.outq.tail, reading := (sclFrom s w x).bufNo :: z.reading
        holds := if hKeep w && !z.holds.contains (sclFrom s w x).bufNo then (sclFrom s w x).bufNo :: z.holds
          else z.holds } }
    csi := if x.isNone ∨ hKind w = 0 then s.csi else { s.csi with
      chs := updAt s.csi.chs (hSrc w) fun h => { h with
        sclSeq := some (sclFrom s w x).seq, readers := (sclFrom s w x).bufNo :: h.readers } } } := by
  cases x with
  | none => rfl
  | some y =>
    by_cases dec : hKind w = 0
    · simp [takeAny, takeSource, dec, sclFrom, State.onDecCtx, State.onDec]
    · simp [takeAny, takeSource, dec, sclFrom, State.onCap, State.onCsi]

/-- The source is taken, the command stands at the scaler, and its stream is offered. -/
theorem sclBegin_offers : ∃ first, sclBegin n addr status (w :: r) x s =
    offerStream w first ((takeAny w x s).onSclUnit n fun v => { v with
      lastLo := BitVec.ofNat 32 addr, lastHi := BitVec.ofNat 32 (addr / 2 ^ 32)
      cmd := some (sclSetUp s addr status (w :: r) x) }) := by
  have up : (takeAny w x s).up = s.up := (congrArg State.up (takeAny_keeps w x s) :)
  rw [sclSetUp, ← up]
  unfold sclBegin
  rw [if_neg (List.cons_ne_nil w r)]
  exact ⟨_, rfl⟩

theorem sclBegin_eq : sclBegin n addr status (w :: r) x s = { takeAny w x s with
    scl := { s.scl with units := updAt s.scl.units n fun v => { v with
      lastLo := BitVec.ofNat 32 addr, lastHi := BitVec.ofNat 32 (addr / 2 ^ 32)
      cmd := some (sclSetUp s addr status (w :: r) x) } }
    clus := if hSaucer w = 0 then s.clus else (sclBegin n addr status (w :: r) x s).clus } := by
  obtain ⟨first, he⟩ : ∃ first, sclBegin n addr status (w :: r) x s = offerStream w first _ := sclBegin_offers
  have clus : (takeAny w x s).clus = s.clus := (congrArg State.clus (takeAny_keeps w x s) :)
  have scl : (takeAny w x s).scl = s.scl := (congrArg State.scl (takeAny_keeps w x s) :)
  rw [he, ← clus, ← scl]
  by_cases saucer : hSaucer w = 0
  · rw [offerStream_none saucer, if_pos saucer]
    rfl
  · rw [if_neg saucer]
    exact offerStream_clus ..

end

/-- SCALE_START at a scaler that is free takes its command, which is judged as the state stands (R359). -/
theorem exec_scaleStart {s u : State} {n : Fin 4} {a : Action} {w : Nat} {ws : List Nat}
    (idle : (s.sclUnit n.val).cmd = none) (taken : takeAction s 8 4 (fun a => a.target == n.val) = some (a, u))
    (header : readable s (.scaler n) a.arg64 64 = true) (hw : w = peekNat s a.arg64 64)
    (entries : readable s (.scaler n) (a.arg64 + 64) (64 * min 17 (hCount w)) = true)
    (hws : ws = w :: (List.range (min 17 (hCount w))).map (fun i => peekNat s (a.arg64 + 64 * (i + 1)) 64)) :
    ∃ v, Locks u v ∧ exec (.scaleStart n) s =
      .next (sclBegin n.val a.arg64 (sclJudged s n.val a.arg64 ws).1 ws (sclJudged s n.val a.arg64 ws).2 v) := by
  have begun : Begun s u := begun_takeAction taken
  obtain ⟨t, ht, read⟩ := readMem_locks (begun.readable ▸ header)
  obtain ⟨v, hv, more⟩ := readMem_locks ((begun.locks read).readable ▸ entries)
  have last : Begun s v := (begun.locks read).locks more
  refine ⟨v, read.trans more, ?_⟩
  have src : sclSrc n.val = .scaler n := by simp [sclSrc]
  have word : leNat (peek u a.arg64 64) = w := by rw [hw, ← begun.peekNat]; rfl
  have words : w :: (List.range (min 17 (hCount w))).map (fun i => peekNat v (a.arg64 + 64 * (i + 1)) 64) = ws := by
    rw [hws, last.peekNat]
  have head : ws.headD 0 = w := by rw [hws]; rfl
  rw [← last.sclJudged]
  simp only [exec, execScaleStart, idle, taken, src, ht, word, hv, words, Option.isSome_none, ne_eq, not_true, if_false,
    Bool.false_eq_true, sclJudged, head]
  by_cases stopped : sclStopped v n.val = true
  · simp only [stopped, if_true]
  by_cases bad : (sclCmdBad v ws || !inHbmClu a.arg64 (64 * (hCount w + 1)) || shapeBad v ws) = true
  · simp only [stopped, bad, if_true, if_false, Bool.false_eq_true]
  cases source : sclSource v w with
  | none => simp only [stopped, bad, if_false, Bool.false_eq_true]
  | some x =>
    by_cases unfit : sourceBad ws x = true
    · simp only [stopped, bad, unfit, if_true, if_false, Bool.false_eq_true]
    · simp only [stopped, bad, unfit, if_false, Bool.false_eq_true]

section
variable {s u v : State} {lat code : Nat} {p : Action → Bool} {a : Action}
  (taken : takeAction s lat code p = some (a, u)) (read : Locks u v) (n addr status w : Nat) (r : List Nat)
  (x : Option SclSrc)
include taken read

/-- What a start leaves: the scaler with its command, the source held, the stream offered. -/
theorem sclBegin_started : sclBegin n addr status (w :: r) x v = { u with
    hbm := v.hbm
    scl := { s.scl with units := updAt s.scl.units n fun k => { k with
      lastLo := BitVec.ofNat 32 addr, lastHi := BitVec.ofNat 32 (addr / 2 ^ 32)
      cmd := some (sclSetUp s addr status (w :: r) x) } }
    clus := if hSaucer w = 0 then s.clus else (sclBegin n addr status (w :: r) x v).clus
    dec := (takeAny w x s).dec
    csi := (takeAny w x s).csi } := by
  refine sclBegin_eq.trans ?_
  rw [takeAny_keeps w x s, takeAny_keeps w x v, ((begun_takeAction taken).locks read).sclSetUp]
  obtain ⟨_, -, -, -, -, rfl⟩ := takeAction_some taken
  obtain ⟨_, rfl⟩ := read
  rfl

theorem scl_started : (sclBegin n addr status (w :: r) x v).scl = { s.scl with
    units := updAt s.scl.units n fun k => { k with
      lastLo := BitVec.ofNat 32 addr, lastHi := BitVec.ofNat 32 (addr / 2 ^ 32)
      cmd := some (sclSetUp s addr status (w :: r) x) } } :=
  (congrArg State.scl (sclBegin_started taken read n addr status w r x) :)

/-- A start leaves every part alone but the scalers, the clusters' streams, the source, and the HBM map's lock. -/
theorem started_keeps : sclBegin n addr status (w :: r) x v = { u with
    hbm := (sclBegin n addr status (w :: r) x v).hbm
    scl := (sclBegin n addr status (w :: r) x v).scl
    clus := if hSaucer w = 0 then s.clus else (sclBegin n addr status (w :: r) x v).clus
    dec := (takeAny w x s).dec
    csi := (takeAny w x s).csi } := by
  have hbm : (sclBegin n addr status (w :: r) x v).hbm = v.hbm :=
    (congrArg State.hbm (sclBegin_started taken read n addr status w r x) :)
  rw [hbm, scl_started taken read]
  exact sclBegin_started taken read n addr status w r x

end

theorem units_length_of_sized {s : State} (hs : sized s = true) : s.scl.units.length = 4 := by
  simp only [sized_eq, Scl.sized, Bool.and_eq_true, beq_iff_eq] at hs
  simp only [hs]

theorem getD_updAt_ne {α : Type} {i k : Nat} (h : k ≠ i) (l : List α) (f : α → α) (d : α) :
    (updAt l i f).getD k d = l.getD k d := by
  simp only [updAt, List.getD_eq_getElem?_getD, List.getElem?_modify_ne _ _ h.symm]

/-- Settles O31: the command is judged as the state stands at its start, and set up with what it is judged to be. -/
theorem scalerStarts : Obligations.ScalerStarts := by
  unfold Obligations.ScalerStarts
  refine ⟨?_, ?_, ?_⟩
  · intro s u n a w ws x y idle taken header hw entries hws runs cmd range shape hx fits hy
    obtain ⟨v, read, started⟩ := exec_scaleStart idle taken header hw entries hws
    have head : ws.headD 0 = w := by rw [hws]; rfl
    rw [sclJudged_sound runs cmd (head ▸ range) shape (head ▸ hx) fits, head] at started
    subst hws hy
    refine ⟨_, started, scl_started taken read .., (started_keeps taken read ..).trans ?_⟩
    rw [takeAny_keeps w x s]
    rfl
  · intro s u n a w st ws hs idle taken header hw entries hws bad
    obtain ⟨v, read, started⟩ := exec_scaleStart idle taken header hw entries hws
    have head : ws.headD 0 = w := by rw [hws]; rfl
    have judged : sclJudged s n.val a.arg64 ws = (st, none) := by
      rcases bad with ⟨stopped, rfl⟩ | ⟨runs, rfl, bad⟩
      · exact sclJudged_stopped stopped
      · exact sclJudged_invalid runs (head.symm ▸ bad)
    rw [judged] at started
    subst hws
    have scl := scl_started taken read n.val a.arg64 st w
      ((List.range (min 17 (hCount w))).map fun i => peekNat s (a.arg64 + 64 * (i + 1)) 64) none
    have here : n.val < s.scl.units.length := by rw [units_length_of_sized hs]; exact n.isLt
    have unit := (congrArg (fun c : Scl => c.units.getD n.val {}) scl).trans (getD_updAt here _ _)
    refine ⟨_, started, ?_, ?_, ?_, ?_, ?_⟩
    · exact congrArg (fun k : SclUnit => k.cmd.map (·.status)) unit
    · exact congrArg (fun k : SclUnit => k.cmd.bind (·.buf)) unit
    · exact congrArg (fun k : SclUnit => k.cmd.map (·.words)) unit
    · exact fun k _ other => (congrArg (fun c : Scl => c.units.getD k {}) scl).trans (getD_updAt_ne other _ _ _)
    · refine (started_keeps taken read ..).trans ?_
      obtain ⟨_, -, -, -, -, rfl⟩ := takeAction_some taken
      rfl
  · intro s n busy
    simp only [exec, execScaleStart, busy, if_true]

end Sys2Proof.Machine

namespace Sys2Proof.Machine

/-! ## The Caddy's command rings (R259, R380, R382) -/

section
variable {s : State} {n : Fin 8}

theorem cdyRing_of_getElem? {r : CdyRing} {k : Nat} (h : s.cdy.rings[k]? = some r) : s.cdyRing k = r := by
  rw [State.cdyRing, List.getD_eq_getElem?_getD, h, Option.getD_some]

/-- Changes that do the same to the ring they meet are the same. -/
theorem onCdyRing_congr {f g : CdyRing → CdyRing} {k : Nat} (h : f (s.cdyRing k) = g (s.cdyRing k)) :
    s.onCdyRing k f = s.onCdyRing k g := by
  have same : updAt s.cdy.rings k f = updAt s.cdy.rings k g :=
    updAt_congr fun r hr => by rwa [cdyRing_of_getElem? hr] at h
  simp only [State.onCdyRing, State.onCdy, same]

theorem onCdyRing_onCdyRing (k : Nat) (f g : CdyRing → CdyRing) :
    (s.onCdyRing k f).onCdyRing k g = s.onCdyRing k (g ∘ f) := by
  simp only [State.onCdyRing, State.onCdy, updAt_updAt]

theorem exec_cdyCringCfgWrite {v : W32} (ho : barWr s = true) :
    exec (.cdyCringCfgWrite n v) s = .next (cringCfgWrite n.val v s) := congrArg Host.Outcome.next (hostWrite_of ho)

/-- A write that keeps the length of an enabled ring takes effect; one that sets EN zeroes the ring. -/
theorem cringCfgWrite_taken {k : Nat} {v : W32}
    (h : rbit (s.cdyRing k).cfg 31 = false ∨ rfld (s.cdyRing k).cfg 7 0 = rfld v 7 0) :
    cringCfgWrite k v s = s.onCdyRing k fun r =>
      if rbit v 31 = true ∧ rbit (s.cdyRing k).cfg 31 = false then
        { r with cfg := v &&& 0x800000ff#32, cons := 0, prod := 0, pos := 0, fallb := [] }
      else { r with cfg := v &&& 0x800000ff#32 } := by
  have stays : ¬ (rbit (s.cdyRing k).cfg 31 && rfld (s.cdyRing k).cfg 7 0 != rfld v 7 0) = true := by
    rcases h with h | h <;> simp [h]
  rw [cringCfgWrite, if_neg stays]
  exact onCdyRing_congr (by simp)

theorem cringCfgWrite_refused {k : Nat} {v : W32} (en : rbit (s.cdyRing k).cfg 31 = true)
    (h : rfld (s.cdyRing k).cfg 7 0 ≠ rfld v 7 0) : cringCfgWrite k v s = invalidProg .cdy s :=
  if_pos (by simpa [en] using h)

section
variable {v : Nat} {fb : Bool} {q : List (Nat × Bool)} (hp : (s.cdyRing n.val).dbPend = (v, fb) :: q)
include hp

theorem exec_cdyDoorbell_off (en : rbit (s.cdyRing n.val).cfg 31 = false) :
    exec (.cdyDoorbell n) s = .next (s.onCdyRing n.val fun r => { r with dbPend := q }) := by
  simp [exec, execCdyDoorbell, hp, en]

theorem exec_cdyDoorbell_overrun (en : rbit (s.cdyRing n.val).cfg 31 = true)
    (h : rfld (s.cdyRing n.val).cfg 7 0 + 1 < (v + 65536 - (s.cdyRing n.val).cons) % 65536) :
    exec (.cdyDoorbell n) s =
      .next (raise .cdy 1 none n.val (s.onCdyRing n.val fun r => { r with dbPend := q })) := by
  simp [exec, execCdyDoorbell, hp, en, h]

theorem exec_cdyDoorbell_taken {k : Nat} (en : rbit (s.cdyRing n.val).cfg 31 = true)
    (hk : k = (v + 65536 - (s.cdyRing n.val).cons) % 65536) (h : k ≤ rfld (s.cdyRing n.val).cfg 7 0 + 1) :
    exec (.cdyDoorbell n) s = .next (s.onCdyRing n.val fun r => { r with
      dbPend := q, prod := v, fallb := (r.fallb ++ List.replicate (k - r.fallb.length) fb).take k }) := by
  subst hk
  simp only [exec, execCdyDoorbell, hp, en, Bool.not_true, Bool.false_eq_true, if_false, gt_iff_lt, Nat.not_lt.2 h,
    onCdyRing_onCdyRing]
  rfl

end

end

end Sys2Proof.Machine

namespace Sys2Proof.Machine

/-! ## What a Caddy command reads (R386, R391, R397) -/

section
variable {s t : State} (h : Begun s t)
include h

theorem Begun.cdyPart : t.cdyPart = s.cdyPart := by obtain ⟨_, _, rfl⟩ := h; rfl

theorem Begun.badWords : t.badWords = s.badWords := by obtain ⟨_, _, rfl⟩ := h; rfl

theorem Begun.cdyBatchBad : cdyBatchBad t = cdyBatchBad s := by
  funext w
  simp only [Machine.cdyBatchBad, h.peekNat]

theorem Begun.cmdTicks : cmdTicks t = cmdTicks s := by
  funext w
  simp only [Machine.cmdTicks, h.cdyPart]

theorem Begun.sampleOf : sampleOf t = sampleOf s := by
  funext w
  simp only [Machine.sampleOf, h.peekNat]

theorem Begun.detections : detections t = detections s := by
  funext w
  simp only [Machine.detections, h.peekNat]

theorem Begun.tokenRec : tokenRec t = tokenRec s := by
  funext q w d id
  simp only [Machine.tokenRec, h.peek]

theorem Begun.associate : associate t = associate s := by
  funext x w seq stream id dets es
  simp only [Machine.associate, admitted, h.peek, h.peekNat]

theorem Begun.updateRecords : updateRecords t = updateRecords s := by
  funext x q w dets a
  simp only [Machine.updateRecords, h.tokenRec]

end

/-- Ranges that can all be read answer OK, and their reads lock the HBM map at most. -/
theorem readAll_locks {src : Src} {l : List (Nat × Nat)} {s : State} (h : ∀ r ∈ l, readable s src r.1 r.2 = true) :
    ∃ t, readAll src l s = (.ok, t) ∧ Locks s t := by
  induction l generalizing s with
  | nil => exact ⟨s, rfl, s.hbm.lock, rfl⟩
  | cons r l ih =>
    obtain ⟨a, n⟩ := r
    obtain ⟨t, ht, first⟩ := readMem_locks (h (a, n) List.mem_cons_self)
    obtain ⟨u, hu, rest⟩ := ih (s := t) fun r hr => first.begun.readable ▸ h r (List.mem_cons_of_mem _ hr)
    refine ⟨u, ?_, first.trans rest⟩
    simp only [readAll, ht, hu]

/-! ## A Caddy command starts (R381, R384)

As in the rules on the numbered parts, a variable that has the reads' results stands in the place of `readMem` and
`readAll` where a function looks at them through nested matches: the kernel would otherwise compute the reads. -/

theorem cdyStart_busy {s : State} (h : nextRing s = none ∨ cdyIdle s = false) (emit : Bool) :
    cdyStart emit s = s := by
  unfold cdyStart
  cases next : nextRing s with
  | none => rfl
  | some n => exact if_neg (by simp [h.resolve_left (by simp [next])])

section
variable {s : State} {n w : Nat} {emit : Bool} (next : nextRing s = some n) (idle : cdyIdle s = true)
  (read : readable s .caddy (ringCmdAddr s n) 64 = true) (hw : w = peekNat s (ringCmdAddr s n) 64)
  (op : cOp w = 2 ↔ emit = true)
include next idle read hw op

/-- A command that breaks the rules does nothing until its time is over (R383). -/
theorem cdyStart_invalid (bad : cdyWordBad w = true) :
    ∃ t, Locks s t ∧ cdyStart emit s = endAfter (cmdTicks s w) n w cdyInvalid true t := by
  obtain ⟨t, ht, locks⟩ := readMem_locks read
  have word : leNat (peek s (ringCmdAddr s n) 64) = w := hw.symm
  have time := congrFun locks.begun.cmdTicks w
  refine ⟨t, locks, ?_⟩
  generalize hf : cdyStart = f
  delta cdyStart at hf
  generalize readMem = R at hf ht
  subst hf
  revert R
  refine id fun R ht => ?_
  simp only [next, idle, ht, word, op, bad, true_and, if_true, ne_eq, not_true, if_false, time]

/-- A command whose word and batch follow the rules is run. -/
theorem cdyStart_run (good : cdyWordBad w = false) (batch : readable s .caddy (cBatch w) 64 = true)
    (size : cdyBatchBad s w = false) :
    ∃ t, Locks s t ∧ cdyStart emit s = if emit then runEmit n w ((s.cdyRing n).fallb.headD false) t
      else runUpdate n w ((s.cdyRing n).fallb.headD false) t := by
  obtain ⟨t, ht, command⟩ := readMem_locks read
  obtain ⟨u, hu, locks⟩ := readMem_locks (command.begun.readable ▸ batch)
  have word : leNat (peek s (ringCmdAddr s n) 64) = w := hw.symm
  have ok : cdyBatchBad u w = false := (congrFun (command.trans locks).begun.cdyBatchBad w).trans size
  refine ⟨u, command.trans locks, ?_⟩
  generalize hf : cdyStart = f
  delta cdyStart at hf
  generalize readMem = R at hf ht hu
  subst hf
  revert R
  refine id fun R ht hu => ?_
  simp only [next, idle, ht, word, op, good, hu, ok, true_and, if_true, ne_eq, not_true, if_false,
    Bool.false_eq_true]

end

/-! ## UPDATE (R386 to R394) -/

/-- What the matching of an UPDATE gives; without a valid sample the entries stay as they are (R391). -/
def updateAssoc (s : State) (w : Nat) : Assoc :=
  let x := (s.cdyPart (cPart w)).desc
  let q := sampleOf s w
  let es := (List.range x.count).map fun i => peekNat s (entryAddr x i) 128
  let id := (s.cdyPart (cPart w)).nextId.getD x.firstId
  let dets := if q.valid then detections s w else []
  if q.valid then associate s x w q.seq q.stream id dets es else { es := es, nextId := id }

/-- The command in progress that an UPDATE is from its start on, where no entry holds an error. -/
def updateNow (s : State) (ring w : Nat) (fb : Bool) : CdyNow :=
  let x := (s.cdyPart (cPart w)).desc
  let q := sampleOf s w
  let a := updateAssoc s w
  let fin := a.es.map fun e => if isLive e then predictEntry x q.valid e else e
  { due := s.up + cmdTicks s w, done := some (cDone w), value := fld w 511 448
    status := if q.valid then 0 else cdySample, created := a.made.length, deleted := a.dead.length, notCr := a.lost
    ring := ring
    plan :=
      { part := some (cPart w), entries := fin, nextId := if q.valid then some a.nextId else none
        steer := if x.steerMax > 0 then some (steerSetOf x q.seq fin) else none
        ring := x.recRing
        recs := if q.valid then updateRecords s x q w (if q.valid then detections s w else []) a else []
        seq := q.seq, stream := q.stream, ctx := cCtx w, con := q.con, fb := fb } }

theorem badEntries_none {s : State} (h : s.badWords = []) (x : PartDesc) : badEntries s x = [] := by
  simp [badEntries, badAt, h]

section
variable {s t : State} {ring w : Nat} {fb : Bool} (h : Begun s t)
include h

theorem runUpdate_disabled (off : (s.cdyPart (cPart w)).enabled = false) :
    runUpdate ring w fb t = endAfter (cmdTicks s w) ring w cdyPartDis true t := by
  simp only [runUpdate, h.cdyPart, off, h.cmdTicks, Bool.not_false, if_true]

/-- An UPDATE of an enabled partition reads its inputs, and what it will do is settled. -/
theorem runUpdate_settled (on : (s.cdyPart (cPart w)).enabled = true) (clean : s.badWords = [])
    (sample : readable s .caddy (cBatch w + 0x40 + 16 * cSlot w) 16 = true)
    (inputs : ∀ r ∈ cdyInputs (s.cdyPart (cPart w)).desc w (sampleOf s w).valid, readable s .caddy r.1 r.2 = true) :
    ∃ v, Locks t v ∧ runUpdate ring w fb t = beginCmd ring (updateNow s ring w fb) v := by
  obtain ⟨u, hu, first⟩ := readMem_locks (h.readable ▸ sample)
  have hU := h.locks first
  obtain ⟨v, hv, rest⟩ := readAll_locks (s := u) fun r hr => hU.readable ▸ inputs r hr
  have hV := hU.locks rest
  have bad := badEntries_none (hV.badWords.trans clean)
  refine ⟨v, first.trans rest, ?_⟩
  generalize hf : runUpdate = f
  delta runUpdate at hf
  generalize readMem = R at hf hu
  generalize readAll = A at hf hv
  subst hf
  revert R A
  refine id fun R hu A hv => ?_
  simp only [hu, hU.sampleOf, h.cdyPart, on, hv, bad, emptyBad, List.foldl_nil, hV.up, hV.cdyPart, hV.peekNat,
    hV.cmdTicks, hV.detections, hV.associate, hV.updateRecords, Bool.not_true, Bool.false_eq_true, if_false, ne_eq,
    not_true, or_self]
  rfl

end

/-! ## EMIT (R397) -/

/-- The records of an EMIT in the order of R397: the detections, then their tokens. -/
def emitRecords (s : State) (w : Nat) : List Body :=
  ((detections s w).zipIdx.map fun z => objectRec (sampleOf s w) z.1 (fld z.1 63 0) z.2 0 false false 0) ++
    if cToken w ≠ 0 then (List.range (detections s w).length).map fun d => tokenRec s (sampleOf s w) w d 0 else []

/-- An EMIT reads its inputs, and its records are settled. -/
theorem runEmit_settled {s t : State} {ring w : Nat} {fb : Bool} (h : Begun s t)
    (sample : readable s .caddy (cBatch w + 0x40 + 16 * cSlot w) 16 = true)
    (inputs : ∀ r ∈ cdyInputs {} w true, readable s .caddy r.1 r.2 = true) :
    ∃ v, Locks t v ∧ runEmit ring w fb t = beginCmd ring
      { due := s.up + cmdTicks s w, done := some (cDone w), value := fld w 511 448, status := 0
        created := 0, deleted := 0, notCr := 0, ring := ring
        plan := { ring := cRing w, recs := emitRecords s w, seq := (sampleOf s w).seq, stream := (sampleOf s w).stream
                  ctx := cCtx w, con := (sampleOf s w).con, fb := fb } } v := by
  obtain ⟨u, hu, first⟩ := readMem_locks (h.readable ▸ sample)
  have hU := h.locks first
  obtain ⟨v, hv, rest⟩ := readAll_locks (s := u) fun r hr => hU.readable ▸ inputs r hr
  have hV := hU.locks rest
  refine ⟨v, first.trans rest, ?_⟩
  generalize hf : runEmit = f
  delta runEmit at hf
  generalize readMem = R at hf hu
  generalize readAll = A at hf hv
  subst hf
  revert R A
  refine id fun R hu A hv => ?_
  simp only [hu, hv, hV.up, hV.cmdTicks, hV.sampleOf, hV.detections, hV.tokenRec, ne_eq, not_true, or_self, if_false]
  rfl

/-! ## The outcome of UPDATE and EMIT -/

/-- A command that starts is the one in progress; of the rest only the HBM map may be locked. -/
theorem beginCmd_locks {s t : State} (h : Locks s t) (ring : Nat) (x : CdyNow) : beginCmd ring x t = { s with
    hbm := (beginCmd ring x t).hbm, cdy := { s.cdy with lastRing := ring, now := some x } } := by
  obtain ⟨_, rfl⟩ := h
  rfl

theorem endAfter_locks {s t : State} (h : Locks s t) {ticks ring w status : Nat} (done : doneOk w = true) :
    endAfter ticks ring w status true t = { s with
      hbm := (endAfter ticks ring w status true t).hbm
      cdy := { s.cdy with
        lastRing := ring
        now := some {
          due := s.up + ticks, done := some (cDone w), value := fld w 511 448, status := status, created := 0
          deleted := 0, notCr := 0, ring := ring } } } := by
  have known : (if true && doneOk w then some (cDone w) else none) = some (cDone w) := by rw [done]; rfl
  have up : t.up = s.up := h.begun.up
  unfold endAfter
  rw [known, up]
  exact beginCmd_locks h ring _

theorem doneOk_of_good {w : Nat} (good : cdyWordBad w = false) : doneOk w = true := by
  simp only [cdyWordBad, Bool.or_eq_false_iff] at good
  obtain ⟨⟨-, aligned⟩, range⟩ := good
  rw [doneOk, Bool.and_eq_true]
  exact ⟨by simpa using aligned, by simpa using range⟩

theorem cmdTicks_update {s : State} {w : Nat} (op : cOp w = 1) : cmdTicks s w =
    128 + 3 * (s.cdyPart (cPart w)).desc.count + 8 * cD w + cD w * cK w * (Nat.clog 2 (cD w * cK w) + 1) := by
  simp only [cmdTicks, op, updateTicks]

theorem cmdTicks_emit {s : State} {w : Nat} (op : cOp w = 2) : cmdTicks s w = 64 + 4 * cD w := by
  simp only [cmdTicks, op]

/-- Settles O34: the rings, then the commands that start and what each settles. -/
theorem caddyStarts : Obligations.CaddyStarts := by
  unfold Obligations.CaddyStarts
  refine ⟨?_, ?_, ?_, fun s n v k fb q hp en hk h => exec_cdyDoorbell_taken hp en hk h, ?_,
    fun s n v fb q hp en => exec_cdyDoorbell_off hp en, ?_, ?_, ?_, ?_, ?_⟩
  · intro s n v ho off on
    rw [exec_cdyCringCfgWrite ho, cringCfgWrite_taken (.inl off)]
    simp only [on, off, and_self, if_true]
    rfl
  · intro s n v ho enabled stays
    have keeps : ¬ (rbit v 31 = true ∧ rbit (s.cdyRing n.val).cfg 31 = false) := by
      rcases enabled with h | h <;> simp [h]
    rw [exec_cdyCringCfgWrite ho, cringCfgWrite_taken stays]
    simp only [keeps, if_false]
    rfl
  · intro s n v hs ho en h
    exact ⟨_, (exec_cdyCringCfgWrite ho).trans (congrArg _ (cringCfgWrite_refused en h)),
      errBit_invalidProg _ _ (hdrs_of_sized hs), invalidProg_log _ _⟩
  · intro s n v fb q hs hp en h
    exact ⟨_, exec_cdyDoorbell_overrun hp en h, errBit_raise _ _ _ _ _ (by decide)
      (hdrs_of_sized ((sized_onCdyRing ..).trans hs)), sansLog_over (raise_log _ _ _ _ _)⟩
  · intro s n w id x q dets es fin a next idle clean read hw op good batch size on hx sample hq inputs hes hid hdets
      ha hfin
    subst hx hq
    obtain ⟨t, command, run⟩ := cdyStart_run (emit := false) next idle read hw (by simp [op]) good batch size
    obtain ⟨v, rest, settled⟩ := runUpdate_settled (ring := n) (fb := (s.cdyRing n).fallb.headD false)
      command.begun on clean sample inputs
    refine ⟨_, congrArg Host.Outcome.next (run.trans settled), ?_⟩
    subst hes hid hdets ha hfin
    refine (beginCmd_locks (command.trans rest) _ _).trans ?_
    rw [updateNow, cmdTicks_update op]
    rfl
  · intro s n w q next idle read hw op good batch size sample hq inputs
    subst hq
    obtain ⟨t, command, run⟩ := cdyStart_run (emit := true) next idle read hw (by simp [op]) good batch size
    obtain ⟨v, rest, settled⟩ := runEmit_settled (ring := n) (fb := (s.cdyRing n).fallb.headD false) command.begun
      sample inputs
    refine ⟨_, congrArg Host.Outcome.next (run.trans settled), ?_⟩
    refine (beginCmd_locks (command.trans rest) _ _).trans ?_
    rw [cmdTicks_emit op]
    rfl
  · intro s n w i next idle read hw aligned range hi bad
    have done : doneOk w = true := by simp [doneOk, aligned, range]
    obtain ⟨emit, hx, op⟩ : ∃ emit, exec i s = .next (cdyStart emit s) ∧ (cOp w = 2 ↔ emit = true) := by
      rcases hi with ⟨rfl, op⟩ | ⟨rfl, op⟩
      · exact ⟨false, rfl, by simp [op]⟩
      · exact ⟨true, rfl, by simp [op]⟩
    obtain ⟨t, command, ended⟩ := cdyStart_invalid next idle read hw op bad
    exact ⟨_, hx.trans (congrArg _ ended), endAfter_locks command done⟩
  · intro s n w next idle read hw op good batch size off
    obtain ⟨t, command, run⟩ := cdyStart_run (emit := false) next idle read hw (by simp [op]) good batch size
    exact ⟨_, congrArg Host.Outcome.next (run.trans (runUpdate_disabled command.begun off)),
      endAfter_locks command (doneOk_of_good good)⟩
  · intro s i hi busy
    simp only [List.mem_cons, List.not_mem_nil, or_false] at hi
    rcases hi with rfl | rfl
    · exact congrArg Host.Outcome.next (cdyStart_busy busy false)
    · exact congrArg Host.Outcome.next (cdyStart_busy busy true)

end Sys2Proof.Machine

namespace Sys2Proof.Machine

/-! ## What an access to memory leaves (R191, R440, R470, R496)

An agent's access to memory may log conditions, lock the HBM map, mark a core that fails, and ring the doorbells of
the command rings. None of it reaches the video units, the clock, the scheduler or the Spout. -/

theorem acctLo_reqVector (v : Nat) (s : State) : (reqVector v s).hif.acctLo = s.hif.acctLo := by
  unfold reqVector
  split <;> rfl

theorem acctLo_onIrq (p : Page) (f : Hdr → Hdr) (s : State) : (onIrq p f s).hif.acctLo = s.hif.acctLo := by
  unfold onIrq reqSource
  simp only
  split
  · split
    · exact acctLo_reqVector _ _
    · rfl
  · rfl

theorem acctLo_setInt (p : Page) (i : Nat) (s : State) : (setInt p i s).hif.acctLo = s.hif.acctLo := acctLo_onIrq ..

theorem acctLo_logFault (p : Page) (b cls : Nat) (d : W32) (s : State) :
    (logFault p b cls d s).hif.acctLo = s.hif.acctLo := by
  unfold logFault
  rw [acctLo_setInt]
  simp only [State.onHif_hif, State.onMgt_hif, apply_ite Hif.acctLo, ite_self]

theorem acctLo_raiseLog (p : Page) (b : Nat) (l0 l1 l2 l3 : W32) (s : State) :
    (raiseLog p b l0 l1 l2 l3 s).hif.acctLo = s.hif.acctLo := by
  have due : ∀ t : State, (fatalDue p t).hif = t.hif := fun _ => rfl
  unfold raiseLog
  simp only [apply_ite (fun t : State => t.hif.acctLo), due, acctLo_logFault, acctLo_setInt, State.onHdr_hif, ite_self]

/-- `t` with what an access to memory may touch put back to what `s` holds. -/
def sansAccess (s t : State) : State :=
  { t with
    free := s.free, mem := s.mem, badWords := s.badWords, hdrs := s.hdrs, mgt := s.mgt, hif := s.hif, cores := s.cores
    clus := s.clus, cdy := s.cdy, hbm := s.hbm }

/-- `t` is `s` after accesses to memory and what they log. -/
structure Accessed (s t : State) : Prop where
  parts : sansAccess s t = s
  faults : sansFaults s.mgt t.mgt = s.mgt
  acct : t.hif.acctLo = s.hif.acctLo
  jobs : ∀ n, (t.core n).job = (s.core n).job

section
variable {s t u : State}

theorem Accessed.refl (s : State) : Accessed s s := ⟨rfl, rfl, rfl, fun _ => rfl⟩

theorem Accessed.trans (h : Accessed s t) (k : Accessed t u) : Accessed s u := by
  refine ⟨?_, ?_, k.acct.trans h.acct, fun n => (k.jobs n).trans (h.jobs n)⟩
  · have same : sansAccess s u = sansAccess s (sansAccess t u) := rfl
    rw [same, k.parts, h.parts]
  · have same : sansFaults s.mgt u.mgt = sansFaults s.mgt (sansFaults t.mgt u.mgt) := rfl
    rw [same, k.faults, h.faults]

theorem Accessed.ite {c : Prop} [Decidable c] (h : Accessed s t) (k : Accessed s u) : Accessed s (if c then t else u) := by
  split
  · exact h
  · exact k

theorem Accessed.foldl {α : Type} {f : State → α → State} (h : ∀ t a, Accessed t (f t a)) (l : List α) (s : State) :
    Accessed s (l.foldl f s) := by
  induction l generalizing s with
  | nil => exact .refl s
  | cons a l ih => exact (h s a).trans (ih _)

theorem accessed_of_logged (h : Logged s t) (acct : t.hif.acctLo = s.hif.acctLo) : Accessed s t := by
  refine ⟨?_, h.faults, acct, fun n => by rw [h.core n]⟩
  have same : sansAccess s t = sansAccess s (sansLog s t) := rfl
  rw [same, h.parts]
  rfl

theorem accessed_raiseLog (p : Page) (b : Nat) (l0 l1 l2 l3 : W32) (s : State) :
    Accessed s (raiseLog p b l0 l1 l2 l3 s) :=
  accessed_of_logged ⟨raiseLog_log .., raiseLog_faults ..⟩ (acctLo_raiseLog ..)

theorem accessed_free (k : Nat) (s : State) : Accessed s { s with free := k } := ⟨rfl, rfl, rfl, fun _ => rfl⟩

theorem accessed_raise (p : Page) (b : Nat) (d : Option W32) (unit : Nat) (s : State) : Accessed s (raise p b d unit s) := by
  unfold raise
  refine Accessed.trans ?_ (accessed_raiseLog ..)
  cases d with
  | none => exact accessed_free _ s
  | some w => exact .refl s

theorem accessed_setInt (p : Page) (i : Nat) (s : State) : Accessed s (setInt p i s) :=
  accessed_of_logged ⟨sansLog_of_int (setInt_int ..), by rw [setInt_mgt]; rfl⟩ (acctLo_setInt ..)

section
variable (src : Src) (a n : Nat) (s : State)

theorem accessed_logResp (r : Resp) : Accessed s (logResp src r a s) := by
  unfold logResp
  simp only
  split
  · exact .refl s
  · exact (accessed_free _ s).trans (accessed_raiseLog ..)
  · exact .refl s
  · exact .refl s
  · exact accessed_raiseLog ..

theorem accessed_touch : Accessed s (touch src a s) := by
  rw [touch_hbm]
  exact ⟨rfl, rfl, rfl, fun _ => rfl⟩

theorem accessed_markCore : Accessed s (markCore src a s) := by
  have keeps := markCore_keeps src a s
  exact ⟨(congrArg (sansAccess s) keeps :), (congrArg (fun u : State => sansFaults s.mgt u.mgt) keeps :),
    (congrArg (·.hif.acctLo) keeps :), markCore_part src a s Core.job fun _ => rfl⟩

theorem accessed_logUncorr : Accessed s (logUncorr src a s) := (accessed_markCore src a s).trans (accessed_raiseLog ..)

theorem accessed_poke (bs : List Byte) : Accessed s (poke a bs s) := ⟨rfl, rfl, rfl, fun _ => rfl⟩

theorem accessed_ringDoorbells (hit : Nat → Bool) (fb : Bool) : Accessed s (ringDoorbells hit fb s) := by
  have keeps := ringDoorbells_keeps hit fb s
  have cores : (ringDoorbells hit fb s).cores = s.cores := (congrArg State.cores keeps :)
  refine ⟨?_, (congrArg (fun u : State => sansFaults s.mgt u.mgt) keeps :), (congrArg (·.hif.acctLo) keeps :), fun k => ?_⟩
  · exact (congrArg (sansAccess s) keeps :)
  · rw [core_eq, cores, ← core_eq]

theorem accessed_readMem : Accessed s (readMem src a n s).2.2 := by
  unfold readMem
  split
  · dsimp only
    split
    · exact ((accessed_touch src a s).trans (accessed_logUncorr ..)).trans (accessed_logResp ..)
    · exact accessed_touch src a s
  · exact accessed_logResp ..

theorem accessed_writeMem (bs : List Byte) (fb : Bool) : Accessed s (writeMem src a bs fb s).2 := by
  have written : Accessed s (ringDoorbells (inRange a bs.length) fb (poke a bs (touch src a s))) :=
    ((accessed_touch src a s).trans (accessed_poke ..)).trans (accessed_ringDoorbells ..)
  unfold writeMem
  split
  · dsimp only
    split
    · exact written
    · exact (written.trans (.foldl (fun t w => accessed_logUncorr src w t) _ _)).trans (accessed_logResp ..)
  · exact accessed_logResp ..

theorem accessed_storeNat (v : Nat) : Accessed s (storeNat src a n v s) := accessed_writeMem ..

theorem accessed_bump32 : Accessed s (bump32 src a s) := by
  refine .ite (accessed_logResp ..) (Accessed.ite ?_ ?_)
  · exact (accessed_touch src a s).trans (accessed_logUncorr ..)
  · exact (accessed_touch src a s).trans (accessed_poke ..)

theorem accessed_serve64 (fb : Bool) (f : Nat → Nat) : Accessed s (serve64 src a fb f s).2 := by
  have touched := accessed_touch src a s
  unfold serve64
  dsimp only
  split
  · exact touched.trans (accessed_raise ..)
  · split
    · exact touched.trans (accessed_logUncorr ..)
    · exact (touched.trans (accessed_poke ..)).trans (accessed_ringDoorbells ..)

theorem accessed_modify64 (fb : Bool) (f : Nat → Nat) : Accessed s (modify64 src a fb f s).2 := by
  unfold modify64
  dsimp only
  split
  · exact (accessed_serve64 ..).trans (accessed_logResp ..)
  · exact accessed_logResp ..

theorem accessed_account (off v : Nat) : Accessed s (account src off v s) := .ite (accessed_modify64 ..) (.refl s)

theorem accessed_writeAll (l : List (Nat × List Byte)) : Accessed s (writeAll src l s).2 := by
  induction l generalizing s with
  | nil => exact .refl s
  | cons c l ih =>
    have first := accessed_writeMem src c.1 s c.2 false
    unfold writeAll
    split
    · next t h =>
      rw [h] at first
      exact first.trans (ih t)
    · exact first

theorem accessed_readsFail (rs : List (Nat × Nat)) : Accessed s (readsFail src rs s).2 := by
  have key : ∀ (b : Bool) (t : State), Accessed s t → Accessed s (rs.foldl (fun (b, s) r =>
      let (a, _, s) := readMem src r.1 r.2 s
      (b || a != .ok, s)) (b, t)).2 := by
    induction rs with
    | nil => exact fun _ _ h => h
    | cons r rs ih => exact fun b t h => ih _ _ (h.trans (accessed_readMem ..))
  exact key false s (.refl s)

end

section
variable (h : Accessed s t)
include h

theorem Accessed.dec : t.dec = s.dec := (congrArg State.dec h.parts :)
theorem Accessed.str : t.str = s.str := (congrArg State.str h.parts :)
theorem Accessed.enc : t.enc = s.enc := (congrArg State.enc h.parts :)
theorem Accessed.csi : t.csi = s.csi := (congrArg State.csi h.parts :)
theorem Accessed.ktl : t.ktl = s.ktl := (congrArg State.ktl h.parts :)
theorem Accessed.sched : t.sched = s.sched := (congrArg State.sched h.parts :)
theorem Accessed.spt : t.spt = s.spt := (congrArg State.spt h.parts :)
theorem Accessed.flash : t.flash = s.flash := (congrArg State.flash h.parts :)
theorem Accessed.up : t.up = s.up := congrArg Ktl.up h.ktl
theorem Accessed.now : t.now = s.now := congrArg (·.count.toNat) h.ktl
theorem Accessed.safe : t.mgt.safe = s.mgt.safe := (congrArg Mgt.safe h.faults :)
theorem Accessed.quiesce : t.mgt.quiesce = s.mgt.quiesce := (congrArg Mgt.quiesce h.faults :)
theorem Accessed.decMap : t.mgt.decMap = s.mgt.decMap := (congrArg Mgt.decMap h.faults :)
theorem Accessed.encMap : t.mgt.encMap = s.mgt.encMap := (congrArg Mgt.encMap h.faults :)
theorem Accessed.decCtx : t.decCtx = s.decCtx := by funext c; rw [State.decCtx, h.dec]; rfl
theorem Accessed.encCtx : t.encCtx = s.encCtx := by funext c; rw [State.encCtx, h.enc]; rfl
theorem Accessed.cap : t.cap = s.cap := by funext c; rw [State.cap, h.csi]; rfl
theorem Accessed.decCores : decCores t = decCores s := by
  funext c
  simp only [Machine.decCores, decState, h.dec, h.decMap]

end

end

/-! ## Words of the command registers (R282, R418)

A word that gives a command has GO in bit 31, its operation in [10:8] and its context in the low bits; RELEASE names
its frame buffer in [20:16]. -/

/-- The word that commands operation `op` for context `c` and frame buffer `b`. -/
def goWord (b op c : Nat) : W32 := BitVec.ofNat 32 (2 ^ 31 + b * 65536 + op * 256 + c)

theorem cmdWord_eq (op c : Nat) : cmdWord op c = goWord 0 op c := by rw [cmdWord, goWord, Nat.zero_mul, Nat.add_zero]

/-- RELEASE's word names its buffer beside the operation and the context. -/
theorem cmdWord_or {b c : Nat} (hb : b < 32) (hc : c < 256) : cmdWord 3 c ||| BitVec.ofNat 32 (b * 65536) = goWord b 3 c := by
  have head : 2 ^ 15 * 1 + b = 2 ^ 15 * 1 ||| b := Nat.two_pow_add_eq_or_of_lt (by omega) 1
  have word (k : Nat) : 2 ^ 16 * k + (768 + c) = 2 ^ 16 * k ||| (768 + c) := Nat.two_pow_add_eq_or_of_lt (by omega) k
  have shift : 2 ^ 16 * (2 ^ 15 * 1 ||| b) = 2 ^ 16 * (2 ^ 15 * 1) ||| 2 ^ 16 * b := by
    simp only [mul_comm (2 ^ 16), ← Nat.shiftLeft_eq, Nat.shiftLeft_or_distrib]
  have sum : (2 ^ 31 + 3 * 256 + c) ||| b * 65536 = 2 ^ 31 + b * 65536 + 3 * 256 + c := by
    calc (2 ^ 31 + 3 * 256 + c) ||| b * 65536
        = 2 ^ 16 * (2 ^ 15 * 1) + (768 + c) ||| 2 ^ 16 * b := by congr 1 <;> omega
      _ = 2 ^ 16 * (2 ^ 15 * 1 + b) + (768 + c) := by rw [word, word, head, shift, Nat.or_right_comm]
      _ = 2 ^ 31 + b * 65536 + 3 * 256 + c := by omega
  rw [cmdWord, goWord, ← BitVec.ofNat_or, sum]

section
variable {b op c : Nat} (hb : b < 32) (ho : op < 8) (hc : c < 256)
include hb ho hc

theorem toNat_goWord : (goWord b op c).toNat = 2 ^ 31 + b * 65536 + op * 256 + c := by
  rw [goWord, BitVec.toNat_ofNat, Nat.mod_eq_of_lt (by omega)]

theorem rbit_goWord : rbit (goWord b op c) 31 = true := by
  rw [rbit, BitVec.getLsbD, toNat_goWord hb ho hc, Nat.testBit_eq_decide_div_mod_eq]
  simp only [decide_eq_true_eq]
  omega

theorem rfld_goWord_op : rfld (goWord b op c) 10 8 = op := by
  rw [rfld, toNat_goWord hb ho hc, fld]
  omega

theorem rfld_goWord_buf : rfld (goWord b op c) 20 16 = b := by
  rw [rfld, toNat_goWord hb ho hc, fld]
  omega

end

theorem rfld_goWord_job {b op c : Nat} (hb : b < 32) (ho : op < 8) (hc : c < 256) : rfld (goWord b op c) 7 0 = c := by
  rw [rfld, toNat_goWord hb ho hc, fld]
  omega

theorem rfld_goWord_dec {b op c : Nat} (hb : b < 32) (ho : op < 8) (hc : c < 128) : rfld (goWord b op c) 6 0 = c := by
  rw [rfld, toNat_goWord hb ho (by omega), fld]
  omega

theorem rfld_goWord_enc {b op c : Nat} (hb : b < 32) (ho : op < 8) (hc : c < 16) : rfld (goWord b op c) 3 0 = c := by
  rw [rfld, toNat_goWord hb ho (by omega), fld]
  omega

/-- Masking a number masks its halves. -/
theorem and_halves (i k m : Nat) : k &&& m = 2 ^ i * (k / 2 ^ i &&& m / 2 ^ i) + (k % 2 ^ i &&& m % 2 ^ i) := by
  rw [← Nat.and_div_two_pow, ← Nat.and_mod_two_pow, Nat.div_add_mod]

theorem and_ones (k i : Nat) {m : Nat} (hm : m = 2 ^ i - 1) : k &&& m = k % 2 ^ i := by
  rw [hm, Nat.and_two_pow_sub_one_eq_mod]

/-- What a command register keeps of a word: its operation, its buffer and its context. -/
theorem goWord_and {b op c n m : Nat} (hb : b < 32) (ho : op < 8) (hc : c < 2 ^ n) (hn : n ≤ 8)
    (hm : m = 31 * 65536 + 7 * 256 + (2 ^ n - 1)) :
    goWord b op c &&& BitVec.ofNat 32 m = BitVec.ofNat 32 (b * 65536 + op * 256 + c) := by
  have low : 2 ^ n ≤ 256 := Nat.pow_le_pow_right (by omega) hn
  have pos : 0 < 2 ^ n := Nat.two_pow_pos n
  rw [goWord, ← BitVec.ofNat_and]
  congr 1
  rw [and_halves 16, and_halves 8 (_ % _), and_ones _ 5 (by omega), and_ones _ 3 (by omega), and_ones _ n (by omega),
    Nat.mod_eq_of_lt (show _ < 2 ^ n by omega)]
  omega

/-! ## A command register takes a word (R282) -/

theorem goWord_and_job {op c : Nat} (ho : op < 8) (hc : c < 256) :
    goWord 0 op c &&& 0x7ff#32 = BitVec.ofNat 32 (op * 256 + c) := by
  rw [goWord, ← BitVec.ofNat_and, and_ones _ 11 (m := 0x7ff) rfl]
  congr 1
  omega

section
variable {p : Page} {n b op c : Nat} {r : CmdReg} {f : W32 → State → State} {s : State} (hb : b < 32) (ho : op < 8)
  (hc : c < 256)
include hb ho hc

theorem cmdWrite_runs (done : r.done = true) (hn : op < n) : cmdWrite p n r (goWord b op c) f s = f (goWord b op c) s := by
  rw [cmdWrite, if_neg (by simp [done]), if_neg (by rw [rfld_goWord_op hb ho hc]; omega)]

theorem cmdWrite_busy (busy : r.done = false) : cmdWrite p n r (goWord b op c) f s = invalidProg p s :=
  if_pos (by simp [rbit_goWord hb ho hc, busy])

end

/-- A command that is discarded only logs an invalid programming (R13). -/
theorem next_invalidProg {s : State} {o : Out} {p : Page} (hs : sized s = true) (ho : o = .next (invalidProg p s)) :
    ∃ t, o = .next t ∧ errBit t p 0 = true ∧ sansLog s t = s :=
  ⟨_, ho, errBit_invalidProg _ _ (hdrs_of_sized hs), invalidProg_log _ _⟩

/-! ## Parts that are looked up -/

theorem updAt_congr_getD {α : Type} {l : List α} {i : Nat} {d : α} {f g : α → α} (h : f (l.getD i d) = g (l.getD i d)) :
    updAt l i f = updAt l i g :=
  updAt_congr fun x hx => by rwa [List.getD_eq_getElem?_getD, hx, Option.getD_some] at h

theorem updAt_self_getD {α : Type} {l : List α} {i : Nat} {d : α} {f : α → α} (h : f (l.getD i d) = l.getD i d) :
    updAt l i f = l :=
  updAt_self fun x hx => by rwa [List.getD_eq_getElem?_getD, hx, Option.getD_some] at h

theorem lt_of_getD_ne {α : Type} {l : List α} {i : Nat} {d : α} (h : l.getD i d ≠ d) : i < l.length :=
  Nat.lt_of_not_le fun k => h (List.getD_eq_default _ _ k)

section
variable {s : State} {c : Nat} {f g : DecCtx → DecCtx}

theorem onDecCtx_congr (h : f (s.decCtx c) = g (s.decCtx c)) : s.onDecCtx c f = s.onDecCtx c g := by
  have same : updAt s.dec.ctxs c f = updAt s.dec.ctxs c g := updAt_congr_getD h
  simp only [State.onDecCtx, State.onDec, same]

theorem onDecCtx_self (h : f (s.decCtx c) = s.decCtx c) : s.onDecCtx c f = s := by
  have same : updAt s.dec.ctxs c f = s.dec.ctxs := updAt_self_getD h
  simp only [State.onDecCtx, State.onDec, same]

theorem onDecCtx_onDecCtx : (s.onDecCtx c f).onDecCtx c g = s.onDecCtx c (g ∘ f) := by
  simp only [State.onDecCtx, State.onDec, updAt_updAt]

theorem decCtx_onDecCtx (here : c < s.dec.ctxs.length) : (s.onDecCtx c f).decCtx c = f (s.decCtx c) := getD_updAt here ..

end

/-! ## Commands of decode contexts (R282 to R286, R295, R310) -/

/-- A decode command has begun: its word stands in DEC_CTX_CMD. -/
def decCommanded (k : Nat) (s : State) : State :=
  s.onDec fun d => { d with cmd := { d.cmd with cmd := BitVec.ofNat 32 k } }

/-- A decode command has ended with a code. -/
def decEnded (c : Nat) (r : Nat × State) : State :=
  r.2.onDec fun d => { d with cmd := { d.cmd with code := r.1, done := true, ctx := c } }

/-- What an operation of DEC_CTX_CMD does. -/
def decOp (op b c : Nat) : State → Nat × State :=
  if op = 0 then decEnableOp c else if op = 1 then decDisableOp c else if op = 2 then decDiscontOp c else decReleaseOp c b

section
variable {s : State} {b op c : Nat} (hb : b < 32) (hop : op < 4) (hc : c < 128)
include hb hop hc

theorem decCmdWrite_runs (done : s.dec.cmd.done = true) : decCmdWrite (goWord b op c) s =
    decEnded c (decOp op b c (decCommanded (b * 65536 + op * 256 + c) s)) := by
  have kept : goWord b op c &&& 0x001f077f#32 = BitVec.ofNat 32 (b * 65536 + op * 256 + c) :=
    goWord_and (n := 7) hb (by omega) hc (by omega) rfl
  rw [decCmdWrite, cmdWrite_runs hb (by omega) (by omega) done hop]
  simp only [kept, rbit_goWord hb (show op < 8 by omega) (show c < 256 by omega), if_true,
    rfld_goWord_op hb (show op < 8 by omega) (show c < 256 by omega), rfld_goWord_dec hb (show op < 8 by omega) hc,
    rfld_goWord_buf hb (show op < 8 by omega) (show c < 256 by omega)]
  interval_cases op <;> simp [decOp, decEnded, decCommanded]

theorem decCmdWrite_busy (busy : s.dec.cmd.done = false) : decCmdWrite (goWord b op c) s = invalidProg .dec s :=
  cmdWrite_busy hb (by omega) (by omega) busy

end

section
variable {s : State} {c : Fin 128} (ho : barWr s = true) (done : s.dec.cmd.done = true)
include ho done

theorem exec_decEnable : exec (.decEnable c) s = .next (decEnded c.val (decEnableOp c.val (decCommanded c.val s))) := by
  refine congrArg Host.Outcome.next ((hostWrite_of ho).trans ?_)
  rw [cmdWord_eq, decCmdWrite_runs (by omega) (by omega) c.isLt done]
  simp [decOp]

theorem exec_decDisable :
    exec (.decDisable c) s = .next (decEnded c.val (decDisableOp c.val (decCommanded (256 + c.val) s))) := by
  refine congrArg Host.Outcome.next ((hostWrite_of ho).trans ?_)
  rw [cmdWord_eq, decCmdWrite_runs (by omega) (by omega) c.isLt done]
  simp [decOp]

theorem exec_discontinuity :
    exec (.discontinuity c) s = .next (decEnded c.val (decDiscontOp c.val (decCommanded (512 + c.val) s))) := by
  refine congrArg Host.Outcome.next ((hostWrite_of ho).trans ?_)
  rw [cmdWord_eq, decCmdWrite_runs (by omega) (by omega) c.isLt done]
  simp [decOp]

theorem exec_release (b : Fin 32) : exec (.release c b) s =
    .next (decEnded c.val (decReleaseOp c.val b.val (decCommanded (b.val * 65536 + 768 + c.val) s))) := by
  refine congrArg Host.Outcome.next ((hostWrite_of ho).trans ?_)
  rw [cmdWord_or b.isLt (by omega), decCmdWrite_runs b.isLt (by omega) c.isLt done]
  simp [decOp]

end

section
variable {s : State} {c : Nat}

theorem decDisableOp_idle (on : (s.decCtx c).enabled = true) (idle : (s.decCtx c).pic = none) :
    decDisableOp c s = (0, s.onDecCtx c decDisabled) := by
  simp [decDisableOp, on, idle, okCode]

theorem decDisableOp_busy (on : (s.decCtx c).enabled = true) (busy : (s.decCtx c).pic.isSome = true) :
    decDisableOp c s = (0, s.onDecCtx c fun x => { x with wantDis := true }) := by
  simp [decDisableOp, on, busy, okCode]

theorem decDiscontOp_enabled (on : (s.decCtx c).enabled = true) : decDiscontOp c s =
    (0, s.onDecCtx c fun x => if x.pic.isSome then { x with wantDisc := true } else decDiscont x) := by
  unfold decDiscontOp
  simp only [on, Bool.not_true, Bool.false_eq_true, if_false, okCode]
  split
  · next busy => exact congrArg (0, ·) (onDecCtx_congr (by rw [if_pos busy]))
  · next idle => exact congrArg (0, ·) (onDecCtx_congr (by rw [if_neg idle]))

theorem decReleaseOp_held {b : Nat} (held : b ∈ (s.decCtx c).holds) :
    decReleaseOp c b s = (0, s.onDecCtx c fun x => { x with holds := x.holds.filter (· ≠ b) }) := by
  have others : (fun k => decide (k ≠ b)) = (· != b) := by
    funext k
    by_cases h : k = b <;> simp [h]
  rw [decReleaseOp, if_pos (List.contains_iff_mem.2 held), others]
  rfl

theorem decDisableOp_off (off : (s.decCtx c).enabled = false) : decDisableOp c s = (4, s) := by
  simp [decDisableOp, off, badState]

theorem decDiscontOp_off (off : (s.decCtx c).enabled = false) : decDiscontOp c s = (4, s) := by
  simp [decDiscontOp, off, badState]

theorem decReleaseOp_free {b : Nat} (free : (s.decCtx c).holds = []) : decReleaseOp c b s = (4, s) := by
  simp [decReleaseOp, free, badState]

/-- The code of the first check of a decode descriptor that fails, 0 when none does (R282, R283). -/
def decEnableCode (s : State) (c d : Nat) (raw : List Nat) : Nat :=
  if decDescBad d then 1
  else if raw.any (fun f => fbBad f (parseDec d).maxW (parseDec d).maxH 0 (parseDec d).tenBit) then 2
  else if meets (decRegions (parseDec d) (raw.map parseFb)) then 3
  else if (s.decCtx c).enabled then 4 else 0

/-- A context that passes takes its descriptor, and waits for its first random-access point. -/
def decEnabled (c d : Nat) (raw : List Nat) (s : State) : State :=
  (s.onDecCtx c fun _ => { enabled := true, desc := parseDec d, fbs := raw.map parseFb, waitRap := true }).onDec
    fun e => { e with act := updAt e.act c fun _ => BitVec.ofNat 32 ((parseDec d).coreMask + (parseDec d).span * 256) }

theorem decEnableOp_readable {a d k : Nat} {raw : List Nat} (ha : a = pairAddr s.dec.tableLo s.dec.tableHi 6 + 64 * c)
    (table : readable s .strainer a 64 = true) (hd : d = peekNat s a 64)
    (bufs : readable s .strainer (parseDec d).fbTable (64 * (parseDec d).fbCount) = true)
    (hraw : raw = fbRaw s (parseDec d).fbTable (parseDec d).fbCount) (hk : k = decEnableCode s c d raw) :
    ∃ t, Locks s t ∧ decEnableOp c s = (k, if k = 0 then decEnabled c d raw t else t) := by
  obtain ⟨t, ht, first⟩ := readMem_locks table
  obtain ⟨u, hu, second⟩ := readMem_locks (first.begun.readable ▸ bufs)
  have both := first.trans second
  have word : leNat (peek s a 64) = d := hd.symm
  have raw' : fbRaw u (parseDec d).fbTable (parseDec d).fbCount = raw := by
    rw [hraw]
    simp only [fbRaw, both.begun.peekNat]
  have ctx : u.decCtx c = s.decCtx c := by obtain ⟨_, rfl⟩ := both; rfl
  generalize hf : decEnableOp = f
  delta decEnableOp at hf
  generalize readMem = R at hf ht hu
  subst hf
  revert R
  refine id fun R ht hu => ?_
  simp only [← ha, ht, word, hu, raw', ctx, ne_eq, not_true, false_or, badDescriptor, badFb, overlapCode, badState, okCode]
  rw [decEnableCode] at hk
  by_cases bad : decDescBad d = true
  · exact ⟨t, first, by simp [hk, bad]⟩
  refine ⟨u, both, ?_⟩
  rw [if_neg bad] at hk ⊢
  split
  · next h => rw [hk, if_pos h]; rfl
  next fb =>
  split
  · next h => rw [hk, if_neg fb, if_pos h]; rfl
  next clear =>
  split
  · next h => rw [hk, if_neg fb, if_neg clear, if_pos h]; rfl
  · next h => rw [hk, if_neg fb, if_neg clear, if_neg h]; rfl

end

section
variable (k : Nat) (s : State)

theorem readable_decCommanded : readable (decCommanded k s) = readable s := rfl

theorem peekNat_decCommanded : peekNat (decCommanded k s) = peekNat s := by
  have same : peek (decCommanded k s) = peek s := rfl
  funext a n
  simp only [peekNat, same]

theorem fbRaw_decCommanded : fbRaw (decCommanded k s) = fbRaw s := by
  funext a n
  simp only [fbRaw, peekNat_decCommanded]

end

theorem exec_decFrameBoundaryApply_due {s : State} {c : Fin 128} (idle : (s.decCtx c.val).pic = none)
    (due : (s.decCtx c.val).wantDis = true ∨ (s.decCtx c.val).wantDisc = true)
    (free : (s.decCtx c.val).heldStart = none) : exec (.decFrameBoundaryApply c) s =
      .next (s.onDecCtx c.val fun x => if x.wantDis then decDisabled x else decDiscont x) := by
  have apply : ((s.decCtx c.val).pic.isNone && ((s.decCtx c.val).wantDis || (s.decCtx c.val).wantDisc)) = true := by
    simp [idle, due]
  refine congrArg Host.Outcome.next ((if_pos apply).trans ?_)
  simp only [decBoundary, free]
  refine onDecCtx_congr ?_
  rcases due with dis | disc
  · rw [if_pos dis, if_pos dis]
  · rw [if_pos disc]

section
variable {s : State} {c : Fin 128} (ho : barWr s = true) (busy : s.dec.cmd.done = false)
include ho busy

/-- A command of a decode context while DONE is 0 is an invalid programming. -/
theorem exec_dec_busy {b : Fin 32} {i : Instr}
    (hi : i ∈ [Instr.decEnable c, .decDisable c, .discontinuity c, .release c b]) : exec i s = .next (invalidProg .dec s) := by
  have write {k op : Nat} (hk : k < 32) (hop : op < 4) : hostWrite (decCmdWrite (goWord k op c.val)) s = invalidProg .dec s :=
    (hostWrite_of ho).trans (decCmdWrite_busy hk hop c.isLt busy)
  simp only [List.mem_cons, List.not_mem_nil, or_false] at hi
  rcases hi with rfl | rfl | rfl | rfl
  · exact congrArg Host.Outcome.next (cmdWord_eq .. ▸ write (by omega) (by omega))
  · exact congrArg Host.Outcome.next (cmdWord_eq .. ▸ write (by omega) (by omega))
  · exact congrArg Host.Outcome.next (cmdWord_eq .. ▸ write (by omega) (by omega))
  · exact congrArg Host.Outcome.next (cmdWord_or (c := c.val) b.isLt (by omega) ▸ write b.isLt (by omega))

end

/-- Settles O23: ENABLE by the first check that fails, the other commands by the context's state. -/
theorem decodeContexts : Obligations.DecodeContexts := by
  unfold Obligations.DecodeContexts
  refine ⟨?_, ?_, ?_, ?_, fun _ => rfl, ?_, ?_, ?_, ?_⟩
  · intro s c d x raw _ ho done table hd hx bufs hraw
    subst hx
    rw [← readable_decCommanded c.val s] at table bufs
    rw [← peekNat_decCommanded c.val s] at hd
    rw [← fbRaw_decCommanded c.val s] at hraw
    obtain ⟨_, ⟨_, rfl⟩, run⟩ := decEnableOp_readable (s := decCommanded c.val s) (c := c.val) rfl table hd bufs hraw rfl
    refine ⟨_, (exec_decEnable ho done).trans (congrArg (fun r => Host.Outcome.next (decEnded c.val r)) run), ?_⟩
    by_cases ok : decEnableCode (decCommanded c.val s) c.val d raw = 0
    · simp only [ok, if_true]
      exact ⟨ok.symm, rfl, rfl⟩
    · simp only [ok, if_false]
      exact ⟨rfl, rfl, (if_neg ok).symm ▸ rfl⟩
  · intro s c ho done on idle
    rw [exec_decDisable ho done, decDisableOp_idle (s := decCommanded _ s) on idle]
    rfl
  · intro s c ho done on busy
    rw [exec_decDisable ho done, decDisableOp_busy (s := decCommanded _ s) on busy]
    rfl
  · intro s c ho done on
    rw [exec_discontinuity ho done, decDiscontOp_enabled (s := decCommanded _ s) on]
    rfl
  · intro s c b ho done held
    rw [exec_release ho done, decReleaseOp_held (s := decCommanded _ s) held]
    rfl
  · intro s c b i op hi ho done off free
    simp only [List.mem_cons, Prod.mk.injEq, List.not_mem_nil, or_false] at hi
    rcases hi with ⟨rfl, rfl⟩ | ⟨rfl, rfl⟩ | ⟨rfl, rfl⟩
    · rw [exec_decDisable ho done, decDisableOp_off (s := decCommanded _ s) off]
      rfl
    · rw [exec_discontinuity ho done, decDiscontOp_off (s := decCommanded _ s) off]
      rfl
    · rw [exec_release ho done, decReleaseOp_free (s := decCommanded _ s) (b := b.val) free]
      rfl
  · intro s c b i hi hs ho busy
    exact next_invalidProg hs (exec_dec_busy ho busy hi)
  · intro s c idle due free
    exact exec_decFrameBoundaryApply_due idle due free

/-! ## Commands of encode contexts (R318, R327) -/

section
variable {s : State} {c : Nat} {f g : EncCtx → EncCtx}

theorem onEncCtx_congr (h : f (s.encCtx c) = g (s.encCtx c)) : s.onEncCtx c f = s.onEncCtx c g := by
  have same : updAt s.enc.ctxs c f = updAt s.enc.ctxs c g := updAt_congr_getD h
  simp only [State.onEncCtx, State.onEnc, same]

theorem onEncCtx_self (h : f (s.encCtx c) = s.encCtx c) : s.onEncCtx c f = s := by
  have same : updAt s.enc.ctxs c f = s.enc.ctxs := updAt_self_getD h
  simp only [State.onEncCtx, State.onEnc, same]

theorem onEncCtx_onEncCtx : (s.onEncCtx c f).onEncCtx c g = s.onEncCtx c (g ∘ f) := by
  simp only [State.onEncCtx, State.onEnc, updAt_updAt]

theorem encCtx_onEncCtx (here : c < s.enc.ctxs.length) : (s.onEncCtx c f).encCtx c = f (s.encCtx c) := getD_updAt here ..

theorem encCtx_onEncCtx_ne {k : Nat} (other : k ≠ c) : (s.onEncCtx c f).encCtx k = s.encCtx k :=
  getD_updAt_ne other ..

end

/-- An encode command has begun: its word stands in ENC_CTX_CMD. -/
def encCommanded (k : Nat) (s : State) : State :=
  s.onEnc fun d => { d with cmd := { d.cmd with cmd := BitVec.ofNat 32 k } }

/-- An encode command has ended with a code. -/
def encEnded (c : Nat) (r : Nat × State) : State :=
  r.2.onEnc fun d => { d with cmd := { d.cmd with code := r.1, done := true, ctx := c } }

/-- What an operation of ENC_CTX_CMD does. -/
def encOp (op c : Nat) : State → Nat × State :=
  if op = 0 then encEnableOp c else if op = 1 then encDisableOp c else encRefreshOp c

section
variable (k : Nat) (s : State)

theorem readable_encCommanded : readable (encCommanded k s) = readable s := rfl

theorem peekNat_encCommanded : peekNat (encCommanded k s) = peekNat s := by
  have same : peek (encCommanded k s) = peek s := rfl
  funext a n
  simp only [peekNat, same]

theorem fbRaw_encCommanded : fbRaw (encCommanded k s) = fbRaw s := by
  funext a n
  simp only [fbRaw, peekNat_encCommanded]

end

section
variable {s : State} {op c : Nat} (hop : op < 3) (hc : c < 16)
include hop hc

theorem encCmdWrite_runs (done : s.enc.cmd.done = true) :
    encCmdWrite (cmdWord op c) s = encEnded c (encOp op c (encCommanded (op * 256 + c) s)) := by
  have kept : goWord 0 op c &&& 0x001f070f#32 = BitVec.ofNat 32 (0 * 65536 + op * 256 + c) :=
    goWord_and (n := 4) (by omega) (by omega) hc (by omega) rfl
  rw [Nat.zero_mul, Nat.zero_add] at kept
  rw [cmdWord_eq, encCmdWrite, cmdWrite_runs (by omega) (by omega) (by omega) done hop]
  simp only [kept, rbit_goWord (show 0 < 32 by omega) (show op < 8 by omega) (show c < 256 by omega), if_true,
    rfld_goWord_op (show 0 < 32 by omega) (show op < 8 by omega) (show c < 256 by omega),
    rfld_goWord_enc (show 0 < 32 by omega) (show op < 8 by omega) hc]
  interval_cases op <;> simp [encOp, encEnded, encCommanded]

theorem encCmdWrite_busy (busy : s.enc.cmd.done = false) : encCmdWrite (cmdWord op c) s = invalidProg .enc s := by
  rw [cmdWord_eq]
  exact cmdWrite_busy (by omega) (by omega) (by omega) busy

end

section
variable {s : State} {c : Fin 16} (ho : barWr s = true)
include ho

section
variable (done : s.enc.cmd.done = true)
include done

theorem exec_encEnable : exec (.encEnable c) s = .next (encEnded c.val (encEnableOp c.val (encCommanded c.val s))) := by
  refine congrArg Host.Outcome.next ((hostWrite_of ho).trans ?_)
  rw [encCmdWrite_runs (by omega) c.isLt done]
  simp [encOp]

theorem exec_encDisable :
    exec (.encDisable c) s = .next (encEnded c.val (encDisableOp c.val (encCommanded (256 + c.val) s))) := by
  refine congrArg Host.Outcome.next ((hostWrite_of ho).trans ?_)
  rw [encCmdWrite_runs (by omega) c.isLt done]
  simp [encOp]

theorem exec_refreshNow :
    exec (.refreshNow c) s = .next (encEnded c.val (encRefreshOp c.val (encCommanded (512 + c.val) s))) := by
  refine congrArg Host.Outcome.next ((hostWrite_of ho).trans ?_)
  rw [encCmdWrite_runs (by omega) c.isLt done]
  simp [encOp]

end

/-- A command of an encode context while DONE is 0 is an invalid programming. -/
theorem exec_enc_busy (busy : s.enc.cmd.done = false) {i : Instr}
    (hi : i ∈ [Instr.encEnable c, .encDisable c, .refreshNow c]) : exec i s = .next (invalidProg .enc s) := by
  have write {op : Nat} (hop : op < 3) : hostWrite (encCmdWrite (cmdWord op c)) s = invalidProg .enc s :=
    (hostWrite_of ho).trans (encCmdWrite_busy hop c.isLt busy)
  simp only [List.mem_cons, List.not_mem_nil, or_false] at hi
  rcases hi with rfl | rfl | rfl
  all_goals exact congrArg Host.Outcome.next (write (by omega))

end

section
variable {s : State} {c : Nat}

theorem encDisableOp_on (on : (s.encCtx c).enabled = true) : encDisableOp c s =
    (0, s.onEncCtx c fun x => if x.pic.isSome then { x with wantDis := true } else encDisabled x) := by
  unfold encDisableOp
  simp only [on, Bool.not_true, Bool.false_eq_true, if_false, okCode]
  split
  · next busy => exact congrArg (0, ·) (onEncCtx_congr (by rw [if_pos busy]))
  · next idle => exact congrArg (0, ·) (onEncCtx_congr (by rw [if_neg idle]))

theorem encRefreshOp_on (on : (s.encCtx c).enabled = true) :
    encRefreshOp c s = (0, s.onEncCtx c fun x => { x with idrNext := true }) := by
  simp [encRefreshOp, on, okCode]

theorem encDisableOp_off (off : (s.encCtx c).enabled = false) : encDisableOp c s = (4, s) := by
  simp [encDisableOp, off, badState]

theorem encRefreshOp_off (off : (s.encCtx c).enabled = false) : encRefreshOp c s = (4, s) := by
  simp [encRefreshOp, off, badState]

/-- Memory areas of an encode context, its reconstruction buffers among them. -/
def encRegions (x : EncDesc) (raw : List Nat) : List (Nat × Nat) :=
  [(x.outBase, x.outLines * 64), (x.consAddr, 8)] ++ (raw.map parseFb).flatMap fbRegions

/-- The code of the first check of an encode descriptor that fails, 0 when none does (R283, R318). -/
def encEnableCode (s : State) (c d : Nat) (raw : List Nat) : Nat :=
  if encDescBad d then 1
  else if raw.any (fun f => fbBad f (parseEnc d).width (parseEnc d).height 0 false) then 2
  else if meets (encRegions (parseEnc d) raw) then 3
  else if (s.encCtx c).enabled then 4 else 0

/-- A context that passes takes its descriptor and counts its pictures on. -/
def encEnabled (c d : Nat) (raw : List Nat) (s : State) : State :=
  (s.onEncCtx c fun y => { enabled := true, desc := parseEnc d, recon := raw.map parseFb, picCount := y.picCount }).onEnc
    fun e => { e with act := updAt e.act c fun _ => BitVec.ofNat 32 ((parseEnc d).coreMask + (parseEnc d).span * 16) }

theorem encEnableOp_readable {a d k : Nat} {raw : List Nat} (ha : a = pairAddr s.enc.tableLo s.enc.tableHi 6 + 64 * c)
    (table : readable s (encSrc 0) a 64 = true) (hd : d = peekNat s a 64)
    (bufs : readable s (encSrc 0) (parseEnc d).reconTable 128 = true)
    (hraw : raw = fbRaw s (parseEnc d).reconTable 2) (hk : k = encEnableCode s c d raw) :
    ∃ t, Locks s t ∧ encEnableOp c s = (k, if k = 0 then encEnabled c d raw t else t) := by
  obtain ⟨t, ht, first⟩ := readMem_locks table
  obtain ⟨u, hu, second⟩ := readMem_locks (first.begun.readable ▸ bufs)
  have both := first.trans second
  have word : leNat (peek s a 64) = d := hd.symm
  have raw' : fbRaw u (parseEnc d).reconTable 2 = raw := by
    rw [hraw]
    simp only [fbRaw, both.begun.peekNat]
  have ctx : u.encCtx c = s.encCtx c := by obtain ⟨_, rfl⟩ := both; rfl
  generalize hf : encEnableOp = f
  delta encEnableOp at hf
  generalize readMem = R at hf ht hu
  subst hf
  revert R
  refine id fun R ht hu => ?_
  simp only [← ha, ht, word, hu, raw', ctx, ne_eq, not_true, false_or, badDescriptor, badFb, overlapCode, badState, okCode]
  rw [encEnableCode, encRegions] at hk
  by_cases bad : encDescBad d = true
  · exact ⟨t, first, by simp [hk, bad]⟩
  refine ⟨u, both, ?_⟩
  rw [if_neg bad] at hk ⊢
  split
  · next h => rw [hk, if_pos h]; rfl
  next fb =>
  split
  · next h => rw [hk, if_neg fb, if_pos h]; rfl
  next clear =>
  split
  · next h => rw [hk, if_neg fb, if_neg clear, if_pos h]; rfl
  · next h => rw [hk, if_neg fb, if_neg clear, if_neg h]; rfl

end

/-- Settles O27: ENABLE by the first check that fails, DISABLE and REFRESH_NOW by the context's state. -/
theorem encodeContexts : Obligations.EncodeContexts := by
  unfold Obligations.EncodeContexts
  refine ⟨?_, ?_, ?_, ?_, ?_⟩
  · intro s c d x raw ho done table hd hx bufs hraw
    subst hx
    rw [← readable_encCommanded c.val s] at table bufs
    rw [← peekNat_encCommanded c.val s] at hd
    rw [← fbRaw_encCommanded c.val s] at hraw
    obtain ⟨_, ⟨_, rfl⟩, run⟩ := encEnableOp_readable (s := encCommanded c.val s) (c := c.val) rfl table hd bufs hraw rfl
    refine ⟨_, (exec_encEnable ho done).trans (congrArg (fun r => Host.Outcome.next (encEnded c.val r)) run), ?_⟩
    by_cases ok : encEnableCode (encCommanded c.val s) c.val d raw = 0
    · simp only [ok, if_true]
      exact ⟨ok.symm, rfl, rfl⟩
    · simp only [ok, if_false]
      exact ⟨rfl, rfl, (if_neg ok).symm ▸ rfl⟩
  · intro s c ho done on
    rw [exec_encDisable ho done, encDisableOp_on (s := encCommanded _ s) on]
    rfl
  · intro s c ho done on
    rw [exec_refreshNow ho done, encRefreshOp_on (s := encCommanded _ s) on]
    rfl
  · intro s c i op hi ho done off
    simp only [List.mem_cons, Prod.mk.injEq, List.not_mem_nil, or_false] at hi
    rcases hi with ⟨rfl, rfl⟩ | ⟨rfl, rfl⟩
    · rw [exec_encDisable ho done, encDisableOp_off (s := encCommanded _ s) off]
      rfl
    · rw [exec_refreshNow ho done, encRefreshOp_off (s := encCommanded _ s) off]
      rfl
  · intro s c i hi hs ho busy
    exact next_invalidProg hs (exec_enc_busy ho busy hi)

/-! ## Decode doorbells and starts (R288, R292 to R294, R581) -/

theorem takeDb_some {d v : Nat} {s u : State} (h : takeDb d s = some (v, u)) :
    ∃ l, u = { s with hif := { s.hif with dbOut := l } } := by
  unfold takeDb at h
  split at h
  · cases h
    exact ⟨_, rfl⟩
  · cases h

theorem decCount_bump {s : State} {c : Nat} (h : (s.decCtx c).desc.fbCount ≠ 0) (off : Nat) :
    decCount c off s = bump32 .strainer ((s.decCtx c).desc.stateBase + off) s := if_neg h

section
variable {s u : State} (h : Begun s u)
include h

theorem Begun.dec : u.dec = s.dec := by obtain ⟨_, _, rfl⟩ := h; rfl
theorem Begun.mgt : u.mgt = s.mgt := by obtain ⟨_, _, rfl⟩ := h; rfl
theorem Begun.decCtx : u.decCtx = s.decCtx := by funext c; rw [State.decCtx, h.dec]; rfl
theorem Begun.decTakes : decTakes u = decTakes s := by obtain ⟨_, _, rfl⟩ := h; rfl

end

section
variable {s u : State} {c : Fin 128} {v : Nat} (h : takeDb (256 + c.val) s = some (v, u))
include h

theorem exec_decDoorbell : exec (.decDoorbell c) s = .next (if s.mgt.safe || !(s.decCtx c.val).enabled then u
    else if (v % 65536 + 65536 - (s.decCtx c.val).cons) % 65536 > (s.decCtx c.val).desc.ringLenM1 + 1 then
      raise .dec 1 none c.val u
    else u.onDecCtx c.val fun x => { x with prod := v % 65536 }) := by
  refine congrArg Host.Outcome.next ?_
  rw [h]
  obtain ⟨_, rfl⟩ := takeDb_some h
  rfl

end

section
variable {s u : State} {c : Fin 128} {a : Action} {x : DecCtx} (hx : x = s.decCtx c.val)
  (h : takeAction s 8 2 (fun a => a.target == c.val) = some (a, u))
include hx h

/-- What a delivered start does, as the context stands. -/
theorem exec_decodeStart : exec (.decodeStart c) s = .next (
    if !x.enabled || x.desc.auto then decCount c.val 0x18 u
    else if x.pic.isSome || x.wantDis || x.wantDisc then
      if x.heldStart.isSome then decCount c.val 8 u
      else u.onDecCtx c.val fun x => { x with heldStart := some (u.up, x.prod) }
    else decStartNow c.val u.up x.prod u) := by
  subst hx
  rw [← (begun_takeAction h).decCtx]
  refine congrArg Host.Outcome.next ?_
  rw [h]

section
variable (on : x.enabled = true) (planned : x.desc.auto = false)
include on planned

theorem exec_decodeStart_held (busy : x.pic.isSome = true ∨ x.wantDis = true ∨ x.wantDisc = true)
    (free : x.heldStart = none) : exec (.decodeStart c) s =
      .next (u.onDecCtx c.val fun x => { x with heldStart := some (u.up, x.prod) }) := by
  have kept : (x.pic.isSome || x.wantDis || x.wantDisc) = true := by
    simpa only [Bool.or_eq_true, or_assoc] using busy
  rw [exec_decodeStart hx h]
  simp only [on, planned, kept, free, Bool.not_true, Bool.or_self, Bool.false_eq_true, if_false, if_true,
    Option.isSome_none]

theorem exec_decodeStart_now (idle : x.pic = none) (dis : x.wantDis = false) (disc : x.wantDisc = false) :
    exec (.decodeStart c) s = .next (decStartNow c.val u.up x.prod u) := by
  rw [exec_decodeStart hx h]
  simp only [on, planned, idle, dis, disc, Bool.not_true, Bool.or_self, Bool.false_eq_true, if_false,
    Option.isSome_none]

end

/-- The counter of a start that starts nothing (R292). -/
theorem exec_decodeStart_counted {off : Nat} (counts : x.desc.fbCount ≠ 0)
    (why : (x.enabled = false ∨ x.desc.auto = true) ∧ off = 0x18 ∨
      x.enabled = true ∧ x.desc.auto = false ∧ x.pic.isSome = true ∧ x.heldStart.isSome = true ∧ off = 8 ∨
      x.enabled = true ∧ x.desc.auto = false ∧ x.pic = none ∧ x.wantDis = false ∧ x.wantDisc = false ∧
        x.cons = x.prod ∧ off = 4) :
    exec (.decodeStart c) s = .next (bump32 .strainer (x.desc.stateBase + off) u) := by
  have same : u.decCtx c.val = x := by rw [(begun_takeAction h).decCtx, hx]
  have counted : decCount c.val off u = bump32 .strainer (x.desc.stateBase + off) u := by
    rw [decCount_bump (same ▸ counts), same]
  rw [← counted]
  rcases why with ⟨ignored, rfl⟩ | ⟨on, planned, busy, held, rfl⟩ | ⟨on, planned, idle, dis, disc, none, rfl⟩
  · rw [exec_decodeStart hx h, if_pos (by simpa using ignored)]
  · rw [exec_decodeStart hx h]
    simp only [on, planned, busy, held, Bool.not_true, Bool.or_self, Bool.false_eq_true, if_false, if_true,
      Bool.true_or]
  · rw [exec_decodeStart_now hx h on planned idle dis disc, decStartNow, same, none]
    simp

end

theorem decStartNow_pending {s : State} {c tick prod : Nat} (pending : (s.decCtx c).cons ≠ prod) :
    decStartNow c tick prod s = decBegin c tick s := if_pos (bne_iff_ne.2 pending)

section
variable {s : State} {c tick : Nat} (here : c < s.dec.ctxs.length) (runs : s.mgt.safe = false)
  (open_ : s.mgt.quiesce = false)
include here runs open_

theorem decBegin_takes {cs : List Nat} (takes : decTakes s c = some cs) : decBegin c tick s =
    (s.onDecCtx c fun x => { x with pic := some { startAt := tick, cores := cs } }).onDec fun d =>
      { d with busy := claim c cs d.busy } := by
  have takes' (f : DecCtx → DecCtx) : decTakes (s.onDecCtx c f) c = some cs := takes
  rw [decBegin, if_neg (by simp [runs, open_]), decClaim, decCtx_onDecCtx here]
  simp only [ne_eq, not_true, Bool.false_eq_true, or_self, if_false, takes', onDecCtx_onDecCtx]
  rfl

theorem decBegin_waits (few : decTakes s c = none) (counts : (s.decCtx c).desc.fbCount ≠ 0) : decBegin c tick s =
    bump32 .strainer ((s.decCtx c).desc.stateBase + 0xc)
      (s.onDecCtx c fun x => { x with pic := some { startAt := tick, waited := true } }) := by
  have few' (f : DecCtx → DecCtx) : decTakes (s.onDecCtx c f) c = none := few
  rw [decBegin, if_neg (by simp [runs, open_]), decClaim, decCtx_onDecCtx here]
  simp only [ne_eq, not_true, Bool.false_eq_true, or_self, if_false, few', onDecCtx_onDecCtx]
  rw [decCount_bump (by rw [decCtx_onDecCtx here]; exact counts), decCtx_onDecCtx here]
  rfl

end

/-- A context without a descriptor is not enabled, so an enabled one is in the table. -/
theorem decCtx_here {s : State} {c : Nat} (on : (s.decCtx c).enabled = true) : c < s.dec.ctxs.length :=
  lt_of_getD_ne (d := {}) fun k => by
    rw [State.decCtx, k] at on
    exact Bool.false_ne_true on

/-- The context whose number follows the last started one most closely is the first that the search meets. -/
theorem find_next {ready : Nat → Bool} {c last : Nat} (hc : c < 128) (hl : last < 128) (now : ready c = true)
    (first : ∀ k < 128, ready k = true → (c + 127 - last) % 128 ≤ (k + 127 - last) % 128) :
    (List.range 128).find? (fun i => ready ((last + 1 + i) % 128)) = some ((c + 127 - last) % 128) := by
  rw [List.find?_range_eq_some]
  refine ⟨by rwa [show (last + 1 + (c + 127 - last) % 128) % 128 = c by omega],
    List.mem_range.2 (Nat.mod_lt _ (by omega)), fun j hj => ?_⟩
  rw [Bool.not_eq_true']
  refine Bool.eq_false_iff.2 fun earlier => ?_
  have := first _ (Nat.mod_lt _ (by omega)) earlier
  omega

/-- Settles O24: each start by what stands in its way, and the search for the next AUTO context. -/
theorem decodeStarts : Obligations.DecodeStarts := by
  unfold Obligations.DecodeStarts
  refine ⟨?_, ?_, ?_, ?_, ?_, ?_, ?_, ?_⟩
  · intro s u c v db awake on fits
    rw [exec_decDoorbell db, if_neg (by simp [awake, on]), if_neg (Nat.not_lt.2 fits)]
    obtain ⟨_, rfl⟩ := takeDb_some db
    rfl
  · intro s u c v hs db awake on overrun
    refine ⟨raise .dec 1 none c.val u, ?_, errBit_raise _ _ _ _ _ (by omega) ?_, raise_log ..⟩
    · rw [exec_decDoorbell db, if_neg (by simp [awake, on]), if_pos overrun]
    · obtain ⟨_, rfl⟩ := takeDb_some db
      exact hdrs_of_sized hs
  · intro s u c v db off
    rw [exec_decDoorbell db, if_pos (by simpa using off)]
  · intro s u c a x hx h on planned busy free
    rw [exec_decodeStart_held hx h on planned busy free]
    obtain ⟨_, _, rfl⟩ := begun_takeAction h
    rfl
  · intro s u c a x cs hx h on planned idle dis disc awake open_ pending takes
    rw [exec_decodeStart_now hx h on planned idle dis disc]
    have begun := begun_takeAction h
    subst hx
    have here : c.val < u.dec.ctxs.length := decCtx_here (begun.decCtx ▸ on)
    rw [decStartNow_pending (begun.decCtx ▸ pending),
      decBegin_takes here (begun.mgt ▸ awake) (begun.mgt ▸ open_) (begun.decTakes ▸ takes)]
    obtain ⟨_, _, rfl⟩ := begun
    rfl
  · intro s u c a x hx h on planned idle dis disc awake open_ pending few counts
    rw [exec_decodeStart_now hx h on planned idle dis disc]
    have begun := begun_takeAction h
    subst hx
    have here : c.val < u.dec.ctxs.length := decCtx_here (begun.decCtx ▸ on)
    rw [decStartNow_pending (begun.decCtx ▸ pending), decBegin_waits here (begun.mgt ▸ awake) (begun.mgt ▸ open_)
      (begun.decTakes ▸ few) (begun.decCtx ▸ counts)]
    obtain ⟨_, _, rfl⟩ := begun
    rfl
  · intro s u c a x off hx h counts why
    exact exec_decodeStart_counted hx h counts why
  · intro s c cs hl ready next takes
    have here : c.val < s.dec.ctxs.length := decCtx_here (by simp_all [decAutoReady])
    have awake : s.mgt.safe = false := by simp_all [decAutoReady]
    have open_ : s.mgt.quiesce = false := by simp_all [decAutoReady]
    have found := find_next c.isLt hl ready next
    have mine : (s.dec.lastAuto + 1 + (c.val + 127 - s.dec.lastAuto) % 128) % 128 = c.val := by omega
    refine congrArg Host.Outcome.next ?_
    rw [found]
    simp only [Option.any_some, mine, beq_self_eq_true, if_true]
    have takes' : decTakes (s.onDec fun d => { d with lastAuto := c.val }) c.val = some cs := takes
    rw [decBegin_takes (s := s.onDec fun d => { d with lastAuto := c.val }) here awake open_ takes']
    rfl

/-! ## An entry that the Strainer refuses at sight (R287, R291) -/

theorem accessed_of_readMem {src : Src} {a n : Nat} {s t : State} {q : Resp} {bs : List Byte}
    (h : readMem src a n s = (q, bs, t)) : Accessed s t := by
  have left := accessed_readMem src a n s
  rwa [h] at left

theorem decClaim_claimed {s : State} {c : Nat} {p : DecPic} (hp : (s.decCtx c).pic = some p) (cores : p.cores ≠ []) :
    decClaim c s = s := by
  rw [decClaim, hp]
  exact if_pos (.inl cores)

theorem exec_decPictureStart_claimed {s : State} {c : Fin 128} {p : DecPic} (hp : (s.decCtx c.val).pic = some p)
    (cores : p.cores ≠ []) (fresh : p.admitted = false) :
    exec (.decPictureStart c) s = .next (takeEntry c.val Config.readUnit p s) := by
  refine congrArg Host.Outcome.next ?_
  simp only [decClaim_claimed hp cores, hp, fresh, Bool.false_eq_true, if_false, cores, false_and]

/-- The picture of an entry that is invalid: it has its number and its bytes' place, and no buffer. -/
def refusedPic (p : DecPic) (n e up : Nat) : DecPic :=
  { p with picCount := n, pts := fld e 191 128, admitted := true, data := (fld e 47 0, fld e 95 64)
           eos := bitAt e 97, au := default, tookAt := up, code := decEntryInvalid }

section
variable {s r : State} {c : Nat} {p : DecPic} {bs : List Byte} {read : Nat → List (List Byte × List (Nat × Nat)) → AuInfo}
  (hr : readMem .strainer ((s.decCtx c).desc.ringBase + 32 * (s.decCtx c).pos) 32 s = (.ok, bs, r))
  (bad : entryBad (s.decCtx c).desc (leNat bs) = true) (cont : bitAt (leNat bs) 96 = false)
include hr bad cont

/-- An invalid entry passes the ring, taints the context and counts in REFUSED, which saturates (R290, R291, R311). -/
theorem takeEntry_bad {v : State} {n : Nat} (hn : n = peekNat r (s.decCtx c).desc.stateBase 4)
    (hv : v = storeNat .strainer (s.decCtx c).desc.stateBase 4 ((n + 1) % 2 ^ 32) r) :
    takeEntry c read p s = ((v.onStr fun t => { t with admitted := (t.admitted + 1) % 2 ^ 32 }).onDecCtx c fun _ =>
      { taint { s.decCtx c with
          pos := if (s.decCtx c).pos ≥ (s.decCtx c).desc.ringLenM1 then 0 else (s.decCtx c).pos + 1 } with
        pic := some (refusedPic p n (leNat bs) v.up) }).onStr fun t =>
          { t with refused := satInc 0xffffffff t.refused } := by
  subst hv hn
  unfold takeEntry
  have tainting : taints decEntryInvalid = true := by decide
  have counted : decEntryInvalid ≤ decParam ∨ decEntryInvalid = decNoBuffer := by decide
  simp only [hr, bad, cont, Bool.false_eq_true, and_false, if_false, Bool.or_true, if_true, ne_eq, not_true, tainting,
    counted]
  rfl

theorem refused_takeEntry_bad : (takeEntry c read p s).str.refused = satInc 0xffffffff s.str.refused := by
  rw [takeEntry_bad hr bad cont rfl rfl]
  exact congrArg (fun q => satInc 0xffffffff q.refused) ((accessed_of_readMem hr).trans (accessed_storeNat ..)).str

end

/-- A context's picture has its cores; the ring's entry lies at address 0, without bytes, and REFUSED stands beyond
32 bits. -/
def overRefused : State :=
  { State.reset with
    str := { State.reset.str with refused := 4294967296 }
    dec := { State.reset.dec with
      ctxs := updAt State.reset.dec.ctxs 0 fun x => { x with pic := some { startAt := 0, cores := [0] } } } }

theorem readMem_overRefused : readMem .strainer 0 32 overRefused = (.ok, leBytes 32 0, touch .strainer 0 overRefused) := by
  have read : readable overRefused .strainer 0 32 = true := by
    rw [readable, respRange_hbm (by decide) rfl]
    rfl
  have bytes : peek overRefused 0 32 = leBytes 32 0 := by decide +kernel
  rw [readMem_of_readable read, bytes]

/-- Refutes O25: an invalid entry at a count of 2^32 leaves that count, where the statement has 2^32 - 1;
STR_REFUSED cannot show it, but the statement's conditions admit it. -/
theorem not_decodeAdmission : ¬ Obligations.DecodeAdmission := by
  unfold Obligations.DecodeAdmission
  rintro ⟨-, -, refused, -⟩
  have here : (overRefused.decCtx 0).pic = some { startAt := 0, cores := [0] } := rfl
  have bad : entryBad (overRefused.decCtx 0).desc 0 = true := by decide
  have h := refused overRefused _ _ 0 _ _ 0 _ rfl here (by decide) rfl readMem_overRefused (by decide) bad (by decide)
    rfl rfl
  rw [exec_decPictureStart_claimed here (by decide) rfl] at h
  have count := congrArg (fun u : State => u.str.refused) (Host.Outcome.next.inj h)
  rw [refused_takeEntry_bad (s := overRefused) (c := (0 : Fin 128).val) readMem_overRefused bad (by decide)] at count
  simp only [(accessed_storeNat ..).str, (accessed_touch ..).str] at count
  exact absurd count (by decide)

/-! ## What the encoders' work leaves of a context and of the cameras (R319, R325, R329) -/

/-- A capture channel but for the buffers that its readers hold. -/
def sansReaders (h : CapCh) : CapCh := { h with readers := [] }

/-- `t` is `s` after work of the encoders in which context `k` has no part. -/
structure EncWork (k : Nat) (s t : State) : Prop where
  ktl : t.ktl = s.ktl
  safe : t.mgt.safe = s.mgt.safe
  quiesce : t.mgt.quiesce = s.mgt.quiesce
  ctx : t.encCtx k = s.encCtx k
  caps : ∀ c, sansReaders (t.cap c) = sansReaders (s.cap c)

section
variable {k c : Nat} {s t u : State}

theorem EncWork.refl : EncWork k s s := ⟨rfl, rfl, rfl, rfl, fun _ => rfl⟩

theorem EncWork.trans (h : EncWork k s t) (g : EncWork k t u) : EncWork k s u :=
  ⟨g.ktl.trans h.ktl, g.safe.trans h.safe, g.quiesce.trans h.quiesce, g.ctx.trans h.ctx,
    fun c => (g.caps c).trans (h.caps c)⟩

theorem Accessed.encWork (h : Accessed s t) : EncWork k s t :=
  ⟨h.ktl, h.safe, h.quiesce, by rw [h.encCtx], fun c => by rw [h.cap]⟩

theorem encWork_takeFree : EncWork k s s.takeFree.2 := ⟨rfl, rfl, rfl, rfl, fun _ => rfl⟩

theorem encWork_onEncCtx (other : k ≠ c) (f : EncCtx → EncCtx) : EncWork k s (s.onEncCtx c f) :=
  ⟨rfl, rfl, rfl, encCtx_onEncCtx_ne other, fun _ => rfl⟩

theorem encWork_onCap {f : CapCh → CapCh} (h : ∀ x, sansReaders (f x) = sansReaders x) : EncWork k s (s.onCap c f) :=
  ⟨rfl, rfl, rfl, rfl, fun i => getD_updAt_part sansReaders h c i {}⟩

theorem encWork_handOff (who ring : Nat) (cpl : Bool) (bytes : List Byte) : EncWork k s (handOff who ring cpl bytes s) := by
  have spt (f : Spt → Spt) : EncWork k s (s.onSpt f) := ⟨rfl, rfl, rfl, rfl, fun _ => rfl⟩
  unfold handOff
  dsimp only
  split
  · have counted : EncWork k s ((s.onSptRing ring fun r =>
        { r with dropped := satInc 65535 r.dropped, dropBeat := some s.beat }).onSpt fun p =>
          { p with dropPend := p.dropPend ||| BitVec.ofNat 64 (2 ^ ring) }) := ⟨rfl, rfl, rfl, rfl, fun _ => rfl⟩
    unfold dropRec
    dsimp only
    split
    · exact counted.trans (accessed_setInt ..).encWork
    · exact counted
  · exact spt _

section
variable (other : k ≠ c)
include other

theorem encWork_encReport (code : Nat) (p : EncPic) (skipped : Bool) (bytes qp : Nat) :
    EncWork k s (encReport c code p skipped bytes qp s) :=
  ((accessed_account ..).encWork.trans (encWork_onEncCtx other _)).trans (encWork_handOff ..)

theorem encWork_encSkip (code at_ no : Nat) (pts : Option Nat) : EncWork k s (encSkip c code at_ no pts s) :=
  (encWork_takeFree.trans encWork_takeFree).trans (encWork_encReport other ..)

theorem encWork_encClaim : EncWork k s (encClaim c s) := by
  unfold encClaim
  split
  · exact .refl
  · dsimp only
    split
    · exact (encWork_onEncCtx other _).trans ⟨rfl, rfl, rfl, rfl, fun _ => rfl⟩
    · exact .refl

end

theorem EncWork.foldl {α : Type} {f : State → α → State} {l : List α} (h : ∀ a ∈ l, ∀ t, EncWork k t (f t a)) :
    EncWork k s (l.foldl f s) := by
  induction l generalizing s with
  | nil => exact .refl
  | cons a l ih => exact (h a List.mem_cons_self s).trans (ih fun b hb => h b (List.mem_cons_of_mem a hb))

/-- The contexts whose pictures wait for cores, with the ticks of their starts. -/
def encWaiting (s : State) : List (Nat × Nat) :=
  (List.range 16).filterMap fun c => (s.encCtx c).pic.bind fun p => if p.cores = [] then some (p.startAt, c) else none

theorem mem_encWaiting {a : Nat × Nat} :
    a ∈ encWaiting s ↔ a.2 < 16 ∧ ∃ p, (s.encCtx a.2).pic = some p ∧ p.cores = [] ∧ p.startAt = a.1 := by
  simp only [encWaiting, List.mem_filterMap, List.mem_range, Option.bind_eq_some_iff, Option.ite_none_right_eq_some,
    Option.some.injEq]
  constructor
  · rintro ⟨c, hc, p, hp, none, rfl⟩
    exact ⟨hc, p, hp, none, rfl⟩
  · rintro ⟨hc, p, hp, none, at_⟩
    exact ⟨_, hc, p, hp, none, by rw [at_]⟩

theorem encAssign_waiting (s : State) : encAssign s = ((encWaiting s).insertionSort fun a b =>
    a.1 < b.1 ∨ (a.1 = b.1 ∧ a.2 ≤ b.2)).foldl (fun s x => encClaim x.2 s) s := rfl

theorem encWork_encAssign (has : k < 16 → ∀ q ∈ (s.encCtx k).pic, q.cores ≠ []) : EncWork k s (encAssign s) := by
  rw [encAssign_waiting]
  refine .foldl fun a ha t => encWork_encClaim ?_
  obtain ⟨hc, p, hp, none, -⟩ := mem_encWaiting.1 ((List.mem_insertionSort _).1 ha)
  rintro rfl
  exact has hc p hp none

section
variable (other : k ≠ c) (has : k < 16 → ∀ q ∈ (s.encCtx k).pic, q.cores ≠ [])
include other has

theorem encWork_encBegin (tick : Nat) : EncWork k s (encBegin c tick s) := by
  unfold encBegin
  split
  · exact .refl
  dsimp only
  have counted := encWork_onEncCtx (s := s) other fun x => { x with picCount := (x.picCount + 1) % 2 ^ 32 }
  split
  · exact counted.trans (encWork_encSkip other ..)
  split
  · exact counted.trans (encWork_encSkip other ..)
  have read := counted.trans (accessed_readMem (encSrc 0) (s.encCtx c).desc.consAddr 8 _).encWork
  split
  · exact (read.trans (encWork_onEncCtx other _)).trans (encWork_encSkip other ..)
  split
  · exact read.trans (encWork_encSkip other ..)
  next f _ _ _ _ off _ =>
  generalize he : (State.onEncCtx c _ _ : State) = e
  have began : EncWork k s e := he ▸ read.trans (encWork_onEncCtx other _)
  cases f.buf with
  | none => exact began.trans (encWork_encAssign fun h => began.ctx ▸ has h)
  | some b =>
    have taken := began.trans (encWork_onCap (c := (s.encCtx c).desc.srcStream)
      (f := fun h => { h with readers := b :: h.readers }) fun _ => rfl)
    exact taken.trans (encWork_encAssign fun h => taken.ctx ▸ has h)

theorem encWork_encStart : EncWork k s (encStart c s) := by
  unfold encStart
  dsimp only
  split
  · exact encWork_onEncCtx other _
  · exact encWork_encBegin other has _

end

end

/-! ## Starts of AUTO encode contexts (R319) -/

/-- An AUTO context of a camera starts on its frame, out of the safe state and QUIESCE. -/
def encStartsOn (chan c : Nat) (s : State) : Bool :=
  (s.encCtx c).enabled && (s.encCtx c).desc.auto && (s.encCtx c).desc.srcStream == chan && !s.mgt.safe && !s.mgt.quiesce

/-- One context's part in the end of a camera's frame. -/
def encAuto (chan : Nat) (s : State) (c : Nat) : State := if encStartsOn chan c s then encStart c s else s

theorem encAutoStart_foldl (chan : Nat) (s : State) : encAutoStart chan s = (List.range 16).foldl (encAuto chan) s := rfl

theorem foldl_fixed_mem {α β : Type} {f : β → α → β} {b : β} {l : List α} (h : ∀ a ∈ l, f b a = b) : l.foldl f b = b := by
  induction l with
  | nil => rfl
  | cons a l ih => rw [List.foldl_cons, h a List.mem_cons_self, ih fun x hx => h x (List.mem_cons_of_mem a hx)]

section
variable {k c chan : Nat} {s t : State}

theorem encWork_encAuto (other : k ≠ c) (has : k < 16 → ∀ q ∈ (s.encCtx k).pic, q.cores ≠ []) :
    EncWork k s (encAuto chan s c) := by
  unfold encAuto
  split
  · exact encWork_encStart other has
  · exact .refl

theorem encWork_encAutos {l : List Nat} (others : k ∉ l) (has : k < 16 → ∀ q ∈ (s.encCtx k).pic, q.cores ≠ []) :
    EncWork k s (l.foldl (encAuto chan) s) := by
  induction l generalizing s with
  | nil => exact .refl
  | cons a l ih =>
    have other : k ≠ a := by
      rintro rfl
      exact others List.mem_cons_self
    have first := encWork_encAuto (chan := chan) other has
    exact first.trans (ih (fun h => others (List.mem_cons_of_mem a h)) fun h => first.ctx ▸ has h)

theorem EncWork.starts (h : EncWork k s t) : encStartsOn chan k t = encStartsOn chan k s := by
  simp only [encStartsOn, h.ctx, h.safe, h.quiesce]

/-- No camera loses more than buffers to its readers: the number 16 names no context. -/
theorem encWork_encAutoStart : EncWork 16 s (encAutoStart chan s) :=
  encWork_encAutos (by simp) (fun h => absurd h (by omega))

theorem encCtx_here (on : (s.encCtx c).enabled = true) : c < s.enc.ctxs.length :=
  lt_of_getD_ne (d := {}) fun k => by
    rw [State.encCtx, k] at on
    exact Bool.false_ne_true on

/-- A context with a picture in progress holds the start that a completed frame is, whatever the others do. -/
theorem encCtx_encAutoStart (hk : k < 16) (starts : encStartsOn chan k s = true) (busy : (s.encCtx k).pic.isSome = true)
    (has : ∀ q ∈ (s.encCtx k).pic, q.cores ≠ []) :
    (encAutoStart chan s).encCtx k = { s.encCtx k with held := (s.encCtx k).held ++ [s.up] } := by
  obtain ⟨l, r, range⟩ := List.append_of_mem (List.mem_range.2 hk)
  obtain ⟨before, after⟩ : k ∉ l ∧ k ∉ r := by
    have once : (l ++ k :: r).Nodup := range ▸ List.nodup_range
    rw [List.nodup_middle, List.nodup_cons, List.mem_append, not_or] at once
    exact once.1
  have first := encWork_encAutos (chan := chan) (s := s) before fun _ => has
  have on : ((l.foldl (encAuto chan) s).encCtx k).enabled = true := by
    rw [first.ctx]
    simp_all [encStartsOn]
  have held : encAuto chan (l.foldl (encAuto chan) s) k = (l.foldl (encAuto chan) s).onEncCtx k fun x =>
      { x with held := x.held ++ [(l.foldl (encAuto chan) s).up] } := by
    rw [encAuto, first.starts, if_pos starts, encStart, first.ctx, if_pos busy]
  have up : (l.foldl (encAuto chan) s).up = s.up := congrArg Ktl.up first.ktl
  have here := encCtx_onEncCtx (f := fun x => { x with held := x.held ++ [(l.foldl (encAuto chan) s).up] })
    (encCtx_here on)
  rw [encAutoStart_foldl, range, List.foldl_append, List.foldl_cons, held,
    (encWork_encAutos after fun _ => by rw [here]; exact first.ctx ▸ has).ctx, here, first.ctx, up]

end

/-! ## Capture channels (R336 to R344) -/

section
variable {s : State} {c : Nat} {f : CapCh → CapCh}

theorem cap_onCap (here : c < s.csi.chs.length) : (s.onCap c f).cap c = f (s.cap c) := getD_updAt here ..

theorem cap_here (on : (s.cap c).enabled = true) : c < s.csi.chs.length :=
  lt_of_getD_ne (d := {}) fun k => by
    rw [State.cap, k] at on
    exact Bool.false_ne_true on

/-- A complete frame becomes the channel's latest. -/
def capClosed (f : CapFrame) (h : CapCh) : CapCh := { h with openF := none, latest := some f }

theorem closeFrame_held {f : CapFrame} (buf : f.buf.isSome = true) : closeFrame c f s =
    if (s.cap c).desc.format = 0 then encAutoStart c ((if f.rxErr then capCount c 4 s else s).onCap c (capClosed f))
    else (if f.rxErr then capCount c 4 s else s).onCap c (capClosed f) := by
  have counted : (if f.rxErr then capCount c 4 s else s).cap = s.cap :=
    (Accessed.ite (accessed_bump32 ..) (.refl s)).cap
  have format (t : State) : ((t.onCap c (capClosed f)).cap c).desc = (t.cap c).desc :=
    getD_updAt_part CapCh.desc (f := capClosed f) (fun _ => rfl) ..
  unfold closeFrame
  simp only [buf, if_true, true_and]
  refine if_congr ?_ rfl rfl
  rw [← counted]
  exact iff_of_eq (congrArg (fun d : CapDesc => d.format = 0) (format _))

section
variable {vc : Nat} {g : State → State} (on : (s.cap c).enabled = true) (awake : s.mgt.safe = false)
include on awake

theorem packet_good (own : vc = (s.cap c).desc.vc) : packet c vc .good g s = g s := by
  simp [packet, on, awake, own]

theorem packet_other (other : vc ≠ (s.cap c).desc.vc) : packet c vc .good g s = capCount c 0x14 s := by
  simp [packet, on, awake, other]

theorem packet_corrected : packet c vc .corrected g s = packet c vc .good g (capCount c 0x10 s) := by
  have counted : Accessed s (capCount c 0x10 s) := accessed_bump32 ..
  simp [packet, counted.cap, counted.safe, on, awake]

theorem packet_bad : packet c vc .bad g s = rxError c s := by
  simp [packet, on, awake]

end

end

/-! ## Packets of a camera (R336 to R344) -/

theorem onCap_congr {s : State} {c : Nat} {f g : CapCh → CapCh} (h : f (s.cap c) = g (s.cap c)) :
    s.onCap c f = s.onCap c g := by
  have same : updAt s.csi.chs c f = updAt s.csi.chs c g := updAt_congr_getD h
  simp only [State.onCap, State.onCsi, same]

theorem cap_onCap_part {β : Type} (g : CapCh → β) {s : State} {c k : Nat} {f : CapCh → CapCh} (keeps : ∀ x, g (f x) = g x) :
    g ((s.onCap c f).cap k) = g (s.cap k) := getD_updAt_part g keeps ..

theorem onCap_accessed {s v : State} (h : Accessed s v) (c : Nat) (f : CapCh → CapCh) :
    v.onCap c f = { v with csi := { s.csi with chs := updAt s.csi.chs c f } } := by
  rw [← h.csi]
  rfl

theorem capCount_eq (c off : Nat) (s : State) : capCount c off s = bump32 .csi ((s.cap c).desc.stateBase + off) s := rfl

/-- A frame opens: with the next number, the present count, and the lowest free buffer, if there is one. -/
def capOpened (s : State) (h : CapCh) : CapCh :=
  { h with
    nextSeq := (h.nextSeq + 1) % 2 ^ 32
    openF := some { seq := h.nextSeq, pts := s.now, from_ := s.up
                    buf := (List.range h.desc.fbCount).find? fun b => !capUsed h b } }

/-- A frame opens, is counted, and is counted as dropped when no buffer is free (R342 to R344). -/
def openFrame (c : Nat) (s : State) : State :=
  let m := bump32 .csi (s.cap c).desc.stateBase (s.onCap c (capOpened s))
  if ((List.range (s.cap c).desc.fbCount).find? fun b => !capUsed (s.cap c) b).isNone
  then bump32 .csi ((s.cap c).desc.stateBase + 8) m else m

/-- The frame's buffer is chosen before the frame opens. -/
theorem openFrame_eq (c : Nat) (s : State) : openFrame c s =
    let b := (List.range (s.cap c).desc.fbCount).find? fun b => !capUsed (s.cap c) b
    let t := capCount c 0 (s.onCap c fun h =>
      { h with nextSeq := (h.nextSeq + 1) % 2 ^ 32
               openF := some { seq := h.nextSeq, pts := s.now, from_ := s.up, buf := b } })
    if b.isNone then capCount c 8 t else t := by
  have desc : ((s.onCap c (capOpened s)).cap c).desc = (s.cap c).desc :=
    cap_onCap_part CapCh.desc fun _ => rfl
  have same : s.onCap c (capOpened s) = s.onCap c fun h =>
      { h with nextSeq := (h.nextSeq + 1) % 2 ^ 32
               openF := some { seq := h.nextSeq, pts := s.now, from_ := s.up
                               buf := (List.range (s.cap c).desc.fbCount).find? fun b => !capUsed (s.cap c) b } } :=
    onCap_congr rfl
  simp only [openFrame, ← same, capCount_eq, (accessed_bump32 ..).cap, desc, Nat.add_zero]

section
variable {s : State} {c vc : Fin 16} {h : CapCh} {f : CapFrame} (hh : h = s.cap c.val)
include hh

theorem cap_openFrame (on : h.enabled = true) : (openFrame c.val s).cap c.val = capOpened s h := by
  subst hh
  unfold openFrame
  dsimp only
  rw [(Accessed.ite (accessed_bump32 ..) (.refl _)).cap, (accessed_bump32 ..).cap, cap_onCap (cap_here on)]

theorem exec_csiFrameTimeout_late (opened : h.openF = some f) (late : f.from_ + h.desc.timeout ≤ s.up) :
    exec (.csiFrameTimeout c) s = .next (closeFrame c.val { f with rxErr := true } (capCount c.val 0xc s)) := by
  subst hh
  refine congrArg Host.Outcome.next ?_
  simp only [opened, late, if_true]

section
variable (on : h.enabled = true) (awake : s.mgt.safe = false) (own : vc.val = h.desc.vc)
include on awake own

theorem exec_csiFrameStart_good : exec (.csiFrameStart c vc .good) s = .next (openFrame c.val
    (match h.openF with | some f => closeFrame c.val { f with rxErr := true } s | none => s)) := by
  subst hh
  exact congrArg Host.Outcome.next ((packet_good on awake own).trans (openFrame_eq ..).symm)

theorem exec_csiFrameEnd_good (opened : h.openF = some f) : exec (.csiFrameEnd c vc .good) s =
    .next (closeFrame c.val { f with rxErr := f.rxErr || decide (f.lines ≠ h.desc.height) } s) := by
  subst hh
  refine congrArg Host.Outcome.next ((packet_good on awake own).trans ?_)
  have short : (f.lines != (s.cap c.val).desc.height) = decide (f.lines ≠ (s.cap c.val).desc.height) := by
    by_cases h : f.lines = (s.cap c.val).desc.height <;> simp [h]
  simp only [opened, short]

theorem exec_csiLine_other {dt : Fin 64} (type : dt.val ≠ dataType h.desc.format) (crcOk overflow : Bool) (pl : List Byte) :
    exec (.csiLine c vc dt .good crcOk overflow pl) s = .next (capCount c.val 0x18 s) := by
  subst hh
  exact congrArg Host.Outcome.next ((packet_good on awake own).trans (if_pos type))

/-- The open frame after a line (R340, R341). -/
def lineTaken (f : CapFrame) (x : CapDesc) (crcOk overflow : Bool) (pl : List Byte) : CapFrame :=
  { f with lines := f.lines + 1
           rxErr := f.rxErr || !crcOk || overflow || decide (pl.length ≠ sentBytes x f.lines) }

theorem exec_csiLine_good {dt : Fin 64} {b : Nat} (type : dt.val = dataType h.desc.format) (opened : h.openF = some f)
    (buf : f.buf = some b) (room : f.lines < h.desc.height) (crcOk overflow : Bool) (pl : List Byte) :
    exec (.csiLine c vc dt .good crcOk overflow pl) s = .next (writeAll .csi
      (lineWrites h.desc (h.fbs.getD b {}) f.lines pl) (s.onCap c.val fun h =>
        { h with openF := some (lineTaken f h.desc crcOk overflow pl) })).2 := by
  subst hh
  rw [onCap_congr (g := fun h => { h with openF := some (lineTaken f (s.cap c.val).desc crcOk overflow pl) }) rfl]
  have length : (pl.length != sentBytes (s.cap c.val).desc f.lines) =
      decide (pl.length ≠ sentBytes (s.cap c.val).desc f.lines) := by
    by_cases h : pl.length = sentBytes (s.cap c.val).desc f.lines <;> simp [h]
  have over_ : decide (f.lines ≥ (s.cap c.val).desc.height) = false := by simpa using room
  have fbs (o : Option CapFrame) : ((s.onCap c.val fun h => { h with openF := o }).cap c.val).fbs = (s.cap c.val).fbs :=
    cap_onCap_part CapCh.fbs fun _ => rfl
  refine congrArg Host.Outcome.next ((packet_good on awake own).trans ?_)
  simp only [type, ne_eq, not_true, if_false, opened, buf, room, if_true, length, over_, Bool.or_false, fbs, lineTaken]

end
end

section
variable {s : State} {c vc : Fin 16} {dt : Fin 64} {crcOk overflow : Bool} {pl : List Byte} {i j : Instr}
  (on : (s.cap c.val).enabled = true) (awake : s.mgt.safe = false)
include on awake

/-- A packet of another virtual channel is only counted (R337). -/
theorem exec_packet_other (other : vc.val ≠ (s.cap c.val).desc.vc)
    (hi : i ∈ [Instr.csiFrameStart c vc .good, .csiLine c vc dt .good crcOk overflow pl, .csiFrameEnd c vc .good]) :
    exec i s = .next (capCount c.val 0x14 s) := by
  simp only [List.mem_cons, List.not_mem_nil, or_false] at hi
  rcases hi with rfl | rfl | rfl
  all_goals exact congrArg Host.Outcome.next (packet_other on awake other)

/-- A packet with a corrected header is counted, and is a packet like another (R341). -/
theorem exec_packet_corrected (hij : (i, j) ∈ [(Instr.csiFrameStart c vc .corrected, Instr.csiFrameStart c vc .good),
      (.csiLine c vc dt .corrected crcOk overflow pl, .csiLine c vc dt .good crcOk overflow pl),
      (.csiFrameEnd c vc .corrected, .csiFrameEnd c vc .good)]) : exec i s = exec j (capCount c.val 0x10 s) := by
  simp only [List.mem_cons, Prod.mk.injEq, List.not_mem_nil, or_false] at hij
  rcases hij with ⟨rfl, rfl⟩ | ⟨rfl, rfl⟩ | ⟨rfl, rfl⟩
  all_goals exact congrArg Host.Outcome.next (packet_corrected on awake)

/-- A packet with an uncorrectable header marks the open frame (R341). -/
theorem exec_packet_bad
    (hi : i ∈ [Instr.csiFrameStart c vc .bad, .csiLine c vc dt .bad crcOk overflow pl, .csiFrameEnd c vc .bad]) :
    exec i s = .next (rxError c.val s) := by
  simp only [List.mem_cons, List.not_mem_nil, or_false] at hi
  rcases hi with rfl | rfl | rfl
  all_goals exact congrArg Host.Outcome.next (packet_bad on awake)

end

section
variable {s : State} {c : Nat} {f : CapFrame} (buf : f.buf.isSome = true)
include buf

/-- Without an AUTO context of the camera, a completed frame is just the latest. -/
theorem closeFrame_alone (alone : (s.cap c).desc.format = 0 → ∀ k < 16, (s.encCtx k).enabled = true →
    (s.encCtx k).desc.auto = true → (s.encCtx k).desc.srcStream ≠ c) :
    closeFrame c f s = (if f.rxErr then capCount c 4 s else s).onCap c (capClosed f) := by
  rw [closeFrame_held buf]
  split
  · next color =>
    refine foldl_fixed_mem fun k hk => if_neg fun starts => ?_
    have counted : (if f.rxErr then capCount c 4 s else s).encCtx = s.encCtx :=
      (Accessed.ite (accessed_bump32 ..) (.refl s)).encCtx
    have ctx : ((if f.rxErr then capCount c 4 s else s).onCap c (capClosed f)).encCtx k = s.encCtx k := congrFun counted k
    simp only [ctx, Bool.and_eq_true, beq_iff_eq] at starts
    obtain ⟨⟨⟨⟨on, auto⟩, source⟩, -⟩, -⟩ := starts
    exact alone color k (List.mem_range.1 hk) on auto source
  · rfl

/-- What completing a frame leaves of the camera, but for the buffers that its readers take. -/
theorem sansReaders_cap_closeFrame (on : (s.cap c).enabled = true) :
    sansReaders ((closeFrame c f s).cap c) = sansReaders (capClosed f (s.cap c)) := by
  have counted : Accessed s (if f.rxErr then capCount c 4 s else s) := .ite (accessed_bump32 ..) (.refl s)
  have closed : ((if f.rxErr then capCount c 4 s else s).onCap c (capClosed f)).cap c = capClosed f (s.cap c) := by
    rw [cap_onCap (cap_here (counted.cap ▸ on)), counted.cap]
  rw [closeFrame_held buf]
  split
  · rw [encWork_encAutoStart.caps c, closed]
  · rw [closed]

theorem now_closeFrame : (closeFrame c f s).now = s.now := by
  have counted : Accessed s (if f.rxErr then capCount c 4 s else s) := .ite (accessed_bump32 ..) (.refl s)
  have closed : ((if f.rxErr then capCount c 4 s else s).onCap c (capClosed f)).ktl = s.ktl := counted.ktl
  rw [closeFrame_held buf]
  split
  · exact congrArg (·.count.toNat) (encWork_encAutoStart.ktl.trans closed)
  · exact congrArg (·.count.toNat) closed

/-- An AUTO context of the camera with a picture in progress holds the start that the completed frame is. -/
theorem encCtx_closeFrame (color : (s.cap c).desc.format = 0) {k : Nat} (hk : k < 16) (starts : encStartsOn c k s = true)
    (busy : (s.encCtx k).pic.isSome = true) (has : ∀ q ∈ (s.encCtx k).pic, q.cores ≠ []) :
    (closeFrame c f s).encCtx k = { s.encCtx k with held := (s.encCtx k).held ++ [s.up] } := by
  have counted : Accessed s (if f.rxErr then capCount c 4 s else s) := .ite (accessed_bump32 ..) (.refl s)
  rw [closeFrame_held buf, if_pos color]
  generalize ht : (if f.rxErr then capCount c 4 s else s).onCap c (capClosed f) = t
  have ctx : t.encCtx k = s.encCtx k := ht ▸ congrFun counted.encCtx k
  have safe : t.mgt.safe = s.mgt.safe := ht ▸ counted.safe
  have quiesce : t.mgt.quiesce = s.mgt.quiesce := ht ▸ counted.quiesce
  have up : t.up = s.up := ht ▸ counted.up
  have starts' : encStartsOn c k t = true := by
    rw [encStartsOn, ctx, safe, quiesce]
    exact starts
  rw [encCtx_encAutoStart hk starts' (ctx ▸ busy) (ctx ▸ has), ctx, up]

end

/-- Settles O30: each packet by the frame that is open, and what a completed frame leaves to the encoders. -/
theorem cameras : Obligations.Cameras := by
  unfold Obligations.Cameras
  refine ⟨?_, ?_, ?_, ?_, ?_, ?_, ?_, ?_, ?_⟩
  · intro s m c vc h b hh on awake own idle hb hm
    rw [exec_csiFrameStart_good hh on awake own, idle]
    subst hh hb
    have raw : m = bump32 .csi (s.cap c.val).desc.stateBase (s.onCap c.val (capOpened s)) := by
      rw [hm, show s.onCap c.val (capOpened s) = s.onCap c.val fun h => { h with
        nextSeq := (h.nextSeq + 1) % 2 ^ 32
        openF := some { seq := h.nextSeq, pts := s.now, from_ := s.up
                        buf := (List.range (s.cap c.val).desc.fbCount).find? fun b => !capUsed (s.cap c.val) b } }
        from onCap_congr rfl]
      rfl
    rw [raw]
    rfl
  · intro s c vc h f hs hh on awake own opened buf
    subst hh
    rw [exec_csiFrameStart_good rfl on awake own, opened]
    have closed := sansReaders_cap_closeFrame (f := { f with rxErr := true }) buf on
    have enabled := congrArg CapCh.enabled closed
    have seq := congrArg CapCh.nextSeq closed
    have latest := congrArg CapCh.latest closed
    refine ⟨_, rfl, ?_⟩
    rw [cap_openFrame rfl (enabled.trans on)]
    refine ⟨latest, congrArg some seq, congrArg some (now_closeFrame buf), ?_⟩
    exact congrArg (fun n => (n + 1) % 2 ^ 32) seq
  · intro s c vc dt crcOk overflow pl h f b hh on awake own type opened buf room
    rw [exec_csiLine_good hh on awake own type opened buf room]
    subst hh
    rfl
  · intro s v c vc h f bad hh on awake own opened buf alone hbad hv
    rw [exec_csiFrameEnd_good hh on awake own opened, ← hbad]
    subst hh
    rw [closeFrame_alone (f := { f with rxErr := bad }) buf alone]
    have same : v = if bad then capCount c.val 4 s else s := hv
    rw [← same, onCap_accessed (same ▸ Accessed.ite (accessed_bump32 ..) (.refl s))]
    rfl
  · intro s c vc h f k hs hh on awake open_ own opened buf color hk enc auto source busy has
    rw [exec_csiFrameEnd_good hh on awake own opened]
    subst hh
    have rest := sansReaders_cap_closeFrame
      (f := { f with rxErr := f.rxErr || decide (f.lines ≠ (s.cap c.val).desc.height) }) buf on
    refine ⟨_, rfl, (congrArg CapCh.openF rest :), ?_⟩
    have starts : encStartsOn c.val k s = true := by simp [encStartsOn, enc, auto, source, awake, open_]
    exact encCtx_closeFrame
      (f := { f with rxErr := f.rxErr || decide (f.lines ≠ (s.cap c.val).desc.height) }) buf color hk starts busy has
  · intro s v c h f hh opened buf late gray hv
    rw [exec_csiFrameTimeout_late hh opened late]
    subst hh
    have counted : (capCount c.val 0xc s).cap = s.cap := (accessed_bump32 ..).cap
    rw [closeFrame_alone (f := { f with rxErr := true }) buf fun color => absurd (counted ▸ color) gray]
    have same : v = capCount c.val 4 (capCount c.val 0xc s) := by rw [capCount_eq _ 4, counted]; exact hv
    have left : Accessed s v := same ▸ (accessed_bump32 ..).trans (accessed_bump32 ..)
    rw [if_pos rfl, ← same, onCap_accessed left]
    rfl
  · intro s c vc dt crcOk overflow pl i off on awake why
    rcases why with ⟨hi, other, rfl⟩ | ⟨rfl, own, type, rfl⟩
    · exact exec_packet_other on awake other hi
    · exact exec_csiLine_other rfl on awake own type crcOk overflow pl
  · intro s c vc dt crcOk overflow pl i j on awake hij
    exact exec_packet_corrected on awake hij
  · intro s c vc dt crcOk overflow pl i on awake hi
    exact exec_packet_bad on awake hi

/-! ## Records that are handed to the Spout (R317, R328, R410) -/

/-- The bytes of a record's fields, each given by its length and value. -/
def layout (l : List (Nat × Nat)) : List Byte := l.flatMap fun f => leBytes f.1 f.2

theorem layout_append (l r : List (Nat × Nat)) : layout (l ++ r) = layout l ++ layout r := List.flatMap_append

theorem layout_cons (f : Nat × Nat) (l : List (Nat × Nat)) : layout (f :: l) = leBytes f.1 f.2 ++ layout l := rfl

theorem length_layout (l : List (Nat × Nat)) : (layout l).length = (l.map (·.1)).sum := by
  simp only [layout, List.length_flatMap, leBytes_length]

/-- The field behind `o` bytes of others. -/
theorem field_layout {l : List (Nat × Nat)} {tail : List Byte} {i o n v : Nat} (hi : l[i]? = some (n, v))
    (ho : ((l.take i).map (·.1)).sum = o) : leNat (((layout l ++ tail).drop o).take n) = v % 256 ^ n := by
  obtain ⟨here, at_⟩ := List.getElem?_eq_some_iff.1 hi
  have split_ : l = l.take i ++ (n, v) :: l.drop (i + 1) := by
    rw [← at_, ← List.drop_eq_getElem_cons here, List.take_append_drop]
  rw [split_, layout_append, layout_cons, List.append_assoc, List.append_assoc,
    field_at _ _ _ ((length_layout _).trans ho) (leBytes_length n v), leNat_leBytes]

theorem leBytes_four_split (v : Nat) : leBytes 4 v = leBytes 1 v ++ leBytes 1 (v / 256) ++ leBytes 2 (v / 256 / 256) := rfl

section
variable {s : State} {ring : Nat} (on : rbit (s.sptRing ring).cfg 31 = true)
include on

theorem handOff_on (who : Nat) (cpl : Bool) (bytes : List Byte) :
    handOff who ring cpl bytes s = { s with spt := (handOff who ring cpl bytes s).spt } := by
  simp only [handOff, on, Bool.not_true, Bool.false_eq_true, if_false]
  rfl

theorem reported_handOff {bytes : List Byte} {fs : List (Nat × Nat × Nat)}
    (fields : ∀ f ∈ fs, leNat ((bytes.drop f.1).take f.2.1) = f.2.2) (who : Nat) :
    reported (handOff who ring false bytes s) ring fs = true := by
  simp only [handOff, on, Bool.not_true, Bool.false_eq_true, if_false]
  refine List.any_eq_true.2 ⟨{ who, ring, cpl := false, bytes, tick := s.now },
    List.mem_append_right _ List.mem_cons_self, ?_⟩
  have all := List.all_eq_true.2 fun f hf => beq_iff_eq.2 (fields f hf)
  have now : s.now = State.now (s.onSpt fun p =>
    { p with arriving := p.arriving.filter (fun q => q.tick != s.now || decide (q.who ≤ who)) ++
        { who, ring, cpl := false, bytes, tick := s.now } ::
          p.arriving.filter (fun q => q.tick == s.now && decide (q.who > who)) }) := rfl
  simp only [all, Bool.not_false, beq_self_eq_true, Bool.and_true, ← now]

end

theorem reported_congr {s t : State} (spt : t.spt = s.spt) (ktl : t.ktl = s.ktl) : reported t = reported s := by
  have now : t.now = s.now := congrArg (·.count.toNat) ktl
  funext ring fs
  rw [reported, reported, spt, now]

theorem reported_of_parts {s t : State} {ring : Nat} {fs : List (Nat × Nat × Nat)} (h : reported s ring fs = true)
    (spt : t.spt = s.spt) (ktl : t.ktl = s.ktl) : reported t ring fs = true := by
  rw [reported_congr spt ktl]
  exact h

/-! ## Pictures of the encoders (R319 to R329) -/

theorem filterMap_range_single {α : Type} {g : Nat → Option α} {n c : Nat} {a : α} (hc : c < n) (one : g c = some a)
    (none_ : ∀ k < n, k ≠ c → g k = none) : (List.range n).filterMap g = [a] := by
  obtain ⟨l, r, range⟩ := List.append_of_mem (List.mem_range.2 hc)
  have once : (l ++ c :: r).Nodup := range ▸ List.nodup_range
  rw [List.nodup_middle, List.nodup_cons, List.mem_append, not_or] at once
  obtain ⟨⟨before, after⟩, -⟩ := once
  have mem {k : Nat} (h : k ∈ l ++ c :: r) : k < n := List.mem_range.1 (range ▸ h)
  have left : l.filterMap g = [] := List.filterMap_eq_nil_iff.2 fun k hk =>
    none_ k (mem (List.mem_append_left _ hk)) (by rintro rfl; exact before hk)
  have right : r.filterMap g = [] := List.filterMap_eq_nil_iff.2 fun k hk =>
    none_ k (mem (List.mem_append_right _ (List.mem_cons_of_mem c hk))) (by rintro rfl; exact after hk)
  rw [range, List.filterMap_append, left, List.filterMap_cons, one, right]
  rfl

theorem without_cores {p : EncPic} (waits : p.cores = []) (own : p.owners = []) :
    { p with cores := [], owners := [] } = p := by
  cases p
  cases waits
  cases own
  rfl

section
variable {s : State} {c : Nat}

theorem encWaiting_nil (has : ∀ k < 16, ∀ q ∈ (s.encCtx k).pic, q.cores ≠ []) : encWaiting s = [] := by
  refine List.eq_nil_iff_forall_not_mem.2 fun a ha => ?_
  obtain ⟨hc, p, hp, none, -⟩ := mem_encWaiting.1 ha
  exact has a.2 hc p hp none

/-- No picture waits: none takes cores. -/
theorem encAssign_none (has : ∀ k < 16, ∀ q ∈ (s.encCtx k).pic, q.cores ≠ []) : encAssign s = s := by
  rw [encAssign_waiting, encWaiting_nil has]
  rfl

section
variable {p : EncPic} (hp : (s.encCtx c).pic = some p) (waits : p.cores = [])
include hp waits

/-- Only one picture waits: it takes what there is. -/
theorem encAssign_one (hc : c < 16) (others : ∀ k < 16, k ≠ c → ∀ q ∈ (s.encCtx k).pic, q.cores ≠ []) :
    encAssign s = encClaim c s := by
  have one : encWaiting s = [(p.startAt, c)] := by
    refine filterMap_range_single hc (by simp [hp, waits]) fun k hk other => ?_
    rw [Option.bind_eq_none_iff]
    exact fun q hq => if_neg (others k hk other q hq)
  rw [encAssign_waiting, one]
  rfl

theorem encClaim_waiting {cs : List Nat} (own : p.owners = []) (some_ : (encCores s c).2 ≠ 0)
    (hcs : cs = if (encCores s c).2 ≤ ((encCores s c).1.filter (encFree s)).length
      then ((encCores s c).1.filter (encFree s)).take (encCores s c).2 else []) :
    encClaim c s = (s.onEncCtx c fun x => { x with pic := some { p with
      cores := cs, owners := if cs = [] then [] else ownersOver cs.length (bandSizes x.desc) } }).onEnc fun e =>
        { e with busy := claim c cs e.busy } := by
  have enough : ((encCores s c).2 ≤ (((encCores s c).1.filter (encFree s)).take (encCores s c).2).length) ↔
      (encCores s c).2 ≤ ((encCores s c).1.filter (encFree s)).length := by
    rw [List.length_take]
    omega
  rw [encClaim, hp]
  simp only [waits, true_and, enough]
  split
  · next h =>
    rw [if_pos h.2] at hcs
    have taken : cs ≠ [] := by
      intro none
      have length := congrArg List.length hcs
      rw [none, List.length_take, List.length_nil] at length
      omega
    subst hcs
    refine congrArg (State.onEnc _) (onEncCtx_congr ?_)
    simp only [taken, if_false]
  · next h =>
    rw [if_neg fun few => h ⟨some_, few⟩] at hcs
    subst hcs
    rw [onEncCtx_self]
    · rfl
    · rw [if_pos rfl]
      exact congrArg (fun o => { s.encCtx c with pic := o }) ((congrArg some (without_cores waits own)).trans hp.symm)

end

end

/-! ## Starts of encode contexts (R319, R320, R325) -/

/-- A read that is answered OK only locks the HBM map. -/
theorem readMem_inv {src : Src} {a n : Nat} {s r : State} {bs : List Byte} (h : readMem src a n s = (.ok, bs, r)) :
    readable s src a n = true ∧ bs = peek s a n ∧ r = touch src a s := by
  unfold readMem at h
  split at h
  · next ok =>
    dsimp only at h
    split at h
    · cases h
    · next good =>
      cases h
      have same : badAt (touch src a s) a n = badAt s a n := badAt_touch ..
      exact ⟨by simp_all [readable], peek_touch .., rfl⟩
  · next bad => exact (bad (congrArg Prod.fst h)).elim

/-- The encoders' contexts are no part of what a read looks at. -/
theorem readMem_onEncCtx {src : Src} {a n : Nat} {s r : State} {bs : List Byte}
    (h : readMem src a n s = (.ok, bs, r)) (c : Nat) (f : EncCtx → EncCtx) :
    readMem src a n (s.onEncCtx c f) = (.ok, bs, r.onEncCtx c f) := by
  obtain ⟨ok, rfl, rfl⟩ := readMem_inv h
  have ok' : readable (s.onEncCtx c f) src a n = true := ok
  have bytes : peek (s.onEncCtx c f) a n = peek s a n := rfl
  rw [readMem_of_readable ok', bytes]
  unfold touch
  split <;> rfl

/-- The picture that a start gives a context. -/
def encNew (x : EncCtx) (tick off : Nat) (f : EncSource) : EncPic :=
  { startAt := tick, picNo := x.picCount, pts := f.pts, srcSeq := f.seq, srcBuf := f.buf, fb := f.fb, bad := f.bad
    idr := x.idrNext || !x.hasRecon, pos := if x.idrNext || !x.hasRecon || x.restart then 0 else x.pos
    offset := off, cores := [], owners := [] }

/-- The picture number is given to a picture, and the next counts on. -/
def encCounted (x : EncCtx) : EncCtx := { x with picCount := (x.picCount + 1) % 2 ^ 32 }

/-- A context with a new picture. -/
def encBegun (tick off : Nat) (f : EncSource) (x : EncCtx) : EncCtx :=
  { encCounted x with idrNext := false, restart := false, pic := some (encNew x tick off f) }

/-- A picture's source buffer is held for it. -/
def encHolds (stream : Nat) (f : EncSource) (s : State) : State :=
  match f.buf with
  | some b => s.onCap stream fun h => { h with readers := b :: h.readers }
  | none => s

section
variable {s r : State} {c tick : Nat} {f : EncSource} {bs : List Byte} (awake : s.mgt.safe = false)
  (open_ : s.mgt.quiesce = false)
include awake open_

/-- No new frame: the picture is skipped (R319). -/
theorem encBegin_none (none_ : encSource s (s.encCtx c) = none) : encBegin c tick s =
    encSkip c encNoInput tick (s.encCtx c).picCount none (s.onEncCtx c encCounted) := by
  have none' : encSource (s.onEncCtx c encCounted) (s.encCtx c) = none := none_
  unfold encBegin
  rw [if_neg (by simp [awake, open_])]
  dsimp only
  rw [show (fun x : EncCtx => { x with picCount := (x.picCount + 1) % 2 ^ 32 }) = encCounted from rfl, none']

section
variable (new : encSource s (s.encCtx c) = some f) (cores : (encCores s c).2 ≠ 0)
  (read : readMem (encSrc 0) (s.encCtx c).desc.consAddr 8 s = (.ok, bs, r))
include new cores read

theorem encBegin_read : encBegin c tick s =
    match encPlace (s.encCtx c) (leNat bs) with
    | none => encSkip c encRingFull tick (s.encCtx c).picCount (some f.pts) (r.onEncCtx c encCounted)
    | some off => encAssign (encHolds (s.encCtx c).desc.srcStream f (r.onEncCtx c (encBegun tick off f))) := by
  have new' : encSource (s.onEncCtx c encCounted) (s.encCtx c) = some f := new
  have cores' : (encCores (s.onEncCtx c encCounted) c).2 ≠ 0 := cores
  unfold encBegin
  rw [if_neg (by simp [awake, open_])]
  dsimp only
  rw [show (fun x : EncCtx => { x with picCount := (x.picCount + 1) % 2 ^ 32 }) = encCounted from rfl, new']
  simp only [cores', if_false, readMem_onEncCtx read c encCounted, ne_eq, not_true]
  cases encPlace (s.encCtx c) (leNat bs) with
  | none => rfl
  | some off =>
    have same : r.encCtx c = s.encCtx c := congrFun (accessed_of_readMem read).encCtx c
    simp only [onEncCtx_onEncCtx]
    rw [onEncCtx_congr (g := encBegun tick off f) (by rw [same]; rfl)]
    rfl

end
end

/-! ## Encode reports (R328) -/

/-- The word of an encode report that has the context and the code. -/
def encWord (c code : Nat) (p : EncPic) (skipped : Bool) : Nat :=
  c + code * 256 + b2n p.idr * 65536 + (if !skipped && p.pos == 0 then 131072 else 0)

/-- The record of an encode report (R328, R395). -/
def encRecord (c code : Nat) (p : EncPic) (skipped : Bool) (bytes qp : Nat) (x : EncCtx) (s : State) : List Byte :=
  recHead p.picNo 6 0 x.desc.streamId 0 false false false s.now ++ leBytes 4 p.picNo ++
    leBytes 4 (encWord c code p skipped) ++ leBytes 8 p.pts ++ leBytes 4 p.offset ++ leBytes 4 bytes ++
    leBytes 4 (qp % 256 + p.pos % 256 * 256 + x.desc.streamId * 65536) ++
    leBytes 4 (min 0xffffffff (s.up - p.startAt)) ++ List.replicate 16 0

/-- The fields of the record up to the bytes of the access unit, the context and the code apart. -/
def encFields (c code : Nat) (p : EncPic) (skipped : Bool) (bytes : Nat) (x : EncCtx) (s : State) : List (Nat × Nat) :=
  [(4, p.picNo), (4, 1 * 16 + 6 * 256 + 0 * 65536), (4, x.desc.streamId % 65536), (4, s.now), (4, p.picNo),
    (1, encWord c code p skipped), (1, encWord c code p skipped / 256), (2, encWord c code p skipped / 256 / 256),
    (8, p.pts), (4, p.offset), (4, bytes)]

/-- What a reader of an encode report takes: the picture, the context, the code and the bytes. -/
def encTold (c code : Nat) (p : EncPic) (bytes : Nat) : List (Nat × Nat × Nat) :=
  [(0x10, 4, p.picNo % 2 ^ 32), (0x14, 1, c), (0x15, 1, code), (0x24, 4, bytes % 2 ^ 32)]

section
variable {c code : Nat} {p : EncPic} {skipped : Bool} {bytes qp : Nat}

theorem encRecord_eq (x : EncCtx) (s : State) : ∃ tail, encRecord c code p skipped bytes qp x s =
    layout (encFields c code p skipped bytes x s) ++ tail := by
  refine ⟨leBytes 4 (qp % 256 + p.pos % 256 * 256 + x.desc.streamId * 65536) ++
    (leBytes 4 (min 0xffffffff (s.up - p.startAt)) ++ List.replicate 16 0), ?_⟩
  rw [encRecord, leBytes_four_split (encWord c code p skipped)]
  simp only [recHead, encFields, layout, List.flatMap_cons, List.flatMap_nil, List.append_assoc, List.nil_append,
    Nat.zero_mod, Nat.zero_mul, Nat.add_zero, Bool.false_eq_true, if_false]

theorem encWord_mod (hc : c < 256) : encWord c code p skipped % 256 ^ 1 = c := by
  unfold encWord
  split <;> omega

theorem encWord_div (hc : c < 256) (hcode : code < 256) : encWord c code p skipped / 256 % 256 ^ 1 = code := by
  unfold encWord
  split <;> omega

theorem encRecord_told (hc : c < 256) (hcode : code < 256) (x : EncCtx) (s : State) : ∀ f ∈ encTold c code p bytes,
      leNat (((encRecord c code p skipped bytes qp x s).drop f.1).take f.2.1) = f.2.2 := by
  obtain ⟨tail, he⟩ := encRecord_eq (c := c) (code := code) (p := p) (skipped := skipped) (bytes := bytes) (qp := qp) x s
  have field {i o n v : Nat} := field_layout (l := encFields c code p skipped bytes x s) (tail := tail) (i := i) (o := o)
    (n := n) (v := v)
  intro f hf
  rw [he]
  simp only [encTold, List.mem_cons, List.not_mem_nil, or_false] at hf
  rcases hf with rfl | rfl | rfl | rfl
  · exact (field (i := 4) (o := 0x10) rfl rfl).trans (by rfl)
  · exact (field (i := 5) (o := 0x14) rfl rfl).trans (encWord_mod hc)
  · exact (field (i := 6) (o := 0x15) rfl rfl).trans (encWord_div hc hcode)
  · exact (field (i := 10) (o := 0x24) rfl rfl).trans (by rfl)

end

/-- A report counts in the context and goes to the Spout; with accounting off it charges nothing. -/
theorem encReport_eq {s : State} (free : rbit s.hif.acctLo 0 = false) (c code : Nat) (p : EncPic) (skipped : Bool)
    (bytes qp : Nat) : encReport c code p skipped bytes qp s =
      handOff whoEnc (s.encCtx c).desc.statusRing false (encRecord c code p skipped bytes qp (s.encCtx c) s)
        (s.onEncCtx c fun x => { x with past := x.past ++ [if skipped then none else some (bytes, qp)] }) := by
  have charge (src : Src) (off v : Nat) : account src off v s = s := if_neg (by simp [free])
  unfold encReport
  simp only [charge]
  rfl

section
variable {s : State} {c : Nat} (free : rbit s.hif.acctLo 0 = false)
  (on : rbit (s.sptRing (s.encCtx c).desc.statusRing).cfg 31 = true)
include free on

theorem encReport_on (code : Nat) (p : EncPic) (skipped : Bool) (bytes qp : Nat) :
    encReport c code p skipped bytes qp s = { (s.onEncCtx c fun x =>
      { x with past := x.past ++ [if skipped then none else some (bytes, qp)] }) with
        spt := (encReport c code p skipped bytes qp s).spt } := by
  rw [encReport_eq free]
  exact handOff_on (s := s.onEncCtx c fun x => { x with past := x.past ++ [if skipped then none else some (bytes, qp)] })
    on ..

theorem reported_encReport {code bytes : Nat} {p : EncPic} {fs : List (Nat × Nat × Nat)} (hc : c < 256)
    (hcode : code < 256) (told : fs ⊆ encTold c code p bytes) (skipped : Bool) (qp : Nat) :
    reported (encReport c code p skipped bytes qp s) (s.encCtx c).desc.statusRing fs = true := by
  rw [encReport_eq free]
  exact reported_handOff (s := s.onEncCtx c _) on
    (fun f hf => encRecord_told hc hcode (s.encCtx c) s f (told hf)) _

end

/-! ## Starts and ends of encoded pictures (R319, R325, R328) -/

theorem Begun.encCtx {s u : State} (h : Begun s u) : u.encCtx = s.encCtx := by
  obtain ⟨_, _, rfl⟩ := h
  rfl

section
variable {s u : State} {c : Fin 16} {a : Action} (h : takeAction s 8 3 (fun a => a.target == c.val) = some (a, u))
include h

theorem exec_encodeStart : exec (.encodeStart c) s = .next
    (if !(s.encCtx c.val).enabled || (s.encCtx c.val).desc.auto then u else encStart c.val u) := by
  refine congrArg Host.Outcome.next ?_
  rw [h, ← (begun_takeAction h).encCtx]

theorem exec_encodeStart_planned (on : (s.encCtx c.val).enabled = true) (planned : (s.encCtx c.val).desc.auto = false) :
    exec (.encodeStart c) s = .next (encStart c.val u) := by
  rw [exec_encodeStart h, if_neg (by simp [on, planned])]

theorem exec_encodeStart_begins (on : (s.encCtx c.val).enabled = true) (planned : (s.encCtx c.val).desc.auto = false)
    (idle : (s.encCtx c.val).pic = none) : exec (.encodeStart c) s = .next (encBegin c.val s.up u) := by
  have begun := begun_takeAction h
  rw [exec_encodeStart_planned h on planned, encStart, begun.encCtx, idle, begun.up]
  rfl

end

section
variable {s : State} {c : Nat}

/-- The picture that a skipped start stands for; what the report takes of one besides is left open. -/
theorem encSkip_eq (code at_ no : Nat) (pts : Option Nat) (s : State) : ∃ (p : EncPic) (k qp : Nat), p.picNo = no ∧
    encSkip c code at_ no pts s = encReport c code p true 0 qp { s with free := k } := ⟨_, _, _, rfl, rfl⟩

theorem encSkip_on (free : rbit s.hif.acctLo 0 = false) (on : rbit (s.sptRing (s.encCtx c).desc.statusRing).cfg 31 = true)
    {code no : Nat} (hc : c < 256) (hcode : code < 256) (hn : no < 2 ^ 32) (at_ : Nat) (pts : Option Nat) :
    ∃ k q, encSkip c code at_ no pts s =
      { (s.onEncCtx c fun x => { x with past := x.past ++ [none] }) with free := k, spt := q } ∧
      reported (encSkip c code at_ no pts s) (s.encCtx c).desc.statusRing
        [(0x10, 4, no), (0x14, 1, c), (0x15, 1, code), (0x24, 4, 0)] = true := by
  obtain ⟨p, k, qp, rfl, skip⟩ := encSkip_eq (c := c) code at_ no pts s
  rw [skip]
  exact ⟨k, _, encReport_on (s := { s with free := k }) free on code p true 0 qp,
    reported_encReport (s := { s with free := k }) free on hc hcode (by
      simp only [encTold, Nat.mod_eq_of_lt hn, Nat.zero_mod]
      exact fun _ h => h) true qp⟩

/-- A picture's source buffer is given back. -/
def encReturned (stream : Nat) (p : EncPic) (s : State) : State :=
  match p.srcBuf with
  | some b => s.onCap stream fun h => { h with readers := h.readers.erase b }
  | none => s

/-- What a context is after its picture, a DISABLE taking effect. -/
def encLeft (x : EncCtx) : EncCtx :=
  if x.wantDis then encDisabled { x with pic := none, held := [] } else { x with pic := none, held := [] }

theorem encClose_eq (p : EncPic) : encClose c p s =
    let t := (encReturned (s.encCtx c).desc.srcStream p (s.onEnc fun e => { e with busy := freeCores c e.busy })).onEncCtx
      c encLeft
    encAssign (if (s.encCtx c).wantDis then t else encHeld c (s.encCtx c).held t) := rfl

/-- A picture ends, when no command and no start waits for its end and no picture waits for its cores. -/
theorem encClose_quiet {p : EncPic} (here : c < s.enc.ctxs.length) (dis : (s.encCtx c).wantDis = false)
    (held : (s.encCtx c).held = []) (others : ∀ k < 16, k ≠ c → ∀ q ∈ (s.encCtx k).pic, q.cores ≠ []) :
    encClose c p s = { s with
      csi := p.srcBuf.elim s.csi fun b => { s.csi with
        chs := updAt s.csi.chs (s.encCtx c).desc.srcStream fun h => { h with readers := h.readers.erase b } }
      enc := { s.enc with
        busy := freeCores c s.enc.busy
        ctxs := updAt s.enc.ctxs c fun x => { x with pic := none } } } := by
  generalize ht : encReturned (s.encCtx c).desc.srcStream p (s.onEnc fun e => { e with busy := freeCores c e.busy }) = t
  have ctxs : t.enc.ctxs = s.enc.ctxs := by
    subst ht
    unfold encReturned
    split <;> rfl
  have same : t.encCtx = s.encCtx := by
    funext k
    rw [State.encCtx, ctxs]
    rfl
  have left : encLeft (t.encCtx c) = { t.encCtx c with pic := none } := by
    rw [encLeft, same, if_neg (by simp [dis])]
    exact congrArg (fun l => { s.encCtx c with pic := none, held := l }) held.symm
  have has : ∀ k < 16, ∀ q ∈ ((t.onEncCtx c fun x => { x with pic := none }).encCtx k).pic, q.cores ≠ [] := by
    intro k hk q hq
    by_cases other : k = c
    · subst other
      rw [encCtx_onEncCtx (ctxs ▸ here)] at hq
      cases hq
    · rw [encCtx_onEncCtx_ne other, same] at hq
      exact others k hk other q hq
  simp only [encClose_eq, ht, dis, held, Bool.false_eq_true, if_false, encHeld]
  rw [onEncCtx_congr (g := fun x => { x with pic := none }) left, encAssign_none has, ← ht, encReturned]
  cases p.srcBuf <;> rfl

end

theorem accessed_of_readsFail {src : Src} {rs : List (Nat × Nat)} {s t : State} {b : Bool}
    (h : readsFail src rs s = (b, t)) : Accessed s t := by
  have left := accessed_readsFail src s rs
  rwa [h] at left

theorem accessed_of_writeAll {src : Src} {l : List (Nat × List Byte)} {s t : State} {q : Resp}
    (h : writeAll src l s = (q, t)) : Accessed s t := by
  have left := accessed_writeAll src s l
  rwa [h] at left

theorem encHolds_eq (stream : Nat) (f : EncSource) (s : State) : encHolds stream f s = { s with
    csi := f.buf.elim s.csi fun b => { s.csi with
      chs := updAt s.csi.chs stream fun h => { h with readers := b :: h.readers } } } := by
  unfold encHolds
  cases f.buf <;> rfl

theorem encCtx_pic_here {s : State} {c : Nat} {p : EncPic} (hp : (s.encCtx c).pic = some p) : c < s.enc.ctxs.length :=
  lt_of_getD_ne (d := {}) fun k => by
    rw [State.encCtx, k] at hp
    cases hp

/-- The picture of a context with the cores it takes. -/
def encGiven (p : EncPic) (cs : List Nat) (x : EncCtx) : EncCtx :=
  { x with pic := some { p with
      cores := cs, owners := if cs = [] then [] else ownersOver cs.length (bandSizes x.desc) } }

section
variable {s r : State} {c tick off : Nat} {f : EncSource} {cs : List Nat}

/-- A new picture takes its source's buffer and the cores there are, when no other waits for cores (R319, R329). -/
theorem encAssign_begun (hc : c < 16) (on : (r.encCtx c).enabled = true) (has : ∀ k < 16, ∀ q ∈ (r.encCtx k).pic, q.cores ≠ [])
    (cores : (encCores r c).2 ≠ 0)
    (hcs : cs = if (encCores r c).2 ≤ ((encCores r c).1.filter (encFree r)).length
      then ((encCores r c).1.filter (encFree r)).take (encCores r c).2 else []) :
    encAssign (encHolds (r.encCtx c).desc.srcStream f (r.onEncCtx c (encBegun tick off f))) = { r with
      csi := f.buf.elim r.csi fun b => { r.csi with
        chs := updAt r.csi.chs (r.encCtx c).desc.srcStream fun h => { h with readers := b :: h.readers } }
      enc := { r.enc with
        busy := claim c cs r.enc.busy
        ctxs := updAt r.enc.ctxs c fun x => encGiven (encNew x tick off f) cs (encBegun tick off f x) } } := by
  rw [encHolds_eq]
  generalize hT : ({ r.onEncCtx c (encBegun tick off f) with csi := _ } : State) = t
  have ctx (k : Nat) : t.encCtx k = (r.onEncCtx c (encBegun tick off f)).encCtx k := by
    subst hT
    rfl
  have mine : t.encCtx c = encBegun tick off f (r.encCtx c) := by rw [ctx, encCtx_onEncCtx (encCtx_here on)]
  have pic : (t.encCtx c).pic = some (encNew (r.encCtx c) tick off f) := by
    rw [mine]
    rfl
  have others : ∀ k < 16, k ≠ c → ∀ q ∈ (t.encCtx k).pic, q.cores ≠ [] := fun k hk other => by
    rw [ctx, encCtx_onEncCtx_ne other]
    exact has k hk
  have same : encCores t c = encCores r c := by
    subst hT
    rfl
  have free : encFree t = encFree r := by
    subst hT
    rfl
  rw [encAssign_one pic rfl hc others, encClaim_waiting (cs := cs) pic rfl rfl (same ▸ cores) (by rw [same, free]; exact hcs)]
  subst hT
  have ctxs : updAt (updAt r.enc.ctxs c (encBegun tick off f)) c (encGiven (encNew (r.encCtx c) tick off f) cs) =
      updAt r.enc.ctxs c fun x => encGiven (encNew x tick off f) cs (encBegun tick off f x) := by
    rw [updAt_updAt]
    exact updAt_congr_getD (d := {}) rfl
  rw [← ctxs]
  rfl

end

section
variable {s : State} {c : Nat} (free : rbit s.hif.acctLo 0 = false)
  (on : rbit (s.sptRing (s.encCtx c).desc.statusRing).cfg 31 = true)
include free on

/-- A start that is skipped takes a picture number and is reported (R319, R325). -/
theorem encSkip_counted (here : c < s.enc.ctxs.length) {code no : Nat} (hc : c < 256) (hcode : code < 256)
    (hn : no < 2 ^ 32) (at_ : Nat) (pts : Option Nat) :
    ∃ t, encSkip c code at_ no pts (s.onEncCtx c encCounted) = t ∧
      reported t (s.encCtx c).desc.statusRing [(0x10, 4, no), (0x14, 1, c), (0x15, 1, code), (0x24, 4, 0)] = true ∧
      t = { s with
        free := t.free, spt := t.spt
        enc := { s.enc with ctxs := updAt s.enc.ctxs c fun x => { encCounted x with past := x.past ++ [none] } } } := by
  have desc : ((s.onEncCtx c encCounted).encCtx c).desc = (s.encCtx c).desc := by
    rw [encCtx_onEncCtx here]
    rfl
  obtain ⟨k, q, skip, told⟩ := encSkip_on (s := s.onEncCtx c encCounted) free (desc ▸ on) hc hcode hn at_ pts
  refine ⟨_, rfl, desc ▸ told, ?_⟩
  rw [skip, onEncCtx_onEncCtx]
  rfl

/-- A picture's end: its report, what it leaves to the next picture, and the giving back. -/
theorem encClose_reported {code bytes : Nat} {p : EncPic} (pic : (s.encCtx c).pic = some p)
    (dis : (s.encCtx c).wantDis = false) (held : (s.encCtx c).held = [])
    (others : ∀ k < 16, k ≠ c → ∀ q ∈ (s.encCtx k).pic, q.cores ≠ []) (qp : Nat) {f : EncCtx → EncCtx}
    (keeps : ∀ x, (f x).desc = x.desc ∧ (f x).wantDis = x.wantDis ∧ (f x).held = x.held) :
    ∃ t, encClose c p ((encReport c code p false bytes qp s).onEncCtx c f) = t ∧
      reported t = reported (encReport c code p false bytes qp s) ∧
      t = { s with
        spt := t.spt
        csi := p.srcBuf.elim s.csi fun b => { s.csi with
          chs := updAt s.csi.chs (s.encCtx c).desc.srcStream fun h => { h with readers := h.readers.erase b } }
        enc := { s.enc with
          busy := freeCores c s.enc.busy
          ctxs := updAt s.enc.ctxs c fun x =>
            { f { x with past := x.past ++ [some (bytes, qp)] } with pic := none } } } := by
  have here := encCtx_pic_here pic
  obtain ⟨q, told⟩ : ∃ q, encReport c code p false bytes qp s = { (s.onEncCtx c fun x =>
      { x with past := x.past ++ [some (bytes, qp)] }) with spt := q } := ⟨_, encReport_on free on code p false bytes qp⟩
  rw [told]
  generalize ht : State.onEncCtx c f _ = t
  have mine : t.encCtx c = f { s.encCtx c with past := (s.encCtx c).past ++ [some (bytes, qp)] } := by
    rw [← ht, encCtx_onEncCtx (by exact (length_updAt ..).symm ▸ here)]
    exact congrArg f (encCtx_onEncCtx here)
  obtain ⟨desc, wantDis, keptHeld⟩ := keeps { s.encCtx c with past := (s.encCtx c).past ++ [some (bytes, qp)] }
  have others' : ∀ k < 16, k ≠ c → ∀ q ∈ (t.encCtx k).pic, q.cores ≠ [] := by
    intro k hk other
    rw [← ht, encCtx_onEncCtx_ne other]
    exact (encCtx_onEncCtx_ne (s := s) other).symm ▸ others k hk other
  have here' : c < t.enc.ctxs.length := by
    rw [← ht]
    exact ((length_updAt ..).trans (length_updAt ..)).symm ▸ here
  have close := encClose_quiet (p := p) here' (by rw [mine, wantDis]; exact dis) (by rw [mine, keptHeld]; exact held) others'
  refine ⟨_, rfl, ?_, ?_⟩
  · rw [close]
    refine reported_congr ?_ ?_
    · rw [← ht]
      rfl
    · rw [← ht]
      rfl
  · rw [close, mine, desc, ← ht]
    simp only [State.onEncCtx, State.onEnc, updAt_updAt]
    rfl

end

/-- What a context is after a picture that was written (R322, R325, R326). -/
def encFinished (p : EncPic) (res : EncResult) (x : EncCtx) : EncCtx :=
  { x with writeOff := p.offset + res.au.length, alt := 1 - x.alt, hasRecon := true
           lastSeq := some p.srcSeq, pos := (p.pos + 1) % max 1 x.desc.refresh }

/-- The code of a picture that was written (R328). -/
def encDoneCode (p : EncPic) (res : EncResult) : Nat := if p.bad then 1 else if res.capped then 4 else 0

theorem exec_encPictureDone_written {s u v : State} {c : Fin 16} {p : EncPic} {res : EncResult}
    (pic : (s.encCtx c.val).pic = some p) (cores : p.cores ≠ [])
    (reads : readsFail (encSrc (p.cores.headD 0)) (encReads (s.encCtx c.val) p) s = (false, v))
    (hres : res = encResult v (s.encCtx c.val) p)
    (writes : writeAll (encSrc (p.cores.headD 0))
      (((s.encCtx c.val).desc.outBase + p.offset, res.au) :: res.rows) v = (.ok, u)) :
    exec (.encPictureDone c) s = .next (encClose c.val p
      ((encReport c.val (encDoneCode p res) p false res.au.length res.qp u).onEncCtx c.val (encFinished p res))) := by
  subst hres
  refine congrArg Host.Outcome.next ?_
  simp only [pic, cores, if_false, reads, writes]
  rfl

/-! ## A failed encoder core (R333, R559, R564) -/

/-- `t` with what the start of a codec core's takeover may touch put back to what `s` holds. -/
def sansCodec (s t : State) : State := { t with mgt := s.mgt, flash := s.flash, hdrs := s.hdrs, hif := s.hif }

theorem sansCodec_onMgt (s t : State) (f : Mgt → Mgt) : sansCodec s (t.onMgt f) = sansCodec s t := rfl

theorem sansCodec_onMap (s t : State) (u : Unit') (f : MapEntry → MapEntry) : sansCodec s (onMap u f t) = sansCodec s t := rfl

/-- The takeover of an encoder core for which there is a spare (R559). -/
def encTakeover (k : Fin 4) (cause : Nat) (s : State) : State :=
  noteDefect 3 (mapOf s (.enc k)).phys cause (s.onMgt fun m => { m with
    encMap := updAt m.encMap k.val fun e => { e with state := .fenced }
    encSpares := m.encSpares.tail
    takeover := m.takeover ++ [{
      target := .enc k, cause := cause, detected := s.up, failed := (mapOf s (.enc k)).phys
      spare := s.mgt.encSpares.head?, stage := .powering, goodAt := s.up + 23100, saveDone := true
      hasJob := false, mapBeat := none }] })

theorem sansLog_encTakeover {s u : State} {k : Fin 4} {cause : Nat} (h : sansLog s u = s) :
    sansLog s (encTakeover k cause u) = { s with flash := (encTakeover k cause u).flash } :=
  (congrArg (fun w : State => { w with flash := (encTakeover k cause u).flash }) h :)

section
variable {s : State} {k : Fin 4} {cause : Nat} (healthy : encState s k.val = .ok)
include healthy

theorem startCodec_enc : startCodec (.enc k) cause s =
    if s.mgt.encSpares.head?.isNone then codecAbsent (.enc k) (encTakeover k cause s) else encTakeover k cause s :=
  if_pos healthy

theorem startCodec_spare (spare : s.mgt.encSpares ≠ []) : startCodec (.enc k) cause s = encTakeover k cause s := by
  rw [startCodec_enc healthy, if_neg (by cases h : s.mgt.encSpares <;> simp_all)]

theorem startCodec_parts : sansCodec s (startCodec (.enc k) cause s) = s ∧
    (startCodec (.enc k) cause s).hif.acctLo = s.hif.acctLo ∧
    ∀ p b, errBit (startCodec (.enc k) cause s) p b = errBit s p b := by
  rw [startCodec_enc healthy]
  split
  · unfold codecAbsent
    generalize ht : onMap (.enc k) _ _ = t
    have parts : sansCodec s t = s := by
      rw [← ht, sansCodec_onMap, sansCodec_onMgt]
      rfl
    have acct : t.hif.acctLo = s.hif.acctLo := by
      rw [← ht]
      rfl
    have hdrs : t.hdrs = s.hdrs := by
      rw [← ht]
      rfl
    have kept (u : State) (h : sansInt t u = t) : sansCodec s u = s := (congrArg (sansCodec s) h).trans parts
    refine ⟨kept _ (setInt_int .mgt 11 t), (acctLo_setInt ..).trans acct, fun p b => ?_⟩
    · rw [errBit, errStatus_setInt, State.hdr, hdrs]
      rfl
  · exact ⟨rfl, rfl, fun p b => rfl⟩

end

section
variable {s : State} {k : Fin 4}

/-- The condition that a failed core raises (R333). -/
def encFailed (k : Fin 4) (s : State) : State := raise .enc 9 none (srcUnit s (encSrc k.val)) s

theorem exec_encCoreFault (healthy : encState s k.val = .ok) : exec (.encCoreFault k) s = .next (
    let t := startCodec (.enc k) 1 (encFailed k s)
    match t.enc.busy.getD k.val none with
    | some c => match (t.encCtx c).pic with
      | some p => encFail c p t
      | none => t
    | none => t) := congrArg Host.Outcome.next (if_pos healthy)

end

/-- What a failed core's takeover leaves to the end of its picture. -/
structure EncStopped (s t : State) : Prop where
  enc : t.enc = s.enc
  spt : t.spt = s.spt
  mem : t.mem = s.mem
  acct : t.hif.acctLo = s.hif.acctLo

theorem encStopped_encFailed {s : State} {k : Fin 4} (healthy : encState s k.val = .ok) :
    EncStopped s (startCodec (.enc k) 1 (encFailed k s)) ∧
      ∀ p b, errBit (startCodec (.enc k) 1 (encFailed k s)) p b = errBit (encFailed k s) p b := by
  have raised : Accessed s (encFailed k s) := accessed_raise ..
  have healthy' : encState (encFailed k s) k.val = .ok := by
    rw [encState, raised.encMap]
    exact healthy
  obtain ⟨parts, acct, bits⟩ := startCodec_parts (cause := 1) healthy'
  generalize startCodec (.enc k) 1 (encFailed k s) = t at parts acct bits ⊢
  have logged : Logged s (encFailed k s) := logged_raise ..
  exact ⟨⟨(congrArg State.enc parts :).trans raised.enc, (congrArg State.spt parts :).trans raised.spt,
    (congrArg State.mem parts :).trans logged.mem, acct.trans raised.acct⟩, bits⟩

/-- A picture that fails ends without bytes, and the next starts a refresh period (R333). -/
theorem encFail_reported {s : State} {c : Nat} {p : EncPic} (free : rbit s.hif.acctLo 0 = false)
    (on : rbit (s.sptRing (s.encCtx c).desc.statusRing).cfg 31 = true) (pic : (s.encCtx c).pic = some p) (hc : c < 256)
    (dis : (s.encCtx c).wantDis = false) (held : (s.encCtx c).held = [])
    (others : ∀ k < 16, k ≠ c → ∀ q ∈ (s.encCtx k).pic, q.cores ≠ []) : ∃ t, encFail c p s = t ∧
      reported t (s.encCtx c).desc.statusRing (encTold c 5 p 0) = true ∧ ∃ qp, t = { s with
        free := t.free, spt := t.spt
        csi := p.srcBuf.elim s.csi fun b => { s.csi with
          chs := updAt s.csi.chs (s.encCtx c).desc.srcStream fun h => { h with readers := h.readers.erase b } }
        enc := { s.enc with
          busy := freeCores c s.enc.busy
          ctxs := updAt s.enc.ctxs c fun x =>
            { x with past := x.past ++ [some (0, qp)], restart := true, pic := none } } } := by
  obtain ⟨t, ht, told, rest⟩ := encClose_reported (s := s.takeFree.2) free on (code := 5) (bytes := 0) pic dis held others
    (fld s.takeFree.1.toNat 7 0) (f := fun x => { x with restart := true }) fun x => ⟨rfl, rfl, rfl⟩
  refine ⟨t, ht, ?_, fld s.takeFree.1.toNat 7 0, ?_⟩
  · rw [told]
    exact reported_encReport (s := s.takeFree.2) free on hc (by omega) (fun _ h => h) _ _
  · rw [rest]
    rfl

section
variable {s u r : State} {c tick code : Nat} {bs : List Byte} (begun : Begun s u)
include begun

theorem Begun.encSource : encSource u = encSource s := by obtain ⟨_, _, rfl⟩ := begun; rfl

theorem Begun.encCores : encCores u = encCores s := by obtain ⟨_, _, rfl⟩ := begun; rfl

/-- A start without a frame to encode, or without a place in the output ring, is skipped (R319, R325). -/
theorem encBegin_skips (awake : s.mgt.safe = false) (open_ : s.mgt.quiesce = false)
    (read : readMem (encSrc 0) (s.encCtx c).desc.consAddr 8 u = (.ok, bs, r))
    (why : Machine.encSource s (s.encCtx c) = none ∧ code = 3 ∨
      (Machine.encSource s (s.encCtx c)).isSome = true ∧ (Machine.encCores s c).2 ≠ 0 ∧
        encPlace (s.encCtx c) (leNat bs) = none ∧ code = 2) :
    code < 256 ∧ ∃ b at_ pts, encBegin c tick u =
      encSkip c code at_ (s.encCtx c).picCount pts ({ u with hbm := b }.onEncCtx c encCounted) := by
  rcases why with ⟨old, rfl⟩ | ⟨new, cores, full, rfl⟩
  · refine ⟨by omega, u.hbm, tick, none, ?_⟩
    rw [encBegin_none (begun.mgt ▸ awake) (begun.mgt ▸ open_) (by rw [begun.encSource, begun.encCtx]; exact old), begun.encCtx]
    rfl
  · obtain ⟨f, hf⟩ := Option.isSome_iff_exists.1 new
    obtain ⟨b, rfl⟩ : ∃ b, r = { u with hbm := b } := ⟨_, (readMem_inv read).2.2.trans (touch_hbm ..)⟩
    refine ⟨by omega, b, tick, some f.pts, ?_⟩
    rw [encBegin_read (begun.mgt ▸ awake) (begun.mgt ▸ open_) (by rw [begun.encSource, begun.encCtx]; exact hf)
      (begun.encCores ▸ cores) (by rw [begun.encCtx]; exact read), begun.encCtx, full]
    rfl

end

section
variable {s : State} {k : Fin 4} (healthy : encState s k.val = .ok)

theorem encSpares_encFailed : (encFailed k s).mgt.encSpares = s.mgt.encSpares :=
  (congrArg Mgt.encSpares (logged_raise .enc 9 none (srcUnit s (encSrc k.val)) s).faults :)

theorem errBit_encFailed (hs : sized s = true) : errBit (encFailed k s) .enc 9 = true :=
  errBit_raise _ _ _ _ _ (by omega) (hdrs_of_sized hs)

include healthy

/-- A spare takes over a failed core without a picture. -/
theorem exec_encCoreFault_idle (spares : s.mgt.encSpares ≠ []) (idle : s.enc.busy.getD k.val none = none) :
    exec (.encCoreFault k) s = .next (encTakeover k 1 (encFailed k s)) := by
  have raised : Accessed s (encFailed k s) := accessed_raise ..
  rw [exec_encCoreFault healthy, startCodec_spare (by rw [encState, raised.encMap]; exact healthy)
    (encSpares_encFailed.symm ▸ spares)]
  have idle' : (encTakeover k 1 (encFailed k s)).enc.busy.getD k.val none = none := raised.enc ▸ idle
  simp only [idle']

/-- A failed core's picture ends without bytes, and the next starts a refresh period (R333). -/
theorem exec_encCoreFault_busy {c : Nat} {p : EncPic} (hs : sized s = true) (busy : s.enc.busy.getD k.val none = some c)
    (hc : c < 256) (pic : (s.encCtx c).pic = some p) (dis : (s.encCtx c).wantDis = false) (held : (s.encCtx c).held = [])
    (free : rbit s.hif.acctLo 0 = false) (ring : rbit (s.sptRing (s.encCtx c).desc.statusRing).cfg 31 = true)
    (others : ∀ i < 16, i ≠ c → ∀ q ∈ (s.encCtx i).pic, q.cores ≠ []) :
    ∃ t, exec (.encCoreFault k) s = .next t ∧ errBit t .enc 9 = true ∧ t.mem = s.mem ∧
      reported t (s.encCtx c).desc.statusRing (encTold c 5 p 0) = true ∧ ∃ qp, t.enc = { s.enc with
        busy := freeCores c s.enc.busy
        ctxs := updAt s.enc.ctxs c fun x =>
          { x with past := x.past ++ [some (0, qp)], restart := true, pic := none } } := by
  obtain ⟨stopped, bits⟩ := encStopped_encFailed healthy
  have run := exec_encCoreFault healthy
  generalize startCodec (.enc k) 1 (encFailed k s) = v at stopped bits run
  have ctx : v.encCtx = s.encCtx := by
    funext i
    rw [State.encCtx, stopped.enc]
    rfl
  have ring' : rbit (v.sptRing (v.encCtx c).desc.statusRing).cfg 31 = true := by
    rw [ctx, State.sptRing, stopped.spt]
    exact ring
  simp only [stopped.enc, busy, ctx, pic] at run
  obtain ⟨t, ht, told, qp, rest⟩ := encFail_reported (stopped.acct ▸ free) ring' (ctx ▸ pic) hc (ctx ▸ dis) (ctx ▸ held)
    (ctx ▸ others)
  refine ⟨t, run.trans (congrArg Host.Outcome.next ht), ?_, ?_, ctx ▸ told, qp, ?_⟩
  · rw [rest]
    exact (bits .enc 9).trans (errBit_encFailed hs)
  · rw [rest]
    exact stopped.mem
  · rw [rest, stopped.enc]

end

/-- Settles O28: starts by what the context has and finds, ends by what the picture's reads and writes give. -/
theorem encoders : Obligations.Encoders := by
  unfold Obligations.Encoders
  refine ⟨?_, ?_, ?_, ?_, ?_, ?_, ?_⟩
  · intro s u r c a x f off bs free cs h hx on planned idle awake open_ new cores has read place hfree hcs
    subst hx hfree
    have begun := begun_takeAction h
    obtain ⟨hbm, rfl⟩ : ∃ b, r = { u with hbm := b } := ⟨_, (readMem_inv read).2.2.trans (touch_hbm ..)⟩
    rw [exec_encodeStart_begins h on planned idle,
      encBegin_read (begun.mgt ▸ awake) (begun.mgt ▸ open_) (by rw [begun.encSource, begun.encCtx]; exact new)
        (begun.encCores ▸ cores) (by rw [begun.encCtx]; exact read), begun.encCtx, place]
    obtain ⟨_, _, rfl⟩ := begun
    exact congrArg Host.Outcome.next (encAssign_begun c.isLt on has cores hcs)
  · intro s u r c a x bs code h hx on planned idle awake open_ free ring few read why
    subst hx
    have begun := begun_takeAction h
    have here : c.val < u.enc.ctxs.length := encCtx_here (begun.encCtx ▸ on)
    obtain ⟨hcode, hbm, at_, pts, skips⟩ := encBegin_skips (tick := s.up) begun awake open_ read why
    rw [exec_encodeStart_begins h on planned idle, skips]
    obtain ⟨_, _, rfl⟩ := begun
    obtain ⟨t, ht, told, left⟩ := encSkip_counted (s := { s with ktl := _, hbm := hbm }) (c := c.val) free ring here
      (by omega) hcode few at_ pts
    exact ⟨t, congrArg Host.Outcome.next ht, told, by rw [left]; rfl⟩
  · intro s u c a h on planned busy
    have begun := begun_takeAction h
    rw [exec_encodeStart_planned h on planned, encStart, if_pos (begun.encCtx ▸ busy), begun.up]
    obtain ⟨_, _, rfl⟩ := begun
    rfl
  · intro s u c a h off
    rw [exec_encodeStart h, if_pos (by simpa using off)]
  · intro s v c x p res w hx pic cores held dis free ring others reads hres hw
    subst hx
    by_cases ok : w.1 = .ok
    swap
    · exact ⟨_, rfl, fun h => absurd h ok⟩
    obtain ⟨resp, u⟩ := w
    subst ok
    have left : Accessed s u := (accessed_of_readsFail reads).trans (accessed_of_writeAll hw.symm)
    have free' : rbit u.hif.acctLo 0 = false := left.acct ▸ free
    have ring' : rbit (u.sptRing (u.encCtx c.val).desc.statusRing).cfg 31 = true := by
      rw [left.encCtx, State.sptRing, left.spt]
      exact ring
    obtain ⟨t, ht, told, rest⟩ := encClose_reported free' ring' (code := encDoneCode p res) (bytes := res.au.length)
      (left.encCtx ▸ pic) (left.encCtx ▸ dis) (left.encCtx ▸ held) (left.encCtx ▸ others) res.qp (f := encFinished p res)
      fun x => ⟨rfl, rfl, rfl⟩
    refine ⟨t, (exec_encPictureDone_written pic cores reads hres hw.symm).trans (congrArg Host.Outcome.next ht),
      fun _ => ⟨?_, ?_⟩⟩
    · have code : encDoneCode p res < 256 := by
        unfold encDoneCode
        split_ifs <;> omega
      have report := reported_encReport free' ring' (c := c.val) (code := encDoneCode p res) (bytes := res.au.length)
        (p := p) (fs := [(0x14, 1, c.val), (0x15, 1, encDoneCode p res)]) (by omega) code (by simp [encTold]) false res.qp
      rw [left.encCtx] at report
      exact (congrFun (congrFun told _) _).trans report
    · rw [rest, left.encCtx]
      rfl
  · intro s k hs maps healthy spares idle
    have logged : Logged s (encFailed k s) := logged_raise ..
    have encMap : (encFailed k s).mgt.encMap = s.mgt.encMap := (accessed_raise ..).encMap
    refine ⟨_, exec_encCoreFault_idle healthy spares idle, errBit_encFailed hs, ?_, ?_, ?_, ?_, ?_⟩
    · have fenced := getD_updAt (l := (encFailed k s).mgt.encMap) (i := k.val) (by rw [encMap]; omega)
        (fun e => { e with state := UnitState.fenced }) {}
      exact congrArg MapEntry.state fenced
    · exact congrArg List.tail encSpares_encFailed
    · rw [← logged.takeover]
      exact List.length_append
    · rw [← logged.flash]
      exact List.length_append
    · exact sansLog_encTakeover logged.parts
  · intro s k c p x hs maps healthy busy hc hx pic held dis free ring number noBuf others
    subst hx
    obtain ⟨t, run, bit, mem, told, qp, changed⟩ :=
      exec_encCoreFault_busy healthy hs busy (by omega) pic dis held free ring others
    refine ⟨t, run, bit, ?_, ?_, ?_, ?_, mem⟩
    · rw [encTold, Nat.mod_eq_of_lt number] at told
      exact told
    · have mine : t.encCtx c = { s.encCtx c with
          past := (s.encCtx c).past ++ [some (0, qp)], restart := true, pic := none } := by
        rw [State.encCtx, changed]
        exact getD_updAt (encCtx_pic_here pic) ..
      rw [mine]
    · rw [changed]
    · intro i hi other
      rw [State.encCtx, changed]
      exact getD_updAt_ne other ..

/-! ## Cores that stop (R307 to R309) -/

/-- Blocks below the limit do not reach it; the one behind them does. -/
theorem blockAtBins_append {lim m : Nat} {pre suf : List Block} {b : Block} (below : m + (pre.map (·.bins)).sum < lim)
    (reached : lim ≤ m + (pre.map (·.bins)).sum + b.bins) : blockAtBins lim m (pre ++ b :: suf) = some b := by
  induction pre generalizing m with
  | nil => exact if_pos (by simpa using reached)
  | cons a pre ih =>
    rw [List.map_cons, List.sum_cons] at below reached
    rw [List.cons_append, blockAtBins, if_neg (by omega)]
    exact ih (by omega) (by omega)

/-- The blocks from the first one with an address on. -/
theorem blocksFrom_append {pre suf : List Block} {b : Block} (others : ∀ d ∈ pre, blockAddr (posOf d) ≠ blockAddr (posOf b)) :
    blocksFrom (blockAddr (posOf b)) (pre ++ b :: suf) = (b :: suf).map posOf := by
  have skipped : ∀ d ∈ pre, (blockAddr (posOf d) != blockAddr (posOf b)) = true := fun d hd => bne_iff_ne.2 (others d hd)
  rw [blocksFrom, List.dropWhile_append_of_pos skipped, List.dropWhile_cons_of_neg (by simp)]

/-- A core that stops at a block conceals the rest of its blocks. -/
def decStopped (code core k bins : Nat) (b : Block) (suf : List Block) (p : DecPic) : DecPic :=
  { p with
    errs := p.errs ++ [{ code := code, addr := blockAddr (posOf b), core := some core, blocks := (b :: suf).map posOf }]
    stopped := p.stopped ++ [(k, bins)] }

section
variable {p : DecPic} {k : Nat} {pre suf : List Block} {b : Block} (blocks : coreBlocks p k = pre ++ b :: suf)
  (others : ∀ d ∈ pre, blockAddr (posOf d) ≠ blockAddr (posOf b))
include blocks others

theorem cutCore_at (code core bins : Nat) :
    cutCore code core k bins (blockAddr (posOf b)) p = decStopped code core k bins b suf p := by
  rw [cutCore, blocks, blocksFrom_append others]
  rfl

section
variable {s : State} {c : Fin 128} {core : Fin 8} (pic : (s.decCtx c.val).pic = some p)
  (works : workAt p core.val = some k)
include pic works

theorem exec_decBudget_reached {q : SeqInfo} (seq : (s.decCtx c.val).seqInfo = some q)
    (below : (pre.map (·.bins)).sum < binLimit (s.decCtx c.val).desc q p k)
    (reached : binLimit (s.decCtx c.val).desc q p k ≤ (pre.map (·.bins)).sum + b.bins) :
    exec (.decBudget c core) s = .next (s.onDecCtx c.val fun x =>
      { x with pic := some (decStopped 10 core.val k (binLimit (s.decCtx c.val).desc q p k) b suf p) }) := by
  have here : budgetBlock (s.decCtx c.val).desc q p k = some b := by
    rw [budgetBlock, blocks, blockAtBins_append (by omega) (by omega)]
  refine congrArg Host.Outcome.next ?_
  simp only [pic, seq, works, here, ← cutCore_at blocks others]
  rfl

theorem exec_decWatchdog_late {last : Nat} (taken : p.tookAt ≤ last) (due : last + wdogOf (s.decCtx c.val).desc = s.up)
    (idle : s.dec.kat.getD core.val none = none) : exec (.decWatchdog c core pre.length last) s = .next
      (raise .dec 8 none (srcUnit ((s.onDecCtx c.val fun x =>
        { x with pic := some (decStopped 11 core.val k (pre.map (·.bins)).sum b suf p) }).onDec fun d =>
          { d with kat := updAt d.kat core.val fun _ => some (s.up + 2200000) }) (decSrc core.val))
        ((s.onDecCtx c.val fun x =>
          { x with pic := some (decStopped 11 core.val k (pre.map (·.bins)).sum b suf p) }).onDec fun d =>
            { d with kat := updAt d.kat core.val fun _ => some (s.up + 2200000) })) := by
  have next : (coreBlocks p k)[pre.length]? = some b := by rw [blocks, List.getElem?_append_right (by omega)]; simp
  have done : (coreBlocks p k).take pre.length = pre := by rw [blocks, List.take_left' rfl]
  have late : p.tookAt ≤ last ∧ last + wdogOf (s.decCtx c.val).desc = s.up ∧
      (s.dec.kat.getD core.val none).isNone = true := ⟨taken, due, by rw [idle]; rfl⟩
  refine congrArg Host.Outcome.next ?_
  simp only [pic, works, next, done, ← cutCore_at blocks others]
  exact if_pos late

end
end

/-! ## Decode reports (R317) -/

/-- The first code in decode order, of an entry without a picture its code. -/
def decFirst (p : DecPic) (d : DecEnd) : Nat := if p.code ≠ 0 then p.code else (d.errs.head?.map (·.code)).getD 0

/-- The address of the first error. -/
def decAt (p : DecPic) (d : DecEnd) : Nat := if p.code ≠ 0 then noBlock else (d.errs.head?.map (·.addr)).getD noBlock

/-- A bit for each code that a picture met. -/
def decMask (p : DecPic) (d : DecEnd) : Nat :=
  (((List.range 16).filter fun k => k != 0 && (k == p.code || d.errs.any fun e => e.code == k)).map (2 ^ ·)).sum

def decWord (c : Nat) (p : DecPic) (d : DecEnd) : Nat := c + decFirst p d * 256 + decMask p d * 65536

section
variable {c : Nat} {p : DecPic} {d : DecEnd} {concealed : Nat} {con cor : Bool} {cores : Nat}

/-- The fields of a decode report. -/
def decFields (c : Nat) (x : DecCtx) (p : DecPic) (d : DecEnd) (concealed : Nat) (con cor : Bool) (cores : Nat) (s : State) :
    List (Nat × Nat) :=
  [(4, p.picCount), (4, 1 * 16 + 5 * 256 + 0 * 65536), (4, x.desc.streamId % 65536 + (if con then 2 ^ 24 else 0)), (4, s.now),
    (4, p.picCount), (1, decWord c p d), (1, decWord c p d / 256), (2, decWord c p d / 256 / 256), (8, p.pts),
    (4, decAt p d), (4, if p.buf.isSome then lastBlock p d else noBlock), (4, concealed),
    (4, p.buf.getD 31 + 32 * b2n con + 64 * b2n cor + cores * 256 + x.desc.streamId * 65536),
    (4, min 0xffffffff (if p.buf.isSome then binsOf p else 0)), (4, min 0xffffffff (s.up - p.startAt))]

/-- The record of a decode report (R317, R395). -/
def decRecord (c : Nat) (x : DecCtx) (p : DecPic) (d : DecEnd) (concealed : Nat) (con cor : Bool) (cores : Nat) (s : State) :
    List Byte :=
  recHead p.picCount 5 0 x.desc.streamId 0 con false false s.now ++ decReport c x p d concealed con cor cores s.up

theorem decRecord_eq (x : DecCtx) (s : State) : decRecord c x p d concealed con cor cores s =
    layout (decFields c x p d concealed con cor cores s) ++ List.replicate 8 0 := by
  have word : decReport c x p d concealed con cor cores s.up = leBytes 4 p.picCount ++ leBytes 4 (decWord c p d) ++
      leBytes 8 p.pts ++ leBytes 4 (decAt p d) ++ leBytes 4 (if p.buf.isSome then lastBlock p d else noBlock) ++
      leBytes 4 concealed ++
      leBytes 4 (p.buf.getD 31 + 32 * b2n con + 64 * b2n cor + cores * 256 + x.desc.streamId * 65536) ++
      leBytes 4 (min 0xffffffff (if p.buf.isSome then binsOf p else 0)) ++
      leBytes 4 (min 0xffffffff (s.up - p.startAt)) ++ List.replicate 8 0 := rfl
  rw [decRecord, word, leBytes_four_split (decWord c p d)]
  simp only [recHead, decFields, layout, List.flatMap_cons, List.flatMap_nil, List.append_assoc, List.nil_append,
    Nat.zero_mod, Nat.zero_mul, Nat.add_zero, Bool.false_eq_true, if_false]

/-- What a reader of a decode report takes: the picture, the context, the first code, the codes, the first error's
address, the concealed samples, and the time since the start. -/
def decTold (c : Nat) (p : DecPic) (d : DecEnd) (concealed up : Nat) : List (Nat × Nat × Nat) :=
  [(0x10, 4, p.picCount % 2 ^ 32), (0x14, 1, c), (0x15, 1, decFirst p d), (0x16, 2, decMask p d % 65536),
    (0x20, 4, decAt p d % 2 ^ 32), (0x28, 4, concealed % 2 ^ 32), (0x34, 4, min 0xffffffff (up - p.startAt))]

theorem decRecord_told (hc : c < 256) (code : decFirst p d < 256) (x : DecCtx) (s : State) :
    ∀ f ∈ decTold c p d concealed s.up,
      leNat (((decRecord c x p d concealed con cor cores s).drop f.1).take f.2.1) = f.2.2 := by
  have field {i o n v : Nat} := field_layout (l := decFields c x p d concealed con cor cores s)
    (tail := List.replicate 8 0) (i := i) (o := o) (n := n) (v := v)
  have low : decWord c p d % 256 ^ 1 = c := by unfold decWord; omega
  have mid : decWord c p d / 256 % 256 ^ 1 = decFirst p d := by unfold decWord; omega
  have high : decWord c p d / 256 / 256 % 256 ^ 2 = decMask p d % 65536 := by unfold decWord; omega
  have time : min 0xffffffff (s.up - p.startAt) % 256 ^ 4 = min 0xffffffff (s.up - p.startAt) := by omega
  intro f hf
  rw [decRecord_eq]
  simp only [decTold, List.mem_cons, List.not_mem_nil, or_false] at hf
  rcases hf with rfl | rfl | rfl | rfl | rfl | rfl | rfl
  · exact (field (i := 4) (o := 0x10) rfl (by simp [decFields])).trans (by norm_num)
  · exact (field (i := 5) (o := 0x14) rfl (by simp [decFields])).trans low
  · exact (field (i := 6) (o := 0x15) rfl (by simp [decFields])).trans mid
  · exact (field (i := 7) (o := 0x16) rfl (by simp [decFields])).trans high
  · exact (field (i := 9) (o := 0x20) rfl (by simp [decFields])).trans (by norm_num)
  · exact (field (i := 11) (o := 0x28) rfl (by simp [decFields])).trans (by norm_num)
  · exact (field (i := 14) (o := 0x34) rfl (by simp [decFields])).trans time

end

theorem decMask_single {p : DecPic} {d : DecEnd} (clean : d.errs = []) (some_ : p.code ≠ 0) (le : p.code ≤ 14) :
    decMask p d = 2 ^ p.code := by
  rw [decMask, clean]
  generalize p.code = k at some_ le ⊢
  interval_cases k
  · exact absurd rfl some_
  all_goals decide

section
variable {s : State} {c : Nat} (free : rbit s.hif.acctLo 0 = false)
include free

/-- Without accounting, an entry's report point only sends the report, when there is one (R317). -/
theorem sendReport_eq (p : DecPic) (d : DecEnd) (concealed : Nat) (con cor : Bool) :
    sendReport c p d concealed con cor s =
      if (s.decCtx c).desc.reportAll || p.code != 0 || d.errs != [] then
        handOff whoDec (s.decCtx c).desc.statusRing false (decRecord c (s.decCtx c) p d concealed con cor
          (if p.buf.isNone then s.takeFree.1.toNat % 8 else p.cores.length - 1) s) s.takeFree.2
      else s := by
  have charge (src : Src) (off v : Nat) : account src off v s = s := if_neg (by simp [free])
  unfold sendReport
  simp only [charge]
  rfl

theorem ktl_sendReport (p : DecPic) (d : DecEnd) (concealed : Nat) (con cor : Bool) :
    (sendReport c p d concealed con cor s).ktl = s.ktl := by
  rw [sendReport_eq free]
  split
  · exact ktl_handOff ..
  · rfl

theorem sendReport_quiet {p : DecPic} {d : DecEnd} (all : (s.decCtx c).desc.reportAll = false) (code : p.code = 0)
    (clean : d.errs = []) (concealed : Nat) (con cor : Bool) : sendReport c p d concealed con cor s = s := by
  rw [sendReport_eq free, if_neg (by simp [all, code, clean])]

section
variable {p : DecPic} {d : DecEnd} (on : rbit (s.sptRing (s.decCtx c).desc.statusRing).cfg 31 = true)
  (told : p.code ≠ 0 ∨ d.errs ≠ [])
include on told

theorem sendReport_on (concealed : Nat) (con cor : Bool) : sendReport c p d concealed con cor s =
    { s with free := s.free + 1, spt := (sendReport c p d concealed con cor s).spt } := by
  have sent : ((s.decCtx c).desc.reportAll || p.code != 0 || d.errs != []) = true := by
    rcases told with h | h <;> simp [h]
  rw [sendReport_eq free, if_pos sent]
  exact handOff_on (s := s.takeFree.2) on ..

theorem reported_sendReport {concealed : Nat} {fs : List (Nat × Nat × Nat)} (hc : c < 256) (code : decFirst p d < 256)
    (fields : fs ⊆ decTold c p d concealed s.up) (con cor : Bool) :
    reported (sendReport c p d concealed con cor s) (s.decCtx c).desc.statusRing fs = true := by
  have sent : ((s.decCtx c).desc.reportAll || p.code != 0 || d.errs != []) = true := by
    rcases told with h | h <;> simp [h]
  rw [sendReport_eq free, if_pos sent]
  exact reported_handOff (s := s.takeFree.2) on
    (fun f hf => decRecord_told hc code (s.decCtx c) s f (fields hf)) _

end
end

/-! ## The end of a decoded picture (R298 to R300, R311 to R317) -/

theorem accessed_foldl_pair {α β : Type} {f : β × State → α → β × State} (h : ∀ q a, Accessed q.2 (f q a).2) (l : List α)
    (q : β × State) : Accessed q.2 (l.foldl f q).2 := by
  induction l generalizing q with
  | nil => exact .refl q.2
  | cons a l ih => exact (h q a).trans (ih _)

theorem accessed_refErrors (x : DecCtx) (q : SeqInfo) (src : Src) (rs : List RefRead) (s : State) :
    Accessed s (refErrors x q src rs s).2 := by
  refine accessed_foldl_pair ?_ rs ([], s)
  exact fun t _ => accessed_readsFail src t.2 _

theorem accessed_surErrors (x : DecCtx) (q : SeqInfo) (src : Src) (bs : List (Nat × Nat)) (s : State) :
    Accessed s (surErrors x q src bs s).2 := by
  unfold surErrors
  split
  · exact .refl s
  · refine accessed_foldl_pair ?_ bs ([], s)
    exact fun t _ => accessed_readsFail src t.2 _

theorem accessed_of_pictureEnd {x : DecCtx} {q : SeqInfo} {p : DecPic} {s t : State} {d : DecEnd}
    (h : pictureEnd x q p s = (d, t)) : Accessed s t := by
  have left : Accessed s (pictureEnd x q p s).2 := (accessed_refErrors ..).trans (accessed_surErrors ..)
  rwa [h] at left

/-- The judgement of a decoded picture changes TAINTED and its recovery points only (R311, R312). -/
theorem taintAfter_parts (q : SeqInfo) (au : AuInfo) (concealed : Nat) (x : DecCtx) :
    ∃ t r, taintAfter q au concealed x = { x with tainted := t, recover := r } := by
  unfold taintAfter
  split
  · exact ⟨_, _, rfl⟩
  split
  · exact ⟨x.tainted, x.recover, rfl⟩
  split
  · exact ⟨_, _, rfl⟩
  · exact ⟨_, _, rfl⟩
  · exact ⟨_, _, rfl⟩
  · dsimp only
    generalize x.recover ++ _ = l
    split
    · exact ⟨_, _, rfl⟩
    · exact ⟨x.tainted, _, rfl⟩

theorem taintAfter_clean {q : SeqInfo} {au : AuInfo} {x : DecCtx} (clear : x.tainted = false) : taintAfter q au 0 x = x := by
  rw [taintAfter, if_neg (by simp), if_pos (by simp [clear])]

/-- A picture that is output when it is decoded: none waits before it, and none behind it. -/
theorem outputsOf_now {x : DecCtx} {p : DecPic} {o : OutPic} {n : Nat} (first : x.dpbOut = []) (outs : p.au.outs = [n])
    (waits : p.au.waits = []) (name : o.name = some n) : outputsOf x p o = ([o], []) := by
  unfold outputsOf
  simp only [first, outs, waits, List.filter_nil, List.nil_append, List.append_nil, List.any_cons, List.any_nil, name,
    beq_self_eq_true, Bool.or_false, if_true, List.filterMap_cons, List.filterMap_nil, List.find?_cons]
  repeat' split
  all_goals rfl

theorem outputAll_one {s : State} {c : Nat} {o : OutPic}
    (room : (s.decCtx c).outq.length ≤ (s.decCtx c).desc.outqM1) :
    outputAll c [o] s = s.onDecCtx c fun x => { x with outq := x.outq ++ [o] } := by
  have push : outPush (s.decCtx c) o = ({ s.decCtx c with outq := (s.decCtx c).outq ++ [o] }, false) :=
    if_neg (Nat.not_lt.2 room)
  have one : outputAll c [o] s = if (outPush (s.decCtx c) o).2 then
    decCount c 0x10 (s.onDecCtx c fun _ => (outPush (s.decCtx c) o).1) else
      s.onDecCtx c fun _ => (outPush (s.decCtx c) o).1 := rfl
  rw [one, push]
  exact onDecCtx_congr rfl

theorem decBoundary_quiet {s : State} {c : Nat} (dis : (s.decCtx c).wantDis = false) (disc : (s.decCtx c).wantDisc = false)
    (held : (s.decCtx c).heldStart = none) : decBoundary c s = s := by
  unfold decBoundary
  simp only [held]
  exact onDecCtx_self (by simp [dis, disc])

theorem decCtx_pic_here {s : State} {c : Nat} {p : DecPic} (hp : (s.decCtx c).pic = some p) : c < s.dec.ctxs.length :=
  lt_of_getD_ne (d := {}) fun k => by
    rw [State.decCtx, k] at hp
    cases hp

/-- A picture of which too much is concealed is corrupt (R317). -/
def decCorrupt (x : DecCtx) (q : SeqInfo) (d : DecEnd) : Bool :=
  concealedOf q d * 100 > (if x.desc.concealPct = 0 then 25 else x.desc.concealPct) * (q.width * q.height)

/-- A decoded picture as it is output. -/
def decShown (q : SeqInfo) (p : DecPic) (b n : Nat) (con cor : Bool) : OutPic :=
  { buf := b, picCount := p.picCount, pts := p.pts, width := q.width, height := q.height, crop := p.au.crop
    bitDepth := q.bitDepth, concealed := con, corrupt := cor, name := some n }

/-- What a context keeps of a decoded picture: its judgement, the surrogate, the references and the concealed blocks. -/
def decJudged (q : SeqInfo) (p : DecPic) (b : Nat) (d : DecEnd) (x : DecCtx) : DecCtx :=
  { taintAfter q p.au (concealedOf q d) x with
    surrogate := some { buf := b, w := q.width, h := q.height, depth := q.bitDepth }
    refs := (x.refs ++ [(x.units.length - 1, b)]).filter fun r => p.au.keeps.contains r.1
    units := updAt x.units (x.units.length - 1) fun u => (u.1, d.copied) }

/-- What a decoded picture writes: its samples and its motion data. -/
def decWrites (x : DecCtx) (q : SeqInfo) (p : DecPic) (b : Nat) (d : DecEnd) (v : State) : List (Nat × List Byte) :=
  pictureRows (x.fbs.getD b {}) q.width q.height (picSample v x q p.au d 0) (fun k => picSample v x q p.au d (k + 1)) ++
    [((x.fbs.getD b {}).mvBase, (picMotion x q (x.fbs.getD b {}) d).take ((x.fbs.getD b {}).mvLines * 64))]

section
variable {s v u : State} {c b : Nat} {p : DecPic} {q : SeqInfo} {d : DecEnd} {x : DecCtx} (hx : x = s.decCtx c)
  (ends : pictureEnd x q p s = (d, v)) (writes : writeAll (decSrc (p.cores.headD 0)) (decWrites x q p b d v) v = (.ok, u))
include ends writes

theorem accessed_endPicture : Accessed s u := (accessed_of_pictureEnd ends).trans (accessed_of_writeAll writes)

include hx

/-- A picture that nothing waits for, and that waits for nothing, is output at its end. -/
theorem endPicture_now (here : c < s.dec.ctxs.length) (outs : p.au.outs = [x.units.length - 1]) (waits : p.au.waits = [])
    (first : x.dpbOut = []) (room : x.outq.length ≤ x.desc.outqM1) {k : Nat} {z : Spt}
    (sent : sendReport c p d (concealedOf q d) (decJudged q p b d x).tainted (decCorrupt x q d)
      (u.onDecCtx c (decJudged q p b d)) = { u.onDecCtx c (decJudged q p b d) with free := k, spt := z }) :
    endPicture c b p q s = ({ u with free := k, spt := z } : State).onDecCtx c fun y =>
      { decJudged q p b d y with
        outq := y.outq ++ [decShown q p b (x.units.length - 1) (decJudged q p b d x).tainted (decCorrupt x q d)] } := by
  have left := accessed_endPicture ends writes
  have ctx : u.decCtx c = x := by rw [hx, left.decCtx]
  have here' : c < u.dec.ctxs.length := left.dec ▸ here
  have judged : u.onDecCtx c (fun y => { taintAfter q p.au (concealedOf q d) y with
      surrogate := some { buf := b, w := q.width, h := q.height, depth := q.bitDepth }
      refs := (y.refs ++ [(x.units.length - 1, b)]).filter fun r => p.au.keeps.contains r.1
      units := updAt y.units (x.units.length - 1) fun u => (u.1, d.copied) }) = u.onDecCtx c (decJudged q p b d) :=
    onDecCtx_congr (by rw [ctx, decJudged])
  have mine : (u.onDecCtx c (decJudged q p b d)).decCtx c = decJudged q p b d x := by rw [decCtx_onDecCtx here', ctx]
  obtain ⟨t, r, same⟩ := taintAfter_parts q p.au (concealedOf q d) x
  have keeps : (decJudged q p b d x).dpbOut = x.dpbOut ∧ (decJudged q p b d x).outq = x.outq ∧
      (decJudged q p b d x).desc = x.desc := by
    rw [decJudged, same]
    exact ⟨rfl, rfl, rfl⟩
  obtain ⟨dpb, outq, desc⟩ := keeps
  subst hx
  rw [decCorrupt] at sent ⊢
  rw [decWrites] at writes
  generalize hr : ({ u.onDecCtx c (decJudged q p b d) with free := k, spt := z } : State) = r at sent
  have after : r.decCtx c = decJudged q p b d (s.decCtx c) := hr ▸ mine
  have now (o : OutPic) (name : o.name = some ((s.decCtx c).units.length - 1)) :
      outputsOf (decJudged q p b d (s.decCtx c)) p o = ([o], []) := outputsOf_now (dpb.trans first) outs waits name
  have here'' : c < r.dec.ctxs.length := by
    rw [← hr]
    exact (length_updAt ..).symm ▸ here'
  have room' (o : OutPic) := outputAll_one (c := c) (o := o) (s := r.onDecCtx c fun x => { x with dpbOut := [] }) (by
    rw [decCtx_onDecCtx here'', after, desc, outq]
    exact room)
  unfold endPicture
  simp only [ends, writes, if_true, judged, mine, sent, after]
  rw [now _ rfl]
  dsimp only
  rw [room', ← hr]
  have over_ : ({ u.onDecCtx c (decJudged q p b d) with free := k, spt := z } : State) =
      ({ u with free := k, spt := z } : State).onDecCtx c (decJudged q p b d) := rfl
  rw [over_, onDecCtx_onDecCtx, onDecCtx_onDecCtx]
  refine onDecCtx_congr ?_
  have ctx' : ({ u with free := k, spt := z } : State).decCtx c = s.decCtx c := ctx
  rw [ctx']
  have last := congrArg (fun l => { decJudged q p b d (s.decCtx c) with
    dpbOut := l
    outq := (s.decCtx c).outq ++ [decShown q p b ((s.decCtx c).units.length - 1) (decJudged q p b d (s.decCtx c)).tainted
      (decCorrupt (s.decCtx c) q d)] }) (dpb.trans first).symm
  rw [← outq] at last ⊢
  exact last

end

/-- The ends of an entry whose context has nothing pending. -/
theorem exec_decPictureDone_quiet {s e : State} {c : Fin 128} {p : DecPic} (pic : (s.decCtx c.val).pic = some p)
    (ready : decReady s (s.decCtx c.val) p = true) (dis : (s.decCtx c.val).wantDis = false)
    (disc : (s.decCtx c.val).wantDisc = false)
    (he : e = match p.buf, (s.decCtx c.val).seqInfo with
      | some b, some q => endPicture c.val b p q s
      | _, _ => endEmpty c.val p s)
    (here : c.val < e.dec.ctxs.length) (dis' : (e.decCtx c.val).wantDis = false) (disc' : (e.decCtx c.val).wantDisc = false)
    (held : (e.decCtx c.val).heldStart = none) : exec (.decPictureDone c) s = .next
      ((e.onDec fun d => { d with busy := freeCores c.val d.busy }).onDecCtx c.val fun x => { x with pic := none }) := by
  have mine : ((e.onDec fun d => { d with busy := freeCores c.val d.busy }).onDecCtx c.val fun x =>
      { x with pic := none }).decCtx c.val = { e.decCtx c.val with pic := none } :=
    decCtx_onDecCtx (s := e.onDec fun d => { d with busy := freeCores c.val d.busy }) here
  have quiet := decBoundary_quiet (c := c.val) (s := (e.onDec fun d => { d with busy := freeCores c.val d.busy }).onDecCtx
    c.val fun x => { x with pic := none }) (by rw [mine]; exact dis') (by rw [mine]; exact disc') (by rw [mine]; exact held)
  subst he
  refine congrArg Host.Outcome.next ?_
  simp only [pic, ready, dis, disc, if_true, Bool.or_self, Bool.false_eq_true, if_false]
  exact quiet

/-- The end of an entry without a picture sends its report (R317). -/
theorem endEmpty_eq {c : Nat} {p : DecPic} {s : State} (eos : p.eos = false) : endEmpty c p s =
    sendReport c p { errs := [], copied := [], lost := [], predicted := [] } 0 (s.decCtx c).tainted false s := by
  unfold endEmpty
  rw [eos]
  rfl

theorem decCtx_judged {s v u : State} {c b : Nat} {p : DecPic} {q : SeqInfo} {x : DecCtx} {d : DecEnd} (hx : x = s.decCtx c)
    (pic : x.pic = some p) (ends : pictureEnd x q p s = (d, v))
    (writes : writeAll (decSrc (p.cores.headD 0)) (decWrites x q p b d v) v = (.ok, u)) :
    (u.onDecCtx c (decJudged q p b d)).decCtx c = decJudged q p b d x := by
  have left := accessed_endPicture ends writes
  rw [decCtx_onDecCtx (left.dec ▸ decCtx_pic_here (hx ▸ pic)), left.decCtx, ← hx]

section
variable {s v u : State} {c : Fin 128} {p : DecPic} {b : Nat} {q : SeqInfo} {x : DecCtx} {d : DecEnd}
  (hx : x = s.decCtx c.val) (pic : x.pic = some p) (buf : p.buf = some b) (seq : x.seqInfo = some q)
  (ready : decReady s x p = true) (dis : x.wantDis = false) (disc : x.wantDisc = false) (held : x.heldStart = none)
  (first : x.dpbOut = []) (room : x.outq.length ≤ x.desc.outqM1) (outs : p.au.outs = [x.units.length - 1])
  (waits : p.au.waits = []) (ends : pictureEnd x q p s = (d, v))
  (writes : writeAll (decSrc (p.cores.headD 0)) (decWrites x q p b d v) v = (.ok, u))
include hx pic buf seq ready dis disc held first room outs waits ends writes

/-- A decoded picture ends: its report point, its output, and its cores given back. -/
theorem exec_decPictureDone_decoded {k : Nat} {z : Spt}
    (sent : sendReport c.val p d (concealedOf q d) (decJudged q p b d x).tainted (decCorrupt x q d)
      (u.onDecCtx c.val (decJudged q p b d)) = { u.onDecCtx c.val (decJudged q p b d) with free := k, spt := z }) :
    exec (.decPictureDone c) s = .next { u with
      free := k, spt := z
      dec := { u.dec with
        busy := freeCores c.val u.dec.busy
        ctxs := updAt u.dec.ctxs c.val fun y => { decJudged q p b d y with
          pic := none
          outq := y.outq ++
            [decShown q p b (x.units.length - 1) (decJudged q p b d x).tainted (decCorrupt x q d)] } } } := by
  have left := accessed_endPicture ends writes
  have here : c.val < s.dec.ctxs.length := decCtx_pic_here (hx ▸ pic)
  have now := endPicture_now hx ends writes here outs waits first room sent
  have here' : c.val < u.dec.ctxs.length := left.dec ▸ here
  have ctx : u.decCtx c.val = x := by rw [hx, left.decCtx]
  have mine := decCtx_onDecCtx (s := { u with free := k, spt := z }) (c := c.val) (f := fun y =>
    { decJudged q p b d y with
      outq := y.outq ++ [decShown q p b (x.units.length - 1) (decJudged q p b d x).tainted (decCorrupt x q d)] }) here'
  have ctx' : ({ u with free := k, spt := z } : State).decCtx c.val = x := ctx
  obtain ⟨t, r, same⟩ := taintAfter_parts q p.au (concealedOf q d) x
  have keeps : (decJudged q p b d x).wantDis = x.wantDis ∧ (decJudged q p b d x).wantDisc = x.wantDisc ∧
      (decJudged q p b d x).heldStart = x.heldStart := by
    rw [decJudged, same]
    exact ⟨rfl, rfl, rfl⟩
  obtain ⟨keepsDis, keepsDisc, keepsHeld⟩ := keeps
  rw [ctx'] at mine
  rw [exec_decPictureDone_quiet (hx ▸ pic) (hx ▸ ready) (hx ▸ dis) (hx ▸ disc) (e := endPicture c.val b p q s)
    (by rw [← hx, buf, seq])]
  · rw [now]
    simp only [State.onDecCtx, State.onDec, updAt_updAt]
    rfl
  · rw [now]
    exact (length_updAt ..).symm ▸ here'
  · rw [now, mine]
    exact keepsDis.trans dis
  · rw [now, mine]
    exact keepsDisc.trans disc
  · rw [now, mine]
    exact keepsHeld.trans held

/-- A decoded picture that met nothing goes to the output queue without a report (R298, R300, R313). -/
theorem exec_decPictureDone_clean (code : p.code = 0) (all : x.desc.reportAll = false) (clear : x.tainted = false)
    (free : rbit s.hif.acctLo 0 = false) (hd : d = { errs := [], copied := [], lost := [], predicted := [] }) :
    exec (.decPictureDone c) s = .next { u with dec := { u.dec with
      busy := freeCores c.val u.dec.busy
      ctxs := updAt u.dec.ctxs c.val fun y => { decJudged q p b d y with
        pic := none
        outq := y.outq ++ [decShown q p b (x.units.length - 1) false false] } } } := by
  have left := accessed_endPicture ends writes
  have clean : d.errs = [] := by rw [hd]
  have none_ : concealedOf q d = 0 := by rw [hd]; rfl
  have mine := decCtx_judged hx pic ends writes
  have judged : taintAfter q p.au (concealedOf q d) x = x := by rw [none_, taintAfter_clean clear]
  have sent := sendReport_quiet (s := u.onDecCtx c.val (decJudged q p b d)) (c := c.val) (p := p) (d := d)
    (left.acct ▸ free) (by rw [mine, decJudged, judged]; exact all) code clean (concealedOf q d)
    (decJudged q p b d x).tainted (decCorrupt x q d)
  have whole : decCorrupt x q d = false := by simp [decCorrupt, none_]
  have untainted : (decJudged q p b d x).tainted = false := by rw [decJudged, judged]; exact clear
  rw [exec_decPictureDone_decoded hx pic buf seq ready dis disc held first room outs waits ends writes sent, whole, untainted]

/-- A decoded picture that met errors is reported with the first in decode order (R316, R317). -/
theorem exec_decPictureDone_told {e : DecCut} {l : List DecCut} (code : p.code = 0) (free : rbit s.hif.acctLo 0 = false)
    (ring : rbit (s.sptRing x.desc.statusRing).cfg 31 = true) (errs : d.errs = e :: l) (ecode : e.code ≤ 14)
    (eaddr : e.addr < 2 ^ 32) (concealed : concealedOf q d < 2 ^ 32) (number : p.picCount < 2 ^ 32)
    (since : s.up < p.startAt + 2 ^ 32) :
    ∃ t, exec (.decPictureDone c) s = .next t ∧ t.mem = u.mem ∧ (t.decCtx c.val).pic = none ∧
      t.dec.busy = freeCores c.val u.dec.busy ∧
      reported t x.desc.statusRing [(0x10, 4, p.picCount), (0x14, 1, c.val), (0x15, 1, e.code),
        (0x20, 4, e.addr), (0x28, 4, concealedOf q d), (0x34, 4, s.up - p.startAt)] = true := by
  have left := accessed_endPicture ends writes
  have here : c.val < u.dec.ctxs.length := left.dec ▸ decCtx_pic_here (hx ▸ pic)
  have desc : ((u.onDecCtx c.val (decJudged q p b d)).decCtx c.val).desc = x.desc := by
    obtain ⟨t, r, same⟩ := taintAfter_parts q p.au (concealedOf q d) x
    rw [decCtx_judged hx pic ends writes, decJudged, same]
  have free' : rbit (u.onDecCtx c.val (decJudged q p b d)).hif.acctLo 0 = false := left.acct ▸ free
  have ring' : rbit ((u.onDecCtx c.val (decJudged q p b d)).sptRing
      ((u.onDecCtx c.val (decJudged q p b d)).decCtx c.val).desc.statusRing).cfg 31 = true := by
    rw [desc]
    exact (congrArg (fun z : Spt => rbit (z.rings.getD x.desc.statusRing {}).cfg 31) left.spt).trans ring
  have told : p.code ≠ 0 ∨ d.errs ≠ [] := .inr (by rw [errs]; exact List.cons_ne_nil e l)
  have sent := sendReport_on free' ring' told (concealedOf q d) (decJudged q p b d x).tainted (decCorrupt x q d)
  refine ⟨_, exec_decPictureDone_decoded hx pic buf seq ready dis disc held first room outs waits ends writes sent,
    rfl, ?_, rfl, ?_⟩
  · exact congrArg DecCtx.pic (getD_updAt here ..)
  · have first_ : decFirst p d = e.code := by simp [decFirst, code, errs]
    have at_ : decAt p d = e.addr := by simp [decAt, code, errs]
    have up : (u.onDecCtx c.val (decJudged q p b d)).up = s.up := left.up
    have time : min 0xffffffff (s.up - p.startAt) = s.up - p.startAt := by omega
    have report := reported_sendReport free' ring' told (concealed := concealedOf q d) (c := c.val)
      (fs := [(0x10, 4, p.picCount), (0x14, 1, c.val), (0x15, 1, e.code), (0x20, 4, e.addr), (0x28, 4, concealedOf q d),
        (0x34, 4, s.up - p.startAt)]) (by omega) (by omega) (by
          simp only [decTold, first_, at_, up, time, Nat.mod_eq_of_lt number, Nat.mod_eq_of_lt eaddr,
            Nat.mod_eq_of_lt concealed]
          simp)
      (decJudged q p b d x).tainted (decCorrupt x q d)
    rw [desc] at report
    exact reported_of_parts report rfl (ktl_sendReport free' ..).symm

end

/-- Settles O26: where a core stops, and each end of an entry by what its picture met. -/
theorem decodePicturesEnd : Obligations.DecodePicturesEnd := by
  unfold Obligations.DecodePicturesEnd
  refine ⟨?_, ?_, ?_, ?_, ?_⟩
  · intro s c core k n p q b pre suf pic seq works blocks hn below reached others
    subst hn
    exact exec_decBudget_reached blocks others pic works seq below reached
  · intro s c core k last p b pre suf hs pic works blocks taken due idle others
    have run := exec_decWatchdog_late blocks others pic works taken due idle
    generalize hw : State.onDec _ (State.onDecCtx c.val _ s) = w at run
    have hdrs : w.hdrs = s.hdrs := by
      subst hw
      rfl
    have over_ (t : State) : sansLog s t = sansLog w t := by
      subst hw
      rfl
    refine ⟨_, run, errBit_raise _ _ _ _ _ (by omega) (hdrs ▸ hdrs_of_sized hs), ?_⟩
    rw [over_, raise_log, ← hw]
    rfl
  · intro s v u c p b q x d n hx pic buf seq ready code all dis disc held clear free first room hn outs waits hd ends writes
    subst hn
    rw [exec_decPictureDone_clean hx pic buf seq ready dis disc held first room outs waits ends writes code all clear free hd]
    refine congrArg (fun l => Host.Outcome.next { u with dec := { u.dec with
      busy := freeCores c.val u.dec.busy, ctxs := l } }) (updAt_congr_getD (d := {}) ?_)
    have ctx : u.dec.ctxs.getD c.val {} = x := (congrFun (accessed_endPicture ends writes).decCtx _).trans hx.symm
    have copied : d.copied = [] := by rw [hd]
    have none_ : concealedOf q d = 0 := by rw [hd]; rfl
    simp only [ctx, decJudged, none_, taintAfter_clean clear, copied]
    rfl
  · intro s v u c p b q x d e l hx pic buf seq ready code free dis disc held first room outs waits ring start since number
      ecode eaddr concealed ends errs writes
    exact exec_decPictureDone_told hx pic buf seq ready dis disc held first room outs waits ends writes code free ring errs
      ecode eaddr concealed number since
  · intro s c p x hx pic admitted consumed buf some_ le eos free dis disc held ring number
    subst hx
    have here := decCtx_pic_here pic
    have ready : decReady s (s.decCtx c.val) p = true := by simp [decReady, admitted, consumed, buf]
    have told : p.code ≠ 0 ∨ ({ errs := [], copied := [], lost := [], predicted := [] } : DecEnd).errs ≠ [] := .inl some_
    have sent := sendReport_on free ring told 0 (s.decCtx c.val).tainted false
    have run := exec_decPictureDone_quiet pic ready dis disc (e := endEmpty c.val p s) (by rw [buf])
    rw [endEmpty_eq eos, sent] at run
    refine ⟨_, run here dis disc held, ?_, rfl⟩
    have first_ : decFirst p { errs := [], copied := [], lost := [], predicted := [] } = p.code := if_pos some_
    have at_ : decAt p { errs := [], copied := [], lost := [], predicted := [] } = 0xffffffff := if_pos some_
    have mask := decMask_single (p := p) (d := { errs := [], copied := [], lost := [], predicted := [] }) rfl some_ le
    have small : 2 ^ p.code % 65536 = 2 ^ p.code := Nat.mod_eq_of_lt (Nat.pow_lt_pow_right (by omega) (by omega : p.code < 16))
    have report := reported_sendReport free ring told (concealed := 0) (c := c.val)
      (fs := [(0x10, 4, p.picCount), (0x14, 1, c.val), (0x15, 1, p.code), (0x16, 2, 2 ^ p.code), (0x20, 4, 0xffffffff),
        (0x28, 4, 0)]) (by omega) (by omega) (by
          simp only [decTold, first_, at_, mask, small, Nat.mod_eq_of_lt number]
          simp) (s.decCtx c.val).tainted false
    exact reported_of_parts report rfl (ktl_sendReport free ..).symm

/-! ## What the end of a job leaves (R170, R411, R424, R425) -/

/-- Completion records in the Spout and on their way into it. -/
def cplCount (s : State) : Nat := ((s.spt.arriving ++ s.spt.store).filter (·.cpl)).length

/-- `u` has the scheduler of `s` and the completion records in its Spout, and the jobs of all cores but `n`. -/
structure JobLeaves (n : Nat) (s u : State) : Prop where
  sched : u.sched = s.sched
  wait : u.spt.waitCpl = s.spt.waitCpl
  lines : cplCount u = cplCount s
  jobs : ∀ m, m ≠ n → (u.core m).job = (s.core m).job

section
variable {n : Nat} {s t u : State}

theorem JobLeaves.refl : JobLeaves n s s := ⟨rfl, rfl, rfl, fun _ _ => rfl⟩

theorem JobLeaves.trans (h : JobLeaves n s t) (k : JobLeaves n t u) : JobLeaves n s u :=
  ⟨k.sched.trans h.sched, k.wait.trans h.wait, k.lines.trans h.lines, fun m hm => (k.jobs m hm).trans (h.jobs m hm)⟩

theorem JobLeaves.ite {c : Prop} [Decidable c] (h : JobLeaves n s t) (k : JobLeaves n s u) :
    JobLeaves n s (if c then t else u) := by
  split
  · exact h
  · exact k

theorem JobLeaves.foldl {α : Type} {f : State → α → State} (h : ∀ t a, JobLeaves n t (f t a)) (l : List α) (s : State) :
    JobLeaves n s (l.foldl f s) := by
  induction l generalizing s with
  | nil => exact .refl
  | cons a l ih => exact (h s a).trans (ih _)

theorem Accessed.jobLeaves (h : Accessed s t) : JobLeaves n s t :=
  ⟨h.sched, by rw [h.spt], by rw [cplCount, h.spt]; rfl, fun m _ => h.jobs m⟩

theorem jobLeaves_onCore (f : Core → Core) : JobLeaves n s (s.onCore n f) :=
  ⟨rfl, rfl, rfl, fun _ hm => congrArg Core.job (core_onCore_ne hm)⟩

/-- A change of a core that keeps its job. -/
theorem jobLeaves_onCore_job {m : Nat} {f : Core → Core} (h : ∀ x, (f x).job = x.job) : JobLeaves n s (s.onCore m f) :=
  ⟨rfl, rfl, rfl, fun _ _ => core_onCore_part Core.job h⟩

theorem jobLeaves_dropRec (ring : Nat) : JobLeaves n s (dropRec ring s) := by
  have counted : JobLeaves n s ((s.onSptRing ring fun r =>
      { r with dropped := satInc 65535 r.dropped, dropBeat := some s.beat }).onSpt fun p =>
        { p with dropPend := p.dropPend ||| BitVec.ofNat 64 (2 ^ ring) }) := ⟨rfl, rfl, rfl, fun _ _ => rfl⟩
  unfold dropRec
  dsimp only
  split
  · exact counted.trans (accessed_setInt ..).jobLeaves
  · exact counted

/-- A record that is handed off is one more among those that arrive. -/
theorem countP_arriving (l : List Rec) (r : Rec) (who : Nat) :
    ((l.filter fun q => q.tick != r.tick || decide (q.who ≤ who)) ++ r :: l.filter fun q =>
      q.tick == r.tick && decide (q.who > who)).countP (·.cpl) = l.countP (·.cpl) + if r.cpl then 1 else 0 := by
  have rest : (fun q : Rec => q.tick == r.tick && decide (q.who > who)) =
      fun q => !(q.tick != r.tick || decide (q.who ≤ who)) := by
    funext q
    simp only [bne, Bool.not_or, Bool.not_not, gt_iff_lt, ← decide_not, Nat.not_le]
  rw [List.countP_append, List.countP_cons, rest, ← Nat.add_assoc,
    ← List.countP_eq_countP_filter_add l (·.cpl) fun q => q.tick != r.tick || decide (q.who ≤ who)]

/-- What handing off a record leaves; a completion record may take a line. -/
theorem handOff_leaves (who ring : Nat) (cpl : Bool) (bytes : List Byte) (s : State) :
    (handOff who ring cpl bytes s).sched = s.sched ∧ (handOff who ring cpl bytes s).spt.waitCpl = s.spt.waitCpl ∧
      cplCount (handOff who ring cpl bytes s) ≤ cplCount s + (if cpl then 1 else 0) ∧
      cplCount s ≤ cplCount (handOff who ring cpl bytes s) ∧
      ∀ m, ((handOff who ring cpl bytes s).core m).job = (s.core m).job := by
  unfold handOff
  dsimp only
  split
  · have dropped := jobLeaves_dropRec (n := 24) (s := s) ring
    have dropped' := jobLeaves_dropRec (n := 25) (s := s) ring
    refine ⟨dropped.sched, dropped.wait, by rw [dropped.lines]; omega, by rw [dropped.lines], fun m => ?_⟩
    by_cases h : m = 24
    · exact dropped'.jobs m (by omega)
    · exact dropped.jobs m h
  · have count := countP_arriving s.spt.arriving { who, ring, cpl, bytes, tick := s.now } who
    refine ⟨rfl, rfl, ?_, ?_, fun _ => rfl⟩
    · simp only [cplCount, State.onSpt_spt, ← List.countP_eq_length_filter, List.countP_append] at count ⊢
      omega
    · simp only [cplCount, State.onSpt_spt, ← List.countP_eq_length_filter, List.countP_append] at count ⊢
      omega

theorem jobLeaves_handOff (who ring : Nat) (bytes : List Byte) : JobLeaves n s (handOff who ring false bytes s) := by
  obtain ⟨sched, wait, most, least, jobs⟩ := handOff_leaves who ring false bytes s
  exact ⟨sched, wait, Nat.le_antisymm most least, fun m _ => jobs m⟩

theorem jobLeaves_mseRunEnd (hit : Nat) : JobLeaves n s (mseRunEnd hit s) := by
  refine .foldl (fun t m => .ite .refl ?_) _ s
  exact .ite ((jobLeaves_onCore_job (by exact fun _ => rfl)).trans (accessed_setInt ..).jobLeaves)
    (jobLeaves_onCore_job (by exact fun _ => rfl))

theorem jobLeaves_endRun (m : Nat) (j : Job) (st : JobStore) (sat : List Nat) : JobLeaves n s (endRun m j st sat s) :=
  ((JobLeaves.foldl (fun _ _ => jobLeaves_handOff ..) _ s).trans (.ite .refl (accessed_setInt ..).jobLeaves)).trans
    (jobLeaves_mseRunEnd _)

theorem jobLeaves_chargeArray : JobLeaves n s (chargeArray n s) := by
  unfold chargeArray
  split
  · exact (jobLeaves_onCore _).trans (accessed_account ..).jobLeaves
  · exact .refl

theorem jobLeaves_freeFrame (m f : Nat) : JobLeaves n s (freeFrame m f s) := jobLeaves_onCore_job fun _ => rfl

end

/-! ## The end of one slot (R425) -/

/-- `t` is `s` after slot `k` of context `c` came to its end, which took the job of no core but `n`. -/
structure SlotEnds (c k n : Nat) (s t : State) : Prop where
  others : ∀ d, d ≠ c → t.ctx d = s.ctx d
  enabled : (t.ctx c).enabled = (s.ctx c).enabled
  slot : (t.slot c k).state = .empty
  slots : ∀ i, i ≠ k → t.slot c i = s.slot c i
  after : t.sched.after = s.sched.after
  wait : t.spt.waitCpl = s.spt.waitCpl
  lines : cplCount t ≤ cplCount s + 1
  jobs : ∀ m, m ≠ n → (t.core m).job = (s.core m).job

section
variable {c k n : Nat} {s t u : State}

theorem JobLeaves.ctx (h : JobLeaves n s u) (d : Nat) : u.ctx d = s.ctx d := by rw [State.ctx, h.sched]; rfl

theorem JobLeaves.slot (h : JobLeaves n s u) (d i : Nat) : u.slot d i = s.slot d i := by rw [State.slot, h.ctx]; rfl

theorem JobLeaves.slotEnds (h : JobLeaves n s u) (e : SlotEnds c k n u t) : SlotEnds c k n s t where
  others d hd := (e.others d hd).trans (h.ctx d)
  enabled := e.enabled.trans (by rw [h.ctx])
  slot := e.slot
  slots i hi := (e.slots i hi).trans (h.slot c i)
  after := e.after.trans (by rw [h.sched])
  wait := e.wait.trans h.wait
  lines := h.lines ▸ e.lines
  jobs m hm := (e.jobs m hm).trans (h.jobs m hm)

theorem SlotEnds.leaves (e : SlotEnds c k n s u) (h : JobLeaves n u t) : SlotEnds c k n s t where
  others d hd := (h.ctx d).trans (e.others d hd)
  enabled := (congrArg Ctx.enabled (h.ctx c)).trans e.enabled
  slot := (congrArg Slot.state (h.slot c k)).trans e.slot
  slots i hi := (h.slot c i).trans (e.slots i hi)
  after := (congrArg Sched.after h.sched).trans e.after
  wait := h.wait.trans e.wait
  lines := h.lines.symm ▸ e.lines
  jobs m hm := (h.jobs m hm).trans (e.jobs m hm)

theorem ctx_onCtx_ne {d : Nat} (h : d ≠ c) (f : Ctx → Ctx) (s : State) : (s.onCtx c f).ctx d = s.ctx d :=
  getD_updAt_ne h ..

theorem ctx_onCtx_part {β : Type} (g : Ctx → β) {f : Ctx → Ctx} (h : ∀ x, g (f x) = g x) (d : Nat) :
    g ((s.onCtx c f).ctx d) = g (s.ctx d) := getD_updAt_part g h ..

theorem slot_onSlot_ne {i : Nat} (h : i ≠ k) (f : Slot → Slot) (s : State) : (s.onSlot c k f).slot c i = s.slot c i :=
  ctx_onCtx_part (fun x : Ctx => x.slots.getD i {}) (fun _ => getD_updAt_ne h ..) c

/-- A record that is handed off ends its slot (R170, R424). -/
theorem slotEnds_handComplete (j : Job) (x : CplNote) (s : State) : SlotEnds j.ctx j.slot n s (handComplete j x s) := by
  obtain ⟨sched, wait, most, -, jobs⟩ := handOff_leaves x.who j.cplRing true (cplBytes j x (s.ctx j.ctx).seq s.now) s
  unfold handComplete
  dsimp only
  generalize handOff x.who j.cplRing true (cplBytes j x (s.ctx j.ctx).seq s.now) s = u at sched wait most jobs ⊢
  have ctx (d : Nat) : u.ctx d = s.ctx d := by rw [State.ctx, sched]; rfl
  have slot (d i : Nat) : u.slot d i = s.slot d i := by rw [State.slot, ctx]; rfl
  have deficit (y : Ctx) :
      (if y.slots.all (·.state == .empty) then { y with deficit := min y.deficit 0 } else y).enabled = y.enabled ∧
        (if y.slots.all (·.state == .empty) then { y with deficit := min y.deficit 0 } else y).slots = y.slots := by
    split <;> exact ⟨rfl, rfl⟩
  refine ⟨fun d hd => ?_, ?_, ?_, fun i hi => ?_, (congrArg Sched.after sched :), wait, most, fun m _ => jobs m⟩
  · rw [ctx_onCtx_ne hd, State.onSlot, ctx_onCtx_ne hd, ctx_onCtx_ne hd, ctx]
  · rw [ctx_onCtx_part Ctx.enabled fun y => (deficit y).1, State.onSlot, ctx_onCtx_part Ctx.enabled (by exact fun _ => rfl),
      ctx_onCtx_part Ctx.enabled (by exact fun _ => rfl), ctx]
  · rw [slot_onCtx_same fun y => (deficit y).2]
    exact slot_onSlot_of (P := fun x => x.state = .empty) rfl (by exact fun _ => rfl) _ _ _
  · rw [slot_onCtx_same fun y => (deficit y).2, slot_onSlot_ne hi, slot_onCtx_same (by exact fun _ => rfl), slot]

section
variable (wait : s.spt.waitCpl = []) (lines : cplCount s < 256)
include wait lines

/-- With a completion line free a job's end is handed off at once (R411). -/
theorem slotEnds_complete (j : Job) (x : CplNote) : SlotEnds j.ctx j.slot n s (complete j x s) := by
  have room : cplRoom s j.cplRing = true := by
    have few : decide (((s.spt.arriving ++ s.spt.store).filter (·.cpl)).length < 256) = true := decide_eq_true lines
    rw [cplRoom, wait, few]
    simp
  rw [complete, if_pos room]
  exact slotEnds_handComplete j x s

theorem slotEnds_completeUnheld (c k jobId ring : Nat) (x : CplNote) :
    SlotEnds c k n s (completeUnheld c k jobId ring x s) :=
  slotEnds_complete wait lines
    { ctx := c, slot := k, startTick := s.now, heldFrom := s.up, jobId := jobId, cplRing := ring } _

/-- A job leaves a core for which no start waits. -/
theorem slotEnds_leaveCore (free : s.sched.after.getD n none = none) (j : Job) (x : CplNote) :
    SlotEnds j.ctx j.slot n s (leaveCore n j x s) := by
  have ended := slotEnds_complete (n := n) wait lines j x
  unfold leaveCore
  have left : JobLeaves n (complete j x s) (takeoverNoJob n ((complete j x s).onCore n clearCore)) :=
    (jobLeaves_onCore _).trans ⟨rfl, rfl, rfl, fun _ _ => rfl⟩
  rw [releaseCore_free (by
    rw [left.sched, ended.after]
    exact free)]
  exact ended.leaves (left.trans (jobLeaves_onCore _))

theorem slotEnds_finishJob (free : s.sched.after.getD n none = none) {j : Job} (hj : (s.core n).job = some j)
    (status : Nat) : SlotEnds j.ctx j.slot n s (finishJob n status s) := by
  have ran : JobLeaves n s (if (s.core n).phase != .verify then
      endRun n j (s.core n).store (s.core n).sat (chargeArray n s) else chargeArray n s) :=
    .ite (jobLeaves_chargeArray.trans (jobLeaves_endRun ..)) jobLeaves_chargeArray
  obtain ⟨u, x, left, leaves⟩ : ∃ u x, JobLeaves n s u ∧ finishJob n status s = leaveCore n j x u := by
    unfold finishJob
    simp only [hj]
    refine ⟨_, _, .ite (ran.trans (jobLeaves_freeFrame ..)) (.ite ?_ ran), rfl⟩
    split
    · exact ran.trans (jobLeaves_freeFrame ..)
    · exact ran
  rw [leaves]
  exact left.slotEnds (slotEnds_leaveCore (left.wait.trans wait) (left.lines ▸ lines) (left.sched ▸ free) j x)

theorem slotEnds_discardSaved {v : Saved} (saved : (s.slot c k).saved = some v) (hc : v.job.ctx = c) (hk : v.job.slot = k) :
    SlotEnds c k n s (discardSaved c k s) := by
  have left := jobLeaves_endRun (n := n) (s := s) v.core v.job v.store v.sat
  subst hc hk
  unfold discardSaved endSaved
  simp only [saved]
  exact left.slotEnds ((slotEnds_complete (left.wait.trans wait) (left.lines ▸ lines) _ _).leaves (jobLeaves_freeFrame ..))

end

/-! ## A context is disabled (R425) -/

/-- Context `c` is being disabled: its slots below `k` are EMPTY, the others have what a slot of their state has. -/
structure CtxEnding (c k : Nat) (s : State) : Prop where
  off : (s.ctx c).enabled = false
  done : ∀ i < k, (s.slot c i).state = .empty
  after : ∀ n, s.sched.after.getD n none = none
  wait : s.spt.waitCpl = []
  lines : cplCount s ≤ 192 + k
  active : ∀ i < 64, k ≤ i → (s.slot c i).state = .active → ∃ n < 24, ∃ j ∈ (s.core n).job, j.ctx = c ∧ j.slot = i
  suspended : ∀ i < 64, k ≤ i → (s.slot c i).state = .suspended → (s.slot c i).saved.isSome = true
  saved : ∀ i < 64, k ≤ i → ∀ v ∈ (s.slot c i).saved, v.job.ctx = c ∧ v.job.slot = i

/-- A slot ends by its state, and takes at most the job that it has from a core. -/
theorem slotEnds_disableSlot (h : CtxEnding c k s) (hk : k < 64) :
    ∃ n, SlotEnds c k n s (disableSlot c k s) ∧ (n < 24 → ∀ j ∈ (s.core n).job, j.slot = k) := by
  have lines : cplCount s < 256 := by have := h.lines; omega
  unfold disableSlot
  split
  · next empty =>
    exact ⟨24, ⟨fun _ _ => rfl, rfl, empty, fun _ _ => rfl, rfl, rfl, by omega, fun _ _ => rfl⟩, by omega⟩
  · exact ⟨24, slotEnds_completeUnheld h.wait lines .., by omega⟩
  · next act =>
    obtain ⟨m, hm, j, hj, hc, hs⟩ := h.active k hk le_rfl act
    have some_ : ((List.range 24).find? fun n => (s.core n).job.any fun j => j.ctx == c && j.slot == k).isSome = true := by
      rw [List.find?_isSome]
      exact ⟨m, List.mem_range.2 hm, by rw [hj]; simp [hc, hs]⟩
    obtain ⟨n, found⟩ := Option.isSome_iff_exists.1 some_
    have at_ := List.find?_some found
    obtain ⟨i, hi, his⟩ := (Option.any_eq_true ..).1 at_
    simp only [Bool.and_eq_true, beq_iff_eq] at his
    obtain ⟨ctx, slot⟩ := his
    refine ⟨n, ?_, fun _ a ha => ?_⟩
    · simp only [found]
      have ends := slotEnds_finishJob h.wait lines (h.after n) hi jsAborted
      rwa [ctx, slot] at ends
    · rw [hi] at ha
      cases ha
      exact slot
  · next susp =>
    obtain ⟨v, hv⟩ := Option.isSome_iff_exists.1 (h.suspended k hk le_rfl susp)
    obtain ⟨hc, hs⟩ := h.saved k hk le_rfl v hv
    exact ⟨24, slotEnds_discardSaved h.wait lines hv hc hs, by omega⟩

theorem CtxEnding.step (h : CtxEnding c k s) (hk : k < 64) :
    CtxEnding c (k + 1) (disableSlot c k s) ∧ ∀ d, d ≠ c → (disableSlot c k s).ctx d = s.ctx d := by
  obtain ⟨n, ends, mine⟩ := slotEnds_disableSlot h hk
  refine ⟨⟨ends.enabled.trans h.off, fun i hi => ?_, fun m => ends.after ▸ h.after m, ends.wait.trans h.wait, ?_,
    fun i hi next act => ?_, fun i hi next susp => ?_, fun i hi next v hv => ?_⟩, ends.others⟩
  · by_cases last : i = k
    · exact last ▸ ends.slot
    · rw [ends.slots i last]
      exact h.done i (by omega)
  · have := ends.lines
    have := h.lines
    omega
  · rw [ends.slots i (by omega)] at act
    obtain ⟨m, hm, j, hj, hc, hs⟩ := h.active i hi (by omega) act
    have other : m ≠ n := by
      rintro rfl
      have := mine hm j hj
      omega
    exact ⟨m, hm, j, (ends.jobs m other).symm ▸ hj, hc, hs⟩
  · rw [ends.slots i (by omega)] at susp ⊢
    exact h.suspended i hi (by omega) susp
  · rw [ends.slots i (by omega)] at hv
    exact h.saved i hi (by omega) v hv

/-- All slots of a context end one after another. -/
theorem CtxEnding.slots (h : CtxEnding c 0 s) (hk : k ≤ 64) :
    CtxEnding c k ((List.range k).foldl (fun s k => disableSlot c k s) s) ∧
      ∀ d, d ≠ c → ((List.range k).foldl (fun s k => disableSlot c k s) s).ctx d = s.ctx d := by
  induction k with
  | zero => exact ⟨h, fun _ _ => rfl⟩
  | succ k ih =>
    obtain ⟨before, same⟩ := ih (by omega)
    rw [List.range_succ, List.foldl_append, List.foldl_cons, List.foldl_nil]
    obtain ⟨next, others⟩ := before.step (by omega)
    exact ⟨next, fun d hd => (others d hd).trans (same d hd)⟩

end

/-! ## Commands of job contexts (R282, R419, R425, R426) -/

/-- A context command has begun: its word stands in HIF_CTX_CMD. -/
def ctxCommanded (k : Nat) (s : State) : State :=
  s.onHif fun h => { h with ctxCmd := { h.ctxCmd with cmd := BitVec.ofNat 32 k } }

/-- A context command has ended with a code. -/
def ctxEnded (c : Nat) (r : Nat × State) : State :=
  r.2.onHif fun h => { h with ctxCmd := { h.ctxCmd with code := r.1, done := true, ctx := c } }

/-- What an operation of HIF_CTX_CMD does. -/
def ctxOp (op c : Nat) : State → Nat × State :=
  if op = 0 then ctxEnableOp c else if op = 1 then ctxDisableOp c else if op = 2 then holdOp c else unholdOp c

section
variable (k : Nat) (s : State)

theorem readable_ctxCommanded : readable (ctxCommanded k s) = readable s := rfl

theorem peekNat_ctxCommanded : peekNat (ctxCommanded k s) = peekNat s := by
  have same : peek (ctxCommanded k s) = peek s := rfl
  funext a n
  simp only [peekNat, same]

end

section
variable {s : State} {op c : Nat} (hop : op < 4) (hc : c < 256)
include hop hc

theorem ctxCmdWrite_runs (done : s.hif.ctxCmd.done = true) :
    ctxCmdWrite (cmdWord op c) s = ctxEnded c (ctxOp op c (ctxCommanded (op * 256 + c) s)) := by
  rw [cmdWord_eq, ctxCmdWrite, cmdWrite_runs (by omega) (by omega) hc done hop]
  simp only [goWord_and_job (show op < 8 by omega) hc, rbit_goWord (show 0 < 32 by omega) (show op < 8 by omega) hc, if_true,
    rfld_goWord_op (show 0 < 32 by omega) (show op < 8 by omega) hc,
    rfld_goWord_job (show 0 < 32 by omega) (show op < 8 by omega) hc]
  interval_cases op <;> simp [ctxOp, ctxEnded, ctxCommanded]

theorem ctxCmdWrite_busy (busy : s.hif.ctxCmd.done = false) : ctxCmdWrite (cmdWord op c) s = invalidProg .hif s := by
  rw [cmdWord_eq]
  exact cmdWrite_busy (by omega) (by omega) hc busy

end

section
variable {s : State} {c : Fin 256} (ho : barWr s = true)
include ho

section
variable (done : s.hif.ctxCmd.done = true)
include done

theorem exec_ctxEnable : exec (.ctxEnable c) s = .next (ctxEnded c.val (ctxEnableOp c.val (ctxCommanded c.val s))) := by
  refine congrArg Host.Outcome.next ((hostWrite_of ho).trans ?_)
  rw [ctxCmdWrite_runs (by omega) c.isLt done]
  simp [ctxOp]

theorem exec_ctxDisable :
    exec (.ctxDisable c) s = .next (ctxEnded c.val (ctxDisableOp c.val (ctxCommanded (256 + c.val) s))) := by
  refine congrArg Host.Outcome.next ((hostWrite_of ho).trans ?_)
  rw [ctxCmdWrite_runs (by omega) c.isLt done]
  simp [ctxOp]

theorem exec_hold : exec (.hold c) s = .next (ctxEnded c.val (holdOp c.val (ctxCommanded (512 + c.val) s))) := by
  refine congrArg Host.Outcome.next ((hostWrite_of ho).trans ?_)
  rw [ctxCmdWrite_runs (by omega) c.isLt done]
  simp [ctxOp]

theorem exec_unhold : exec (.unhold c) s = .next (ctxEnded c.val (unholdOp c.val (ctxCommanded (768 + c.val) s))) := by
  refine congrArg Host.Outcome.next ((hostWrite_of ho).trans ?_)
  rw [ctxCmdWrite_runs (by omega) c.isLt done]
  simp [ctxOp]

end

/-- A command of a job context while DONE is 0 is an invalid programming. -/
theorem exec_ctx_busy (busy : s.hif.ctxCmd.done = false) {i : Instr}
    (hi : i ∈ [Instr.ctxEnable c, .ctxDisable c, .hold c, .unhold c]) : exec i s = .next (invalidProg .hif s) := by
  have write {op : Nat} (hop : op < 4) : hostWrite (ctxCmdWrite (cmdWord op c)) s = invalidProg .hif s :=
    (hostWrite_of ho).trans (ctxCmdWrite_busy hop c.isLt busy)
  simp only [List.mem_cons, List.not_mem_nil, or_false] at hi
  rcases hi with rfl | rfl | rfl | rfl
  all_goals exact congrArg Host.Outcome.next (write (by omega))

end

/-! ### ENABLE (R419) -/

/-- The areas of a descriptor meet those of another enabled context. -/
def ctxMeets (s : State) (c d : Nat) : Bool :=
  (List.range 256).any fun k => k != c && (s.ctx k).enabled && areasMeet (ctxAreas (fld d 111 64) (fld d 175 128))
    (ctxAreas (s.ctx k).queueBase (s.ctx k).stateBase)

theorem ctxMeets_iff (s : State) (c : Fin 256) (d : Nat) : ctxMeets s c.val d = true ↔ ∃ k : Fin 256, k ≠ c ∧
    (s.ctx k.val).enabled = true ∧ areasMeet (ctxAreas (fld d 111 64) (fld d 175 128))
      (ctxAreas (s.ctx k.val).queueBase (s.ctx k.val).stateBase) = true := by
  simp only [ctxMeets, List.any_eq_true, List.mem_range, Bool.and_eq_true, bne_iff_ne]
  constructor
  · rintro ⟨k, hk, ⟨other, on⟩, meet⟩
    exact ⟨⟨k, hk⟩, fun e => other (congrArg Fin.val e), on, meet⟩
  · rintro ⟨k, other, on, meet⟩
    exact ⟨k.val, k.isLt, ⟨fun e => other (Fin.ext e), on⟩, meet⟩

/-- The fields of a context descriptor (R418). -/
def ctxEnabled (d : Nat) : Ctx :=
  { enabled := true, held := false, part := fld d 2 0, urgent := bitAt d 3, preempt := bitAt d 4
    onValid := bitAt d 5, maxRun := fld d 10 6 + 1, weight := fld d 31 16
    queueBase := fld d 111 64, stateBase := fld d 175 128 }

/-- The code of the first check of a context descriptor that fails, 0 when none does. -/
def ctxEnableCode (s : State) (c d : Nat) : Nat :=
  if ctxDescBad d then 1
  else if overlaps (fld d 111 64) 2048 (fld d 175 128) 64 ∨ ctxMeets s c d = true then 3
  else if (s.ctx c).enabled then 4 else 0

theorem ctxEnableOp_readable {s : State} {a c d k : Nat} (ha : a = pairAddr s.hif.ctxTableLo s.hif.ctxTableHi 6 + 64 * c)
    (table : readable s .sched a 64 = true) (hd : d = peekNat s a 64) (hk : k = ctxEnableCode s c d) :
    ∃ t, Locks s t ∧ ctxEnableOp c s = (k, if k = 0 then t.onCtx c fun _ => ctxEnabled d else t) := by
  obtain ⟨t, ht, locks⟩ := readMem_locks table
  have word : leNat (peek s a 64) = d := hd.symm
  have meets : ctxMeets t c d = ctxMeets s c d := by obtain ⟨_, rfl⟩ := locks; rfl
  have ctx : t.ctx c = s.ctx c := by obtain ⟨_, rfl⟩ := locks; rfl
  refine ⟨t, locks, ?_⟩
  rw [ctxEnableCode, ← meets, ctxMeets] at hk
  generalize hf : ctxEnableOp = f
  delta ctxEnableOp at hf
  generalize readMem = R at hf ht
  subst hf
  revert R
  refine id fun R ht => ?_
  simp only [← ha, ht, word, ne_eq, not_true, false_or, badDescriptor, overlapCode, badState, okCode, ctx]
  split
  · next h => rw [hk, if_pos h]; rfl
  next good =>
  split
  · next h => rw [hk, if_neg good, if_pos h]; rfl
  next clear =>
  split
  · next h => rw [hk, if_neg good, if_neg clear, if_pos h]; rfl
  · next h => rw [hk, if_neg good, if_neg clear, if_neg h]; rfl

/-! ### DISABLE, HOLD and UNHOLD (R425, R426) -/

section
variable {s : State} {c : Nat}

theorem ctxDisableOp_on (on : (s.ctx c).enabled = true) : ctxDisableOp c s =
    (0, (List.range 64).foldl (fun s k => disableSlot c k s) (s.onCtx c fun x => { x with enabled := false })) :=
  if_pos on

theorem ctxDisableOp_off (off : (s.ctx c).enabled = false) : ctxDisableOp c s = (4, s) := by
  simp [ctxDisableOp, off, badState]

theorem holdOp_off (off : (s.ctx c).enabled = false) : holdOp c s = (4, s) := by simp [holdOp, off, badState]

theorem unholdOp_off (off : (s.ctx c).enabled = false) : unholdOp c s = (4, s) := by simp [unholdOp, off, badState]

theorem unholdOp_on (on : (s.ctx c).enabled = true) :
    unholdOp c s = (0, s.onCtx c fun x => { x with held := false }) := by
  simp [unholdOp, on, okCode]

theorem holdOp_on (on : (s.ctx c).enabled = true) (free : (s.ctx c).held = false) : holdOp c s =
    (0, (ctxCores (s.onCtx c fun x => { x with held := true }) c).foldl (fun s n => askPreempt n s)
      (s.onCtx c fun x => { x with held := true })) := by
  simp [holdOp, on, free, okCode]

/-- A core that is asked to preempt its job. -/
def asked (x : Core) : Core :=
  if x.job.isSome ∧ x.stopWhy = .none ∧ x.phase ≠ .save then { x with stopWhy := .preempt } else x

/-- Each core of a list is asked once, and nothing else changes. -/
theorem foldl_askPreempt {l : List Nat} (once : l.Nodup) (here : ∀ n ∈ l, n < s.cores.length) :
    l.foldl (fun s n => askPreempt n s) s = { s with cores := (l.foldl (fun s n => askPreempt n s) s).cores } ∧
      ∀ m, (l.foldl (fun s n => askPreempt n s) s).core m = if m ∈ l then asked (s.core m) else s.core m := by
  induction l generalizing s with
  | nil => exact ⟨rfl, fun m => rfl⟩
  | cons n l ih =>
    rw [List.nodup_cons] at once
    have here' : ∀ m ∈ l, m < (askPreempt n s).cores.length := fun m hm =>
      (length_updAt ..).symm ▸ here m (List.mem_cons_of_mem n hm)
    obtain ⟨only, cores⟩ := ih once.2 here'
    rw [List.foldl_cons]
    refine ⟨only, fun m => ?_⟩
    rw [cores]
    by_cases same : m = n
    · subst same
      rw [if_neg once.1, if_pos List.mem_cons_self]
      exact core_onCore (here m List.mem_cons_self)
    · have kept : (askPreempt n s).core m = s.core m := core_onCore_ne same
      simp only [kept, List.mem_cons, same, false_or]

end

/-- A context that a DISABLE finds with its jobs, slots and completion lines in order begins to end. -/
theorem ctxEnding_start {s : State} {c : Nat} (hs : sized s = true) (hc : c < 256) (after : (s.sched.after.all (·.isNone)) = true)
    (wait : s.spt.waitCpl = []) (lines : cplCount s ≤ 192)
    (active : ∀ k < 64, (s.slot c k).state = .active → ∃ n < 24, ∃ j ∈ (s.core n).job, j.ctx = c ∧ j.slot = k)
    (suspended : ∀ k < 64, (s.slot c k).state = .suspended → (s.slot c k).saved.isSome = true)
    (saved : ∀ k < 64, ∀ v ∈ (s.slot c k).saved, v.job.ctx = c ∧ v.job.slot = k) :
    CtxEnding c 0 (s.onCtx c fun x => { x with enabled := false }) := by
  have slot (k : Nat) : (s.onCtx c fun x => { x with enabled := false }).slot c k = s.slot c k :=
    slot_onCtx_same (by exact fun _ => rfl) s c c k
  have here : c < s.sched.ctxs.length := (slots_of_sized hs hc).1.symm ▸ hc
  refine ⟨?_, fun i hi => absurd hi (by omega), fun n => ?_, wait, lines, fun i hi _ act => ?_, fun i hi _ susp => ?_,
    fun i hi _ v hv => ?_⟩
  · exact congrArg Ctx.enabled (getD_updAt here ..)
  · rw [List.all_eq_true] at after
    have free : s.sched.after.getD n none = none := by
      rw [List.getD_eq_getElem?_getD]
      cases e : s.sched.after[n]? with
      | none => rfl
      | some x => exact Option.isNone_iff_eq_none.1 (after x (List.mem_of_getElem? e))
    exact free
  · rw [slot] at act
    exact active i hi act
  · rw [slot] at susp ⊢
    exact suspended i hi susp
  · rw [slot] at hv
    exact saved i hi v hv

theorem mem_ctxCores {s : State} {c n : Nat} :
    n ∈ ctxCores s c ↔ n < 24 ∧ (s.core n).job.any (fun j => j.ctx == c) = true := by
  rw [ctxCores, List.mem_filter, List.mem_range]

/-- Settles O19: ENABLE by the first check that fails, DISABLE slot by slot, HOLD core by core. -/
theorem contextCommands : Obligations.ContextCommands := by
  unfold Obligations.ContextCommands
  refine ⟨?_, ?_, ?_, ?_, ?_, ?_⟩
  · intro s c d hs ho done table hd
    rw [← readable_ctxCommanded c.val s] at table
    rw [← peekNat_ctxCommanded c.val s] at hd
    obtain ⟨_, ⟨_, rfl⟩, run⟩ := ctxEnableOp_readable (s := ctxCommanded c.val s) (c := c.val) rfl table hd rfl
    refine ⟨_, (exec_ctxEnable ho done).trans (congrArg (fun r => Host.Outcome.next (ctxEnded c.val r)) run), ?_⟩
    have code : ctxEnableCode (ctxCommanded c.val s) c.val d = if ctxDescBad d then 1
        else if overlaps (fld d 111 64) 2048 (fld d 175 128) 64 ∨ (∃ k : Fin 256, k ≠ c ∧
            (s.ctx k.val).enabled = true ∧ areasMeet (ctxAreas (fld d 111 64) (fld d 175 128))
              (ctxAreas (s.ctx k.val).queueBase (s.ctx k.val).stateBase) = true) then 3
        else if (s.ctx c.val).enabled then 4 else 0 := by
      rw [ctxEnableCode, if_congr (or_congr_right (ctxMeets_iff (ctxCommanded c.val s) c d)) rfl rfl]
      rfl
    rw [← code]
    by_cases ok : ctxEnableCode (ctxCommanded c.val s) c.val d = 0
    · simp only [ok, if_true]
      exact ⟨rfl, fun h => absurd rfl h, fun _ => rfl, rfl⟩
    · simp only [ok, if_false]
      exact ⟨rfl, fun _ => rfl, fun h => absurd h ok, rfl⟩
  · intro s c hs ho done on after wait lines active suspended saved
    have start := ctxEnding_start (s := ctxCommanded (256 + c.val) s) (c := c.val)
      ((sized_onHif s (by exact fun _ => rfl)).trans hs) c.isLt after wait lines active suspended saved
    obtain ⟨ended, others⟩ := start.slots le_rfl
    rw [exec_ctxDisable ho done, ctxDisableOp_on (s := ctxCommanded _ s) on]
    generalize (List.range 64).foldl (fun s k => disableSlot c.val k s) _ = v at ended others ⊢
    refine ⟨_, rfl, rfl, ended.off, ended.done, fun d _ hd => ?_⟩
    exact (others d hd).trans (ctx_onCtx_ne hd _ (ctxCommanded (256 + c.val) s))
  · intro s c hs ho done on free
    have cores : s.cores.length = 24 := cores_of_sized hs
    generalize hu : (ctxCommanded (512 + c.val) s).onCtx c.val (fun x => { x with held := true }) = u
    have core (n : Nat) : u.core n = s.core n := by
      rw [← hu]
      rfl
    have once : (ctxCores u c.val).Nodup := List.nodup_range.filter _
    have here : ∀ n ∈ ctxCores u c.val, n < u.cores.length := by
      intro n hn
      rw [← hu]
      exact cores.symm ▸ (mem_ctxCores.1 hn).1
    obtain ⟨only, each⟩ := foldl_askPreempt once here
    rw [exec_hold ho done, holdOp_on (s := ctxCommanded _ s) on free, hu]
    refine ⟨_, rfl, fun n hn => ?_, ?_⟩
    · refine (each n).trans ?_
      have mine : n ∈ ctxCores u c.val ↔ (s.core n).job.any (fun j => j.ctx == c.val) = true := by
        rw [mem_ctxCores, core]
        exact and_iff_right hn
      rw [core, asked]
      by_cases has : (s.core n).job.any (fun j => j.ctx == c.val) = true
      · have job : (s.core n).job.isSome = true := by
          obtain ⟨j, hj, -⟩ := (Option.any_eq_true ..).1 has
          rw [hj]
          rfl
        rw [if_pos (mine.2 has)]
        exact if_congr (and_congr_left' (iff_of_true job has)) rfl rfl
      · rw [if_neg (mt mine.1 has), if_neg fun h => has h.1]
    · rw [only, ← hu]
      rfl
  · intro s c ho done on
    rw [exec_unhold ho done, unholdOp_on (s := ctxCommanded _ s) on]
    rfl
  · intro s c i op hi ho done off
    simp only [List.mem_cons, Prod.mk.injEq, List.not_mem_nil, or_false] at hi
    rcases hi with ⟨rfl, rfl⟩ | ⟨rfl, rfl⟩ | ⟨rfl, rfl⟩
    · rw [exec_ctxDisable ho done, ctxDisableOp_off (s := ctxCommanded _ s) off]
      rfl
    · rw [exec_hold ho done, holdOp_off (s := ctxCommanded _ s) off]
      rfl
    · rw [exec_unhold ho done, unholdOp_off (s := ctxCommanded _ s) off]
      rfl
  · intro s c i hi hs ho busy
    exact next_invalidProg hs (exec_ctx_busy ho busy hi)

end Sys2Proof.Machine
